-- ==== Sys2Proof/Word.lean ====
section
/-! DEFINITION. The word types of the device. -/

namespace Sys2Proof

/-- A 32-bit register or memory word. -/
abbrev Word := BitVec 32

/-- A byte. -/
abbrev Byte := BitVec 8

/-- A 64-bit value: an instruction word, a register pair or an address. -/
abbrev DWord := BitVec 64

/-- A set of the 32 lanes of a warp, bit l for lane l. -/
abbrev LaneMask := BitVec 32

end Sys2Proof
end

