-- ==== Sys2Proof/Syntax.lean ====
section
/-! DEFINITION. The instructions and events of the device as typed syntax: one constructor of Instr per row of
spec/opcode_table.json. Word instructions carry the schedule fields, the typed modifiers and the operand fields of
their encoding; events carry what the outside world or an arbitrating unit supplies. -/

set_option linter.unusedVariables false

namespace Sys2Proof

/-- Schedule and predicate fields of a full or long word (Table EC-2). `set` is `none` for the code 0xF. -/
structure Hdr where
  stall : BitVec 4
  wait : BitVec 12
  set : Option (Fin 12)
  pneg : Bool
  pidx : BitVec 3
  deriving DecidableEq, Repr

/-- The operand map (Table EC-3): one constructor per range of codes. -/
inductive Operand where
  | v (r : BitVec 8)
  | s (r : Fin 96)
  | special (c : BitVec 5)
  | const (c : BitVec 6)
  | reserved (c : BitVec 6)
  deriving DecidableEq, Repr

/-- Source 1 of an instruction that offers IMMSEL (R86). -/
inductive Src where
  | op (o : Operand)
  | imm (w : Word)
  deriving DecidableEq, Repr

/-- A field declared to be a predicate field (R79). -/
structure KField where
  idx : BitVec 3
  upper : BitVec 6
  deriving DecidableEq, Repr

/-- A field declared to be a flag field (R79). -/
structure FField where
  idx : BitVec 4
  upper : BitVec 5
  deriving DecidableEq, Repr

/-- The special register index field of SRD and SWR (R121). -/
structure SIdx where
  idx : BitVec 5
  upper : BitVec 4
  deriving DecidableEq, Repr

/-- The type field of WRED and WSCAN (R152). -/
structure TypeField where
  ty : BitVec 2
  upper : BitVec 7
  deriving DecidableEq, Repr

/-- The conversion field of CVT (R146). -/
structure ConvField where
  sat : Bool
  src : BitVec 4
  tgt : BitVec 4
  deriving DecidableEq, Repr

/-- Table EC-6: integer arithmetic types. -/
inductive IntTy where
  | i32 | n32 | i64 | n64
  deriving DecidableEq, Repr

/-- Table EC-6: bit operation types. -/
inductive BitTy where
  | b32 | b64
  deriving DecidableEq, Repr

/-- Types of IADDC (Table AL-4). -/
inductive CarryTy where
  | n32 | n64
  deriving DecidableEq, Repr

/-- Types of SADD64 and SMAD64 (Table AL-3). -/
inductive WideTy where
  | i32 | n32
  deriving DecidableEq, Repr

/-- Types of IABS (Table AL-4). -/
inductive AbsTy where
  | i32 | i64
  deriving DecidableEq, Repr

/-- Table EC-6: vector float types. -/
inductive FTy where
  | f32 | f64 | f16 | bf16
  deriving DecidableEq, Repr

/-- Table EC-6: types of the packed pair forms. -/
inductive HTy where
  | f16 | bf16
  deriving DecidableEq, Repr

/-- Types of FSQRT (Table AL-5). -/
inductive SqTy where
  | f32 | f64
  deriving DecidableEq, Repr

/-- Signedness of a and b in IDP4 and IDP2 (R140). -/
inductive Sg where
  | ss | uu | su | us
  deriving DecidableEq, Repr

/-- Rounding modes (Table AL-1). -/
inductive RM where
  | rne | rz | ru | rd
  deriving DecidableEq, Repr

/-- Comparison codes of Table AL-2, with the float-only ones. -/
inductive Cond where
  | eq | ne | lt | le | gt | ge | un | ord
  deriving DecidableEq, Repr

/-- Comparison codes of SCMP, ICMP and WAITM (R131, Table SY-4). -/
inductive ICond where
  | eq | ne | lt | le | gt | ge
  deriving DecidableEq, Repr

/-- Conversion type codes (Table AL-7). -/
inductive CvtTy where
  | i8 | i16 | i32 | i64 | n8 | n16 | n32 | n64 | f64 | f32 | f16 | bf16 | e4m3 | e5m2
  deriving DecidableEq, Repr

/-- Half of the random operand that CVT.SR takes (R147). -/
inductive RndHalf where
  | lo | hi
  deriving DecidableEq, Repr

/-- Forms of PACK (R148). -/
inductive PackTy where
  | b16 | b32
  deriving DecidableEq, Repr

/-- Forms of UNPACK (R148). -/
inductive UnpackTy where
  | n16 | i16 | n8 | i8
  deriving DecidableEq, Repr

/-- Code widths of QNT, DQNT and MMSQ (R149, Table MX-3). -/
inductive QTy where
  | q8 | q4
  deriving DecidableEq, Repr

/-- Modes of SHFL (R150). -/
inductive ShflMode where
  | idx | up | down | xor
  deriving DecidableEq, Repr

/-- Operations of WRED and WSCAN (R152). -/
inductive RedOp where
  | add | min | max | or
  deriving DecidableEq, Repr

/-- Address spaces (Table LS-1). -/
inductive Space where
  | glob | gmem | cmem | const
  deriving DecidableEq, Repr

/-- Spaces of ST, ATOM, ATOMC, RED and WAITM (Tables LS-2, SY-3). -/
inductive RwSpace where
  | glob | gmem | cmem
  deriving DecidableEq, Repr

/-- Spaces of LDFE, STFE, BARA and BARW (Tables LS-2, SY-3). -/
inductive SramSpace where
  | gmem | cmem
  deriving DecidableEq, Repr

/-- Access sizes (Table LS-3). -/
inductive Size where
  | b8 | b16 | b32 | b64 | b128
  deriving DecidableEq, Repr

/-- Scopes (Table LS-3). -/
inductive Scope where
  | thread | warp | group | cluster | die | device | system
  deriving DecidableEq, Repr

/-- Orders (Table LS-3). -/
inductive Order where
  | weak | rlx | acq | rel | acqrel | sc
  deriving DecidableEq, Repr

/-- Hints (Table LS-3). -/
inductive Hint where
  | none | stream | noL1
  deriving DecidableEq, Repr

/-- Peer classes (Tables LS-3, SY-1). -/
inductive Peer where
  | grp | clu | lower | any | host
  deriving DecidableEq, Repr

/-- Atomic operations (Table LS-5). -/
inductive Aop where
  | add | smin | smax | umin | umax | and | or | xor | exch | inc | dec | fadd | fmin | fmax
  deriving DecidableEq, Repr

/-- Target of PREF (Table LS-2). -/
inductive PrefLevel where
  | l1 | l2
  deriving DecidableEq, Repr

/-- Copy streams (R286). -/
inductive Stream where
  | sa | sb
  deriving DecidableEq, Repr

/-- Element types of the matrix engine (Table MX-3). -/
inductive MTy where
  | bf16 | f16 | e4m3 | e5m2
  deriving DecidableEq, Repr

/-- Group sizes of quantised planes (Table MX-4). -/
inductive QGroup where
  | g32 | g64 | g128
  deriving DecidableEq, Repr

/-- Activations of ADRN (Table MX-4). -/
inductive ActFn where
  | none | relu | gelu | silu | clamp
  deriving DecidableEq, Repr

/-- Target types of ADRN (Table MX-4). -/
inductive DrainTy where
  | f32 | f16 | bf16 | e4m3 | e5m2
  deriving DecidableEq, Repr

/-- Spaces of AST (Table MX-3). -/
inductive AstSpace where
  | gmem | glob
  deriving DecidableEq, Repr

/-- Rectangle shapes of SPENTER (Table SF-4). -/
inductive Rect where
  | s11 | s21 | s12 | s22
  deriving DecidableEq, Repr

/-- The four forms of VOTE (R151). -/
inductive VoteForm where
  | all (kD : KField) | any (kD : KField) | eq (kD : KField) | ballot (d : Operand)
  deriving DecidableEq, Repr

/-- The three forms of KMOV (Table AL-9). -/
inductive KmovForm where
  | k (kD kA : KField) | s (l : Bool) (kD : KField) (b : Src) | toS (d : Operand) (kA : KField)
  deriving DecidableEq, Repr

/-- The element forms of WLD (Table MX-3). -/
inductive WldForm where
  | b16 | b8 | q8 (g : QGroup) | q4 (g : QGroup)
  deriving DecidableEq, Repr

/-- The row operand of MMS, ALD and ADRN: group memory with a pitch, or a vector register range (VREG, Table MX-4). -/
inductive MatOpd where
  | mem (base : Operand) (pitch : Word) | regs (v : Operand)
  deriving DecidableEq, Repr

/-- A pair word (Table EC-7a). -/
structure PairWord where
  stall : BitVec 4
  wait : BitVec 12
  aop : BitVec 5
  adst : BitVec 8
  asrc : BitVec 8
  bop : BitVec 5
  bdst : BitVec 8
  bsrc : BitVec 8
  deriving DecidableEq, Repr

/-- What a Glicharun flit carries: an element of a CPYX or its answer. `tag` names the sender's request. -/
inductive GMsg where
  | write (tag win off : Nat) (data : List Byte) (poison : Bool)
  | read (tag win off n : Nat)
  | done (tag : Nat)
  | data (tag : Nat) (data : List Byte) (poison : Bool)
  | refused (tag : Nat)
  | memErr (tag : Nat)
  deriving DecidableEq, Repr

/-- Who receives an error reply (R457): the n-th load-store instruction in flight on a core, or a caching agent for a
line. -/
inductive ErrTarget where
  | access (c n : Nat)
  | agent (line : BitVec 34) (a : BitVec 3)
  deriving DecidableEq, Repr

/-- A CXL.mem request of the host for a 64-byte sector of device HBM (R454). With an exclusive copy comes what the host
then stores in the sector. -/
inductive M2S where
  | shared
  | exclusive (data : Option (List Byte))
  | write (data : List Byte) (poison : Bool)
  deriving DecidableEq, Repr

/-- The CXL.cache requests of the device (Table PF-10), with what the host answers: a shared or an exclusive copy, data
without a copy, or the global observation of an eviction. -/
inductive D2H where
  | rdShared | rdOwn | rdCurr | dirtyEvict | cleanEvict
  deriving DecidableEq, Repr

/-- A unit that can be fenced (R478): a core, an L2 slice of a die, a Glicharun port. -/
inductive UnitRef where
  | core (c : BitVec 9)
  | slice (d : BitVec 2) (n : BitVec 6)
  | port (p : BitVec 5)
  deriving DecidableEq, Repr

/-- Where an uncorrectable error strikes (R477, Table MC-6). -/
inductive ErrSite where
  | vreg (c j r lane : Nat)
  | sreg (c j r : Nat)
  | sram (c granule : Nat)
  | acc (c row : Nat)
  | side (c row : Nat)
  | plane (c : Nat) (shadow : Bool) (cell : Nat)
  | sector (sec : BitVec 46) (slice : Option UnitRef)
  | tag (blk : BitVec 32)
  | fetch (c : Nat)
  deriving DecidableEq, Repr

/-- What PLDM reads of a die: the quantities of DSTAT (Table MC-2), and the count of its corrected errors of a class (R477). -/
inductive Sensor where
  | power | temp | vmin | freq | nfc | state
  | errors (cls : BitVec 3)
  deriving DecidableEq, Repr

/-- A die's readings over a control interval: POWER, TEMP, VMIN. -/
structure Reading where
  power : BitVec 16
  temp : BitVec 8
  vmin : BitVec 8
  deriving DecidableEq, Repr

/-- Every row of spec/opcode_table.json. `l` is true for the long form where both forms are offered. -/
inductive Instr where
  /-- NOP (R122): Does nothing beyond honouring its schedule fields. -/
  | nop (h : Hdr)
  /-- WAITF (R123): Holds the warp's later words until the named flag counter is at or below a threshold. -/
  | waitf (h : Hdr) (l : Bool) (f : FField) (n : Src)
  /-- YIELD (R124): Moves the warp to the end of the round-robin order and delays its next issue. -/
  | yieldW (h : Hdr) (l : Bool) (n : Src)
  /-- REGX (R114): Joins a register-exchange rendezvous of the named warps with a signed granule delta. -/
  | regx (h : Hdr) (l : Bool) (dlt : Operand) (mask : Src)
  /-- SRD (R126): Reads a special register into a scalar or vector destination. -/
  | srd (h : Hdr) (d : Operand) (ix : SIdx)
  /-- SWR (R127): Writes a writable special register such as PROBEF or a trap register. -/
  | swr (h : Hdr) (ix : SIdx) (a : Operand)
  /-- MODE_SET (R128): ORs the source bits into MODE[2:0]. -/
  | modeSet (h : Hdr) (bits : Operand)
  /-- MODE_CLR (R128): Clears the source bits in MODE[2:0]. -/
  | modeClr (h : Hdr) (bits : Operand)
  /-- MODE_WR (R128): Replaces MODE[2:0] with the source bits. -/
  | modeWr (h : Hdr) (bits : Operand)
  /-- BRA (R212): Transfers control to a relative target. -/
  | bra (h : Hdr) (off : BitVec 27)
  /-- BRX (R213): Transfers control to a target held in a scalar pair. -/
  | brx (h : Hdr) (a : Operand)
  /-- SPLIT (R214): Divides the active lanes by a predicate and pushes the JOIN and ELSE tokens. -/
  | split (h : Hdr) (els : BitVec 27) (kC : KField) (jn : BitVec 32)
  /-- JOIN (R215): Ends one side of a split by popping its token and resuming the next lanes. -/
  | join (h : Hdr)
  /-- LOOPR (R216): Opens a loop region by pushing a LOOP token with the exit address. -/
  | loopr (h : Hdr) (ext : BitVec 27)
  /-- BRK (R217): Moves the lanes of the effective mask out of the innermost loop region. -/
  | brk (h : Hdr)
  /-- CALL (R218): Pushes a CALL token, raises the call depth and jumps to a relative target. -/
  | call (h : Hdr) (off : BitVec 27)
  /-- CALLX (R218): Pushes a CALL token, raises the call depth and jumps to a target in a scalar pair. -/
  | callx (h : Hdr) (a : Operand)
  /-- RET (R219): Returns the lanes of the effective mask to their caller's CALL token. -/
  | ret (h : Hdr)
  /-- EXIT (R220): Ends the lanes of the effective mask and removes them from every token. -/
  | exit (h : Hdr)
  /-- BAR (R259): Arrives at a group barrier and waits for its phase to complete. -/
  | bar (h : Hdr) (l : Bool) (b : Operand) (n : Src)
  /-- BARA (R263): Arrives at a barrier word in group memory by one read-modify-write and returns the phase. -/
  | bara (h : Hdr) (l : Bool) (sp : SramSpace) (d : Operand) (a : Operand) (cnt : Operand) (disp : BitVec 32)
  /-- BARW (R264): Waits until a barrier word's phase parity differs from the given phase. -/
  | barw (h : Hdr) (l : Bool) (sp : SramSpace) (a : Operand) (p : Operand) (disp : BitVec 32) (tmo : Option KField)
  /-- CBAR (R266): Arrives at a cluster barrier and waits for every live warp of the cluster instance. -/
  | cbar (h : Hdr) (b : Operand)
  /-- GBAR (R267): Arrives at the grid barrier of a concurrent grid and waits for every live group. -/
  | gbar (h : Hdr)
  /-- WAITM (R268): Waits until a memory location satisfies a comparison and returns the value. -/
  | waitm (h : Hdr) (sp : RwSpace) (sz : Size) (sgn : Bool) (sc : Scope) (peer : Peer) (cc : ICond) (d : Operand) (a : Operand) (b : Operand) (disp : BitVec 32) (tmo : Option KField)
  /-- SMOV (R136): Moves a 32- or 64-bit value into a scalar register. -/
  | smov (h : Hdr) (l : Bool) (t : BitTy) (d : Operand) (a : Src)
  /-- SMOVL (R136): Forms a 64-bit scalar pair from IMM and a 32-bit source. -/
  | smovl (h : Hdr) (d : Operand) (a : Operand) (imm : BitVec 32)
  /-- SADD (R136): Adds two scalar values, wrapping or saturating. -/
  | sadd (h : Hdr) (l : Bool) (t : IntTy) (sat : Bool) (d : Operand) (a : Operand) (b : Src)
  /-- SSUB (R136): Subtracts two scalar values, wrapping or saturating. -/
  | ssub (h : Hdr) (l : Bool) (t : IntTy) (sat : Bool) (d : Operand) (a : Operand) (b : Src)
  /-- SMUL (R136): Multiplies two scalar values with wrapping. -/
  | smul (h : Hdr) (l : Bool) (t : IntTy) (d : Operand) (a : Operand) (b : Src)
  /-- SMAD (R136): Multiplies two scalar values and adds a third with wrapping. -/
  | smad (h : Hdr) (t : IntTy) (d : Operand) (a : Operand) (b : Src) (c : Operand)
  /-- SADD64 (R136): Adds an extended 32-bit value to a 64-bit scalar pair. -/
  | sadd64 (h : Hdr) (l : Bool) (t : WideTy) (d : Operand) (a : Operand) (b : Src)
  /-- SMAD64 (R136): Multiplies two 32-bit scalars and adds a 64-bit pair. -/
  | smad64 (h : Hdr) (t : WideTy) (d : Operand) (a : Operand) (b : Src) (c : Operand)
  /-- SAND (R136): Scalar bitwise and. -/
  | sand (h : Hdr) (l : Bool) (t : BitTy) (d : Operand) (a : Operand) (b : Src)
  /-- SOR (R136): Scalar bitwise or. -/
  | sor (h : Hdr) (l : Bool) (t : BitTy) (d : Operand) (a : Operand) (b : Src)
  /-- SXOR (R136): Scalar bitwise exclusive or. -/
  | sxor (h : Hdr) (l : Bool) (t : BitTy) (d : Operand) (a : Operand) (b : Src)
  /-- SSHL (R136): Scalar left shift. -/
  | sshl (h : Hdr) (l : Bool) (t : BitTy) (d : Operand) (a : Operand) (b : Src)
  /-- SSHR (R136): Scalar logical right shift. -/
  | sshr (h : Hdr) (l : Bool) (t : BitTy) (d : Operand) (a : Operand) (b : Src)
  /-- SSRA (R136): Scalar arithmetic right shift. -/
  | ssra (h : Hdr) (l : Bool) (t : BitTy) (d : Operand) (a : Operand) (b : Src)
  /-- SMIN (R136): Scalar minimum. -/
  | smin (h : Hdr) (l : Bool) (t : IntTy) (d : Operand) (a : Operand) (b : Src)
  /-- SMAX (R136): Scalar maximum. -/
  | smax (h : Hdr) (l : Bool) (t : IntTy) (d : Operand) (a : Operand) (b : Src)
  /-- SCMP (R136): Compares two scalars and writes all ones or zero to a predicate. -/
  | scmp (h : Hdr) (t : IntTy) (cc : ICond) (kD : KField) (a : Operand) (b : Src)
  /-- SSEL (R136): Selects one of two scalars by a predicate. -/
  | ssel (h : Hdr) (t : BitTy) (d : Operand) (a : Operand) (b : Src) (kC : KField)
  /-- SBFE (R139): Extracts a scalar bit field, optionally sign-extended. -/
  | sbfe (h : Hdr) (l : Bool) (t : BitTy) (sx : Bool) (d : Operand) (a : Operand) (b : Src)
  /-- SPOPC (R136): Counts the set bits of a scalar. -/
  | spopc (h : Hdr) (t : BitTy) (d : Operand) (a : Operand)
  /-- SCLZ (R136): Counts the leading zero bits of a scalar. -/
  | sclz (h : Hdr) (t : BitTy) (d : Operand) (a : Operand)
  /-- S2V (R137): Writes a scalar value into one selected lane of a vector register. -/
  | s2v (h : Hdr) (l : Bool) (t : BitTy) (d : Operand) (a : Operand) (sel : Src)
  /-- V2S (R137): Reads one selected lane of a vector register into a scalar register. -/
  | v2s (h : Hdr) (l : Bool) (t : BitTy) (d : Operand) (a : Operand) (sel : Src)
  /-- MOV (R138): Vector move. -/
  | mov (h : Hdr) (l : Bool) (t : BitTy) (d : Operand) (a : Src)
  /-- IADD (R138): Vector integer add, wrapping or saturating. -/
  | iadd (h : Hdr) (l : Bool) (t : IntTy) (sat : Bool) (d : Operand) (a : Operand) (b : Src)
  /-- IADDC (R138): Vector unsigned add with carry in and carry out through a predicate. -/
  | iaddc (h : Hdr) (t : CarryTy) (d : Operand) (a : Operand) (b : Src) (kC : KField)
  /-- ISUB (R138): Vector integer subtract. -/
  | isub (h : Hdr) (l : Bool) (t : IntTy) (sat : Bool) (d : Operand) (a : Operand) (b : Src)
  /-- IMUL (R138): Vector integer multiply, low bits. -/
  | imul (h : Hdr) (l : Bool) (t : IntTy) (d : Operand) (a : Operand) (b : Src)
  /-- IMULH (R138): Vector integer multiply, high bits. -/
  | imulh (h : Hdr) (l : Bool) (t : IntTy) (d : Operand) (a : Operand) (b : Src)
  /-- IMAD (R138): Vector integer multiply-add. -/
  | imad (h : Hdr) (t : IntTy) (d : Operand) (a : Operand) (b : Src) (c : Operand)
  /-- IMIN (R138): Vector integer minimum. -/
  | imin (h : Hdr) (l : Bool) (t : IntTy) (d : Operand) (a : Operand) (b : Src)
  /-- IMAX (R138): Vector integer maximum. -/
  | imax (h : Hdr) (l : Bool) (t : IntTy) (d : Operand) (a : Operand) (b : Src)
  /-- IABS (R138): Vector integer absolute value. -/
  | iabs (h : Hdr) (l : Bool) (t : AbsTy) (sat : Bool) (d : Operand) (a : Operand)
  /-- IAND (R138): Vector bitwise and. -/
  | iand (h : Hdr) (l : Bool) (t : BitTy) (d : Operand) (a : Operand) (b : Src)
  /-- IOR (R138): Vector bitwise or. -/
  | ior (h : Hdr) (l : Bool) (t : BitTy) (d : Operand) (a : Operand) (b : Src)
  /-- IXOR (R138): Vector bitwise exclusive or. -/
  | ixor (h : Hdr) (l : Bool) (t : BitTy) (d : Operand) (a : Operand) (b : Src)
  /-- INOT (R138): Vector bitwise complement. -/
  | inot (h : Hdr) (t : BitTy) (d : Operand) (a : Operand)
  /-- ISHL (R138): Vector left shift. -/
  | ishl (h : Hdr) (l : Bool) (t : BitTy) (d : Operand) (a : Operand) (b : Src)
  /-- ISHR (R138): Vector logical right shift. -/
  | ishr (h : Hdr) (l : Bool) (t : BitTy) (d : Operand) (a : Operand) (b : Src)
  /-- ISRA (R138): Vector arithmetic right shift. -/
  | isra (h : Hdr) (l : Bool) (t : BitTy) (d : Operand) (a : Operand) (b : Src)
  /-- IFUNNEL (R138): Vector funnel shift of two concatenated values. -/
  | ifunnel (h : Hdr) (t : BitTy) (d : Operand) (a : Operand) (b : Src) (c : Operand)
  /-- IPOPC (R138): Vector population count. -/
  | ipopc (h : Hdr) (t : BitTy) (d : Operand) (a : Operand)
  /-- ICLZ (R138): Vector leading-zero count. -/
  | iclz (h : Hdr) (t : BitTy) (d : Operand) (a : Operand)
  /-- IBFE (R139): Vector bit-field extract. -/
  | ibfe (h : Hdr) (l : Bool) (t : BitTy) (sx : Bool) (d : Operand) (a : Operand) (b : Src)
  /-- IBFI (R139): Vector bit-field insert. -/
  | ibfi (h : Hdr) (t : BitTy) (d : Operand) (a : Operand) (b : Src) (c : Operand)
  /-- IDP4 (R140): Vector four-way 8-bit dot product with accumulate. -/
  | idp4 (h : Hdr) (sg : Sg) (sat : Bool) (d : Operand) (a : Operand) (b : Src) (c : Operand)
  /-- IDP2 (R140): Vector two-way 16-bit dot product with accumulate. -/
  | idp2 (h : Hdr) (sg : Sg) (sat : Bool) (d : Operand) (a : Operand) (b : Src) (c : Operand)
  /-- ICMP (R138): Vector integer compare into predicate bits. -/
  | icmp (h : Hdr) (t : IntTy) (cc : ICond) (kD : KField) (a : Operand) (b : Src)
  /-- ISEL (R138): Vector select by a predicate. -/
  | isel (h : Hdr) (t : BitTy) (d : Operand) (a : Operand) (b : Src) (kC : KField)
  /-- FADD (R141): Vector float add with selectable rounding. -/
  | fadd (h : Hdr) (l : Bool) (t : FTy) (rm : RM) (d : Operand) (a : Operand) (b : Src)
  /-- FSUB (R141): Vector float subtract. -/
  | fsub (h : Hdr) (l : Bool) (t : FTy) (rm : RM) (d : Operand) (a : Operand) (b : Src)
  /-- FMUL (R141): Vector float multiply. -/
  | fmul (h : Hdr) (l : Bool) (t : FTy) (rm : RM) (d : Operand) (a : Operand) (b : Src)
  /-- FFMA (R141): Vector float fused multiply-add. -/
  | ffma (h : Hdr) (t : FTy) (rm : RM) (d : Operand) (a : Operand) (b : Src) (c : Operand)
  /-- FMIN (R142): Vector float minimumNumber. -/
  | fmin (h : Hdr) (l : Bool) (t : FTy) (d : Operand) (a : Operand) (b : Src)
  /-- FMAX (R142): Vector float maximumNumber. -/
  | fmax (h : Hdr) (l : Bool) (t : FTy) (d : Operand) (a : Operand) (b : Src)
  /-- FCMP (R141): Vector float compare into predicate bits. -/
  | fcmp (h : Hdr) (t : FTy) (cc : Cond) (kD : KField) (a : Operand) (b : Src)
  /-- FCLASS (R143): Writes the one-hot class mask of a float. -/
  | fclass (h : Hdr) (t : FTy) (d : Operand) (a : Operand)
  /-- FRND (R142): Rounds a float to an integral value. -/
  | frnd (h : Hdr) (l : Bool) (t : FTy) (rm : RM) (d : Operand) (a : Operand)
  /-- FRCP (R144): Computes the FP32 reciprocal by rcp_alg. -/
  | frcp (h : Hdr) (d : Operand) (a : Operand)
  /-- FRSQ (R144): Computes the FP32 reciprocal square root by rsqrt_alg. -/
  | frsq (h : Hdr) (d : Operand) (a : Operand)
  /-- FSQRT (R141): Computes a correctly rounded square root. -/
  | fsqrt (h : Hdr) (l : Bool) (t : SqTy) (rm : RM) (d : Operand) (a : Operand)
  /-- FEXP2 (R144): Computes exp2 by exp2_alg. -/
  | fexp2 (h : Hdr) (d : Operand) (a : Operand)
  /-- FLOG2 (R144): Computes log2 by log2_alg. -/
  | flog2 (h : Hdr) (d : Operand) (a : Operand)
  /-- FSIN (R144): Computes sine by sin_alg. -/
  | fsin (h : Hdr) (d : Operand) (a : Operand)
  /-- FCOS (R144): Computes cosine by cos_alg. -/
  | fcos (h : Hdr) (d : Operand) (a : Operand)
  /-- FTANH (R144): Computes tanh by tanh_alg. -/
  | ftanh (h : Hdr) (d : Operand) (a : Operand)
  /-- HADD2 (R145): Packed add of two FP16 or BF16 halves. -/
  | hadd2 (h : Hdr) (l : Bool) (t : HTy) (rm : RM) (d : Operand) (a : Operand) (b : Src)
  /-- HMUL2 (R145): Packed multiply of two halves. -/
  | hmul2 (h : Hdr) (l : Bool) (t : HTy) (rm : RM) (d : Operand) (a : Operand) (b : Src)
  /-- HFMA2 (R145): Packed fused multiply-add of two halves. -/
  | hfma2 (h : Hdr) (t : HTy) (rm : RM) (d : Operand) (a : Operand) (b : Src) (c : Operand)
  /-- HMIN2 (R145): Packed minimum of two halves. -/
  | hmin2 (h : Hdr) (l : Bool) (t : HTy) (d : Operand) (a : Operand) (b : Src)
  /-- HMAX2 (R145): Packed maximum of two halves. -/
  | hmax2 (h : Hdr) (l : Bool) (t : HTy) (d : Operand) (a : Operand) (b : Src)
  /-- FDOT2 (R145): Two-term dot product of packed halves added to FP32 with one rounding. -/
  | fdot2 (h : Hdr) (t : HTy) (rm : RM) (d : Operand) (a : Operand) (b : Src) (c : Operand)
  /-- CVT (R146): Converts between integer and float types with a rounding mode. -/
  | cvt (h : Hdr) (rm : RM) (cv : ConvField) (d : Operand) (a : Operand)
  /-- CVT_SR (R147): Narrows a float with stochastic rounding from a random half-word. -/
  | cvtSr (h : Hdr) (half : RndHalf) (tgt : CvtTy) (src : CvtTy) (sat : Bool) (d : Operand) (a : Operand) (rnd : Operand)
  /-- PACK (R148): Packs halves or a register pair without changing bits. -/
  | pack (h : Hdr) (l : Bool) (t : PackTy) (d : Operand) (a : Operand) (b : Src)
  /-- UNPACK (R148): Extracts a half or byte, zero- or sign-extended. -/
  | unpack (h : Hdr) (l : Bool) (t : UnpackTy) (d : Operand) (a : Operand) (sel : Src)
  /-- QNT (R149): Quantises an FP32 value to an asymmetric code. -/
  | qnt (h : Hdr) (l : Bool) (t : QTy) (d : Operand) (a : Operand) (p : Src)
  /-- DQNT (R149): Dequantises a selected code to FP32. -/
  | dqnt (h : Hdr) (t : QTy) (d : Operand) (a : Operand) (p : Operand) (sel : Operand)
  /-- RNG (R155): Produces 128 counter-based random bits per lane. -/
  | rng (h : Hdr) (l : Bool) (d : Operand) (a : Operand) (n : Operand) (imm : BitVec 32)
  /-- SHFL (R150): Exchanges 32-bit values between lanes. -/
  | shfl (h : Hdr) (l : Bool) (m : ShflMode) (d : Operand) (a : Operand) (n : Src)
  /-- VOTE (R151): Evaluates ALL, ANY, EQ or BALLOT over a predicate. -/
  | vote (h : Hdr) (v : VoteForm) (kS : KField)
  /-- WRED (R152): Reduces a value across the lanes of the effective mask. -/
  | wred (h : Hdr) (op : RedOp) (ty : TypeField) (d : Operand) (a : Operand)
  /-- WSCAN (R152): Computes an inclusive scan across the lanes of the effective mask. -/
  | wscan (h : Hdr) (op : RedOp) (ty : TypeField) (d : Operand) (a : Operand)
  /-- MATCH (R153): Writes to each lane the mask of lanes holding an equal value. -/
  | matchW (h : Hdr) (t : BitTy) (d : Operand) (a : Operand)
  /-- KAND (R154): Predicate and. -/
  | kand (h : Hdr) (kD : KField) (kA : KField) (kB : KField)
  /-- KOR (R154): Predicate or. -/
  | kor (h : Hdr) (kD : KField) (kA : KField) (kB : KField)
  /-- KXOR (R154): Predicate exclusive or. -/
  | kxor (h : Hdr) (kD : KField) (kA : KField) (kB : KField)
  /-- KNOT (R154): Predicate complement. -/
  | knot (h : Hdr) (kD : KField) (kA : KField)
  /-- KMOV (R154): Moves a predicate, or between a predicate and a scalar. -/
  | kmov (h : Hdr) (v : KmovForm)
  /-- KPOP (R154): Counts the set bits of a predicate into a scalar. -/
  | kpop (h : Hdr) (d : Operand) (kA : KField)
  /-- PAIR_WORD (R84): Issues two pairable vector operations together, each reading only pre-word values. -/
  | pairWord (p : PairWord)
  /-- LD (R172): Loads bytes from an address space into registers. -/
  | ld (h : Hdr) (l : Bool) (sp : Space) (sz : Size) (sx : Bool) (sc : Scope) (od : Order) (hint : Hint) (scl : Bool) (d : Operand) (a : Operand) (b : Operand) (disp : BitVec 32)
  /-- ST (R172): Stores the low bytes of a data register to memory. -/
  | st (h : Hdr) (l : Bool) (sp : RwSpace) (sz : Size) (sc : Scope) (od : Order) (hint : Hint) (scl : Bool) (d : Operand) (a : Operand) (b : Operand) (disp : BitVec 32)
  /-- LDFE (R174): Loads from group memory once the granule is full, optionally emptying it. -/
  | ldfe (h : Hdr) (sp : SramSpace) (sz : Size) (sx : Bool) (sc : Scope) (scl : Bool) (peer : Peer) (clr : Bool) (d : Operand) (a : Operand) (b : Operand) (disp : BitVec 32) (tmo : Option KField)
  /-- STFE (R173): Stores to group memory and sets the granule full as a release. -/
  | stfe (h : Hdr) (l : Bool) (sp : SramSpace) (sz : Size) (sc : Scope) (scl : Bool) (d : Operand) (a : Operand) (b : Operand) (disp : BitVec 32)
  /-- ATOM (R176): Performs an indivisible read-modify-write and returns the old value. -/
  | atom (h : Hdr) (sp : RwSpace) (sz : Size) (sc : Scope) (od : Order) (op : Aop) (d : Operand) (a : Operand) (b : Operand) (disp : BitVec 32)
  /-- ATOMC (R177): Compares and swaps, returning the old value. -/
  | atomc (h : Hdr) (sp : RwSpace) (sz : Size) (sc : Scope) (od : Order) (d : Operand) (a : Operand) (b : Operand) (c : Operand) (disp : BitVec 32)
  /-- RED (R178): Performs a read-modify-write returning nothing. -/
  | red (h : Hdr) (sp : RwSpace) (sz : Size) (sc : Scope) (od : Order) (op : Aop) (a : Operand) (b : Operand) (disp : BitVec 32)
  /-- FENCE (R179): Orders the warp's accesses by its order and scope. -/
  | fence (h : Hdr) (sc : Scope) (od : Order)
  /-- PREF (R180): Prefetches a line into L1 or L2. -/
  | pref (h : Hdr) (l : Bool) (lv : PrefLevel) (scl : Bool) (a : Operand) (b : Operand) (disp : BitVec 32)
  /-- CCTL_L1EV (R181): Writes back and evicts a line from the core's L1. -/
  | cctlL1ev (h : Hdr) (l : Bool) (scl : Bool) (a : Operand) (b : Operand) (disp : BitVec 32)
  /-- CCTL_L2EV (R181): Removes a line from every L1 and L2 of the package. -/
  | cctlL2ev (h : Hdr) (l : Bool) (scl : Bool) (a : Operand) (b : Operand) (disp : BitVec 32)
  /-- CCTL_ZERO (R181): Zeroes a 128-byte line and clears its poison. -/
  | cctlZero (h : Hdr) (l : Bool) (scl : Bool) (a : Operand) (b : Operand) (disp : BitVec 32)
  /-- IFENCE (R182): Discards the core's L1 instruction lines of the ASID and fetched unissued words. -/
  | ifence (h : Hdr)
  /-- WLD (R330): Loads the shadow plane, and for .Q8/.Q4 its metadata table, from group memory. -/
  | wld (h : Hdr) (w : WldForm) (a : Operand) (cb : Operand) (pitch : BitVec 32)
  /-- WFLIP (R332): Exchanges the active and shadow planes and tables. -/
  | wflip (h : Hdr)
  /-- MMS (R333): Accumulates a tile product against the active plane. -/
  | mms (h : Hdr) (ta : MTy) (tb : Bool) (zi : Bool) (m : MatOpd) (cb : Operand)
  /-- MMSQ (R335): Accumulates a zero-point-corrected quantised tile product. -/
  | mmsq (h : Hdr) (q : QTy) (g : QGroup) (zi : Bool) (a : Operand) (cb : Operand) (pitch : BitVec 32)
  /-- ACLR (R336): Clears active accumulator elements to +0. -/
  | aclr (h : Hdr) (cb : Operand)
  /-- ALD (R337): Loads accumulator elements from group memory or registers. -/
  | ald (h : Hdr) (m : MatOpd) (cb : Operand)
  /-- AST (R338): Stores accumulator elements to group or global memory. -/
  | ast (h : Hdr) (sp : AstSpace) (a : Operand) (cb : Operand) (pitch : BitVec 32)
  /-- ADRN (R340): Drains accumulators through scale, bias, activation and conversion. -/
  | adrn (h : Hdr) (act : ActFn) (t : DrainTy) (bias : Bool) (sat : Bool) (clr : Bool) (m : MatOpd) (cb : Operand)
  /-- AMOV (R339): Copies accumulator rows to other rows. -/
  | amov (h : Hdr) (cb : Operand)
  /-- SMX (R342): Makes one online-softmax step over score rows. -/
  | smx (h : Hdr) (a : Operand) (cb : Operand) (pitch : BitVec 32)
  /-- SMXR_INIT (R343): Sets the m and l side registers to -inf and +0. -/
  | smxrInit (h : Hdr) (cb : Operand)
  /-- SMXR_NORM (R343): Scales output rows by the reciprocal of l. -/
  | smxrNorm (h : Hdr) (cb : Operand)
  /-- SMXR_RD (R343): Writes the side registers to group memory. -/
  | smxrRd (h : Hdr) (a : Operand) (cb : Operand)
  /-- SMXR_WR (R343): Reads the side registers back from group memory. -/
  | smxrWr (h : Hdr) (a : Operand) (cb : Operand)
  /-- CBIND (R370): Gives the binding of a slot to the issuing warp. -/
  | cbind (h : Hdr) (cs : Operand)
  /-- CBIND_SW (R370): Spills the slot's culture and fills another handle into the slot. -/
  | cbindSw (h : Hdr) (cs : Operand) (hd : Operand)
  /-- CREL (R371): Ends the warp's binding of a slot. -/
  | crel (h : Hdr) (cs : Operand)
  /-- CREL_PIN (R371): Ends the binding and sets PIN. -/
  | crelPin (h : Hdr) (cs : Operand)
  /-- CREL_UNPIN (R371): Ends the binding and clears PIN. -/
  | crelUnpin (h : Hdr) (cs : Operand)
  /-- DELTA (R372): Applies gated delta-rule updates to a culture, optionally recording tokens. -/
  | delta (h : Hdr) (rec : Bool) (cb : Operand)
  /-- DQRY (R374): Computes queries against a culture into group memory. -/
  | dqry (h : Hdr) (cb : Operand)
  /-- CSPILL (R375): Writes the slot's culture to its record, keeping it resident. -/
  | cspill (h : Hdr) (cs : Operand)
  /-- CFILL (R376): Replaces the slot's culture from its record. -/
  | cfill (h : Hdr) (cs : Operand)
  /-- CSTAT (R377): Writes the slot's status word. -/
  | cstat (h : Hdr) (d : Operand) (cs : Operand)
  /-- CSTAT_H (R377): Writes the slot's current handle. -/
  | cstatH (h : Hdr) (d : Operand) (cs : Operand)
  /-- CPY (R293): Places a shaped copy request in a copy stream. -/
  | cpy (h : Hdr) (strm : Stream) (dsp : RwSpace) (ssp : RwSpace) (fe : Bool) (sc : Scope) (d : Operand) (a : Operand) (ds : Operand)
  /-- CPYZ (R294): Copies 512-byte blocks to group memory, expanding compressed forms. -/
  | cpyz (h : Hdr) (strm : Stream) (dsp : RwSpace) (ssp : RwSpace) (fe : Bool) (sc : Scope) (d : Operand) (a : Operand) (nblk : BitVec 32)
  /-- CPYG (R295): Gathers rows by an index array into group memory. -/
  | cpyg (h : Hdr) (strm : Stream) (dsp : RwSpace) (ssp : RwSpace) (fe : Bool) (sc : Scope) (d : Operand) (a : Operand) (ds : Operand) (ix : Operand)
  /-- CPYS (R296): Scatters rows from group memory by an index array. -/
  | cpys (h : Hdr) (strm : Stream) (dsp : RwSpace) (ssp : RwSpace) (fe : Bool) (sc : Scope) (d : Operand) (a : Operand) (ds : Operand) (ix : Operand)
  /-- CPYB (R297): Broadcasts a shape into the group memory of several cluster ranks. -/
  | cpyb (h : Hdr) (strm : Stream) (dsp : RwSpace) (ssp : RwSpace) (fe : Bool) (sc : Scope) (d : Operand) (a : Operand) (ds : Operand) (mk : Operand)
  /-- CPYX_SEND (R298): Moves a shape from local memory to a peer device's window. -/
  | cpyxSend (h : Hdr) (strm : Stream) (dsp : RwSpace) (ssp : RwSpace) (fe : Bool) (sc : Scope) (d : Operand) (a : Operand) (ds : Operand) (ep : Operand)
  /-- CPYX_FETCH (R298): Moves a shape from a peer device's window to local memory. -/
  | cpyxFetch (h : Hdr) (strm : Stream) (dsp : RwSpace) (ssp : RwSpace) (fe : Bool) (sc : Scope) (d : Operand) (a : Operand) (ds : Operand) (ep : Operand)
  /-- SPENTER (R401): Parks the other warps, loads and checks the image and maps the spatial configuration. -/
  | spenter (h : Hdr) (shape : Rect) (a : Operand)
  /-- SPLEAVE (R404): Waits for an empty rectangle and returns the cores to SIMT. -/
  | spleave (h : Hdr)
  /-- SPSTREAM (R405): Places a stream command of n rounds in a generator's FIFO. -/
  | spstream (h : Hdr) (l : Bool) (gs : Operand) (n : Src)
  /-- SPPARAM_BASE (R405): Places a command that sets a generator's base. -/
  | spparamBase (h : Hdr) (l : Bool) (gs : Operand) (b : Src)
  /-- SPPARAM_EXT (R405): Places a command that sets one extent of a generator. -/
  | spparamExt (h : Hdr) (l : Bool) (gs : Operand) (n : Src)
  /-- SPDRAIN (R406): Waits until the rectangle is empty. -/
  | spdrain (h : Hdr)
  /-- SPSTAT_RECT (R408): Writes the rectangle status word. -/
  | spstatRect (h : Hdr) (d : Operand)
  /-- SPSTAT_GEN (R408): Writes a generator's status word. -/
  | spstatGen (h : Hdr) (d : Operand) (gs : Operand)
  /-- SPSTAT_POS (R408): Writes a generator's next element index. -/
  | spstatPos (h : Hdr) (d : Operand) (gs : Operand)
  /-- TRAP (R238): Takes a software trap with code 0x30 + n. -/
  | trap (h : Hdr) (n : Operand)
  /-- XRET (R241): Returns from a handler, restoring state from the frame. -/
  | xret (h : Hdr)
  /-- BKPT (R239): Takes a breakpoint trap. -/
  | bkpt (h : Hdr) (n : Operand)
  /-- HALT (R240): Halts the context with reason program halt. -/
  | halt (h : Hdr) (l : Bool) (code : Src)
  /-- REGX_COMMIT (R115): When every named warp has arrived, changes all participants' allocations at once or traps them all. -/
  | regxCommit (c : Nat) (j : Nat)
  /-- BARRIER_PHASE_COMPLETE (R259): Completes a group-barrier phase once enough warps have arrived, releasing every arrived warp. -/
  | barrierPhaseComplete (gid : Nat) (b : BitVec 4)
  /-- CBAR_PHASE_COMPLETE (R266): Completes a cluster-barrier phase once every live warp of the instance has arrived. -/
  | cbarPhaseComplete (lid : Nat) (inst : Nat) (b : BitVec 2)
  /-- GBAR_COMPLETION (R267): The grid-barrier completion reaches a core and completes every waiting warp's GBAR. -/
  | gbarCompletion (lid : Nat) (c : Nat)
  /-- WAITM_REREAD (R269): Rereads the waited location on an invalidation, a group-memory write or 1024 cycles without a read. -/
  | waitmReread (c : Nat) (j : Nat)
  /-- STEEP_TIMER_EXPIRY (R271): A blocked warp's steep count reaches its budget, giving the timed-out outcome or a steep-timer trap. -/
  | steepTimerExpiry (c : Nat) (j : Nat)
  /-- VARIABLE_ALU_COMPLETION (R134): A variable-latency vector float instruction writes its destination and decrements its flag. -/
  | variableAluCompletion (c : Nat) (j : Nat)
  /-- LDFE_SERVE (R174): Serves the waiting lanes of an LDFE when their granule becomes full. -/
  | ldfeServe (c : Nat) (j : Nat)
  /-- LS_COMPLETION (R183): A load-store instruction reaches its completion event, writes its results and decrements its flag. -/
  | lsCompletion (c : Nat) (n : Nat)
  /-- INSTRUCTION_FETCH (R68): Fetches instruction words for a warp, reporting fetch faults against the instruction. -/
  | instructionFetch (c : Nat) (j : Nat) (va : BitVec 57)
  /-- PAGE_WALK (R434): Walks the five-level page table to produce a translation or a fault. -/
  | pageWalk (c : Nat) (asid : BitVec 12) (va : BitVec 57)
  /-- TRAP_ENTRY (R234): Writes the trap registers, reads the vector entry, writes the frame and enters the handler. -/
  | trapEntry (c : Nat) (j : Nat)
  /-- PENDING_FAULT_DELIVERY (R305): Delivers a pending copy, matrix, fast-weight or store fault as a trap at the warp's next word. -/
  | pendingFaultDelivery (c : Nat) (j : Nat)
  /-- COPY_ELEMENT (R290): The copy engine reads one element and writes it to its destination, stopping the request on error. -/
  | copyElement (c : Nat) (strm : Stream)
  /-- COPY_GRANULE_FULL (R300): Sets a group-memory granule full once all of a request's writes to it are performed. -/
  | copyGranuleFull (c : Nat) (strm : Stream) (n : Nat)
  /-- COPY_REQUEST_COMPLETION (R299): A copy request completes in stream order and decrements its flag. -/
  | copyRequestCompletion (c : Nat) (strm : Stream)
  /-- BLOCK_MERGE (R310): Merges a written-back L2 line into its stored compressed block and recompresses it. -/
  | blockMerge (line : BitVec 34)
  /-- ARRAY_REQUEST_ACCEPT (R32): The matrix engine or fast-weight unit accepts a request at an array-cycle boundary. -/
  | arrayRequestAccept (c : Nat) (n : Nat)
  /-- ACCUMULATOR_PORT_ACCESS (R17): A request takes effect on its accumulator rows at the shared port in arrival order. -/
  | accumulatorPortAccess (c : Nat) (n : Nat)
  /-- MATRIX_REQUEST_COMPLETION (R321): A matrix request reaches its completion event and decrements its flag. -/
  | matrixRequestCompletion (c : Nat) (n : Nat)
  /-- FW_REQUEST_COMPLETION (R367): A fast-weight request reaches its completion event and decrements its flag. -/
  | fwRequestCompletion (c : Nat) (n : Nat)
  /-- CULTURE_SPILL (R361): Writes a culture's data and then publishes its record header as a system-scope release. -/
  | cultureSpill (c : Nat) (idx : BitVec 4)
  /-- CULTURE_FILL (R362): Reads and checks a culture record and loads or poisons the culture. -/
  | cultureFill (c : Nat) (idx : BitVec 4)
  /-- CULTURE_EVICTION (R356): Spills a pinned culture to free its regions for another placement. -/
  | cultureEviction (c : Nat) (idx : BitVec 4)
  /-- GROUP_DEPARTURE (R355): After a group's requests complete, pins or spills each culture as it leaves the core. -/
  | groupDeparture (gid : Nat)
  /-- SPENTER_COMMIT (R401): Commits the switch to spatial mode when map completes and starts the nodes. -/
  | spenterCommit (c : Nat) (j : Nat)
  /-- SPLEAVE_COMMIT (R404): Discards queues and node state, returns to SIMT and resumes parked warps. -/
  | spleaveCommit (c : Nat) (j : Nat)
  /-- SPDRAIN_COMPLETE (R406): SPDRAIN completes in the first cycle in which the rectangle is empty. -/
  | spdrainComplete (c : Nat) (j : Nat)
  /-- NODE_FIRING (R386): A node consumes its firing set and writes its output tokens. -/
  | nodeFiring (gid : Nat) (idx : Nat)
  /-- EOI_FIRING (R387): A node consumes end-of-invocation markers, emits its final value and resets its state. -/
  | eoiFiring (gid : Nat) (idx : Nat)
  /-- GENERATOR_ROUND_START (R394): Between rounds a generator applies commands and parameter tokens and starts a round. -/
  | generatorRoundStart (gid : Nat) (k : Nat)
  /-- GEN_ELEMENT_READ (R393): A GEN reads one element and writes it as a value token. -/
  | genElementRead (gid : Nat) (k : Nat)
  /-- GENERATOR_FAULT_DELIVERY (R410): Delivers a held generator fault as a trap to the control thread. -/
  | generatorFaultDelivery (c : Nat) (j : Nat)
  /-- PREEMPTION_REQUEST (R243): A pre-emption request arrives at a set of cores and starts the drain step. -/
  | preemptionRequest (d : BitVec 2)
  /-- DRAIN_BUDGET_EXPIRY (R243): The drain budget runs out and the save step begins. -/
  | drainBudgetExpiry (c : Nat) (n : Nat)
  /-- GROUP_SAVE (R244): Stops the group's warps, rolls back blocking waits, waits for requests and writes the save record. -/
  | groupSave (gid : Nat)
  /-- SAVE_BUDGET_EXPIRY (R243): SAVEB runs out with a save incomplete, forcing a context reset. -/
  | saveBudgetExpiry (c : Nat) (n : Nat)
  /-- GROUP_RESUME (R246): Restores a saved group, or its whole gang, onto a core and frees its record. -/
  | groupResume (d : BitVec 2)
  /-- GROUP_DISPATCH (R275): Places a group by first fit, setting the group memory partition and its cultures. -/
  | groupDispatch (gid : Nat)
  /-- GROUP_RETIRE (R160): Retires a group once its last warp has exited and no cluster access to it remains. -/
  | groupRetire (gid : Nat)
  /-- QCFG_ENABLE_SET (R415): Enabling a queue reads and checks its descriptor and starts reading packets. -/
  | qcfgEnableSet (q : BitVec 7) (v : BitVec 32)
  /-- QCFG_ENABLE_CLEAR (R419): Disabling a queue stops it after the packet in progress. -/
  | qcfgEnableClear (q : BitVec 7) (v : BitVec 32)
  /-- QWP_WRITE (R416): A write to the write pointer is checked and makes packets pending. -/
  | qwpWrite (q : BitVec 7) (v : BitVec 32)
  /-- QCTL_RESET (R418): Disables the queue, discards pending packets and zeroes its pointers. -/
  | qctlReset (q : BitVec 7)
  /-- QCTL_RESUME (R418): Returns a halted queue to enabled and re-reads the packet at RP. -/
  | qctlResume (q : BitVec 7)
  /-- QSTAT_IRQ_CLEAR (R414): Writing 1 to QSTAT.IRQ clears it. -/
  | qstatIrqClear (q : BitVec 7)
  /-- REGISTER_WRITE (R414): A write to a register field that has no behaviour of its own. -/
  | registerWrite (off : BitVec 32) (v : BitVec 64)
  /-- PREQ_PREEMPT (R429): System software requests pre-emption of an address space's groups. -/
  | preqPreempt (asid : BitVec 12) (all : Bool) (core : BitVec 9)
  /-- PREQ_PREEMPT_HOLD (R429): Pre-empts an address space and holds it from resuming or starting work. -/
  | preqPreemptHold (asid : BitVec 12) (all : Bool) (core : BitVec 9)
  /-- PREQ_RELEASE_HOLD (R429): Releases the hold on an address space. -/
  | preqReleaseHold (asid : BitVec 12)
  /-- PREQ_KILL (R430): Forcibly resets a whole address space and stops its queues. -/
  | preqKill (asid : BitVec 12)
  /-- NOP_PACKET (R421): A NOP packet completes at once. -/
  | nopPacket (q : BitVec 7)
  /-- LAUNCH (R422): Reads and checks a launch record and makes the launch pending. -/
  | launch (q : BitVec 7)
  /-- WAIT_PACKET (R421): Reads a location until a condition holds, completing with a system-scope acquire. -/
  | waitPacket (q : BitVec 7)
  /-- WAIT_REREAD (R421): Rereads a WAIT packet's location within 4096 hub cycles. -/
  | waitReread (q : BitVec 7)
  /-- WAIT_TIMEOUT (R421): A WAIT packet's timeout expires and the queue halts with ERR 6. -/
  | waitTimeout (q : BitVec 7)
  /-- SIGNAL (R421): Writes or adds a value as a system-scope release. -/
  | signal (q : BitVec 7)
  /-- INVAL (R421): Removes the queue ASID's translations in a range and waits for their users. -/
  | inval (q : BitVec 7)
  /-- IFLUSH (R421): Discards instruction cache lines and fetched words of a range on named dies. -/
  | iflush (q : BitVec 7)
  /-- LAUNCH_ADMISSION (R427): A die dispatcher takes ranked units that fit, bounded by the bypass count. -/
  | launchAdmission (d : BitVec 2)
  /-- CHUNK_REQUEST (R431): A die asks the leader for a chunk of cluster instances. -/
  | chunkRequest (lid : Nat) (d : BitVec 2)
  /-- GRANT_ACKNOWLEDGED (R431): A chunk grant takes effect once every live die and the front end acknowledge it. -/
  | grantAcknowledged (lid : Nat) (n : Nat)
  /-- LAUNCH_COMPLETION (R424): When all groups and requests are done, writes the completion record and signal. -/
  | launchCompletion (lid : Nat)
  /-- RDS (R443): A home serves a read for a shared copy. -/
  | rds (line : BitVec 34) (a : BitVec 2)
  /-- RDX (R443): A home serves a read for an exclusive copy. -/
  | rdx (line : BitVec 34) (a : BitVec 2)
  /-- UPG (R446): A home serves an upgrade to exclusive ownership. -/
  | upg (line : BitVec 34) (a : BitVec 2)
  /-- ATOM_REQUEST (R447): A home performs a read-modify-write in its L2. -/
  | atomRequest (line : BitVec 34) (a : BitVec 2) (ret : Bool)
  /-- BLK (R312): A home returns a block's stored form after writing back dirty copies. -/
  | blk (line : BitVec 34) (a : BitVec 2)
  /-- FLUSH (R443): A home removes a line from every cache. -/
  | flush (line : BitVec 34) (a : BitVec 2)
  /-- SNPS (R444): A caching agent gives up exclusivity and supplies dirty data. -/
  | snps (line : BitVec 34) (a : BitVec 3)
  /-- SNPC (R444): A caching agent writes back dirty data and keeps a clean shared copy. -/
  | snpc (line : BitVec 34) (a : BitVec 3)
  /-- SNPI (R444): A caching agent invalidates its copy, supplying dirty data. -/
  | snpi (line : BitVec 34) (a : BitVec 3)
  /-- RSPI (R443): A home receives a snoop answer that the copy is now invalid. -/
  | rspi (line : BitVec 34) (a : BitVec 2)
  /-- RSPS (R443): A home receives a snoop answer that the copy is now shared or owned. -/
  | rsps (line : BitVec 34) (a : BitVec 2)
  /-- RSPWBP (R445): A home receives a snoop answer crossing a write-back and waits for the WbD. -/
  | rspwbp (line : BitVec 34) (a : BitVec 2)
  /-- GNTX (R444): An agent receives exclusive ownership without data. -/
  | gntx (line : BitVec 34) (a : BitVec 2)
  /-- ACK (R442): A home receives the requester's acknowledgement and ends the transaction. -/
  | ack (line : BitVec 34) (a : BitVec 3)
  /-- WBACK (R445): An agent receives acknowledgement of its write-back and goes to I. -/
  | wback (line : BitVec 34) (a : BitVec 2)
  /-- CMP (R439): An agent receives completion of an Atom without return value or a Flush. -/
  | cmp (line : BitVec 34) (a : BitVec 2)
  /-- ERR (R457): A requester receives an error reply for a request to a fenced die. -/
  | err (t : ErrTarget)
  /-- DATS (R444): An agent receives data for a shared copy. -/
  | dats (line : BitVec 34) (a : BitVec 2)
  /-- DATE (R444): An agent receives data for an exclusive clean copy. -/
  | date (line : BitVec 34) (a : BitVec 2)
  /-- DATM (R444): An agent receives data for an exclusive dirty copy. -/
  | datm (line : BitVec 34) (a : BitVec 2)
  /-- SNPD (R443): A home receives dirty data answering a snoop. -/
  | snpd (line : BitVec 34) (a : BitVec 2)
  /-- WBD (R445): A home receives the write-back of a dirty line. -/
  | wbd (line : BitVec 34) (a : BitVec 2)
  /-- ATOMD (R439): An agent receives the old value of an Atom or the data of a Blk. -/
  | atomd (line : BitVec 34) (a : BitVec 2)
  /-- LINK_SLEEP (R449): A die-to-die link idle for 8192 cycles enters sleep. -/
  | linkSleep (a : BitVec 3) (b : BitVec 3)
  /-- LINK_WAKE (R449): The first message queued for a sleeping link wakes it. -/
  | linkWake (a : BitVec 3) (b : BitVec 3)
  /-- WAKE_TIMEOUT (R449): A waking link exceeds 60,000 cycles; the event is logged and a new attempt begins. -/
  | wakeTimeout (a : BitVec 3) (b : BitVec 3)
  /-- DEAD_DIE_DETECTION (R450): The hub declares a silent compute die dead after 5,000,000 hub cycles. -/
  | deadDieDetection (d : BitVec 2)
  /-- LINK_WAKE_FAILURE_REPORT (R450): A die reports a link that failed to wake for 6,000,000 cycles, and the hub declares a die dead. -/
  | linkWakeFailureReport (a : BitVec 2) (b : BitVec 2)
  /-- ABRUPT_WARM_RESET (R458): Resets a dead or faulty die's compute and memory domains without a save step. -/
  | abruptWarmReset (d : BitVec 2)
  /-- WARM_RESET_QUIESCE (R459): Fences the die and lets accepted transactions run to their end. -/
  | warmResetQuiesce (d : BitVec 2)
  /-- WARM_RESET_CLEANUP (R459): Performs the write-backs and invalidations and removes the die from directories. -/
  | warmResetCleanup (d : BitVec 2)
  /-- PLANNED_RESET_TIMEOUT (R459): A planned reset's cleanup exceeds 6,000,000 die cycles and becomes abrupt. -/
  | plannedResetTimeout (d : BitVec 2)
  /-- WARM_RESET_RETRAIN (R459): Resets the compute domain and retrains its UCIe links. -/
  | warmResetRetrain (d : BitVec 2)
  /-- WARM_RESET_READMIT (R459): Returns the die with an empty directory, ends its fence and readmits it. -/
  | warmResetReadmit (d : BitVec 2)
  /-- HOST_SNPDATA (R453): The device answers a host SnpData snoop. -/
  | hostSnpdata (d : BitVec 2) (sec : BitVec 46)
  /-- HOST_SNPINV (R453): The device answers a host SnpInv snoop. -/
  | hostSnpinv (d : BitVec 2) (sec : BitVec 46) (data : Option (List Byte))
  /-- HOST_SNPCUR (R453): The device answers a host SnpCur snoop. -/
  | hostSnpcur (d : BitVec 2) (sec : BitVec 46)
  /-- HOST_M2S_REQUEST (R454): A host CXL.mem request is served as a host-agent request for the line. -/
  | hostM2sRequest (sec : BitVec 35) (k : M2S)
  /-- BIRSP (R454): A back-invalidate response from the host arrives for one sector. -/
  | birsp (sec : BitVec 35) (keep : Bool) (data : Option (List Byte))
  /-- CXL_CACHE_RESPONSE (R455): The host answers a device CXL.cache request with data or global observation. -/
  | cxlCacheResponse (d : BitVec 2) (sec : BitVec 46) (k : D2H)
  /-- GLICHARUN_FLIT_RECEIVED (R461): A Glicharun flit arrives and is checked and delivered in order. -/
  | glicharunFlitReceived (p : BitVec 5) (seq : Nat) (ack : Nat) (crcOk : Bool) (nack : Bool) (m : Option GMsg)
  /-- FLIT_ACK_TIMEOUT (R462): A flit unacknowledged for 1,000,000 hub cycles ends its CPYX with DETAIL 0x10. -/
  | flitAckTimeout (p : BitVec 5) (n : Nat)
  /-- GLICHARUN_LINK_TRAINING (R461): A Glicharun port trains, records its peer and changes state. -/
  | glicharunLinkTraining (p : BitVec 5) (peer : BitVec 16)
  /-- PEER_WINDOW_ACCESS (R463): A peer's CPYX element is checked against a window and performed or refused. -/
  | peerWindowAccess (p : BitVec 5)
  /-- GPST_REPLAY_CLEAR (R461): Writing 1s to GPST.REPLAY clears the replay count. -/
  | gpstReplayClear (p : BitVec 5) (v : BitVec 16)
  /-- POWER_UP (R468): The hub starts first, initialises the block tags and begins releasing clusters. -/
  | powerUp (imageFound : Bool)
  /-- CLUSTER_RELEASE (R468): Merni releases one cluster from reset at most every 4 microseconds. -/
  | clusterRelease
  /-- CONTROL_INTERVAL (R467): At the end of each 1 ms interval Merni applies the power and temperature rules per die. -/
  | controlInterval (r0 : Reading) (r1 : Reading) (r2 : Reading) (r3 : Reading)
  /-- DCTL_WARM_RESET (R469): DCTL ACT 1 performs a planned warm reset of the die. -/
  | dctlWarmReset (d : BitVec 2)
  /-- DCTL_GATE (R469): DCTL ACT 2 performs reset steps 1 and 2 and gates the die. -/
  | dctlGate (d : BitVec 2)
  /-- DCTL_WAKE (R469): DCTL ACT 3 wakes a gated die through retrain and readmit. -/
  | dctlWake (d : BitVec 2)
  /-- DBGDATA_READ (R472): Returns the ownership-table entry that DBGSEL selects. -/
  | dbgdataRead
  /-- CORRECTED_ERROR (R477): An ECC-corrected error is counted per die and class. -/
  | correctedError (d : BitVec 2) (cls : BitVec 3) (u : Option UnitRef)
  /-- UNCORRECTED_ERROR (R477): An uncorrectable error creates poison and is logged. -/
  | uncorrectedError (e : ErrSite)
  /-- UNIT_FENCE (R478): A core, slice or port past its error threshold is fenced. -/
  | unitFence (u : UnitRef)
  /-- GET_VERSION (R473): Answers the SPDM GET_VERSION request. -/
  | getVersion
  /-- GET_CAPABILITIES (R473): Answers the SPDM GET_CAPABILITIES request. -/
  | getCapabilities (v : BitVec 8)
  /-- NEGOTIATE_ALGORITHMS (R473): Negotiates SHA-384 and SLH-DSA-SHAKE-256s. -/
  | negotiateAlgorithms (v : BitVec 8) (sha384 : Bool) (slhDsa : Bool)
  /-- GET_DIGESTS (R473): Answers the SPDM GET_DIGESTS request. -/
  | getDigests (v : BitVec 8)
  /-- GET_CERTIFICATE (R473): Returns the device identity certificate chain. -/
  | getCertificate (v : BitVec 8) (slot : BitVec 4) (off : Nat) (len : Nat)
  /-- CHALLENGE (R473): Answers the SPDM CHALLENGE request with a signature. -/
  | challenge (v : BitVec 8) (slot : BitVec 4) (nonce : BitVec 256)
  /-- GET_MEASUREMENTS (R474): Returns the measurement blocks taken at the last cold reset. -/
  | getMeasurements (v : BitVec 8) (index : Option Nat)
  /-- PLDM_BASE_DISCOVERY (R465): Answers PLDM Type 0 base discovery. -/
  | pldmBaseDiscovery
  /-- PLDM_SENSOR_READ (R465): Answers a PLDM Type 2 numeric sensor read. -/
  | pldmSensorRead (d : BitVec 2) (q : Sensor)
  /-- REQUEST_UPDATE (R475): Opens the single firmware update session. -/
  | requestUpdate
  /-- PASS_COMPONENT_TABLE (R475): Receives the update's component table. -/
  | passComponentTable
  /-- UPDATE_COMPONENT (R475): Starts the update of a component. -/
  | updateComponent
  /-- FIRMWARE_TRANSFER (R475): Transfers image data to Merni. -/
  | firmwareTransfer (data : List (BitVec 8))
  /-- FIRMWARE_VERIFY (R475): Verifies the image signature and SVN before any flash write. -/
  | firmwareVerify
  /-- FIRMWARE_APPLY (R475): Writes the verified image to flash. -/
  | firmwareApply
  /-- ACTIVATE_FIRMWARE (R475): Activates the new image from the next cold reset. -/
  | activateFirmware
  /-- FENCE_LIST_REMOVE (R478): A PLDM command removes a fence-list entry for the next cold reset. -/
  | fenceListRemove (u : UnitRef)
  /-- RECOVERY_MAILBOX_WRITE (R476): System software writes an image through the recovery mailbox for the boot ROM to verify and flash. -/
  | recoveryMailboxWrite (image : List (BitVec 8))
  /-- LINK_AWAKE (R449): A waking die-to-die link completes its wake and the messages waiting on it are sent. -/
  | linkAwake (a : BitVec 3) (b : BitVec 3)
  /-- GLICHARUN_PORT_DOWN (R461): A Glicharun port loses its link and its STATE leaves up. -/
  | glicharunPortDown (p : BitVec 5)
  /-- PLDM_EVENT_LOG_READ (R470): A PLDM request reads event-log entries and marks them read for the overwritten count in MLOGHEAD. -/
  | pldmEventLogRead (first : BitVec 32) (n : Nat)
  /-- ENDPOINT_ID_ASSIGNMENT (R465): The I3C bus owner assigns Merni's MCTP endpoint ID. -/
  | endpointIdAssignment (eid : BitVec 8)
  deriving DecidableEq, Repr

end Sys2Proof
end

