-- ==== Sys2Proof/WellFormed.lean ====
section
/-! DEFINITION. Which instructions have an encoding: the restrictions of Table EC-9, rows 1 to 5, on typed syntax. -/

set_option linter.unusedVariables false

namespace Sys2Proof

/-- R72: a fixed-latency word names no flag in SET. -/
def Hdr.fixed (h : Hdr) : Bool := h.set.isNone

def Src.isOp : Src → Bool
  | .op _ => true
  | .imm _ => false

/-- R86: an immediate read as a 16-bit or packed operand has bits [31:16] zero. -/
def Src.low16 : Src → Bool
  | .op _ => true
  | .imm w => w >>> 16 == 0

def FTy.is16 : FTy → Bool
  | .f32 => false
  | .f64 => false
  | .f16 => true
  | .bf16 => true

/-- R84: the register pairs of a pair word lie in distinct banks and its destinations differ. -/
def PairWord.legal (p : PairWord) : Bool :=
  p.adst != p.bdst &&
  (([p.adst, p.asrc, p.bdst, p.bsrc].all fun x =>
    [p.adst, p.asrc, p.bdst, p.bsrc].all fun y => x == y || x.toNat % 4 != y.toNat % 4))

def KmovForm.encodable : KmovForm → Bool
  | .k _ _ => true
  | .s l _ b => l || b.isOp
  | .toS _ _ => true

/-! Row 4 of Table EC-9 on combinations of modifier fields. -/

/-- Table AL-8. -/
def cvtSrAssigned (src tgt : CvtTy) : Bool :=
  match src, tgt with
  | .f64, .f32 | .f64, .f16 | .f64, .bf16 | .f64, .e4m3 | .f64, .e5m2 => true
  | .f32, .f16 | .f32, .bf16 | .f32, .e4m3 | .f32, .e5m2 => true
  | .f16, .e4m3 | .f16, .e5m2 | .bf16, .e4m3 | .bf16, .e5m2 => true
  | _, _ => false

/-- R152: OR with .F32 is an unassigned modifier value. -/
def redAssigned (op : RedOp) (ty : TypeField) : Bool := !(op == .or && ty.ty == 2)

/-- Table SY-4. -/
def waitmAssigned (sz : Size) (sc : Scope) : Bool :=
  (sz == .b32 || sz == .b64) && !(sc == .thread || sc == .warp)

/-- Table LS-4, the rows of LD; the row of .CONST does not mention SX, which is taken there as in the other one. DESIGN CHOICE, log
64. -/
def ldAssigned (sp : Space) (sz : Size) (sx : Bool) (sc : Scope) (od : Order) (hint : Hint) : Bool :=
  (od == .weak || od == .rlx || od == .acq) && (!(od == .weak) || sc == .thread) &&
  (!sx || sz == .b8 || sz == .b16) && (!(sz == .b128) || od == .weak) &&
  (!(sp == .const) || (od == .weak && hint == .none))

/-- Table LS-4, the row of ST. -/
def stAssigned (sz : Size) (sc : Scope) (od : Order) : Bool :=
  (od == .weak || od == .rlx || od == .rel) && (!(od == .weak) || sc == .thread) && (!(sz == .b128) || od == .weak)

/-- Table LS-4, the row of LDFE. The row says nothing of SX; the model takes the limit of the row of LD, SIZE 0 or 1. DESIGN
CHOICE, log 64. -/
def ldfeAssigned (sz : Size) (sx : Bool) (sc : Scope) : Bool :=
  !(sc == .thread || sc == .warp) && (!sx || sz == .b8 || sz == .b16)

/-- Table LS-4, the row of STFE. -/
def stfeAssigned (sc : Scope) : Bool := !(sc == .thread || sc == .warp)

/-- Table LS-4, the row of ATOM, with the float operations offered at 32 and 64 bits (Table LS-5). -/
def atomAssigned (_op : Aop) (sz : Size) (od : Order) : Bool :=
  (sz == .b32 || sz == .b64) && !(od == .weak || od == .sc)

/-- Table LS-4, the row of ATOMC. -/
def atomcAssigned (sz : Size) (od : Order) : Bool :=
  (sz == .b32 || sz == .b64) && !(od == .weak || od == .sc)

/-- Table LS-4, the row of RED; EXCH is not offered (Table LS-5). -/
def redAssignedLs (op : Aop) (sz : Size) (od : Order) : Bool :=
  (sz == .b32 || sz == .b64) && (od == .rlx || od == .rel) && !(op == .exch)

/-- Table LS-4, the row of FENCE. -/
def fenceAssigned (od : Order) : Bool := !(od == .weak || od == .rlx)

/-- Table MX-4: SAT is not assigned with target .F32. -/
def adrnAssigned (t : DrainTy) (sat : Bool) : Bool := !(t == .f32 && sat)

def Scope.atLeastGroup (sc : Scope) : Bool := !(sc == .thread || sc == .warp)

/-- Table CE-3, CPY. -/
def cpyAssigned (dsp : RwSpace) (fe : Bool) (sc : Scope) : Bool := sc.atLeastGroup && (!fe || !(dsp == .glob))
/-- Table CE-3, CPYZ and CPYG. -/
def cpyzAssigned (dsp ssp : RwSpace) (sc : Scope) : Bool := sc.atLeastGroup && !(dsp == .glob) && ssp == .glob
/-- Table CE-3, CPYS. -/
def cpysAssigned (dsp ssp : RwSpace) (fe : Bool) (sc : Scope) : Bool :=
  sc.atLeastGroup && dsp == .glob && !(ssp == .glob) && !fe
/-- Table CE-3, CPYB. -/
def cpybAssigned (dsp ssp : RwSpace) (sc : Scope) : Bool :=
  sc.atLeastGroup && !(sc == .group) && dsp == .cmem && !(ssp == .cmem)
/-- Table CE-3, CPYX. -/
def cpyxAssigned (dsp ssp : RwSpace) (fe : Bool) (sc : Scope) : Bool :=
  (sc == .device || sc == .system) && dsp == .glob && ssp == .glob && !fe

/-- The instruction has an encoding that passes rows 1 to 5 of Table EC-9. Operand fields are not restricted here:
row 6 depends on the warp's allocation and is made at issue. Rows that are events carry no word and are accepted. -/
def WellFormed (i : Instr) : Bool :=
  match i with
  | .nop h => h.fixed
  | .waitf h l _ n => h.fixed && (l || (n.isOp))
  | .yieldW h l n => h.fixed && (l || (n.isOp))
  | .regx _ l _ mask => (l || (mask.isOp))
  | .srd h _ _ => h.fixed
  | .swr h _ _ => h.fixed
  | .modeSet h _ => h.fixed
  | .modeClr h _ => h.fixed
  | .modeWr h _ => h.fixed
  | .bra h _ => h.fixed
  | .brx h _ => h.fixed
  | .split h _ _ _ => h.fixed
  | .join h => h.fixed
  | .loopr h _ => h.fixed
  | .brk h => h.fixed
  | .call h _ => h.fixed
  | .callx h _ => h.fixed
  | .ret h => h.fixed
  | .exit h => h.fixed
  | .bar _ l _ n => (l || (n.isOp))
  | .bara _ l _ _ _ _ disp => (l || (disp == 0))
  | .barw _ l _ _ _ disp tmo => (l || (disp == 0 && tmo.isNone))
  | .cbar _ _ => true
  | .gbar _ => true
  | .waitm _ _ sz _ sc _ _ _ _ _ _ _ => waitmAssigned sz sc
  | .smov h l _ _ a => h.fixed && (l || (a.isOp))
  | .smovl h _ _ _ => h.fixed
  | .sadd h l _ sat _ _ b => h.fixed && (l || (!sat && b.isOp))
  | .ssub h l _ sat _ _ b => h.fixed && (l || (!sat && b.isOp))
  | .smul h l _ _ _ b => h.fixed && (l || (b.isOp))
  | .smad h _ _ _ _ _ => h.fixed
  | .sadd64 h l _ _ _ b => h.fixed && (l || (b.isOp))
  | .smad64 h _ _ _ _ _ => h.fixed
  | .sand h l _ _ _ b => h.fixed && (l || (b.isOp))
  | .sor h l _ _ _ b => h.fixed && (l || (b.isOp))
  | .sxor h l _ _ _ b => h.fixed && (l || (b.isOp))
  | .sshl h l _ _ _ b => h.fixed && (l || (b.isOp))
  | .sshr h l _ _ _ b => h.fixed && (l || (b.isOp))
  | .ssra h l _ _ _ b => h.fixed && (l || (b.isOp))
  | .smin h l _ _ _ b => h.fixed && (l || (b.isOp))
  | .smax h l _ _ _ b => h.fixed && (l || (b.isOp))
  | .scmp h _ _ _ _ _ => h.fixed
  | .ssel h _ _ _ _ _ => h.fixed
  | .sbfe h l _ sx _ _ b => h.fixed && (l || (!sx && b.isOp))
  | .spopc h _ _ _ => h.fixed
  | .sclz h _ _ _ => h.fixed
  | .s2v h l _ _ _ sel => h.fixed && (l || (sel.isOp))
  | .v2s h l _ _ _ sel => h.fixed && (l || (sel.isOp))
  | .mov h l _ _ a => h.fixed && (l || (a.isOp))
  | .iadd h l _ sat _ _ b => h.fixed && (l || (!sat && b.isOp))
  | .iaddc h _ _ _ _ _ => h.fixed
  | .isub h l _ sat _ _ b => h.fixed && (l || (!sat && b.isOp))
  | .imul h l _ _ _ b => h.fixed && (l || (b.isOp))
  | .imulh h l _ _ _ b => h.fixed && (l || (b.isOp))
  | .imad h _ _ _ _ _ => h.fixed
  | .imin h l _ _ _ b => h.fixed && (l || (b.isOp))
  | .imax h l _ _ _ b => h.fixed && (l || (b.isOp))
  | .iabs h l _ sat _ _ => h.fixed && (l || (!sat))
  | .iand h l _ _ _ b => h.fixed && (l || (b.isOp))
  | .ior h l _ _ _ b => h.fixed && (l || (b.isOp))
  | .ixor h l _ _ _ b => h.fixed && (l || (b.isOp))
  | .inot h _ _ _ => h.fixed
  | .ishl h l _ _ _ b => h.fixed && (l || (b.isOp))
  | .ishr h l _ _ _ b => h.fixed && (l || (b.isOp))
  | .isra h l _ _ _ b => h.fixed && (l || (b.isOp))
  | .ifunnel h _ _ _ _ _ => h.fixed
  | .ipopc h _ _ _ => h.fixed
  | .iclz h _ _ _ => h.fixed
  | .ibfe h l _ sx _ _ b => h.fixed && (l || (!sx && b.isOp))
  | .ibfi h _ _ _ _ _ => h.fixed
  | .idp4 h _ _ _ _ _ _ => h.fixed
  | .idp2 h _ _ _ _ _ _ => h.fixed
  | .icmp h _ _ _ _ _ => h.fixed
  | .isel h _ _ _ _ _ => h.fixed
  | .fadd h l t rm _ _ b => h.fixed && (!t.is16 || b.low16) && (l || (rm == .rne && b.isOp))
  | .fsub h l t rm _ _ b => h.fixed && (!t.is16 || b.low16) && (l || (rm == .rne && b.isOp))
  | .fmul h l t rm _ _ b => h.fixed && (!t.is16 || b.low16) && (l || (rm == .rne && b.isOp))
  | .ffma h t _ _ _ b _ => h.fixed && (!t.is16 || b.low16)
  | .fmin h l t _ _ b => h.fixed && (!t.is16 || b.low16) && (l || (b.isOp))
  | .fmax h l t _ _ b => h.fixed && (!t.is16 || b.low16) && (l || (b.isOp))
  | .fcmp h t _ _ _ b => h.fixed && (!t.is16 || b.low16)
  | .fclass h _ _ _ => h.fixed
  | .frnd h l _ rm _ _ => h.fixed && (l || (rm == .rne))
  | .frcp _ _ _ => true
  | .frsq _ _ _ => true
  | .fsqrt _ l _ rm _ _ => (l || (rm == .rne))
  | .fexp2 _ _ _ => true
  | .flog2 _ _ _ => true
  | .fsin _ _ _ => true
  | .fcos _ _ _ => true
  | .ftanh _ _ _ => true
  | .hadd2 h l _ rm _ _ b => h.fixed && b.low16 && (l || (rm == .rne && b.isOp))
  | .hmul2 h l _ rm _ _ b => h.fixed && b.low16 && (l || (rm == .rne && b.isOp))
  | .hfma2 h _ _ _ _ b _ => h.fixed && b.low16
  | .hmin2 h l _ _ _ b => h.fixed && b.low16 && (l || (b.isOp))
  | .hmax2 h l _ _ _ b => h.fixed && b.low16 && (l || (b.isOp))
  | .fdot2 h _ _ _ _ b _ => h.fixed && b.low16
  | .cvt h _ _ _ _ => h.fixed
  | .cvtSr h _ tgt src _ _ _ _ => h.fixed && cvtSrAssigned src tgt
  | .pack h l _ _ _ b => h.fixed && (l || (b.isOp))
  | .unpack h l _ _ _ sel => h.fixed && (l || (sel.isOp))
  | .qnt h l _ _ _ p => h.fixed && (l || (p.isOp))
  | .dqnt h _ _ _ _ _ => h.fixed
  | .rng h l _ _ _ imm => h.fixed && (l || (imm == 0))
  | .shfl h l _ _ _ n => h.fixed && (l || (n.isOp))
  | .vote h _ _ => h.fixed
  | .wred h op ty _ _ => h.fixed && redAssigned op ty
  | .wscan h op ty _ _ => h.fixed && redAssigned op ty
  | .matchW h _ _ _ => h.fixed
  | .kand h _ _ _ => h.fixed
  | .kor h _ _ _ => h.fixed
  | .kxor h _ _ _ => h.fixed
  | .knot h _ _ => h.fixed
  | .kmov h v => h.fixed && v.encodable
  | .kpop h _ _ => h.fixed
  | .ld _ l sp sz sx sc od hint scl _ _ _ disp => ldAssigned sp sz sx sc od hint && (l || (sz == .b32 && !sx && sc == .thread && od == .weak && hint == .none && !scl && disp == 0))
  | .st _ l _ sz sc od hint scl _ _ _ disp => stAssigned sz sc od && (l || (sz == .b32 && sc == .thread && od == .weak && hint == .none && !scl && disp == 0))
  | .ldfe _ _ sz sx sc _ _ _ _ _ _ _ _ => ldfeAssigned sz sx sc
  | .stfe _ l _ sz sc scl _ _ _ disp => stfeAssigned sc && (l || (sz == .b32 && sc == .group && !scl && disp == 0))
  | .atom _ _ sz _ od op _ _ _ _ => atomAssigned op sz od
  | .atomc _ _ sz _ od _ _ _ _ _ => atomcAssigned sz od
  | .red _ _ sz _ od op _ _ _ => redAssignedLs op sz od
  | .fence _ _ od => fenceAssigned od
  | .pref _ l _ scl _ _ disp => (l || (!scl && disp == 0))
  | .cctlL1ev _ l scl _ _ disp => (l || (!scl && disp == 0))
  | .cctlL2ev _ l scl _ _ disp => (l || (!scl && disp == 0))
  | .cctlZero _ l scl _ _ disp => (l || (!scl && disp == 0))
  | .ifence _ => true
  | .wld _ _ _ _ _ => true
  | .wflip _ => true
  | .mms _ _ _ _ _ _ => true
  | .mmsq _ _ _ _ _ _ _ => true
  | .aclr _ _ => true
  | .ald _ _ _ => true
  | .ast _ _ _ _ _ => true
  | .adrn _ _ t _ sat _ _ _ => adrnAssigned t sat
  | .amov _ _ => true
  | .smx _ _ _ _ => true
  | .smxrInit _ _ => true
  | .smxrNorm _ _ => true
  | .smxrRd _ _ _ => true
  | .smxrWr _ _ _ => true
  | .cbind _ _ => true
  | .cbindSw _ _ _ => true
  | .crel _ _ => true
  | .crelPin _ _ => true
  | .crelUnpin _ _ => true
  | .delta _ _ _ => true
  | .dqry _ _ => true
  | .cspill _ _ => true
  | .cfill _ _ => true
  | .cstat _ _ _ => true
  | .cstatH _ _ _ => true
  | .cpy _ _ dsp _ fe sc _ _ _ => cpyAssigned dsp fe sc
  | .cpyz _ _ dsp ssp _ sc _ _ _ => cpyzAssigned dsp ssp sc
  | .cpyg _ _ dsp ssp _ sc _ _ _ _ => cpyzAssigned dsp ssp sc
  | .cpys _ _ dsp ssp fe sc _ _ _ _ => cpysAssigned dsp ssp fe sc
  | .cpyb _ _ dsp ssp _ sc _ _ _ _ => cpybAssigned dsp ssp sc
  | .cpyxSend _ _ dsp ssp fe sc _ _ _ _ => cpyxAssigned dsp ssp fe sc
  | .cpyxFetch _ _ dsp ssp fe sc _ _ _ _ => cpyxAssigned dsp ssp fe sc
  | .spenter _ _ _ => true
  | .spleave _ => true
  | .spstream _ l _ n => (l || (n.isOp))
  | .spparamBase _ l _ b => (l || (b.isOp))
  | .spparamExt _ l _ n => (l || (n.isOp))
  | .spdrain _ => true
  | .spstatRect _ _ => true
  | .spstatGen _ _ _ => true
  | .spstatPos _ _ _ => true
  | .trap h _ => h.fixed
  | .xret h => h.fixed
  | .bkpt h _ => h.fixed
  | .halt h l code => h.fixed && (l || (code.isOp))
  | .pairWord p => p.legal
  | .regxCommit _ _ => true
  | .barrierPhaseComplete _ _ => true
  | .cbarPhaseComplete _ _ _ => true
  | .gbarCompletion _ _ => true
  | .waitmReread _ _ => true
  | .steepTimerExpiry _ _ => true
  | .variableAluCompletion _ _ => true
  | .ldfeServe _ _ => true
  | .lsCompletion _ _ => true
  | .instructionFetch _ _ _ => true
  | .pageWalk _ _ _ => true
  | .trapEntry _ _ => true
  | .pendingFaultDelivery _ _ => true
  | .copyElement _ _ => true
  | .copyGranuleFull _ _ _ => true
  | .copyRequestCompletion _ _ => true
  | .blockMerge _ => true
  | .arrayRequestAccept _ _ => true
  | .accumulatorPortAccess _ _ => true
  | .matrixRequestCompletion _ _ => true
  | .fwRequestCompletion _ _ => true
  | .cultureSpill _ _ => true
  | .cultureFill _ _ => true
  | .cultureEviction _ _ => true
  | .groupDeparture _ => true
  | .spenterCommit _ _ => true
  | .spleaveCommit _ _ => true
  | .spdrainComplete _ _ => true
  | .nodeFiring _ _ => true
  | .eoiFiring _ _ => true
  | .generatorRoundStart _ _ => true
  | .genElementRead _ _ => true
  | .generatorFaultDelivery _ _ => true
  | .preemptionRequest _ => true
  | .drainBudgetExpiry _ _ => true
  | .groupSave _ => true
  | .saveBudgetExpiry _ _ => true
  | .groupResume _ => true
  | .groupDispatch _ => true
  | .groupRetire _ => true
  | .qcfgEnableSet _ _ => true
  | .qcfgEnableClear _ _ => true
  | .qwpWrite _ _ => true
  | .qctlReset _ => true
  | .qctlResume _ => true
  | .qstatIrqClear _ => true
  | .registerWrite _ _ => true
  | .preqPreempt _ _ _ => true
  | .preqPreemptHold _ _ _ => true
  | .preqReleaseHold _ => true
  | .preqKill _ => true
  | .nopPacket _ => true
  | .launch _ => true
  | .waitPacket _ => true
  | .waitReread _ => true
  | .waitTimeout _ => true
  | .signal _ => true
  | .inval _ => true
  | .iflush _ => true
  | .launchAdmission _ => true
  | .chunkRequest _ _ => true
  | .grantAcknowledged _ _ => true
  | .launchCompletion _ => true
  | .rds _ _ => true
  | .rdx _ _ => true
  | .upg _ _ => true
  | .atomRequest _ _ _ => true
  | .blk _ _ => true
  | .flush _ _ => true
  | .snps _ _ => true
  | .snpc _ _ => true
  | .snpi _ _ => true
  | .rspi _ _ => true
  | .rsps _ _ => true
  | .rspwbp _ _ => true
  | .gntx _ _ => true
  | .ack _ _ => true
  | .wback _ _ => true
  | .cmp _ _ => true
  | .err _ => true
  | .dats _ _ => true
  | .date _ _ => true
  | .datm _ _ => true
  | .snpd _ _ => true
  | .wbd _ _ => true
  | .atomd _ _ => true
  | .linkSleep _ _ => true
  | .linkWake _ _ => true
  | .wakeTimeout _ _ => true
  | .deadDieDetection _ => true
  | .linkWakeFailureReport _ _ => true
  | .abruptWarmReset _ => true
  | .warmResetQuiesce _ => true
  | .warmResetCleanup _ => true
  | .plannedResetTimeout _ => true
  | .warmResetRetrain _ => true
  | .warmResetReadmit _ => true
  | .hostSnpdata _ _ => true
  | .hostSnpinv _ _ _ => true
  | .hostSnpcur _ _ => true
  | .hostM2sRequest _ _ => true
  | .birsp _ _ _ => true
  | .cxlCacheResponse _ _ _ => true
  | .glicharunFlitReceived _ _ _ _ _ _ => true
  | .flitAckTimeout _ _ => true
  | .glicharunLinkTraining _ _ => true
  | .peerWindowAccess _ => true
  | .gpstReplayClear _ _ => true
  | .powerUp _ => true
  | .clusterRelease => true
  | .controlInterval _ _ _ _ => true
  | .dctlWarmReset _ => true
  | .dctlGate _ => true
  | .dctlWake _ => true
  | .dbgdataRead => true
  | .correctedError _ _ _ => true
  | .uncorrectedError _ => true
  | .unitFence _ => true
  | .getVersion => true
  | .getCapabilities _ => true
  | .negotiateAlgorithms _ _ _ => true
  | .getDigests _ => true
  | .getCertificate _ _ _ _ => true
  | .challenge _ _ _ => true
  | .getMeasurements _ _ => true
  | .pldmBaseDiscovery => true
  | .pldmSensorRead _ _ => true
  | .requestUpdate => true
  | .passComponentTable => true
  | .updateComponent => true
  | .firmwareTransfer _ => true
  | .firmwareVerify => true
  | .firmwareApply => true
  | .activateFirmware => true
  | .fenceListRemove _ => true
  | .recoveryMailboxWrite _ => true
  | .linkAwake _ _ => true
  | .glicharunPortDown _ => true
  | .pldmEventLogRead _ _ => true
  | .endpointIdAssignment _ => true

end Sys2Proof
end

