-- ==== Sys2Proof/Decode.lean ====
section
/-! DEFINITION. The decoder and the encoder, both written from the encoding tables of the spec. The decoder makes
the checks of rows 1 to 5 of Table EC-9 and answers with the failing row; row 6 is made at issue, where the warp's
allocation is known. -/

set_option linter.unusedVariables false

namespace Sys2Proof

/-! ### Modifier codes -/

def IntTy.bits : IntTy → BitVec 2
  | .i32 => 0
  | .n32 => 1
  | .i64 => 2
  | .n64 => 3
def IntTy.ofBits (b : BitVec 2) : Option IntTy :=
  match b.toNat with
  | 0 => some .i32
  | 1 => some .n32
  | 2 => some .i64
  | 3 => some .n64
  | _ => Option.none

def BitTy.bits : BitTy → BitVec 2
  | .b32 => 0
  | .b64 => 2
def BitTy.ofBits (b : BitVec 2) : Option BitTy :=
  match b.toNat with
  | 0 => some .b32
  | 2 => some .b64
  | _ => Option.none

def CarryTy.bits : CarryTy → BitVec 2
  | .n32 => 1
  | .n64 => 3
def CarryTy.ofBits (b : BitVec 2) : Option CarryTy :=
  match b.toNat with
  | 1 => some .n32
  | 3 => some .n64
  | _ => Option.none

def WideTy.bits : WideTy → BitVec 2
  | .i32 => 0
  | .n32 => 1
def WideTy.ofBits (b : BitVec 2) : Option WideTy :=
  match b.toNat with
  | 0 => some .i32
  | 1 => some .n32
  | _ => Option.none

def AbsTy.bits : AbsTy → BitVec 2
  | .i32 => 0
  | .i64 => 2
def AbsTy.ofBits (b : BitVec 2) : Option AbsTy :=
  match b.toNat with
  | 0 => some .i32
  | 2 => some .i64
  | _ => Option.none

def FTy.bits : FTy → BitVec 2
  | .f32 => 0
  | .f64 => 1
  | .f16 => 2
  | .bf16 => 3
def FTy.ofBits (b : BitVec 2) : Option FTy :=
  match b.toNat with
  | 0 => some .f32
  | 1 => some .f64
  | 2 => some .f16
  | 3 => some .bf16
  | _ => Option.none

def HTy.bits : HTy → BitVec 2
  | .f16 => 0
  | .bf16 => 1
def HTy.ofBits (b : BitVec 2) : Option HTy :=
  match b.toNat with
  | 0 => some .f16
  | 1 => some .bf16
  | _ => Option.none

def SqTy.bits : SqTy → BitVec 2
  | .f32 => 0
  | .f64 => 1
def SqTy.ofBits (b : BitVec 2) : Option SqTy :=
  match b.toNat with
  | 0 => some .f32
  | 1 => some .f64
  | _ => Option.none

def Sg.bits : Sg → BitVec 2
  | .ss => 0
  | .uu => 1
  | .su => 2
  | .us => 3
def Sg.ofBits (b : BitVec 2) : Option Sg :=
  match b.toNat with
  | 0 => some .ss
  | 1 => some .uu
  | 2 => some .su
  | 3 => some .us
  | _ => Option.none

def RM.bits : RM → BitVec 2
  | .rne => 0
  | .rz => 1
  | .ru => 2
  | .rd => 3
def RM.ofBits (b : BitVec 2) : Option RM :=
  match b.toNat with
  | 0 => some .rne
  | 1 => some .rz
  | 2 => some .ru
  | 3 => some .rd
  | _ => Option.none

def Cond.bits : Cond → BitVec 3
  | .eq => 0
  | .ne => 1
  | .lt => 2
  | .le => 3
  | .gt => 4
  | .ge => 5
  | .un => 6
  | .ord => 7
def Cond.ofBits (b : BitVec 3) : Option Cond :=
  match b.toNat with
  | 0 => some .eq
  | 1 => some .ne
  | 2 => some .lt
  | 3 => some .le
  | 4 => some .gt
  | 5 => some .ge
  | 6 => some .un
  | 7 => some .ord
  | _ => Option.none

def ICond.bits : ICond → BitVec 3
  | .eq => 0
  | .ne => 1
  | .lt => 2
  | .le => 3
  | .gt => 4
  | .ge => 5
def ICond.ofBits (b : BitVec 3) : Option ICond :=
  match b.toNat with
  | 0 => some .eq
  | 1 => some .ne
  | 2 => some .lt
  | 3 => some .le
  | 4 => some .gt
  | 5 => some .ge
  | _ => Option.none

def CvtTy.bits : CvtTy → BitVec 4
  | .i8 => 0
  | .i16 => 1
  | .i32 => 2
  | .i64 => 3
  | .n8 => 4
  | .n16 => 5
  | .n32 => 6
  | .n64 => 7
  | .f64 => 8
  | .f32 => 9
  | .f16 => 10
  | .bf16 => 11
  | .e4m3 => 12
  | .e5m2 => 13
def CvtTy.ofBits (b : BitVec 4) : Option CvtTy :=
  match b.toNat with
  | 0 => some .i8
  | 1 => some .i16
  | 2 => some .i32
  | 3 => some .i64
  | 4 => some .n8
  | 5 => some .n16
  | 6 => some .n32
  | 7 => some .n64
  | 8 => some .f64
  | 9 => some .f32
  | 10 => some .f16
  | 11 => some .bf16
  | 12 => some .e4m3
  | 13 => some .e5m2
  | _ => Option.none

def RndHalf.bits : RndHalf → BitVec 2
  | .lo => 0
  | .hi => 1
def RndHalf.ofBits (b : BitVec 2) : Option RndHalf :=
  match b.toNat with
  | 0 => some .lo
  | 1 => some .hi
  | _ => Option.none

def PackTy.bits : PackTy → BitVec 2
  | .b16 => 0
  | .b32 => 1
def PackTy.ofBits (b : BitVec 2) : Option PackTy :=
  match b.toNat with
  | 0 => some .b16
  | 1 => some .b32
  | _ => Option.none

def UnpackTy.bits : UnpackTy → BitVec 2
  | .n16 => 0
  | .i16 => 1
  | .n8 => 2
  | .i8 => 3
def UnpackTy.ofBits (b : BitVec 2) : Option UnpackTy :=
  match b.toNat with
  | 0 => some .n16
  | 1 => some .i16
  | 2 => some .n8
  | 3 => some .i8
  | _ => Option.none

def QTy.bits : QTy → BitVec 2
  | .q8 => 0
  | .q4 => 1
def QTy.ofBits (b : BitVec 2) : Option QTy :=
  match b.toNat with
  | 0 => some .q8
  | 1 => some .q4
  | _ => Option.none

def ShflMode.bits : ShflMode → BitVec 2
  | .idx => 0
  | .up => 1
  | .down => 2
  | .xor => 3
def ShflMode.ofBits (b : BitVec 2) : Option ShflMode :=
  match b.toNat with
  | 0 => some .idx
  | 1 => some .up
  | 2 => some .down
  | 3 => some .xor
  | _ => Option.none

def RedOp.bits : RedOp → BitVec 2
  | .add => 0
  | .min => 1
  | .max => 2
  | .or => 3
def RedOp.ofBits (b : BitVec 2) : Option RedOp :=
  match b.toNat with
  | 0 => some .add
  | 1 => some .min
  | 2 => some .max
  | 3 => some .or
  | _ => Option.none

def Space.bits : Space → BitVec 2
  | .glob => 0
  | .gmem => 1
  | .cmem => 2
  | .const => 3
def Space.ofBits (b : BitVec 2) : Option Space :=
  match b.toNat with
  | 0 => some .glob
  | 1 => some .gmem
  | 2 => some .cmem
  | 3 => some .const
  | _ => Option.none

def RwSpace.bits : RwSpace → BitVec 2
  | .glob => 0
  | .gmem => 1
  | .cmem => 2
def RwSpace.ofBits (b : BitVec 2) : Option RwSpace :=
  match b.toNat with
  | 0 => some .glob
  | 1 => some .gmem
  | 2 => some .cmem
  | _ => Option.none

def SramSpace.bits : SramSpace → BitVec 2
  | .gmem => 1
  | .cmem => 2
def SramSpace.ofBits (b : BitVec 2) : Option SramSpace :=
  match b.toNat with
  | 1 => some .gmem
  | 2 => some .cmem
  | _ => Option.none

def Size.bits : Size → BitVec 3
  | .b8 => 0
  | .b16 => 1
  | .b32 => 2
  | .b64 => 3
  | .b128 => 4
def Size.ofBits (b : BitVec 3) : Option Size :=
  match b.toNat with
  | 0 => some .b8
  | 1 => some .b16
  | 2 => some .b32
  | 3 => some .b64
  | 4 => some .b128
  | _ => Option.none

def Scope.bits : Scope → BitVec 3
  | .thread => 0
  | .warp => 1
  | .group => 2
  | .cluster => 3
  | .die => 4
  | .device => 5
  | .system => 6
def Scope.ofBits (b : BitVec 3) : Option Scope :=
  match b.toNat with
  | 0 => some .thread
  | 1 => some .warp
  | 2 => some .group
  | 3 => some .cluster
  | 4 => some .die
  | 5 => some .device
  | 6 => some .system
  | _ => Option.none

def Order.bits : Order → BitVec 3
  | .weak => 0
  | .rlx => 1
  | .acq => 2
  | .rel => 3
  | .acqrel => 4
  | .sc => 5
def Order.ofBits (b : BitVec 3) : Option Order :=
  match b.toNat with
  | 0 => some .weak
  | 1 => some .rlx
  | 2 => some .acq
  | 3 => some .rel
  | 4 => some .acqrel
  | 5 => some .sc
  | _ => Option.none

def Hint.bits : Hint → BitVec 2
  | .none => 0
  | .stream => 1
  | .noL1 => 2
def Hint.ofBits (b : BitVec 2) : Option Hint :=
  match b.toNat with
  | 0 => some .none
  | 1 => some .stream
  | 2 => some .noL1
  | _ => Option.none

def Peer.bits : Peer → BitVec 3
  | .grp => 0
  | .clu => 1
  | .lower => 2
  | .any => 3
  | .host => 4
def Peer.ofBits (b : BitVec 3) : Option Peer :=
  match b.toNat with
  | 0 => some .grp
  | 1 => some .clu
  | 2 => some .lower
  | 3 => some .any
  | 4 => some .host
  | _ => Option.none

def Aop.bits : Aop → BitVec 4
  | .add => 0
  | .smin => 1
  | .smax => 2
  | .umin => 3
  | .umax => 4
  | .and => 5
  | .or => 6
  | .xor => 7
  | .exch => 8
  | .inc => 9
  | .dec => 10
  | .fadd => 11
  | .fmin => 12
  | .fmax => 13
def Aop.ofBits (b : BitVec 4) : Option Aop :=
  match b.toNat with
  | 0 => some .add
  | 1 => some .smin
  | 2 => some .smax
  | 3 => some .umin
  | 4 => some .umax
  | 5 => some .and
  | 6 => some .or
  | 7 => some .xor
  | 8 => some .exch
  | 9 => some .inc
  | 10 => some .dec
  | 11 => some .fadd
  | 12 => some .fmin
  | 13 => some .fmax
  | _ => Option.none

def PrefLevel.bits : PrefLevel → BitVec 2
  | .l1 => 0
  | .l2 => 1
def PrefLevel.ofBits (b : BitVec 2) : Option PrefLevel :=
  match b.toNat with
  | 0 => some .l1
  | 1 => some .l2
  | _ => Option.none

def Stream.bits : Stream → BitVec 2
  | .sa => 0
  | .sb => 1
def Stream.ofBits (b : BitVec 2) : Option Stream :=
  match b.toNat with
  | 0 => some .sa
  | 1 => some .sb
  | _ => Option.none

def MTy.bits : MTy → BitVec 2
  | .bf16 => 0
  | .f16 => 1
  | .e4m3 => 2
  | .e5m2 => 3
def MTy.ofBits (b : BitVec 2) : Option MTy :=
  match b.toNat with
  | 0 => some .bf16
  | 1 => some .f16
  | 2 => some .e4m3
  | 3 => some .e5m2
  | _ => Option.none

def QGroup.bits : QGroup → BitVec 2
  | .g32 => 0
  | .g64 => 1
  | .g128 => 2
def QGroup.ofBits (b : BitVec 2) : Option QGroup :=
  match b.toNat with
  | 0 => some .g32
  | 1 => some .g64
  | 2 => some .g128
  | _ => Option.none

def ActFn.bits : ActFn → BitVec 3
  | .none => 0
  | .relu => 1
  | .gelu => 2
  | .silu => 3
  | .clamp => 4
def ActFn.ofBits (b : BitVec 3) : Option ActFn :=
  match b.toNat with
  | 0 => some .none
  | 1 => some .relu
  | 2 => some .gelu
  | 3 => some .silu
  | 4 => some .clamp
  | _ => Option.none

def DrainTy.bits : DrainTy → BitVec 4
  | .f32 => 9
  | .f16 => 10
  | .bf16 => 11
  | .e4m3 => 12
  | .e5m2 => 13
def DrainTy.ofBits (b : BitVec 4) : Option DrainTy :=
  match b.toNat with
  | 9 => some .f32
  | 10 => some .f16
  | 11 => some .bf16
  | 12 => some .e4m3
  | 13 => some .e5m2
  | _ => Option.none

def AstSpace.bits : AstSpace → BitVec 2
  | .gmem => 0
  | .glob => 1
def AstSpace.ofBits (b : BitVec 2) : Option AstSpace :=
  match b.toNat with
  | 0 => some .gmem
  | 1 => some .glob
  | _ => Option.none

def Rect.bits : Rect → BitVec 2
  | .s11 => 0
  | .s21 => 1
  | .s12 => 2
  | .s22 => 3
def Rect.ofBits (b : BitVec 2) : Option Rect :=
  match b.toNat with
  | 0 => some .s11
  | 1 => some .s21
  | 2 => some .s12
  | 3 => some .s22
  | _ => Option.none

/-! ### Operand fields -/

/-- Table EC-3. -/
def Operand.ofBits (b : BitVec 9) : Operand :=
  if b.toNat < 0x100 then .v (b.setWidth 8)
  else if h : b.toNat < 0x160 then .s ⟨b.toNat - 0x100, by omega⟩
  else if b.toNat < 0x180 then .special (b.setWidth 5)
  else if b.toNat < 0x1C0 then .const (b.setWidth 6)
  else .reserved (b.setWidth 6)

def Operand.bits : Operand → BitVec 9
  | .v r => r.setWidth 9
  | .s r => BitVec.ofNat 9 (0x100 + r.val)
  | .special c => BitVec.ofNat 9 (0x160 + c.toNat)
  | .const c => BitVec.ofNat 9 (0x180 + c.toNat)
  | .reserved c => BitVec.ofNat 9 (0x1C0 + c.toNat)

def KField.ofBits (b : BitVec 9) : KField := { idx := b.extractLsb' 0 3, upper := b.extractLsb' 3 6 }
def KField.bits (k : KField) : BitVec 9 := k.upper ++ k.idx
def FField.ofBits (b : BitVec 9) : FField := { idx := b.extractLsb' 0 4, upper := b.extractLsb' 4 5 }
def FField.bits (k : FField) : BitVec 9 := k.upper ++ k.idx
def SIdx.ofBits (b : BitVec 9) : SIdx := { idx := b.extractLsb' 0 5, upper := b.extractLsb' 5 4 }
def SIdx.bits (k : SIdx) : BitVec 9 := k.upper ++ k.idx
def TypeField.ofBits (b : BitVec 9) : TypeField := { ty := b.extractLsb' 0 2, upper := b.extractLsb' 2 7 }
def TypeField.bits (k : TypeField) : BitVec 9 := k.upper ++ k.ty
def ConvField.ofBits (b : BitVec 9) : ConvField :=
  { sat := b.extractLsb' 8 1 == 1, src := b.extractLsb' 4 4, tgt := b.extractLsb' 0 4 }
def ConvField.bits (k : ConvField) : BitVec 9 := BitVec.ofBool k.sat ++ (k.src ++ k.tgt)

/-! ### Fields of a full word or of both words of a long instruction -/

/-- The fields of Tables EC-2 and EC-7b. The second word's fields are zero in a full word. -/
structure Raw where
  long : Bool
  stall : BitVec 4
  wait : BitVec 12
  set : BitVec 4
  pneg : Bool
  pidx : BitVec 3
  opc : BitVec 9
  mod : BitVec 2
  dst : BitVec 9
  src0 : BitVec 9
  src1 : BitVec 9
  src2 : BitVec 9
  xmod : BitVec 21
  imm : BitVec 32
  deriving DecidableEq, Repr

/-- Why bytes are no instruction: the failing row of Table EC-9, or too few bytes. -/
inductive DecodeErr where
  /-- Row 1: FMT is 0b11. -/
  | notInstruction
  /-- Row 2: the second word of a long instruction is not one. -/
  | secondWord
  /-- Row 3: opcode 0x1FF. -/
  | permanentlyIllegal
  /-- Row 4: unassigned opcode, form or modifier value. -/
  | unassigned
  /-- Row 5: SET not allowed, a nonzero unused field, or an illegal pair word. -/
  | illegalEncoding
  /-- Fewer bytes than the format needs. -/
  | tooShort
  deriving DecidableEq, Repr

/-- Table EC-2, on the first word; the second word's fields zero. -/
def Raw.first (long : Bool) (w : BitVec 64) : Raw :=
  { long := long
    stall := w.extractLsb' 58 4, wait := w.extractLsb' 46 12, set := w.extractLsb' 42 4
    pneg := w.extractLsb' 41 1 == 1, pidx := w.extractLsb' 38 3
    opc := w.extractLsb' 29 9, mod := w.extractLsb' 27 2
    dst := w.extractLsb' 18 9, src0 := w.extractLsb' 9 9, src1 := w.extractLsb' 0 9
    src2 := 0, xmod := 0, imm := 0 }

/-- Table EC-7b, added to the fields of the first word. -/
def Raw.withSecond (r : Raw) (w : BitVec 64) : Raw :=
  { r with src2 := w.extractLsb' 53 9, xmod := w.extractLsb' 32 21, imm := w.extractLsb' 0 32 }

/-- Table EC-2 packed: FMT is 0b00, or 0b10 for a long instruction. -/
def Raw.word0 (r : Raw) : BitVec 64 :=
  (if r.long then 2#2 else 0#2) ++ (r.stall ++ (r.wait ++ (r.set ++ (BitVec.ofBool r.pneg ++ (r.pidx ++ (r.opc ++
    (r.mod ++ (r.dst ++ (r.src0 ++ r.src1)))))))))

/-- Table EC-7b packed. -/
def Raw.word1 (r : Raw) : BitVec 64 := 3#2 ++ (r.src2 ++ (r.xmod ++ r.imm))

/-- A field of XMOD; bit 32 of the second word is bit 0 of XMOD. -/
def Raw.xf (r : Raw) (lo n : Nat) : BitVec n := r.xmod.extractLsb' lo n

def Raw.off27 (r : Raw) : BitVec 27 := r.dst ++ (r.src0 ++ r.src1)

def Raw.hdr (r : Raw) : Hdr :=
  { stall := r.stall, wait := r.wait
    set := if h : r.set.toNat < 12 then some ⟨r.set.toNat, h⟩ else none
    pneg := r.pneg, pidx := r.pidx }

/-- Source 1, by IMMSEL (R86). -/
def Raw.source1 (r : Raw) : Src := if r.xf 20 1 = 1 then .imm r.imm else .op (.ofBits r.src1)

/-- The timeout form's predicate field kS, by TMO. -/
def Raw.tmo (r : Raw) : Option KField := if r.xf 4 1 = 1 then some (.ofBits r.src2) else none

/-! ### The rows of Table EC-9 -/

def row4 {α : Type} (o : Option α) : Except DecodeErr α :=
  match o with
  | some a => .ok a
  | none => .error .unassigned

/-- Row 4: the form is offered. -/
def Raw.form (r : Raw) (full long : Bool) : Except DecodeErr Unit :=
  if (if r.long then long else full) then .ok () else .error .unassigned

/-- Row 4: MOD has the one assigned value. -/
def Raw.modIs (r : Raw) (m : BitVec 2) : Except DecodeErr Unit := if r.mod = m then .ok () else .error .unassigned

/-- Row 4: MOD is below a bound. -/
def Raw.modIn (r : Raw) (n : Nat) : Except DecodeErr Unit := if r.mod.toNat < n then .ok () else .error .unassigned

/-- Row 4: the combination of modifiers is assigned. -/
def Raw.assigned (_r : Raw) (b : Bool) : Except DecodeErr Unit := if b then .ok () else .error .unassigned

/-- Which fields an instruction's form uses (R70). `immsel` says that IMMSEL is assigned, `imm16` that an immediate
source 1 is read as a 16-bit value. The long forms of IABS, FRND and FSQRT, which have no source 1, assign IMMSEL all the same
(Table AL-1). DEDUCED, log 12. -/
structure Uses where
  dst : Bool := false
  src0 : Bool := false
  src1 : Bool := false
  src2 : Bool := false
  imm : Bool := false
  immsel : Bool := false
  imm16 : Bool := false
  xmask : BitVec 21 := 0

/-- R72: SET is 0xF, or a flag on a variable-latency instruction. -/
def setAllowed (fixed : Bool) (set : BitVec 4) : Bool := set == 15 || (!fixed && decide (set.toNat < 12))

/-- R70 and R86: every unused field is zero. -/
def Raw.unusedZero (r : Raw) (u : Uses) : Bool :=
  let sel := u.immsel && r.xf 20 1 == 1
  (u.dst || r.dst == 0) && (u.src0 || r.src0 == 0) && ((u.src1 && !sel) || r.src1 == 0) && (u.src2 || r.src2 == 0) &&
  (r.xmod &&& ~~~u.xmask == 0) && (u.imm || sel || r.imm == 0) && (!(sel && u.imm16) || r.imm >>> 16 == 0)

/-- Row 5 of Table EC-9 for a full or long word. DEDUCED, log 11. -/
def Raw.row5 (r : Raw) (fixed : Bool) (u : Uses) : Except DecodeErr Unit :=
  if setAllowed fixed r.set && r.unusedZero u then .ok () else .error .illegalEncoding

/-! ### Forms whose operands depend on a modifier -/

def voteForm (r : Raw) : VoteForm :=
  match r.mod.toNat with
  | 0 => .all (.ofBits r.dst)
  | 1 => .any (.ofBits r.dst)
  | 2 => .eq (.ofBits r.dst)
  | _ => .ballot (.ofBits r.dst)

def VoteForm.mod : VoteForm → BitVec 2
  | .all _ => 0
  | .any _ => 1
  | .eq _ => 2
  | .ballot _ => 3

def VoteForm.dst : VoteForm → BitVec 9
  | .all k => k.bits
  | .any k => k.bits
  | .eq k => k.bits
  | .ballot d => d.bits

def WldForm.ofBits (m g : BitVec 2) : Option WldForm :=
  match m.toNat with
  | 0 => some .b16
  | 1 => some .b8
  | 2 => (QGroup.ofBits g).map .q8
  | _ => (QGroup.ofBits g).map .q4

def WldForm.mod : WldForm → BitVec 2
  | .b16 => 0
  | .b8 => 1
  | .q8 _ => 2
  | .q4 _ => 3

def WldForm.g : WldForm → BitVec 2
  | .b16 => 0
  | .b8 => 0
  | .q8 g => g.bits
  | .q4 g => g.bits

/-- The operand of MMS, ALD and ADRN by VREG; ADRN names its register range in DST. -/
def matOpd (r : Raw) (drain : Bool) : MatOpd :=
  if r.xf 20 1 = 1 then .regs (.ofBits (if drain then r.dst else r.src0)) else .mem (.ofBits r.src0) r.imm

/-! ### Encoder pieces -/

def Hdr.setBits (h : Hdr) : BitVec 4 :=
  match h.set with
  | some f => BitVec.ofNat 4 f.val
  | none => 15

/-- The schedule and predicate fields, every other field zero. -/
def Hdr.raw (h : Hdr) (long : Bool) : Raw :=
  { long := long, stall := h.stall, wait := h.wait, set := h.setBits, pneg := h.pneg, pidx := h.pidx
    opc := 0, mod := 0, dst := 0, src0 := 0, src1 := 0, src2 := 0, xmod := 0, imm := 0 }

def Src.src1 : Src → BitVec 9
  | .op o => o.bits
  | .imm _ => 0

def Src.immsel : Src → BitVec 21
  | .op _ => 0
  | .imm _ => 0x100000

def Src.immBits : Src → BitVec 32
  | .op _ => 0
  | .imm w => w

/-- A field placed in XMOD. -/
def Raw.xput {n : Nat} (b : BitVec n) (lo : Nat) : BitVec 21 := b.setWidth 21 <<< lo
def Raw.xflag (b : Bool) (lo : Nat) : BitVec 21 := (BitVec.ofBool b).setWidth 21 <<< lo

def tmoBits : Option KField → BitVec 9
  | none => 0
  | some k => k.bits

def MatOpd.vreg : MatOpd → BitVec 21
  | .mem _ _ => 0
  | .regs _ => 0x100000

def MatOpd.imm : MatOpd → BitVec 32
  | .mem _ p => p
  | .regs _ => 0

def MatOpd.field : MatOpd → BitVec 9
  | .mem b _ => b.bits
  | .regs v => v.bits

def MatOpd.dst : MatOpd → BitVec 9
  | .mem _ _ => 0
  | .regs v => v.bits

def MatOpd.src0 : MatOpd → BitVec 9
  | .mem b _ => b.bits
  | .regs _ => 0

/-! ### One decoder per opcode -/

/-- NOP (R122). -/
def decodeNop (r : Raw) : Except DecodeErr Instr := do
  r.form true false
  r.modIs 0
  r.row5 true {}
  return .nop r.hdr

/-- WAITF (R123). -/
def decodeWaitf (r : Raw) : Except DecodeErr Instr := do
  r.form true true
  r.modIs 0
  r.row5 true { src0 := true, src1 := true, immsel := true, xmask := 0x100000 }
  return .waitf r.hdr r.long (.ofBits r.src0) r.source1

/-- YIELD (R124). -/
def decodeYieldW (r : Raw) : Except DecodeErr Instr := do
  r.form true true
  r.modIs 0
  r.row5 true { src1 := true, immsel := true, xmask := 0x100000 }
  return .yieldW r.hdr r.long r.source1

/-- REGX (R114). -/
def decodeRegx (r : Raw) : Except DecodeErr Instr := do
  r.form true true
  r.modIs 0
  r.row5 false { src0 := true, src1 := true, immsel := true, xmask := 0x100000 }
  return .regx r.hdr r.long (.ofBits r.src0) r.source1

/-- SRD (R126). -/
def decodeSrd (r : Raw) : Except DecodeErr Instr := do
  r.form true false
  r.modIs 0
  r.row5 true { dst := true, src0 := true }
  return .srd r.hdr (.ofBits r.dst) (.ofBits r.src0)

/-- SWR (R127). -/
def decodeSwr (r : Raw) : Except DecodeErr Instr := do
  r.form true false
  r.modIs 0
  r.row5 true { dst := true, src0 := true }
  return .swr r.hdr (.ofBits r.dst) (.ofBits r.src0)

/-- MODE_SET (R128). -/
def decodeModeSet (r : Raw) : Except DecodeErr Instr := do
  r.form true false
  r.modIs 0
  r.row5 true { src1 := true }
  return .modeSet r.hdr (.ofBits r.src1)

/-- MODE_CLR (R128). -/
def decodeModeClr (r : Raw) : Except DecodeErr Instr := do
  r.form true false
  r.modIs 1
  r.row5 true { src1 := true }
  return .modeClr r.hdr (.ofBits r.src1)

/-- MODE_WR (R128). -/
def decodeModeWr (r : Raw) : Except DecodeErr Instr := do
  r.form true false
  r.modIs 2
  r.row5 true { src1 := true }
  return .modeWr r.hdr (.ofBits r.src1)

/-- BRA (R212). -/
def decodeBra (r : Raw) : Except DecodeErr Instr := do
  r.form true false
  r.modIs 0
  r.row5 true { dst := true, src0 := true, src1 := true }
  return .bra r.hdr r.off27

/-- BRX (R213). -/
def decodeBrx (r : Raw) : Except DecodeErr Instr := do
  r.form true false
  r.modIs 0
  r.row5 true { src0 := true }
  return .brx r.hdr (.ofBits r.src0)

/-- SPLIT (R214). -/
def decodeSplit (r : Raw) : Except DecodeErr Instr := do
  r.form false true
  r.modIs 0
  r.row5 true { dst := true, src0 := true, src1 := true, src2 := true, imm := true }
  return .split r.hdr r.off27 (.ofBits r.src2) r.imm

/-- JOIN (R215). -/
def decodeJoin (r : Raw) : Except DecodeErr Instr := do
  r.form true false
  r.modIs 0
  r.row5 true {}
  return .join r.hdr

/-- LOOPR (R216). -/
def decodeLoopr (r : Raw) : Except DecodeErr Instr := do
  r.form true false
  r.modIs 0
  r.row5 true { dst := true, src0 := true, src1 := true }
  return .loopr r.hdr r.off27

/-- BRK (R217). -/
def decodeBrk (r : Raw) : Except DecodeErr Instr := do
  r.form true false
  r.modIs 0
  r.row5 true {}
  return .brk r.hdr

/-- CALL (R218). -/
def decodeCall (r : Raw) : Except DecodeErr Instr := do
  r.form true false
  r.modIs 0
  r.row5 true { dst := true, src0 := true, src1 := true }
  return .call r.hdr r.off27

/-- CALLX (R218). -/
def decodeCallx (r : Raw) : Except DecodeErr Instr := do
  r.form true false
  r.modIs 0
  r.row5 true { src0 := true }
  return .callx r.hdr (.ofBits r.src0)

/-- RET (R219). -/
def decodeRet (r : Raw) : Except DecodeErr Instr := do
  r.form true false
  r.modIs 0
  r.row5 true {}
  return .ret r.hdr

/-- EXIT (R220). -/
def decodeExit (r : Raw) : Except DecodeErr Instr := do
  r.form true false
  r.modIs 0
  r.row5 true {}
  return .exit r.hdr

/-- BAR (R259). -/
def decodeBar (r : Raw) : Except DecodeErr Instr := do
  r.form true true
  r.modIs 0
  r.row5 false { src0 := true, src1 := true, immsel := true, xmask := 0x100000 }
  return .bar r.hdr r.long (.ofBits r.src0) r.source1

/-- BARA (R263). -/
def decodeBara (r : Raw) : Except DecodeErr Instr := do
  r.form true true
  let sp ← row4 (SramSpace.ofBits r.mod)
  r.row5 false { dst := true, src0 := true, src1 := true, imm := true }
  return .bara r.hdr r.long sp (.ofBits r.dst) (.ofBits r.src0) (.ofBits r.src1) r.imm

/-- BARW (R264). -/
def decodeBarw (r : Raw) : Except DecodeErr Instr := do
  r.form true true
  let sp ← row4 (SramSpace.ofBits r.mod)
  r.row5 false { src0 := true, src1 := true, src2 := r.xf 4 1 == 1, imm := true, xmask := 0x000010 }
  return .barw r.hdr r.long sp (.ofBits r.src0) (.ofBits r.src1) r.imm (r.tmo)

/-- CBAR (R266). -/
def decodeCbar (r : Raw) : Except DecodeErr Instr := do
  r.form true false
  r.modIs 0
  r.row5 false { src0 := true }
  return .cbar r.hdr (.ofBits r.src0)

/-- GBAR (R267). -/
def decodeGbar (r : Raw) : Except DecodeErr Instr := do
  r.form true false
  r.modIs 0
  r.row5 false {}
  return .gbar r.hdr

/-- WAITM (R268). -/
def decodeWaitm (r : Raw) : Except DecodeErr Instr := do
  r.form false true
  let sp ← row4 (RwSpace.ofBits r.mod)
  let sz ← row4 (Size.ofBits (r.xf 18 3))
  let sc ← row4 (Scope.ofBits (r.xf 14 3))
  let peer ← row4 (Peer.ofBits (r.xf 5 3))
  let cc ← row4 (ICond.ofBits (r.xf 1 3))
  r.assigned (waitmAssigned sz sc)
  r.assigned (r.xf 8 6 == 0 && r.xf 0 1 == 0)
  r.row5 false { dst := true, src0 := true, src1 := true, src2 := r.xf 4 1 == 1, imm := true, xmask := 0x1FFFFF }
  return .waitm r.hdr sp sz (r.xf 17 1 == 1) sc peer cc (.ofBits r.dst) (.ofBits r.src0) (.ofBits r.src1) r.imm (r.tmo)

/-- SMOV (R136). -/
def decodeSmov (r : Raw) : Except DecodeErr Instr := do
  r.form true true
  let t ← row4 (BitTy.ofBits r.mod)
  r.row5 true { dst := true, src1 := true, immsel := true, xmask := 0x100000 }
  return .smov r.hdr r.long t (.ofBits r.dst) r.source1

/-- SMOVL (R136). -/
def decodeSmovl (r : Raw) : Except DecodeErr Instr := do
  r.form false true
  r.modIs 0
  r.row5 true { dst := true, src0 := true, imm := true }
  return .smovl r.hdr (.ofBits r.dst) (.ofBits r.src0) r.imm

/-- SADD (R136). -/
def decodeSadd (r : Raw) : Except DecodeErr Instr := do
  r.form true true
  let t ← row4 (IntTy.ofBits r.mod)
  r.row5 true { dst := true, src0 := true, src1 := true, immsel := true, xmask := 0x180000 }
  return .sadd r.hdr r.long t (r.xf 19 1 == 1) (.ofBits r.dst) (.ofBits r.src0) r.source1

/-- SSUB (R136). -/
def decodeSsub (r : Raw) : Except DecodeErr Instr := do
  r.form true true
  let t ← row4 (IntTy.ofBits r.mod)
  r.row5 true { dst := true, src0 := true, src1 := true, immsel := true, xmask := 0x180000 }
  return .ssub r.hdr r.long t (r.xf 19 1 == 1) (.ofBits r.dst) (.ofBits r.src0) r.source1

/-- SMUL (R136). -/
def decodeSmul (r : Raw) : Except DecodeErr Instr := do
  r.form true true
  let t ← row4 (IntTy.ofBits r.mod)
  r.row5 true { dst := true, src0 := true, src1 := true, immsel := true, xmask := 0x100000 }
  return .smul r.hdr r.long t (.ofBits r.dst) (.ofBits r.src0) r.source1

/-- SMAD (R136). -/
def decodeSmad (r : Raw) : Except DecodeErr Instr := do
  r.form false true
  let t ← row4 (IntTy.ofBits r.mod)
  r.row5 true { dst := true, src0 := true, src1 := true, src2 := true, immsel := true, xmask := 0x100000 }
  return .smad r.hdr t (.ofBits r.dst) (.ofBits r.src0) r.source1 (.ofBits r.src2)

/-- SADD64 (R136). -/
def decodeSadd64 (r : Raw) : Except DecodeErr Instr := do
  r.form true true
  let t ← row4 (WideTy.ofBits r.mod)
  r.row5 true { dst := true, src0 := true, src1 := true, immsel := true, xmask := 0x100000 }
  return .sadd64 r.hdr r.long t (.ofBits r.dst) (.ofBits r.src0) r.source1

/-- SMAD64 (R136). -/
def decodeSmad64 (r : Raw) : Except DecodeErr Instr := do
  r.form false true
  let t ← row4 (WideTy.ofBits r.mod)
  r.row5 true { dst := true, src0 := true, src1 := true, src2 := true, immsel := true, xmask := 0x100000 }
  return .smad64 r.hdr t (.ofBits r.dst) (.ofBits r.src0) r.source1 (.ofBits r.src2)

/-- SAND (R136). -/
def decodeSand (r : Raw) : Except DecodeErr Instr := do
  r.form true true
  let t ← row4 (BitTy.ofBits r.mod)
  r.row5 true { dst := true, src0 := true, src1 := true, immsel := true, xmask := 0x100000 }
  return .sand r.hdr r.long t (.ofBits r.dst) (.ofBits r.src0) r.source1

/-- SOR (R136). -/
def decodeSor (r : Raw) : Except DecodeErr Instr := do
  r.form true true
  let t ← row4 (BitTy.ofBits r.mod)
  r.row5 true { dst := true, src0 := true, src1 := true, immsel := true, xmask := 0x100000 }
  return .sor r.hdr r.long t (.ofBits r.dst) (.ofBits r.src0) r.source1

/-- SXOR (R136). -/
def decodeSxor (r : Raw) : Except DecodeErr Instr := do
  r.form true true
  let t ← row4 (BitTy.ofBits r.mod)
  r.row5 true { dst := true, src0 := true, src1 := true, immsel := true, xmask := 0x100000 }
  return .sxor r.hdr r.long t (.ofBits r.dst) (.ofBits r.src0) r.source1

/-- SSHL (R136). -/
def decodeSshl (r : Raw) : Except DecodeErr Instr := do
  r.form true true
  let t ← row4 (BitTy.ofBits r.mod)
  r.row5 true { dst := true, src0 := true, src1 := true, immsel := true, xmask := 0x100000 }
  return .sshl r.hdr r.long t (.ofBits r.dst) (.ofBits r.src0) r.source1

/-- SSHR (R136). -/
def decodeSshr (r : Raw) : Except DecodeErr Instr := do
  r.form true true
  let t ← row4 (BitTy.ofBits r.mod)
  r.row5 true { dst := true, src0 := true, src1 := true, immsel := true, xmask := 0x100000 }
  return .sshr r.hdr r.long t (.ofBits r.dst) (.ofBits r.src0) r.source1

/-- SSRA (R136). -/
def decodeSsra (r : Raw) : Except DecodeErr Instr := do
  r.form true true
  let t ← row4 (BitTy.ofBits r.mod)
  r.row5 true { dst := true, src0 := true, src1 := true, immsel := true, xmask := 0x100000 }
  return .ssra r.hdr r.long t (.ofBits r.dst) (.ofBits r.src0) r.source1

/-- SMIN (R136). -/
def decodeSmin (r : Raw) : Except DecodeErr Instr := do
  r.form true true
  let t ← row4 (IntTy.ofBits r.mod)
  r.row5 true { dst := true, src0 := true, src1 := true, immsel := true, xmask := 0x100000 }
  return .smin r.hdr r.long t (.ofBits r.dst) (.ofBits r.src0) r.source1

/-- SMAX (R136). -/
def decodeSmax (r : Raw) : Except DecodeErr Instr := do
  r.form true true
  let t ← row4 (IntTy.ofBits r.mod)
  r.row5 true { dst := true, src0 := true, src1 := true, immsel := true, xmask := 0x100000 }
  return .smax r.hdr r.long t (.ofBits r.dst) (.ofBits r.src0) r.source1

/-- SCMP (R136). -/
def decodeScmp (r : Raw) : Except DecodeErr Instr := do
  r.form false true
  let t ← row4 (IntTy.ofBits r.mod)
  let cc ← row4 (ICond.ofBits (r.xf 15 3))
  r.row5 true { dst := true, src0 := true, src1 := true, immsel := true, xmask := 0x138000 }
  return .scmp r.hdr t cc (.ofBits r.dst) (.ofBits r.src0) r.source1

/-- SSEL (R136). -/
def decodeSsel (r : Raw) : Except DecodeErr Instr := do
  r.form false true
  let t ← row4 (BitTy.ofBits r.mod)
  r.row5 true { dst := true, src0 := true, src1 := true, src2 := true, immsel := true, xmask := 0x100000 }
  return .ssel r.hdr t (.ofBits r.dst) (.ofBits r.src0) r.source1 (.ofBits r.src2)

/-- SBFE (R139). -/
def decodeSbfe (r : Raw) : Except DecodeErr Instr := do
  r.form true true
  let t ← row4 (BitTy.ofBits r.mod)
  r.row5 true { dst := true, src0 := true, src1 := true, immsel := true, xmask := 0x180000 }
  return .sbfe r.hdr r.long t (r.xf 19 1 == 1) (.ofBits r.dst) (.ofBits r.src0) r.source1

/-- SPOPC (R136). -/
def decodeSpopc (r : Raw) : Except DecodeErr Instr := do
  r.form true false
  let t ← row4 (BitTy.ofBits r.mod)
  r.row5 true { dst := true, src0 := true }
  return .spopc r.hdr t (.ofBits r.dst) (.ofBits r.src0)

/-- SCLZ (R136). -/
def decodeSclz (r : Raw) : Except DecodeErr Instr := do
  r.form true false
  let t ← row4 (BitTy.ofBits r.mod)
  r.row5 true { dst := true, src0 := true }
  return .sclz r.hdr t (.ofBits r.dst) (.ofBits r.src0)

/-- S2V (R137). -/
def decodeS2v (r : Raw) : Except DecodeErr Instr := do
  r.form true true
  let t ← row4 (BitTy.ofBits r.mod)
  r.row5 true { dst := true, src0 := true, src1 := true, immsel := true, xmask := 0x100000 }
  return .s2v r.hdr r.long t (.ofBits r.dst) (.ofBits r.src0) r.source1

/-- V2S (R137). -/
def decodeV2s (r : Raw) : Except DecodeErr Instr := do
  r.form true true
  let t ← row4 (BitTy.ofBits r.mod)
  r.row5 true { dst := true, src0 := true, src1 := true, immsel := true, xmask := 0x100000 }
  return .v2s r.hdr r.long t (.ofBits r.dst) (.ofBits r.src0) r.source1

/-- MOV (R138). -/
def decodeMov (r : Raw) : Except DecodeErr Instr := do
  r.form true true
  let t ← row4 (BitTy.ofBits r.mod)
  r.row5 true { dst := true, src1 := true, immsel := true, xmask := 0x100000 }
  return .mov r.hdr r.long t (.ofBits r.dst) r.source1

/-- IADD (R138). -/
def decodeIadd (r : Raw) : Except DecodeErr Instr := do
  r.form true true
  let t ← row4 (IntTy.ofBits r.mod)
  r.row5 true { dst := true, src0 := true, src1 := true, immsel := true, xmask := 0x180000 }
  return .iadd r.hdr r.long t (r.xf 19 1 == 1) (.ofBits r.dst) (.ofBits r.src0) r.source1

/-- IADDC (R138). -/
def decodeIaddc (r : Raw) : Except DecodeErr Instr := do
  r.form false true
  let t ← row4 (CarryTy.ofBits r.mod)
  r.row5 true { dst := true, src0 := true, src1 := true, src2 := true, immsel := true, xmask := 0x100000 }
  return .iaddc r.hdr t (.ofBits r.dst) (.ofBits r.src0) r.source1 (.ofBits r.src2)

/-- ISUB (R138). -/
def decodeIsub (r : Raw) : Except DecodeErr Instr := do
  r.form true true
  let t ← row4 (IntTy.ofBits r.mod)
  r.row5 true { dst := true, src0 := true, src1 := true, immsel := true, xmask := 0x180000 }
  return .isub r.hdr r.long t (r.xf 19 1 == 1) (.ofBits r.dst) (.ofBits r.src0) r.source1

/-- IMUL (R138). -/
def decodeImul (r : Raw) : Except DecodeErr Instr := do
  r.form true true
  let t ← row4 (IntTy.ofBits r.mod)
  r.row5 true { dst := true, src0 := true, src1 := true, immsel := true, xmask := 0x100000 }
  return .imul r.hdr r.long t (.ofBits r.dst) (.ofBits r.src0) r.source1

/-- IMULH (R138). -/
def decodeImulh (r : Raw) : Except DecodeErr Instr := do
  r.form true true
  let t ← row4 (IntTy.ofBits r.mod)
  r.row5 true { dst := true, src0 := true, src1 := true, immsel := true, xmask := 0x100000 }
  return .imulh r.hdr r.long t (.ofBits r.dst) (.ofBits r.src0) r.source1

/-- IMAD (R138). -/
def decodeImad (r : Raw) : Except DecodeErr Instr := do
  r.form false true
  let t ← row4 (IntTy.ofBits r.mod)
  r.row5 true { dst := true, src0 := true, src1 := true, src2 := true, immsel := true, xmask := 0x100000 }
  return .imad r.hdr t (.ofBits r.dst) (.ofBits r.src0) r.source1 (.ofBits r.src2)

/-- IMIN (R138). -/
def decodeImin (r : Raw) : Except DecodeErr Instr := do
  r.form true true
  let t ← row4 (IntTy.ofBits r.mod)
  r.row5 true { dst := true, src0 := true, src1 := true, immsel := true, xmask := 0x100000 }
  return .imin r.hdr r.long t (.ofBits r.dst) (.ofBits r.src0) r.source1

/-- IMAX (R138). -/
def decodeImax (r : Raw) : Except DecodeErr Instr := do
  r.form true true
  let t ← row4 (IntTy.ofBits r.mod)
  r.row5 true { dst := true, src0 := true, src1 := true, immsel := true, xmask := 0x100000 }
  return .imax r.hdr r.long t (.ofBits r.dst) (.ofBits r.src0) r.source1

/-- IABS (R138). -/
def decodeIabs (r : Raw) : Except DecodeErr Instr := do
  r.form true true
  let t ← row4 (AbsTy.ofBits r.mod)
  r.row5 true { dst := true, src0 := true, immsel := true, xmask := 0x180000 }
  return .iabs r.hdr r.long t (r.xf 19 1 == 1) (.ofBits r.dst) (.ofBits r.src0)

/-- IAND (R138). -/
def decodeIand (r : Raw) : Except DecodeErr Instr := do
  r.form true true
  let t ← row4 (BitTy.ofBits r.mod)
  r.row5 true { dst := true, src0 := true, src1 := true, immsel := true, xmask := 0x100000 }
  return .iand r.hdr r.long t (.ofBits r.dst) (.ofBits r.src0) r.source1

/-- IOR (R138). -/
def decodeIor (r : Raw) : Except DecodeErr Instr := do
  r.form true true
  let t ← row4 (BitTy.ofBits r.mod)
  r.row5 true { dst := true, src0 := true, src1 := true, immsel := true, xmask := 0x100000 }
  return .ior r.hdr r.long t (.ofBits r.dst) (.ofBits r.src0) r.source1

/-- IXOR (R138). -/
def decodeIxor (r : Raw) : Except DecodeErr Instr := do
  r.form true true
  let t ← row4 (BitTy.ofBits r.mod)
  r.row5 true { dst := true, src0 := true, src1 := true, immsel := true, xmask := 0x100000 }
  return .ixor r.hdr r.long t (.ofBits r.dst) (.ofBits r.src0) r.source1

/-- INOT (R138). -/
def decodeInot (r : Raw) : Except DecodeErr Instr := do
  r.form true false
  let t ← row4 (BitTy.ofBits r.mod)
  r.row5 true { dst := true, src0 := true }
  return .inot r.hdr t (.ofBits r.dst) (.ofBits r.src0)

/-- ISHL (R138). -/
def decodeIshl (r : Raw) : Except DecodeErr Instr := do
  r.form true true
  let t ← row4 (BitTy.ofBits r.mod)
  r.row5 true { dst := true, src0 := true, src1 := true, immsel := true, xmask := 0x100000 }
  return .ishl r.hdr r.long t (.ofBits r.dst) (.ofBits r.src0) r.source1

/-- ISHR (R138). -/
def decodeIshr (r : Raw) : Except DecodeErr Instr := do
  r.form true true
  let t ← row4 (BitTy.ofBits r.mod)
  r.row5 true { dst := true, src0 := true, src1 := true, immsel := true, xmask := 0x100000 }
  return .ishr r.hdr r.long t (.ofBits r.dst) (.ofBits r.src0) r.source1

/-- ISRA (R138). -/
def decodeIsra (r : Raw) : Except DecodeErr Instr := do
  r.form true true
  let t ← row4 (BitTy.ofBits r.mod)
  r.row5 true { dst := true, src0 := true, src1 := true, immsel := true, xmask := 0x100000 }
  return .isra r.hdr r.long t (.ofBits r.dst) (.ofBits r.src0) r.source1

/-- IFUNNEL (R138). -/
def decodeIfunnel (r : Raw) : Except DecodeErr Instr := do
  r.form false true
  let t ← row4 (BitTy.ofBits r.mod)
  r.row5 true { dst := true, src0 := true, src1 := true, src2 := true, immsel := true, xmask := 0x100000 }
  return .ifunnel r.hdr t (.ofBits r.dst) (.ofBits r.src0) r.source1 (.ofBits r.src2)

/-- IPOPC (R138). -/
def decodeIpopc (r : Raw) : Except DecodeErr Instr := do
  r.form true false
  let t ← row4 (BitTy.ofBits r.mod)
  r.row5 true { dst := true, src0 := true }
  return .ipopc r.hdr t (.ofBits r.dst) (.ofBits r.src0)

/-- ICLZ (R138). -/
def decodeIclz (r : Raw) : Except DecodeErr Instr := do
  r.form true false
  let t ← row4 (BitTy.ofBits r.mod)
  r.row5 true { dst := true, src0 := true }
  return .iclz r.hdr t (.ofBits r.dst) (.ofBits r.src0)

/-- IBFE (R139). -/
def decodeIbfe (r : Raw) : Except DecodeErr Instr := do
  r.form true true
  let t ← row4 (BitTy.ofBits r.mod)
  r.row5 true { dst := true, src0 := true, src1 := true, immsel := true, xmask := 0x180000 }
  return .ibfe r.hdr r.long t (r.xf 19 1 == 1) (.ofBits r.dst) (.ofBits r.src0) r.source1

/-- IBFI (R139). -/
def decodeIbfi (r : Raw) : Except DecodeErr Instr := do
  r.form false true
  let t ← row4 (BitTy.ofBits r.mod)
  r.row5 true { dst := true, src0 := true, src1 := true, src2 := true, immsel := true, xmask := 0x100000 }
  return .ibfi r.hdr t (.ofBits r.dst) (.ofBits r.src0) r.source1 (.ofBits r.src2)

/-- IDP4 (R140). -/
def decodeIdp4 (r : Raw) : Except DecodeErr Instr := do
  r.form false true
  let sg ← row4 (Sg.ofBits r.mod)
  r.row5 true { dst := true, src0 := true, src1 := true, src2 := true, immsel := true, xmask := 0x180000 }
  return .idp4 r.hdr sg (r.xf 19 1 == 1) (.ofBits r.dst) (.ofBits r.src0) r.source1 (.ofBits r.src2)

/-- IDP2 (R140). -/
def decodeIdp2 (r : Raw) : Except DecodeErr Instr := do
  r.form false true
  let sg ← row4 (Sg.ofBits r.mod)
  r.row5 true { dst := true, src0 := true, src1 := true, src2 := true, immsel := true, xmask := 0x180000 }
  return .idp2 r.hdr sg (r.xf 19 1 == 1) (.ofBits r.dst) (.ofBits r.src0) r.source1 (.ofBits r.src2)

/-- ICMP (R138). -/
def decodeIcmp (r : Raw) : Except DecodeErr Instr := do
  r.form false true
  let t ← row4 (IntTy.ofBits r.mod)
  let cc ← row4 (ICond.ofBits (r.xf 15 3))
  r.row5 true { dst := true, src0 := true, src1 := true, immsel := true, xmask := 0x138000 }
  return .icmp r.hdr t cc (.ofBits r.dst) (.ofBits r.src0) r.source1

/-- ISEL (R138). -/
def decodeIsel (r : Raw) : Except DecodeErr Instr := do
  r.form false true
  let t ← row4 (BitTy.ofBits r.mod)
  r.row5 true { dst := true, src0 := true, src1 := true, src2 := true, immsel := true, xmask := 0x100000 }
  return .isel r.hdr t (.ofBits r.dst) (.ofBits r.src0) r.source1 (.ofBits r.src2)

/-- FADD (R141). -/
def decodeFadd (r : Raw) : Except DecodeErr Instr := do
  r.form true true
  let t ← row4 (FTy.ofBits r.mod)
  let rm ← row4 (RM.ofBits (r.xf 18 2))
  r.row5 true { dst := true, src0 := true, src1 := true, immsel := true, imm16 := t.is16, xmask := 0x1C0000 }
  return .fadd r.hdr r.long t rm (.ofBits r.dst) (.ofBits r.src0) r.source1

/-- FSUB (R141). -/
def decodeFsub (r : Raw) : Except DecodeErr Instr := do
  r.form true true
  let t ← row4 (FTy.ofBits r.mod)
  let rm ← row4 (RM.ofBits (r.xf 18 2))
  r.row5 true { dst := true, src0 := true, src1 := true, immsel := true, imm16 := t.is16, xmask := 0x1C0000 }
  return .fsub r.hdr r.long t rm (.ofBits r.dst) (.ofBits r.src0) r.source1

/-- FMUL (R141). -/
def decodeFmul (r : Raw) : Except DecodeErr Instr := do
  r.form true true
  let t ← row4 (FTy.ofBits r.mod)
  let rm ← row4 (RM.ofBits (r.xf 18 2))
  r.row5 true { dst := true, src0 := true, src1 := true, immsel := true, imm16 := t.is16, xmask := 0x1C0000 }
  return .fmul r.hdr r.long t rm (.ofBits r.dst) (.ofBits r.src0) r.source1

/-- FFMA (R141). -/
def decodeFfma (r : Raw) : Except DecodeErr Instr := do
  r.form false true
  let t ← row4 (FTy.ofBits r.mod)
  let rm ← row4 (RM.ofBits (r.xf 18 2))
  r.row5 true { dst := true, src0 := true, src1 := true, src2 := true, immsel := true, imm16 := t.is16, xmask := 0x1C0000 }
  return .ffma r.hdr t rm (.ofBits r.dst) (.ofBits r.src0) r.source1 (.ofBits r.src2)

/-- FMIN (R142). -/
def decodeFmin (r : Raw) : Except DecodeErr Instr := do
  r.form true true
  let t ← row4 (FTy.ofBits r.mod)
  r.row5 true { dst := true, src0 := true, src1 := true, immsel := true, imm16 := t.is16, xmask := 0x100000 }
  return .fmin r.hdr r.long t (.ofBits r.dst) (.ofBits r.src0) r.source1

/-- FMAX (R142). -/
def decodeFmax (r : Raw) : Except DecodeErr Instr := do
  r.form true true
  let t ← row4 (FTy.ofBits r.mod)
  r.row5 true { dst := true, src0 := true, src1 := true, immsel := true, imm16 := t.is16, xmask := 0x100000 }
  return .fmax r.hdr r.long t (.ofBits r.dst) (.ofBits r.src0) r.source1

/-- FCMP (R141). -/
def decodeFcmp (r : Raw) : Except DecodeErr Instr := do
  r.form false true
  let t ← row4 (FTy.ofBits r.mod)
  let cc ← row4 (Cond.ofBits (r.xf 15 3))
  r.row5 true { dst := true, src0 := true, src1 := true, immsel := true, imm16 := t.is16, xmask := 0x138000 }
  return .fcmp r.hdr t cc (.ofBits r.dst) (.ofBits r.src0) r.source1

/-- FCLASS (R143). -/
def decodeFclass (r : Raw) : Except DecodeErr Instr := do
  r.form true false
  let t ← row4 (FTy.ofBits r.mod)
  r.row5 true { dst := true, src0 := true }
  return .fclass r.hdr t (.ofBits r.dst) (.ofBits r.src0)

/-- FRND (R142). -/
def decodeFrnd (r : Raw) : Except DecodeErr Instr := do
  r.form true true
  let t ← row4 (FTy.ofBits r.mod)
  let rm ← row4 (RM.ofBits (r.xf 18 2))
  r.row5 true { dst := true, src0 := true, immsel := true, xmask := 0x1C0000 }
  return .frnd r.hdr r.long t rm (.ofBits r.dst) (.ofBits r.src0)

/-- FRCP (R144). -/
def decodeFrcp (r : Raw) : Except DecodeErr Instr := do
  r.form true false
  r.modIs 0
  r.row5 false { dst := true, src0 := true }
  return .frcp r.hdr (.ofBits r.dst) (.ofBits r.src0)

/-- FRSQ (R144). -/
def decodeFrsq (r : Raw) : Except DecodeErr Instr := do
  r.form true false
  r.modIs 0
  r.row5 false { dst := true, src0 := true }
  return .frsq r.hdr (.ofBits r.dst) (.ofBits r.src0)

/-- FSQRT (R141). -/
def decodeFsqrt (r : Raw) : Except DecodeErr Instr := do
  r.form true true
  let t ← row4 (SqTy.ofBits r.mod)
  let rm ← row4 (RM.ofBits (r.xf 18 2))
  r.row5 false { dst := true, src0 := true, immsel := true, xmask := 0x1C0000 }
  return .fsqrt r.hdr r.long t rm (.ofBits r.dst) (.ofBits r.src0)

/-- FEXP2 (R144). -/
def decodeFexp2 (r : Raw) : Except DecodeErr Instr := do
  r.form true false
  r.modIs 0
  r.row5 false { dst := true, src0 := true }
  return .fexp2 r.hdr (.ofBits r.dst) (.ofBits r.src0)

/-- FLOG2 (R144). -/
def decodeFlog2 (r : Raw) : Except DecodeErr Instr := do
  r.form true false
  r.modIs 0
  r.row5 false { dst := true, src0 := true }
  return .flog2 r.hdr (.ofBits r.dst) (.ofBits r.src0)

/-- FSIN (R144). -/
def decodeFsin (r : Raw) : Except DecodeErr Instr := do
  r.form true false
  r.modIs 0
  r.row5 false { dst := true, src0 := true }
  return .fsin r.hdr (.ofBits r.dst) (.ofBits r.src0)

/-- FCOS (R144). -/
def decodeFcos (r : Raw) : Except DecodeErr Instr := do
  r.form true false
  r.modIs 0
  r.row5 false { dst := true, src0 := true }
  return .fcos r.hdr (.ofBits r.dst) (.ofBits r.src0)

/-- FTANH (R144). -/
def decodeFtanh (r : Raw) : Except DecodeErr Instr := do
  r.form true false
  r.modIs 0
  r.row5 false { dst := true, src0 := true }
  return .ftanh r.hdr (.ofBits r.dst) (.ofBits r.src0)

/-- HADD2 (R145). -/
def decodeHadd2 (r : Raw) : Except DecodeErr Instr := do
  r.form true true
  let t ← row4 (HTy.ofBits r.mod)
  let rm ← row4 (RM.ofBits (r.xf 18 2))
  r.row5 true { dst := true, src0 := true, src1 := true, immsel := true, imm16 := true, xmask := 0x1C0000 }
  return .hadd2 r.hdr r.long t rm (.ofBits r.dst) (.ofBits r.src0) r.source1

/-- HMUL2 (R145). -/
def decodeHmul2 (r : Raw) : Except DecodeErr Instr := do
  r.form true true
  let t ← row4 (HTy.ofBits r.mod)
  let rm ← row4 (RM.ofBits (r.xf 18 2))
  r.row5 true { dst := true, src0 := true, src1 := true, immsel := true, imm16 := true, xmask := 0x1C0000 }
  return .hmul2 r.hdr r.long t rm (.ofBits r.dst) (.ofBits r.src0) r.source1

/-- HFMA2 (R145). -/
def decodeHfma2 (r : Raw) : Except DecodeErr Instr := do
  r.form false true
  let t ← row4 (HTy.ofBits r.mod)
  let rm ← row4 (RM.ofBits (r.xf 18 2))
  r.row5 true { dst := true, src0 := true, src1 := true, src2 := true, immsel := true, imm16 := true, xmask := 0x1C0000 }
  return .hfma2 r.hdr t rm (.ofBits r.dst) (.ofBits r.src0) r.source1 (.ofBits r.src2)

/-- HMIN2 (R145). -/
def decodeHmin2 (r : Raw) : Except DecodeErr Instr := do
  r.form true true
  let t ← row4 (HTy.ofBits r.mod)
  r.row5 true { dst := true, src0 := true, src1 := true, immsel := true, imm16 := true, xmask := 0x100000 }
  return .hmin2 r.hdr r.long t (.ofBits r.dst) (.ofBits r.src0) r.source1

/-- HMAX2 (R145). -/
def decodeHmax2 (r : Raw) : Except DecodeErr Instr := do
  r.form true true
  let t ← row4 (HTy.ofBits r.mod)
  r.row5 true { dst := true, src0 := true, src1 := true, immsel := true, imm16 := true, xmask := 0x100000 }
  return .hmax2 r.hdr r.long t (.ofBits r.dst) (.ofBits r.src0) r.source1

/-- FDOT2 (R145). -/
def decodeFdot2 (r : Raw) : Except DecodeErr Instr := do
  r.form false true
  let t ← row4 (HTy.ofBits r.mod)
  let rm ← row4 (RM.ofBits (r.xf 18 2))
  r.row5 true { dst := true, src0 := true, src1 := true, src2 := true, immsel := true, imm16 := true, xmask := 0x1C0000 }
  return .fdot2 r.hdr t rm (.ofBits r.dst) (.ofBits r.src0) r.source1 (.ofBits r.src2)

/-- CVT (R146). -/
def decodeCvt (r : Raw) : Except DecodeErr Instr := do
  r.form true false
  let rm ← row4 (RM.ofBits r.mod)
  r.row5 true { dst := true, src0 := true, src1 := true }
  return .cvt r.hdr rm (.ofBits r.src1) (.ofBits r.dst) (.ofBits r.src0)

/-- CVT_SR (R147). -/
def decodeCvtSr (r : Raw) : Except DecodeErr Instr := do
  r.form false true
  let half ← row4 (RndHalf.ofBits r.mod)
  let tgt ← row4 (CvtTy.ofBits (r.xf 16 4))
  let src ← row4 (CvtTy.ofBits (r.xf 12 4))
  r.assigned (cvtSrAssigned src tgt)
  r.row5 true { dst := true, src0 := true, src1 := true, xmask := 0x0FF800 }
  return .cvtSr r.hdr half tgt src (r.xf 11 1 == 1) (.ofBits r.dst) (.ofBits r.src0) (.ofBits r.src1)

/-- PACK (R148). -/
def decodePack (r : Raw) : Except DecodeErr Instr := do
  r.form true true
  let t ← row4 (PackTy.ofBits r.mod)
  r.row5 true { dst := true, src0 := true, src1 := true, immsel := true, xmask := 0x100000 }
  return .pack r.hdr r.long t (.ofBits r.dst) (.ofBits r.src0) r.source1

/-- UNPACK (R148). -/
def decodeUnpack (r : Raw) : Except DecodeErr Instr := do
  r.form true true
  let t ← row4 (UnpackTy.ofBits r.mod)
  r.row5 true { dst := true, src0 := true, src1 := true, immsel := true, xmask := 0x100000 }
  return .unpack r.hdr r.long t (.ofBits r.dst) (.ofBits r.src0) r.source1

/-- QNT (R149). -/
def decodeQnt (r : Raw) : Except DecodeErr Instr := do
  r.form true true
  let t ← row4 (QTy.ofBits r.mod)
  r.row5 true { dst := true, src0 := true, src1 := true, immsel := true, xmask := 0x100000 }
  return .qnt r.hdr r.long t (.ofBits r.dst) (.ofBits r.src0) r.source1

/-- DQNT (R149). -/
def decodeDqnt (r : Raw) : Except DecodeErr Instr := do
  r.form false true
  let t ← row4 (QTy.ofBits r.mod)
  r.row5 true { dst := true, src0 := true, src1 := true, src2 := true }
  return .dqnt r.hdr t (.ofBits r.dst) (.ofBits r.src0) (.ofBits r.src1) (.ofBits r.src2)

/-- RNG (R155). -/
def decodeRng (r : Raw) : Except DecodeErr Instr := do
  r.form true true
  r.modIs 0
  r.row5 true { dst := true, src0 := true, src1 := true, imm := true }
  return .rng r.hdr r.long (.ofBits r.dst) (.ofBits r.src0) (.ofBits r.src1) r.imm

/-- SHFL (R150). -/
def decodeShfl (r : Raw) : Except DecodeErr Instr := do
  r.form true true
  let m ← row4 (ShflMode.ofBits r.mod)
  r.row5 true { dst := true, src0 := true, src1 := true, immsel := true, xmask := 0x100000 }
  return .shfl r.hdr r.long m (.ofBits r.dst) (.ofBits r.src0) r.source1

/-- VOTE (R151). -/
def decodeVote (r : Raw) : Except DecodeErr Instr := do
  r.form true false
  r.row5 true { dst := true, src0 := true }
  return .vote r.hdr (voteForm r) (.ofBits r.src0)

/-- WRED (R152). -/
def decodeWred (r : Raw) : Except DecodeErr Instr := do
  r.form true false
  let op ← row4 (RedOp.ofBits r.mod)
  r.assigned (redAssigned op (TypeField.ofBits r.src1))
  r.row5 true { dst := true, src0 := true, src1 := true }
  return .wred r.hdr op (.ofBits r.src1) (.ofBits r.dst) (.ofBits r.src0)

/-- WSCAN (R152). -/
def decodeWscan (r : Raw) : Except DecodeErr Instr := do
  r.form true false
  let op ← row4 (RedOp.ofBits r.mod)
  r.assigned (redAssigned op (TypeField.ofBits r.src1))
  r.row5 true { dst := true, src0 := true, src1 := true }
  return .wscan r.hdr op (.ofBits r.src1) (.ofBits r.dst) (.ofBits r.src0)

/-- MATCH (R153). -/
def decodeMatchW (r : Raw) : Except DecodeErr Instr := do
  r.form true false
  let t ← row4 (BitTy.ofBits r.mod)
  r.row5 true { dst := true, src0 := true }
  return .matchW r.hdr t (.ofBits r.dst) (.ofBits r.src0)

/-- KAND (R154). -/
def decodeKand (r : Raw) : Except DecodeErr Instr := do
  r.form true false
  r.modIs 0
  r.row5 true { dst := true, src0 := true, src1 := true }
  return .kand r.hdr (.ofBits r.dst) (.ofBits r.src0) (.ofBits r.src1)

/-- KOR (R154). -/
def decodeKor (r : Raw) : Except DecodeErr Instr := do
  r.form true false
  r.modIs 0
  r.row5 true { dst := true, src0 := true, src1 := true }
  return .kor r.hdr (.ofBits r.dst) (.ofBits r.src0) (.ofBits r.src1)

/-- KXOR (R154). -/
def decodeKxor (r : Raw) : Except DecodeErr Instr := do
  r.form true false
  r.modIs 0
  r.row5 true { dst := true, src0 := true, src1 := true }
  return .kxor r.hdr (.ofBits r.dst) (.ofBits r.src0) (.ofBits r.src1)

/-- KNOT (R154). -/
def decodeKnot (r : Raw) : Except DecodeErr Instr := do
  r.form true false
  r.modIs 0
  r.row5 true { dst := true, src0 := true }
  return .knot r.hdr (.ofBits r.dst) (.ofBits r.src0)

/-- KMOV, its three forms by MOD (Table AL-9). -/
def decodeKmov (r : Raw) : Except DecodeErr Instr :=
  match r.mod.toNat with
  | 0 => do
    r.form true false
    r.row5 true { dst := true, src0 := true }
    return .kmov r.hdr (.k (.ofBits r.dst) (.ofBits r.src0))
  | 1 => do
    r.form true true
    r.row5 true { dst := true, src1 := true, xmask := 0x100000, immsel := true }
    return .kmov r.hdr (.s r.long (.ofBits r.dst) r.source1)
  | 2 => do
    r.form true false
    r.row5 true { dst := true, src0 := true }
    return .kmov r.hdr (.toS (.ofBits r.dst) (.ofBits r.src0))
  | _ => .error .unassigned

/-- KPOP (R154). -/
def decodeKpop (r : Raw) : Except DecodeErr Instr := do
  r.form true false
  r.modIs 0
  r.row5 true { dst := true, src0 := true }
  return .kpop r.hdr (.ofBits r.dst) (.ofBits r.src0)

/-- LD (R172). -/
def decodeLd (r : Raw) : Except DecodeErr Instr := do
  r.form true true
  let sp ← row4 (Space.ofBits r.mod)
  let sz ← if r.long then row4 (Size.ofBits (r.xf 18 3)) else pure .b32
  let sc ← row4 (Scope.ofBits (r.xf 14 3))
  let od ← row4 (Order.ofBits (r.xf 11 3))
  let hint ← row4 (Hint.ofBits (r.xf 9 2))
  r.assigned (ldAssigned sp sz (r.xf 17 1 == 1) sc od hint)
  r.row5 false { dst := true, src0 := true, src1 := true, imm := true, xmask := 0x1FFF00 }
  return .ld r.hdr r.long sp sz (r.xf 17 1 == 1) sc od hint (r.xf 8 1 == 1) (.ofBits r.dst) (.ofBits r.src0) (.ofBits r.src1) r.imm

/-- ST (R172). -/
def decodeSt (r : Raw) : Except DecodeErr Instr := do
  r.form true true
  let sp ← row4 (RwSpace.ofBits r.mod)
  let sz ← if r.long then row4 (Size.ofBits (r.xf 18 3)) else pure .b32
  let sc ← row4 (Scope.ofBits (r.xf 14 3))
  let od ← row4 (Order.ofBits (r.xf 11 3))
  let hint ← row4 (Hint.ofBits (r.xf 9 2))
  r.assigned (stAssigned sz sc od)
  r.row5 false { dst := true, src0 := true, src1 := true, imm := true, xmask := 0x1DFF00 }
  return .st r.hdr r.long sp sz sc od hint (r.xf 8 1 == 1) (.ofBits r.dst) (.ofBits r.src0) (.ofBits r.src1) r.imm

/-- LDFE (R174). -/
def decodeLdfe (r : Raw) : Except DecodeErr Instr := do
  r.form false true
  let sp ← row4 (SramSpace.ofBits r.mod)
  let sz ← row4 (Size.ofBits (r.xf 18 3))
  let sc ← row4 (Scope.ofBits (r.xf 14 3))
  let peer ← row4 (Peer.ofBits (r.xf 5 3))
  r.assigned (ldfeAssigned sz (r.xf 17 1 == 1) sc)
  r.assigned (r.xf 11 3 == 0 && r.xf 9 2 == 0)
  r.row5 false { dst := true, src0 := true, src1 := true, src2 := r.xf 4 1 == 1, imm := true, xmask := 0x1FFFF8 }
  return .ldfe r.hdr sp sz (r.xf 17 1 == 1) sc (r.xf 8 1 == 1) peer (r.xf 3 1 == 1) (.ofBits r.dst) (.ofBits r.src0) (.ofBits r.src1) r.imm (r.tmo)

/-- STFE (R173). -/
def decodeStfe (r : Raw) : Except DecodeErr Instr := do
  r.form true true
  let sp ← row4 (SramSpace.ofBits r.mod)
  let sz ← if r.long then row4 (Size.ofBits (r.xf 18 3)) else pure .b32
  let sc ← if r.long then row4 (Scope.ofBits (r.xf 14 3)) else pure .group
  r.assigned (stfeAssigned sc)
  r.assigned (r.xf 11 3 == 0 && r.xf 9 2 == 0)
  r.row5 false { dst := true, src0 := true, src1 := true, imm := true, xmask := 0x1DFF00 }
  return .stfe r.hdr r.long sp sz sc (r.xf 8 1 == 1) (.ofBits r.dst) (.ofBits r.src0) (.ofBits r.src1) r.imm

/-- ATOM (R176). -/
def decodeAtom (r : Raw) : Except DecodeErr Instr := do
  r.form false true
  let sp ← row4 (RwSpace.ofBits r.mod)
  let sz ← row4 (Size.ofBits (r.xf 18 3))
  let sc ← row4 (Scope.ofBits (r.xf 14 3))
  let od ← row4 (Order.ofBits (r.xf 11 3))
  let op ← row4 (Aop.ofBits (r.xf 4 4))
  r.assigned (atomAssigned op sz od)
  r.row5 false { dst := true, src0 := true, src1 := true, imm := true, xmask := 0x1DF8F0 }
  return .atom r.hdr sp sz sc od op (.ofBits r.dst) (.ofBits r.src0) (.ofBits r.src1) r.imm

/-- ATOMC (R177). -/
def decodeAtomc (r : Raw) : Except DecodeErr Instr := do
  r.form false true
  let sp ← row4 (RwSpace.ofBits r.mod)
  let sz ← row4 (Size.ofBits (r.xf 18 3))
  let sc ← row4 (Scope.ofBits (r.xf 14 3))
  let od ← row4 (Order.ofBits (r.xf 11 3))
  r.assigned (atomcAssigned sz od)
  r.row5 false { dst := true, src0 := true, src1 := true, src2 := true, imm := true, xmask := 0x1DF800 }
  return .atomc r.hdr sp sz sc od (.ofBits r.dst) (.ofBits r.src0) (.ofBits r.src1) (.ofBits r.src2) r.imm

/-- RED (R178). -/
def decodeRed (r : Raw) : Except DecodeErr Instr := do
  r.form false true
  let sp ← row4 (RwSpace.ofBits r.mod)
  let sz ← row4 (Size.ofBits (r.xf 18 3))
  let sc ← row4 (Scope.ofBits (r.xf 14 3))
  let od ← row4 (Order.ofBits (r.xf 11 3))
  let op ← row4 (Aop.ofBits (r.xf 4 4))
  r.assigned (redAssignedLs op sz od)
  r.row5 false { src0 := true, src1 := true, imm := true, xmask := 0x1DF8F0 }
  return .red r.hdr sp sz sc od op (.ofBits r.src0) (.ofBits r.src1) r.imm

/-- FENCE (R179). -/
def decodeFence (r : Raw) : Except DecodeErr Instr := do
  r.form false true
  r.modIs 0
  let sc ← row4 (Scope.ofBits (r.xf 14 3))
  let od ← row4 (Order.ofBits (r.xf 11 3))
  r.assigned (fenceAssigned od)
  r.row5 false { xmask := 0x01F800 }
  return .fence r.hdr sc od

/-- PREF (R180). -/
def decodePref (r : Raw) : Except DecodeErr Instr := do
  r.form true true
  let lv ← row4 (PrefLevel.ofBits r.mod)
  r.row5 false { src0 := true, src1 := true, imm := true, xmask := 0x000100 }
  return .pref r.hdr r.long lv (r.xf 8 1 == 1) (.ofBits r.src0) (.ofBits r.src1) r.imm

/-- CCTL_L1EV (R181). -/
def decodeCctlL1ev (r : Raw) : Except DecodeErr Instr := do
  r.form true true
  r.modIs 0
  r.row5 false { src0 := true, src1 := true, imm := true, xmask := 0x000100 }
  return .cctlL1ev r.hdr r.long (r.xf 8 1 == 1) (.ofBits r.src0) (.ofBits r.src1) r.imm

/-- CCTL_L2EV (R181). -/
def decodeCctlL2ev (r : Raw) : Except DecodeErr Instr := do
  r.form true true
  r.modIs 1
  r.row5 false { src0 := true, src1 := true, imm := true, xmask := 0x000100 }
  return .cctlL2ev r.hdr r.long (r.xf 8 1 == 1) (.ofBits r.src0) (.ofBits r.src1) r.imm

/-- CCTL_ZERO (R181). -/
def decodeCctlZero (r : Raw) : Except DecodeErr Instr := do
  r.form true true
  r.modIs 2
  r.row5 false { src0 := true, src1 := true, imm := true, xmask := 0x000100 }
  return .cctlZero r.hdr r.long (r.xf 8 1 == 1) (.ofBits r.src0) (.ofBits r.src1) r.imm

/-- IFENCE (R182). -/
def decodeIfence (r : Raw) : Except DecodeErr Instr := do
  r.form true false
  r.modIs 0
  r.row5 false {}
  return .ifence r.hdr

/-- WLD (R330). -/
def decodeWld (r : Raw) : Except DecodeErr Instr := do
  r.form false true
  let w ← row4 (WldForm.ofBits r.mod (r.xf 15 2))
  r.row5 false { src0 := true, src1 := true, imm := true, xmask := (if r.mod.toNat < 2 then 0 else 0x018000) }
  return .wld r.hdr w (.ofBits r.src0) (.ofBits r.src1) r.imm

/-- WFLIP (R332). -/
def decodeWflip (r : Raw) : Except DecodeErr Instr := do
  r.form true false
  r.modIs 0
  r.row5 false {}
  return .wflip r.hdr

/-- MMS (R333). -/
def decodeMms (r : Raw) : Except DecodeErr Instr := do
  r.form false true
  let ta ← row4 (MTy.ofBits r.mod)
  r.row5 false { src1 := true, src0 := true, imm := !(r.xf 20 1 == 1), xmask := 0x1A0000 }
  return .mms r.hdr ta (r.xf 17 1 == 1) (r.xf 19 1 == 1) (matOpd r false) (.ofBits r.src1)

/-- MMSQ (R335). -/
def decodeMmsq (r : Raw) : Except DecodeErr Instr := do
  r.form false true
  let q ← row4 (QTy.ofBits r.mod)
  let g ← row4 (QGroup.ofBits (r.xf 15 2))
  r.row5 false { src0 := true, src1 := true, imm := true, xmask := 0x098000 }
  return .mmsq r.hdr q g (r.xf 19 1 == 1) (.ofBits r.src0) (.ofBits r.src1) r.imm

/-- ACLR (R336). -/
def decodeAclr (r : Raw) : Except DecodeErr Instr := do
  r.form false true
  r.modIs 0
  r.row5 false { src1 := true }
  return .aclr r.hdr (.ofBits r.src1)

/-- ALD (R337). -/
def decodeAld (r : Raw) : Except DecodeErr Instr := do
  r.form false true
  r.modIs 0
  r.row5 false { src1 := true, src0 := true, imm := !(r.xf 20 1 == 1), xmask := 0x100000 }
  return .ald r.hdr (matOpd r false) (.ofBits r.src1)

/-- AST (R338). -/
def decodeAst (r : Raw) : Except DecodeErr Instr := do
  r.form false true
  let sp ← row4 (AstSpace.ofBits r.mod)
  r.row5 false { src0 := true, src1 := true, imm := true }
  return .ast r.hdr sp (.ofBits r.src0) (.ofBits r.src1) r.imm

/-- ADRN (R340). -/
def decodeAdrn (r : Raw) : Except DecodeErr Instr := do
  r.form false true
  r.modIs 0
  let act ← row4 (ActFn.ofBits (r.xf 12 3))
  let t ← row4 (DrainTy.ofBits (r.xf 8 4))
  r.assigned (adrnAssigned t (r.xf 6 1 == 1))
  r.row5 false { src1 := true, dst := r.xf 20 1 == 1, src0 := !(r.xf 20 1 == 1), imm := !(r.xf 20 1 == 1), xmask := 0x187FC0 }
  return .adrn r.hdr act t (r.xf 7 1 == 1) (r.xf 6 1 == 1) (r.xf 19 1 == 1) (matOpd r true) (.ofBits r.src1)

/-- AMOV (R339). -/
def decodeAmov (r : Raw) : Except DecodeErr Instr := do
  r.form false true
  r.modIs 0
  r.row5 false { src1 := true }
  return .amov r.hdr (.ofBits r.src1)

/-- SMX (R342). -/
def decodeSmx (r : Raw) : Except DecodeErr Instr := do
  r.form false true
  r.modIs 0
  r.row5 false { src0 := true, src1 := true, imm := true }
  return .smx r.hdr (.ofBits r.src0) (.ofBits r.src1) r.imm

/-- SMXR_INIT (R343). -/
def decodeSmxrInit (r : Raw) : Except DecodeErr Instr := do
  r.form false true
  r.modIs 0
  r.row5 false { src1 := true }
  return .smxrInit r.hdr (.ofBits r.src1)

/-- SMXR_NORM (R343). -/
def decodeSmxrNorm (r : Raw) : Except DecodeErr Instr := do
  r.form false true
  r.modIs 1
  r.row5 false { src1 := true }
  return .smxrNorm r.hdr (.ofBits r.src1)

/-- SMXR_RD (R343). -/
def decodeSmxrRd (r : Raw) : Except DecodeErr Instr := do
  r.form false true
  r.modIs 2
  r.row5 false { src0 := true, src1 := true }
  return .smxrRd r.hdr (.ofBits r.src0) (.ofBits r.src1)

/-- SMXR_WR (R343). -/
def decodeSmxrWr (r : Raw) : Except DecodeErr Instr := do
  r.form false true
  r.modIs 3
  r.row5 false { src0 := true, src1 := true }
  return .smxrWr r.hdr (.ofBits r.src0) (.ofBits r.src1)

/-- CBIND (R370). -/
def decodeCbind (r : Raw) : Except DecodeErr Instr := do
  r.form true false
  r.modIs 0
  r.row5 false { src0 := true }
  return .cbind r.hdr (.ofBits r.src0)

/-- CBIND_SW (R370). -/
def decodeCbindSw (r : Raw) : Except DecodeErr Instr := do
  r.form true false
  r.modIs 1
  r.row5 false { src0 := true, src1 := true }
  return .cbindSw r.hdr (.ofBits r.src0) (.ofBits r.src1)

/-- CREL (R371). -/
def decodeCrel (r : Raw) : Except DecodeErr Instr := do
  r.form true false
  r.modIs 0
  r.row5 false { src0 := true }
  return .crel r.hdr (.ofBits r.src0)

/-- CREL_PIN (R371). -/
def decodeCrelPin (r : Raw) : Except DecodeErr Instr := do
  r.form true false
  r.modIs 1
  r.row5 false { src0 := true }
  return .crelPin r.hdr (.ofBits r.src0)

/-- CREL_UNPIN (R371). -/
def decodeCrelUnpin (r : Raw) : Except DecodeErr Instr := do
  r.form true false
  r.modIs 2
  r.row5 false { src0 := true }
  return .crelUnpin r.hdr (.ofBits r.src0)

/-- DELTA (R372). -/
def decodeDelta (r : Raw) : Except DecodeErr Instr := do
  r.form true false
  r.modIn 2
  r.row5 false { src1 := true }
  return .delta r.hdr (r.mod == 1) (.ofBits r.src1)

/-- DQRY (R374). -/
def decodeDqry (r : Raw) : Except DecodeErr Instr := do
  r.form true false
  r.modIs 0
  r.row5 false { src1 := true }
  return .dqry r.hdr (.ofBits r.src1)

/-- CSPILL (R375). -/
def decodeCspill (r : Raw) : Except DecodeErr Instr := do
  r.form true false
  r.modIs 0
  r.row5 false { src0 := true }
  return .cspill r.hdr (.ofBits r.src0)

/-- CFILL (R376). -/
def decodeCfill (r : Raw) : Except DecodeErr Instr := do
  r.form true false
  r.modIs 0
  r.row5 false { src0 := true }
  return .cfill r.hdr (.ofBits r.src0)

/-- CSTAT (R377). -/
def decodeCstat (r : Raw) : Except DecodeErr Instr := do
  r.form true false
  r.modIs 0
  r.row5 false { dst := true, src0 := true }
  return .cstat r.hdr (.ofBits r.dst) (.ofBits r.src0)

/-- CSTAT_H (R377). -/
def decodeCstatH (r : Raw) : Except DecodeErr Instr := do
  r.form true false
  r.modIs 1
  r.row5 false { dst := true, src0 := true }
  return .cstatH r.hdr (.ofBits r.dst) (.ofBits r.src0)

/-- CPY (R293). -/
def decodeCpy (r : Raw) : Except DecodeErr Instr := do
  r.form false true
  let strm ← row4 (Stream.ofBits r.mod)
  let dsp ← row4 (RwSpace.ofBits (r.xf 19 2))
  let ssp ← row4 (RwSpace.ofBits (r.xf 17 2))
  let sc ← row4 (Scope.ofBits (r.xf 13 3))
  r.assigned (cpyAssigned dsp (r.xf 16 1 == 1) sc)
  r.assigned (r.xf 12 1 == 0)
  r.row5 false { dst := true, src0 := true, src1 := true, xmask := 0x1FF000 }
  return .cpy r.hdr strm dsp ssp (r.xf 16 1 == 1) sc (.ofBits r.dst) (.ofBits r.src0) (.ofBits r.src1)

/-- CPYZ (R294). -/
def decodeCpyz (r : Raw) : Except DecodeErr Instr := do
  r.form false true
  let strm ← row4 (Stream.ofBits r.mod)
  let dsp ← row4 (RwSpace.ofBits (r.xf 19 2))
  let ssp ← row4 (RwSpace.ofBits (r.xf 17 2))
  let sc ← row4 (Scope.ofBits (r.xf 13 3))
  r.assigned (cpyzAssigned dsp ssp sc)
  r.assigned (r.xf 12 1 == 0)
  r.row5 false { dst := true, src0 := true, imm := true, xmask := 0x1FF000 }
  return .cpyz r.hdr strm dsp ssp (r.xf 16 1 == 1) sc (.ofBits r.dst) (.ofBits r.src0) r.imm

/-- CPYG (R295). -/
def decodeCpyg (r : Raw) : Except DecodeErr Instr := do
  r.form false true
  let strm ← row4 (Stream.ofBits r.mod)
  let dsp ← row4 (RwSpace.ofBits (r.xf 19 2))
  let ssp ← row4 (RwSpace.ofBits (r.xf 17 2))
  let sc ← row4 (Scope.ofBits (r.xf 13 3))
  r.assigned (cpyzAssigned dsp ssp sc)
  r.assigned (r.xf 12 1 == 0)
  r.row5 false { dst := true, src0 := true, src1 := true, src2 := true, xmask := 0x1FF000 }
  return .cpyg r.hdr strm dsp ssp (r.xf 16 1 == 1) sc (.ofBits r.dst) (.ofBits r.src0) (.ofBits r.src1) (.ofBits r.src2)

/-- CPYS (R296). -/
def decodeCpys (r : Raw) : Except DecodeErr Instr := do
  r.form false true
  let strm ← row4 (Stream.ofBits r.mod)
  let dsp ← row4 (RwSpace.ofBits (r.xf 19 2))
  let ssp ← row4 (RwSpace.ofBits (r.xf 17 2))
  let sc ← row4 (Scope.ofBits (r.xf 13 3))
  r.assigned (cpysAssigned dsp ssp (r.xf 16 1 == 1) sc)
  r.assigned (r.xf 12 1 == 0)
  r.row5 false { dst := true, src0 := true, src1 := true, src2 := true, xmask := 0x1FF000 }
  return .cpys r.hdr strm dsp ssp (r.xf 16 1 == 1) sc (.ofBits r.dst) (.ofBits r.src0) (.ofBits r.src1) (.ofBits r.src2)

/-- CPYB (R297). -/
def decodeCpyb (r : Raw) : Except DecodeErr Instr := do
  r.form false true
  let strm ← row4 (Stream.ofBits r.mod)
  let dsp ← row4 (RwSpace.ofBits (r.xf 19 2))
  let ssp ← row4 (RwSpace.ofBits (r.xf 17 2))
  let sc ← row4 (Scope.ofBits (r.xf 13 3))
  r.assigned (cpybAssigned dsp ssp sc)
  r.assigned (r.xf 12 1 == 0)
  r.row5 false { dst := true, src0 := true, src1 := true, src2 := true, xmask := 0x1FF000 }
  return .cpyb r.hdr strm dsp ssp (r.xf 16 1 == 1) sc (.ofBits r.dst) (.ofBits r.src0) (.ofBits r.src1) (.ofBits r.src2)

/-- CPYX_SEND (R298). -/
def decodeCpyxSend (r : Raw) : Except DecodeErr Instr := do
  r.form false true
  let strm ← row4 (Stream.ofBits r.mod)
  let dsp ← row4 (RwSpace.ofBits (r.xf 19 2))
  let ssp ← row4 (RwSpace.ofBits (r.xf 17 2))
  let sc ← row4 (Scope.ofBits (r.xf 13 3))
  r.assigned (cpyxAssigned dsp ssp (r.xf 16 1 == 1) sc)
  r.row5 false { dst := true, src0 := true, src1 := true, src2 := true, xmask := 0x1FF000 }
  return .cpyxSend r.hdr strm dsp ssp (r.xf 16 1 == 1) sc (.ofBits r.dst) (.ofBits r.src0) (.ofBits r.src1) (.ofBits r.src2)

/-- CPYX_FETCH (R298). -/
def decodeCpyxFetch (r : Raw) : Except DecodeErr Instr := do
  r.form false true
  let strm ← row4 (Stream.ofBits r.mod)
  let dsp ← row4 (RwSpace.ofBits (r.xf 19 2))
  let ssp ← row4 (RwSpace.ofBits (r.xf 17 2))
  let sc ← row4 (Scope.ofBits (r.xf 13 3))
  r.assigned (cpyxAssigned dsp ssp (r.xf 16 1 == 1) sc)
  r.row5 false { dst := true, src0 := true, src1 := true, src2 := true, xmask := 0x1FF000 }
  return .cpyxFetch r.hdr strm dsp ssp (r.xf 16 1 == 1) sc (.ofBits r.dst) (.ofBits r.src0) (.ofBits r.src1) (.ofBits r.src2)

/-- SPENTER (R401). -/
def decodeSpenter (r : Raw) : Except DecodeErr Instr := do
  r.form true false
  let shape ← row4 (Rect.ofBits r.mod)
  r.row5 false { src0 := true }
  return .spenter r.hdr shape (.ofBits r.src0)

/-- SPLEAVE (R404). -/
def decodeSpleave (r : Raw) : Except DecodeErr Instr := do
  r.form true false
  r.modIs 0
  r.row5 false {}
  return .spleave r.hdr

/-- SPSTREAM (R405). -/
def decodeSpstream (r : Raw) : Except DecodeErr Instr := do
  r.form true true
  r.modIs 0
  r.row5 false { src0 := true, src1 := true, immsel := true, xmask := 0x100000 }
  return .spstream r.hdr r.long (.ofBits r.src0) r.source1

/-- SPPARAM_BASE (R405). -/
def decodeSpparamBase (r : Raw) : Except DecodeErr Instr := do
  r.form true true
  r.modIs 0
  r.row5 false { src0 := true, src1 := true, immsel := true, xmask := 0x100000 }
  return .spparamBase r.hdr r.long (.ofBits r.src0) r.source1

/-- SPPARAM_EXT (R405). -/
def decodeSpparamExt (r : Raw) : Except DecodeErr Instr := do
  r.form true true
  r.modIs 1
  r.row5 false { src0 := true, src1 := true, immsel := true, xmask := 0x100000 }
  return .spparamExt r.hdr r.long (.ofBits r.src0) r.source1

/-- SPDRAIN (R406). -/
def decodeSpdrain (r : Raw) : Except DecodeErr Instr := do
  r.form true false
  r.modIs 0
  r.row5 false {}
  return .spdrain r.hdr

/-- SPSTAT_RECT (R408). -/
def decodeSpstatRect (r : Raw) : Except DecodeErr Instr := do
  r.form true false
  r.modIs 0
  r.row5 false { dst := true }
  return .spstatRect r.hdr (.ofBits r.dst)

/-- SPSTAT_GEN (R408). -/
def decodeSpstatGen (r : Raw) : Except DecodeErr Instr := do
  r.form true false
  r.modIs 1
  r.row5 false { dst := true, src0 := true }
  return .spstatGen r.hdr (.ofBits r.dst) (.ofBits r.src0)

/-- SPSTAT_POS (R408). -/
def decodeSpstatPos (r : Raw) : Except DecodeErr Instr := do
  r.form true false
  r.modIs 2
  r.row5 false { dst := true, src0 := true }
  return .spstatPos r.hdr (.ofBits r.dst) (.ofBits r.src0)

/-- TRAP (R238). -/
def decodeTrap (r : Raw) : Except DecodeErr Instr := do
  r.form true false
  r.modIs 0
  r.row5 true { src1 := true }
  return .trap r.hdr (.ofBits r.src1)

/-- XRET (R241). -/
def decodeXret (r : Raw) : Except DecodeErr Instr := do
  r.form true false
  r.modIs 0
  r.row5 true {}
  return .xret r.hdr

/-- BKPT (R239). -/
def decodeBkpt (r : Raw) : Except DecodeErr Instr := do
  r.form true false
  r.modIs 0
  r.row5 true { src1 := true }
  return .bkpt r.hdr (.ofBits r.src1)

/-- HALT (R240). -/
def decodeHalt (r : Raw) : Except DecodeErr Instr := do
  r.form true true
  r.modIs 0
  r.row5 true { src1 := true, immsel := true, xmask := 0x100000 }
  return .halt r.hdr r.long r.source1

/-- The opcode map (Table EC-8): the decoder of each assigned code. -/
def Raw.instr (r : Raw) : Except DecodeErr Instr :=
  match r.opc.toNat with
  | 0x000 => decodeNop r
  | 0x001 => decodeWaitf r
  | 0x002 => decodeYieldW r
  | 0x003 => decodeRegx r
  | 0x004 => decodeSrd r
  | 0x005 => decodeSwr r
  | 0x006 => if r.mod = 0 then decodeModeSet r else if r.mod = 1 then decodeModeClr r else if r.mod = 2 then decodeModeWr r else .error .unassigned
  | 0x010 => decodeBra r
  | 0x011 => decodeBrx r
  | 0x012 => decodeSplit r
  | 0x013 => decodeJoin r
  | 0x014 => decodeLoopr r
  | 0x015 => decodeBrk r
  | 0x016 => decodeCall r
  | 0x017 => decodeCallx r
  | 0x018 => decodeRet r
  | 0x019 => decodeExit r
  | 0x030 => decodeBar r
  | 0x031 => decodeBara r
  | 0x032 => decodeBarw r
  | 0x033 => decodeCbar r
  | 0x034 => decodeGbar r
  | 0x035 => decodeWaitm r
  | 0x040 => decodeSmov r
  | 0x041 => decodeSmovl r
  | 0x042 => decodeSadd r
  | 0x043 => decodeSsub r
  | 0x044 => decodeSmul r
  | 0x045 => decodeSmad r
  | 0x046 => decodeSadd64 r
  | 0x047 => decodeSmad64 r
  | 0x048 => decodeSand r
  | 0x049 => decodeSor r
  | 0x04A => decodeSxor r
  | 0x04B => decodeSshl r
  | 0x04C => decodeSshr r
  | 0x04D => decodeSsra r
  | 0x04E => decodeSmin r
  | 0x04F => decodeSmax r
  | 0x050 => decodeScmp r
  | 0x051 => decodeSsel r
  | 0x052 => decodeSbfe r
  | 0x053 => decodeSpopc r
  | 0x054 => decodeSclz r
  | 0x055 => decodeS2v r
  | 0x056 => decodeV2s r
  | 0x080 => decodeMov r
  | 0x081 => decodeIadd r
  | 0x082 => decodeIaddc r
  | 0x083 => decodeIsub r
  | 0x084 => decodeImul r
  | 0x085 => decodeImulh r
  | 0x086 => decodeImad r
  | 0x087 => decodeImin r
  | 0x088 => decodeImax r
  | 0x089 => decodeIabs r
  | 0x08A => decodeIand r
  | 0x08B => decodeIor r
  | 0x08C => decodeIxor r
  | 0x08D => decodeInot r
  | 0x08E => decodeIshl r
  | 0x08F => decodeIshr r
  | 0x090 => decodeIsra r
  | 0x091 => decodeIfunnel r
  | 0x092 => decodeIpopc r
  | 0x093 => decodeIclz r
  | 0x094 => decodeIbfe r
  | 0x095 => decodeIbfi r
  | 0x096 => decodeIdp4 r
  | 0x097 => decodeIdp2 r
  | 0x098 => decodeIcmp r
  | 0x099 => decodeIsel r
  | 0x0E0 => decodeFadd r
  | 0x0E1 => decodeFsub r
  | 0x0E2 => decodeFmul r
  | 0x0E3 => decodeFfma r
  | 0x0E4 => decodeFmin r
  | 0x0E5 => decodeFmax r
  | 0x0E6 => decodeFcmp r
  | 0x0E7 => decodeFclass r
  | 0x0E8 => decodeFrnd r
  | 0x0E9 => decodeFrcp r
  | 0x0EA => decodeFrsq r
  | 0x0EB => decodeFsqrt r
  | 0x0EC => decodeFexp2 r
  | 0x0ED => decodeFlog2 r
  | 0x0EE => decodeFsin r
  | 0x0EF => decodeFcos r
  | 0x0F0 => decodeFtanh r
  | 0x0F1 => decodeHadd2 r
  | 0x0F2 => decodeHmul2 r
  | 0x0F3 => decodeHfma2 r
  | 0x0F4 => decodeHmin2 r
  | 0x0F5 => decodeHmax2 r
  | 0x0F6 => decodeFdot2 r
  | 0x160 => decodeCvt r
  | 0x161 => decodeCvtSr r
  | 0x162 => decodePack r
  | 0x163 => decodeUnpack r
  | 0x164 => decodeQnt r
  | 0x165 => decodeDqnt r
  | 0x166 => decodeRng r
  | 0x180 => decodeShfl r
  | 0x181 => decodeVote r
  | 0x182 => decodeWred r
  | 0x183 => decodeWscan r
  | 0x184 => decodeMatchW r
  | 0x188 => decodeKand r
  | 0x189 => decodeKor r
  | 0x18A => decodeKxor r
  | 0x18B => decodeKnot r
  | 0x18C => decodeKmov r
  | 0x18D => decodeKpop r
  | 0x1A0 => decodeLd r
  | 0x1A1 => decodeSt r
  | 0x1A2 => decodeLdfe r
  | 0x1A3 => decodeStfe r
  | 0x1A4 => decodeAtom r
  | 0x1A5 => decodeAtomc r
  | 0x1A6 => decodeRed r
  | 0x1A7 => decodeFence r
  | 0x1A8 => decodePref r
  | 0x1A9 => if r.mod = 0 then decodeCctlL1ev r else if r.mod = 1 then decodeCctlL2ev r else if r.mod = 2 then decodeCctlZero r else .error .unassigned
  | 0x1AA => decodeIfence r
  | 0x1D0 => decodeWld r
  | 0x1D1 => decodeWflip r
  | 0x1D2 => decodeMms r
  | 0x1D3 => decodeMmsq r
  | 0x1D4 => decodeAclr r
  | 0x1D5 => decodeAld r
  | 0x1D6 => decodeAst r
  | 0x1D7 => decodeAdrn r
  | 0x1D8 => decodeAmov r
  | 0x1D9 => decodeSmx r
  | 0x1DA => if r.mod = 0 then decodeSmxrInit r else if r.mod = 1 then decodeSmxrNorm r else if r.mod = 2 then decodeSmxrRd r else if r.mod = 3 then decodeSmxrWr r else .error .unassigned
  | 0x1E0 => if r.mod = 0 then decodeCbind r else if r.mod = 1 then decodeCbindSw r else .error .unassigned
  | 0x1E1 => if r.mod = 0 then decodeCrel r else if r.mod = 1 then decodeCrelPin r else if r.mod = 2 then decodeCrelUnpin r else .error .unassigned
  | 0x1E2 => decodeDelta r
  | 0x1E3 => decodeDqry r
  | 0x1E4 => decodeCspill r
  | 0x1E5 => decodeCfill r
  | 0x1E6 => if r.mod = 0 then decodeCstat r else if r.mod = 1 then decodeCstatH r else .error .unassigned
  | 0x1E8 => decodeCpy r
  | 0x1E9 => decodeCpyz r
  | 0x1EA => decodeCpyg r
  | 0x1EB => decodeCpys r
  | 0x1EC => decodeCpyb r
  | 0x1ED => if r.xf 12 1 = 0 then decodeCpyxSend r else decodeCpyxFetch r
  | 0x1F0 => decodeSpenter r
  | 0x1F1 => decodeSpleave r
  | 0x1F2 => decodeSpstream r
  | 0x1F3 => if r.mod = 0 then decodeSpparamBase r else if r.mod = 1 then decodeSpparamExt r else .error .unassigned
  | 0x1F4 => decodeSpdrain r
  | 0x1F5 => if r.mod = 0 then decodeSpstatRect r else if r.mod = 1 then decodeSpstatGen r else if r.mod = 2 then decodeSpstatPos r else .error .unassigned
  | 0x1F8 => decodeTrap r
  | 0x1F9 => decodeXret r
  | 0x1FA => decodeBkpt r
  | 0x1FB => decodeHalt r
  | 0x1FF => .error .permanentlyIllegal
  | _ => .error .unassigned

/-! ### The encoder -/

/-- The fields of an instruction's words: `none` for pair words and for rows that are events. -/
def Instr.raw (i : Instr) : Option Raw :=
  match i with
  | .nop h => some { h.raw false with opc := 0x000, mod := 0 }
  | .waitf h l f n => some { h.raw l with opc := 0x001, mod := 0, src0 := f.bits, src1 := n.src1, imm := n.immBits, xmod := (n.immsel) }
  | .yieldW h l n => some { h.raw l with opc := 0x002, mod := 0, src1 := n.src1, imm := n.immBits, xmod := (n.immsel) }
  | .regx h l dlt mask => some { h.raw l with opc := 0x003, mod := 0, src0 := dlt.bits, src1 := mask.src1, imm := mask.immBits, xmod := (mask.immsel) }
  | .srd h d ix => some { h.raw false with opc := 0x004, mod := 0, dst := d.bits, src0 := ix.bits }
  | .swr h ix a => some { h.raw false with opc := 0x005, mod := 0, dst := ix.bits, src0 := a.bits }
  | .modeSet h bits => some { h.raw false with opc := 0x006, mod := 0, src1 := bits.bits }
  | .modeClr h bits => some { h.raw false with opc := 0x006, mod := 1, src1 := bits.bits }
  | .modeWr h bits => some { h.raw false with opc := 0x006, mod := 2, src1 := bits.bits }
  | .bra h off => some { h.raw false with opc := 0x010, mod := 0, dst := off.extractLsb' 18 9, src0 := off.extractLsb' 9 9, src1 := off.extractLsb' 0 9 }
  | .brx h a => some { h.raw false with opc := 0x011, mod := 0, src0 := a.bits }
  | .split h els kC jn => some { h.raw true with opc := 0x012, mod := 0, dst := els.extractLsb' 18 9, src0 := els.extractLsb' 9 9, src1 := els.extractLsb' 0 9, src2 := kC.bits, imm := jn }
  | .join h => some { h.raw false with opc := 0x013, mod := 0 }
  | .loopr h ext => some { h.raw false with opc := 0x014, mod := 0, dst := ext.extractLsb' 18 9, src0 := ext.extractLsb' 9 9, src1 := ext.extractLsb' 0 9 }
  | .brk h => some { h.raw false with opc := 0x015, mod := 0 }
  | .call h off => some { h.raw false with opc := 0x016, mod := 0, dst := off.extractLsb' 18 9, src0 := off.extractLsb' 9 9, src1 := off.extractLsb' 0 9 }
  | .callx h a => some { h.raw false with opc := 0x017, mod := 0, src0 := a.bits }
  | .ret h => some { h.raw false with opc := 0x018, mod := 0 }
  | .exit h => some { h.raw false with opc := 0x019, mod := 0 }
  | .bar h l b n => some { h.raw l with opc := 0x030, mod := 0, src0 := b.bits, src1 := n.src1, imm := n.immBits, xmod := (n.immsel) }
  | .bara h l sp d a cnt disp => some { h.raw l with opc := 0x031, mod := sp.bits, dst := d.bits, src0 := a.bits, src1 := cnt.bits, imm := disp }
  | .barw h l sp a p disp tmo => some { h.raw l with opc := 0x032, mod := sp.bits, src0 := a.bits, src1 := p.bits, imm := disp, src2 := tmoBits tmo, xmod := (Raw.xflag tmo.isSome 4) }
  | .cbar h b => some { h.raw false with opc := 0x033, mod := 0, src0 := b.bits }
  | .gbar h => some { h.raw false with opc := 0x034, mod := 0 }
  | .waitm h sp sz sgn sc peer cc d a b disp tmo => some { h.raw true with opc := 0x035, mod := sp.bits, dst := d.bits, src0 := a.bits, src1 := b.bits, imm := disp, src2 := tmoBits tmo, xmod := (Raw.xput sz.bits 18 ||| Raw.xflag sgn 17 ||| Raw.xput sc.bits 14 ||| Raw.xput peer.bits 5 ||| Raw.xput cc.bits 1 ||| Raw.xflag tmo.isSome 4) }
  | .smov h l t d a => some { h.raw l with opc := 0x040, mod := t.bits, dst := d.bits, src1 := a.src1, imm := a.immBits, xmod := (a.immsel) }
  | .smovl h d a imm => some { h.raw true with opc := 0x041, mod := 0, dst := d.bits, src0 := a.bits, imm := imm }
  | .sadd h l t sat d a b => some { h.raw l with opc := 0x042, mod := t.bits, dst := d.bits, src0 := a.bits, src1 := b.src1, imm := b.immBits, xmod := (if l then Raw.xflag sat 19 ||| b.immsel else 0) }
  | .ssub h l t sat d a b => some { h.raw l with opc := 0x043, mod := t.bits, dst := d.bits, src0 := a.bits, src1 := b.src1, imm := b.immBits, xmod := (if l then Raw.xflag sat 19 ||| b.immsel else 0) }
  | .smul h l t d a b => some { h.raw l with opc := 0x044, mod := t.bits, dst := d.bits, src0 := a.bits, src1 := b.src1, imm := b.immBits, xmod := (b.immsel) }
  | .smad h t d a b c => some { h.raw true with opc := 0x045, mod := t.bits, dst := d.bits, src0 := a.bits, src1 := b.src1, imm := b.immBits, src2 := c.bits, xmod := (b.immsel) }
  | .sadd64 h l t d a b => some { h.raw l with opc := 0x046, mod := t.bits, dst := d.bits, src0 := a.bits, src1 := b.src1, imm := b.immBits, xmod := (b.immsel) }
  | .smad64 h t d a b c => some { h.raw true with opc := 0x047, mod := t.bits, dst := d.bits, src0 := a.bits, src1 := b.src1, imm := b.immBits, src2 := c.bits, xmod := (b.immsel) }
  | .sand h l t d a b => some { h.raw l with opc := 0x048, mod := t.bits, dst := d.bits, src0 := a.bits, src1 := b.src1, imm := b.immBits, xmod := (b.immsel) }
  | .sor h l t d a b => some { h.raw l with opc := 0x049, mod := t.bits, dst := d.bits, src0 := a.bits, src1 := b.src1, imm := b.immBits, xmod := (b.immsel) }
  | .sxor h l t d a b => some { h.raw l with opc := 0x04A, mod := t.bits, dst := d.bits, src0 := a.bits, src1 := b.src1, imm := b.immBits, xmod := (b.immsel) }
  | .sshl h l t d a b => some { h.raw l with opc := 0x04B, mod := t.bits, dst := d.bits, src0 := a.bits, src1 := b.src1, imm := b.immBits, xmod := (b.immsel) }
  | .sshr h l t d a b => some { h.raw l with opc := 0x04C, mod := t.bits, dst := d.bits, src0 := a.bits, src1 := b.src1, imm := b.immBits, xmod := (b.immsel) }
  | .ssra h l t d a b => some { h.raw l with opc := 0x04D, mod := t.bits, dst := d.bits, src0 := a.bits, src1 := b.src1, imm := b.immBits, xmod := (b.immsel) }
  | .smin h l t d a b => some { h.raw l with opc := 0x04E, mod := t.bits, dst := d.bits, src0 := a.bits, src1 := b.src1, imm := b.immBits, xmod := (b.immsel) }
  | .smax h l t d a b => some { h.raw l with opc := 0x04F, mod := t.bits, dst := d.bits, src0 := a.bits, src1 := b.src1, imm := b.immBits, xmod := (b.immsel) }
  | .scmp h t cc kD a b => some { h.raw true with opc := 0x050, mod := t.bits, dst := kD.bits, src0 := a.bits, src1 := b.src1, imm := b.immBits, xmod := (Raw.xput cc.bits 15 ||| b.immsel) }
  | .ssel h t d a b kC => some { h.raw true with opc := 0x051, mod := t.bits, dst := d.bits, src0 := a.bits, src1 := b.src1, imm := b.immBits, src2 := kC.bits, xmod := (b.immsel) }
  | .sbfe h l t sx d a b => some { h.raw l with opc := 0x052, mod := t.bits, dst := d.bits, src0 := a.bits, src1 := b.src1, imm := b.immBits, xmod := (if l then Raw.xflag sx 19 ||| b.immsel else 0) }
  | .spopc h t d a => some { h.raw false with opc := 0x053, mod := t.bits, dst := d.bits, src0 := a.bits }
  | .sclz h t d a => some { h.raw false with opc := 0x054, mod := t.bits, dst := d.bits, src0 := a.bits }
  | .s2v h l t d a sel => some { h.raw l with opc := 0x055, mod := t.bits, dst := d.bits, src0 := a.bits, src1 := sel.src1, imm := sel.immBits, xmod := (sel.immsel) }
  | .v2s h l t d a sel => some { h.raw l with opc := 0x056, mod := t.bits, dst := d.bits, src0 := a.bits, src1 := sel.src1, imm := sel.immBits, xmod := (sel.immsel) }
  | .mov h l t d a => some { h.raw l with opc := 0x080, mod := t.bits, dst := d.bits, src1 := a.src1, imm := a.immBits, xmod := (a.immsel) }
  | .iadd h l t sat d a b => some { h.raw l with opc := 0x081, mod := t.bits, dst := d.bits, src0 := a.bits, src1 := b.src1, imm := b.immBits, xmod := (if l then Raw.xflag sat 19 ||| b.immsel else 0) }
  | .iaddc h t d a b kC => some { h.raw true with opc := 0x082, mod := t.bits, dst := d.bits, src0 := a.bits, src1 := b.src1, imm := b.immBits, src2 := kC.bits, xmod := (b.immsel) }
  | .isub h l t sat d a b => some { h.raw l with opc := 0x083, mod := t.bits, dst := d.bits, src0 := a.bits, src1 := b.src1, imm := b.immBits, xmod := (if l then Raw.xflag sat 19 ||| b.immsel else 0) }
  | .imul h l t d a b => some { h.raw l with opc := 0x084, mod := t.bits, dst := d.bits, src0 := a.bits, src1 := b.src1, imm := b.immBits, xmod := (b.immsel) }
  | .imulh h l t d a b => some { h.raw l with opc := 0x085, mod := t.bits, dst := d.bits, src0 := a.bits, src1 := b.src1, imm := b.immBits, xmod := (b.immsel) }
  | .imad h t d a b c => some { h.raw true with opc := 0x086, mod := t.bits, dst := d.bits, src0 := a.bits, src1 := b.src1, imm := b.immBits, src2 := c.bits, xmod := (b.immsel) }
  | .imin h l t d a b => some { h.raw l with opc := 0x087, mod := t.bits, dst := d.bits, src0 := a.bits, src1 := b.src1, imm := b.immBits, xmod := (b.immsel) }
  | .imax h l t d a b => some { h.raw l with opc := 0x088, mod := t.bits, dst := d.bits, src0 := a.bits, src1 := b.src1, imm := b.immBits, xmod := (b.immsel) }
  | .iabs h l t sat d a => some { h.raw l with opc := 0x089, mod := t.bits, dst := d.bits, src0 := a.bits, xmod := (if l then Raw.xflag sat 19 else 0) }
  | .iand h l t d a b => some { h.raw l with opc := 0x08A, mod := t.bits, dst := d.bits, src0 := a.bits, src1 := b.src1, imm := b.immBits, xmod := (b.immsel) }
  | .ior h l t d a b => some { h.raw l with opc := 0x08B, mod := t.bits, dst := d.bits, src0 := a.bits, src1 := b.src1, imm := b.immBits, xmod := (b.immsel) }
  | .ixor h l t d a b => some { h.raw l with opc := 0x08C, mod := t.bits, dst := d.bits, src0 := a.bits, src1 := b.src1, imm := b.immBits, xmod := (b.immsel) }
  | .inot h t d a => some { h.raw false with opc := 0x08D, mod := t.bits, dst := d.bits, src0 := a.bits }
  | .ishl h l t d a b => some { h.raw l with opc := 0x08E, mod := t.bits, dst := d.bits, src0 := a.bits, src1 := b.src1, imm := b.immBits, xmod := (b.immsel) }
  | .ishr h l t d a b => some { h.raw l with opc := 0x08F, mod := t.bits, dst := d.bits, src0 := a.bits, src1 := b.src1, imm := b.immBits, xmod := (b.immsel) }
  | .isra h l t d a b => some { h.raw l with opc := 0x090, mod := t.bits, dst := d.bits, src0 := a.bits, src1 := b.src1, imm := b.immBits, xmod := (b.immsel) }
  | .ifunnel h t d a b c => some { h.raw true with opc := 0x091, mod := t.bits, dst := d.bits, src0 := a.bits, src1 := b.src1, imm := b.immBits, src2 := c.bits, xmod := (b.immsel) }
  | .ipopc h t d a => some { h.raw false with opc := 0x092, mod := t.bits, dst := d.bits, src0 := a.bits }
  | .iclz h t d a => some { h.raw false with opc := 0x093, mod := t.bits, dst := d.bits, src0 := a.bits }
  | .ibfe h l t sx d a b => some { h.raw l with opc := 0x094, mod := t.bits, dst := d.bits, src0 := a.bits, src1 := b.src1, imm := b.immBits, xmod := (if l then Raw.xflag sx 19 ||| b.immsel else 0) }
  | .ibfi h t d a b c => some { h.raw true with opc := 0x095, mod := t.bits, dst := d.bits, src0 := a.bits, src1 := b.src1, imm := b.immBits, src2 := c.bits, xmod := (b.immsel) }
  | .idp4 h sg sat d a b c => some { h.raw true with opc := 0x096, mod := sg.bits, dst := d.bits, src0 := a.bits, src1 := b.src1, imm := b.immBits, src2 := c.bits, xmod := (Raw.xflag sat 19 ||| b.immsel) }
  | .idp2 h sg sat d a b c => some { h.raw true with opc := 0x097, mod := sg.bits, dst := d.bits, src0 := a.bits, src1 := b.src1, imm := b.immBits, src2 := c.bits, xmod := (Raw.xflag sat 19 ||| b.immsel) }
  | .icmp h t cc kD a b => some { h.raw true with opc := 0x098, mod := t.bits, dst := kD.bits, src0 := a.bits, src1 := b.src1, imm := b.immBits, xmod := (Raw.xput cc.bits 15 ||| b.immsel) }
  | .isel h t d a b kC => some { h.raw true with opc := 0x099, mod := t.bits, dst := d.bits, src0 := a.bits, src1 := b.src1, imm := b.immBits, src2 := kC.bits, xmod := (b.immsel) }
  | .fadd h l t rm d a b => some { h.raw l with opc := 0x0E0, mod := t.bits, dst := d.bits, src0 := a.bits, src1 := b.src1, imm := b.immBits, xmod := (if l then Raw.xput rm.bits 18 ||| b.immsel else 0) }
  | .fsub h l t rm d a b => some { h.raw l with opc := 0x0E1, mod := t.bits, dst := d.bits, src0 := a.bits, src1 := b.src1, imm := b.immBits, xmod := (if l then Raw.xput rm.bits 18 ||| b.immsel else 0) }
  | .fmul h l t rm d a b => some { h.raw l with opc := 0x0E2, mod := t.bits, dst := d.bits, src0 := a.bits, src1 := b.src1, imm := b.immBits, xmod := (if l then Raw.xput rm.bits 18 ||| b.immsel else 0) }
  | .ffma h t rm d a b c => some { h.raw true with opc := 0x0E3, mod := t.bits, dst := d.bits, src0 := a.bits, src1 := b.src1, imm := b.immBits, src2 := c.bits, xmod := (Raw.xput rm.bits 18 ||| b.immsel) }
  | .fmin h l t d a b => some { h.raw l with opc := 0x0E4, mod := t.bits, dst := d.bits, src0 := a.bits, src1 := b.src1, imm := b.immBits, xmod := (b.immsel) }
  | .fmax h l t d a b => some { h.raw l with opc := 0x0E5, mod := t.bits, dst := d.bits, src0 := a.bits, src1 := b.src1, imm := b.immBits, xmod := (b.immsel) }
  | .fcmp h t cc kD a b => some { h.raw true with opc := 0x0E6, mod := t.bits, dst := kD.bits, src0 := a.bits, src1 := b.src1, imm := b.immBits, xmod := (Raw.xput cc.bits 15 ||| b.immsel) }
  | .fclass h t d a => some { h.raw false with opc := 0x0E7, mod := t.bits, dst := d.bits, src0 := a.bits }
  | .frnd h l t rm d a => some { h.raw l with opc := 0x0E8, mod := t.bits, dst := d.bits, src0 := a.bits, xmod := (if l then Raw.xput rm.bits 18 else 0) }
  | .frcp h d a => some { h.raw false with opc := 0x0E9, mod := 0, dst := d.bits, src0 := a.bits }
  | .frsq h d a => some { h.raw false with opc := 0x0EA, mod := 0, dst := d.bits, src0 := a.bits }
  | .fsqrt h l t rm d a => some { h.raw l with opc := 0x0EB, mod := t.bits, dst := d.bits, src0 := a.bits, xmod := (if l then Raw.xput rm.bits 18 else 0) }
  | .fexp2 h d a => some { h.raw false with opc := 0x0EC, mod := 0, dst := d.bits, src0 := a.bits }
  | .flog2 h d a => some { h.raw false with opc := 0x0ED, mod := 0, dst := d.bits, src0 := a.bits }
  | .fsin h d a => some { h.raw false with opc := 0x0EE, mod := 0, dst := d.bits, src0 := a.bits }
  | .fcos h d a => some { h.raw false with opc := 0x0EF, mod := 0, dst := d.bits, src0 := a.bits }
  | .ftanh h d a => some { h.raw false with opc := 0x0F0, mod := 0, dst := d.bits, src0 := a.bits }
  | .hadd2 h l t rm d a b => some { h.raw l with opc := 0x0F1, mod := t.bits, dst := d.bits, src0 := a.bits, src1 := b.src1, imm := b.immBits, xmod := (if l then Raw.xput rm.bits 18 ||| b.immsel else 0) }
  | .hmul2 h l t rm d a b => some { h.raw l with opc := 0x0F2, mod := t.bits, dst := d.bits, src0 := a.bits, src1 := b.src1, imm := b.immBits, xmod := (if l then Raw.xput rm.bits 18 ||| b.immsel else 0) }
  | .hfma2 h t rm d a b c => some { h.raw true with opc := 0x0F3, mod := t.bits, dst := d.bits, src0 := a.bits, src1 := b.src1, imm := b.immBits, src2 := c.bits, xmod := (Raw.xput rm.bits 18 ||| b.immsel) }
  | .hmin2 h l t d a b => some { h.raw l with opc := 0x0F4, mod := t.bits, dst := d.bits, src0 := a.bits, src1 := b.src1, imm := b.immBits, xmod := (b.immsel) }
  | .hmax2 h l t d a b => some { h.raw l with opc := 0x0F5, mod := t.bits, dst := d.bits, src0 := a.bits, src1 := b.src1, imm := b.immBits, xmod := (b.immsel) }
  | .fdot2 h t rm d a b c => some { h.raw true with opc := 0x0F6, mod := t.bits, dst := d.bits, src0 := a.bits, src1 := b.src1, imm := b.immBits, src2 := c.bits, xmod := (Raw.xput rm.bits 18 ||| b.immsel) }
  | .cvt h rm cv d a => some { h.raw false with opc := 0x160, mod := rm.bits, src1 := cv.bits, dst := d.bits, src0 := a.bits }
  | .cvtSr h half tgt src sat d a rnd => some { h.raw true with opc := 0x161, mod := half.bits, dst := d.bits, src0 := a.bits, src1 := rnd.bits, xmod := (Raw.xput tgt.bits 16 ||| Raw.xput src.bits 12 ||| Raw.xflag sat 11) }
  | .pack h l t d a b => some { h.raw l with opc := 0x162, mod := t.bits, dst := d.bits, src0 := a.bits, src1 := b.src1, imm := b.immBits, xmod := (b.immsel) }
  | .unpack h l t d a sel => some { h.raw l with opc := 0x163, mod := t.bits, dst := d.bits, src0 := a.bits, src1 := sel.src1, imm := sel.immBits, xmod := (sel.immsel) }
  | .qnt h l t d a p => some { h.raw l with opc := 0x164, mod := t.bits, dst := d.bits, src0 := a.bits, src1 := p.src1, imm := p.immBits, xmod := (p.immsel) }
  | .dqnt h t d a p sel => some { h.raw true with opc := 0x165, mod := t.bits, dst := d.bits, src0 := a.bits, src1 := p.bits, src2 := sel.bits }
  | .rng h l d a n imm => some { h.raw l with opc := 0x166, mod := 0, dst := d.bits, src0 := a.bits, src1 := n.bits, imm := imm }
  | .shfl h l m d a n => some { h.raw l with opc := 0x180, mod := m.bits, dst := d.bits, src0 := a.bits, src1 := n.src1, imm := n.immBits, xmod := (n.immsel) }
  | .vote h v kS => some { h.raw false with opc := 0x181, mod := v.mod, dst := v.dst, src0 := kS.bits }
  | .wred h op ty d a => some { h.raw false with opc := 0x182, mod := op.bits, src1 := ty.bits, dst := d.bits, src0 := a.bits }
  | .wscan h op ty d a => some { h.raw false with opc := 0x183, mod := op.bits, src1 := ty.bits, dst := d.bits, src0 := a.bits }
  | .matchW h t d a => some { h.raw false with opc := 0x184, mod := t.bits, dst := d.bits, src0 := a.bits }
  | .kand h kD kA kB => some { h.raw false with opc := 0x188, mod := 0, dst := kD.bits, src0 := kA.bits, src1 := kB.bits }
  | .kor h kD kA kB => some { h.raw false with opc := 0x189, mod := 0, dst := kD.bits, src0 := kA.bits, src1 := kB.bits }
  | .kxor h kD kA kB => some { h.raw false with opc := 0x18A, mod := 0, dst := kD.bits, src0 := kA.bits, src1 := kB.bits }
  | .knot h kD kA => some { h.raw false with opc := 0x18B, mod := 0, dst := kD.bits, src0 := kA.bits }
  | .kmov h (.k kD kA) => some { h.raw false with opc := 0x18C, mod := 0, dst := kD.bits, src0 := kA.bits }
  | .kmov h (.s l kD b) => some { h.raw l with opc := 0x18C, mod := 1, dst := kD.bits, src1 := b.src1, xmod := b.immsel, imm := b.immBits }
  | .kmov h (.toS d kA) => some { h.raw false with opc := 0x18C, mod := 2, dst := d.bits, src0 := kA.bits }
  | .kpop h d kA => some { h.raw false with opc := 0x18D, mod := 0, dst := d.bits, src0 := kA.bits }
  | .ld h l sp sz sx sc od hint scl d a b disp => some { h.raw l with opc := 0x1A0, mod := sp.bits, dst := d.bits, src0 := a.bits, src1 := b.bits, imm := disp, xmod := (if l then Raw.xput sz.bits 18 ||| Raw.xflag sx 17 ||| Raw.xput sc.bits 14 ||| Raw.xput od.bits 11 ||| Raw.xput hint.bits 9 ||| Raw.xflag scl 8 else 0) }
  | .st h l sp sz sc od hint scl d a b disp => some { h.raw l with opc := 0x1A1, mod := sp.bits, dst := d.bits, src0 := a.bits, src1 := b.bits, imm := disp, xmod := (if l then Raw.xput sz.bits 18 ||| Raw.xput sc.bits 14 ||| Raw.xput od.bits 11 ||| Raw.xput hint.bits 9 ||| Raw.xflag scl 8 else 0) }
  | .ldfe h sp sz sx sc scl peer clr d a b disp tmo => some { h.raw true with opc := 0x1A2, mod := sp.bits, dst := d.bits, src0 := a.bits, src1 := b.bits, imm := disp, src2 := tmoBits tmo, xmod := (Raw.xput sz.bits 18 ||| Raw.xflag sx 17 ||| Raw.xput sc.bits 14 ||| Raw.xflag scl 8 ||| Raw.xput peer.bits 5 ||| Raw.xflag clr 3 ||| Raw.xflag tmo.isSome 4) }
  | .stfe h l sp sz sc scl d a b disp => some { h.raw l with opc := 0x1A3, mod := sp.bits, dst := d.bits, src0 := a.bits, src1 := b.bits, imm := disp, xmod := (if l then Raw.xput sz.bits 18 ||| Raw.xput sc.bits 14 ||| Raw.xflag scl 8 else 0) }
  | .atom h sp sz sc od op d a b disp => some { h.raw true with opc := 0x1A4, mod := sp.bits, dst := d.bits, src0 := a.bits, src1 := b.bits, imm := disp, xmod := (Raw.xput sz.bits 18 ||| Raw.xput sc.bits 14 ||| Raw.xput od.bits 11 ||| Raw.xput op.bits 4) }
  | .atomc h sp sz sc od d a b c disp => some { h.raw true with opc := 0x1A5, mod := sp.bits, dst := d.bits, src0 := a.bits, src1 := b.bits, src2 := c.bits, imm := disp, xmod := (Raw.xput sz.bits 18 ||| Raw.xput sc.bits 14 ||| Raw.xput od.bits 11) }
  | .red h sp sz sc od op a b disp => some { h.raw true with opc := 0x1A6, mod := sp.bits, src0 := a.bits, src1 := b.bits, imm := disp, xmod := (Raw.xput sz.bits 18 ||| Raw.xput sc.bits 14 ||| Raw.xput od.bits 11 ||| Raw.xput op.bits 4) }
  | .fence h sc od => some { h.raw true with opc := 0x1A7, mod := 0, xmod := (Raw.xput sc.bits 14 ||| Raw.xput od.bits 11) }
  | .pref h l lv scl a b disp => some { h.raw l with opc := 0x1A8, mod := lv.bits, src0 := a.bits, src1 := b.bits, imm := disp, xmod := (if l then Raw.xflag scl 8 else 0) }
  | .cctlL1ev h l scl a b disp => some { h.raw l with opc := 0x1A9, mod := 0, src0 := a.bits, src1 := b.bits, imm := disp, xmod := (if l then Raw.xflag scl 8 else 0) }
  | .cctlL2ev h l scl a b disp => some { h.raw l with opc := 0x1A9, mod := 1, src0 := a.bits, src1 := b.bits, imm := disp, xmod := (if l then Raw.xflag scl 8 else 0) }
  | .cctlZero h l scl a b disp => some { h.raw l with opc := 0x1A9, mod := 2, src0 := a.bits, src1 := b.bits, imm := disp, xmod := (if l then Raw.xflag scl 8 else 0) }
  | .ifence h => some { h.raw false with opc := 0x1AA, mod := 0 }
  | .wld h w a cb pitch => some { h.raw true with opc := 0x1D0, mod := w.mod, src0 := a.bits, src1 := cb.bits, imm := pitch, xmod := (Raw.xput w.g 15) }
  | .wflip h => some { h.raw false with opc := 0x1D1, mod := 0 }
  | .mms h ta tb zi m cb => some { h.raw true with opc := 0x1D2, mod := ta.bits, imm := m.imm, src0 := m.field, src1 := cb.bits, xmod := (Raw.xflag tb 17 ||| Raw.xflag zi 19 ||| m.vreg) }
  | .mmsq h q g zi a cb pitch => some { h.raw true with opc := 0x1D3, mod := q.bits, src0 := a.bits, src1 := cb.bits, imm := pitch, xmod := (Raw.xput g.bits 15 ||| Raw.xflag zi 19) }
  | .aclr h cb => some { h.raw true with opc := 0x1D4, mod := 0, src1 := cb.bits }
  | .ald h m cb => some { h.raw true with opc := 0x1D5, mod := 0, imm := m.imm, src0 := m.field, src1 := cb.bits, xmod := (m.vreg) }
  | .ast h sp a cb pitch => some { h.raw true with opc := 0x1D6, mod := sp.bits, src0 := a.bits, src1 := cb.bits, imm := pitch }
  | .adrn h act t bias sat clr m cb => some { h.raw true with opc := 0x1D7, mod := 0, imm := m.imm, dst := m.dst, src0 := m.src0, src1 := cb.bits, xmod := (Raw.xput act.bits 12 ||| Raw.xput t.bits 8 ||| Raw.xflag bias 7 ||| Raw.xflag sat 6 ||| Raw.xflag clr 19 ||| m.vreg) }
  | .amov h cb => some { h.raw true with opc := 0x1D8, mod := 0, src1 := cb.bits }
  | .smx h a cb pitch => some { h.raw true with opc := 0x1D9, mod := 0, src0 := a.bits, src1 := cb.bits, imm := pitch }
  | .smxrInit h cb => some { h.raw true with opc := 0x1DA, mod := 0, src1 := cb.bits }
  | .smxrNorm h cb => some { h.raw true with opc := 0x1DA, mod := 1, src1 := cb.bits }
  | .smxrRd h a cb => some { h.raw true with opc := 0x1DA, mod := 2, src0 := a.bits, src1 := cb.bits }
  | .smxrWr h a cb => some { h.raw true with opc := 0x1DA, mod := 3, src0 := a.bits, src1 := cb.bits }
  | .cbind h cs => some { h.raw false with opc := 0x1E0, mod := 0, src0 := cs.bits }
  | .cbindSw h cs hd => some { h.raw false with opc := 0x1E0, mod := 1, src0 := cs.bits, src1 := hd.bits }
  | .crel h cs => some { h.raw false with opc := 0x1E1, mod := 0, src0 := cs.bits }
  | .crelPin h cs => some { h.raw false with opc := 0x1E1, mod := 1, src0 := cs.bits }
  | .crelUnpin h cs => some { h.raw false with opc := 0x1E1, mod := 2, src0 := cs.bits }
  | .delta h rec cb => some { h.raw false with opc := 0x1E2, mod := (if rec then 1 else 0), src1 := cb.bits }
  | .dqry h cb => some { h.raw false with opc := 0x1E3, mod := 0, src1 := cb.bits }
  | .cspill h cs => some { h.raw false with opc := 0x1E4, mod := 0, src0 := cs.bits }
  | .cfill h cs => some { h.raw false with opc := 0x1E5, mod := 0, src0 := cs.bits }
  | .cstat h d cs => some { h.raw false with opc := 0x1E6, mod := 0, dst := d.bits, src0 := cs.bits }
  | .cstatH h d cs => some { h.raw false with opc := 0x1E6, mod := 1, dst := d.bits, src0 := cs.bits }
  | .cpy h strm dsp ssp fe sc d a ds => some { h.raw true with opc := 0x1E8, mod := strm.bits, dst := d.bits, src0 := a.bits, src1 := ds.bits, xmod := (Raw.xput dsp.bits 19 ||| Raw.xput ssp.bits 17 ||| Raw.xflag fe 16 ||| Raw.xput sc.bits 13) }
  | .cpyz h strm dsp ssp fe sc d a nblk => some { h.raw true with opc := 0x1E9, mod := strm.bits, dst := d.bits, src0 := a.bits, imm := nblk, xmod := (Raw.xput dsp.bits 19 ||| Raw.xput ssp.bits 17 ||| Raw.xflag fe 16 ||| Raw.xput sc.bits 13) }
  | .cpyg h strm dsp ssp fe sc d a ds ix => some { h.raw true with opc := 0x1EA, mod := strm.bits, dst := d.bits, src0 := a.bits, src1 := ds.bits, src2 := ix.bits, xmod := (Raw.xput dsp.bits 19 ||| Raw.xput ssp.bits 17 ||| Raw.xflag fe 16 ||| Raw.xput sc.bits 13) }
  | .cpys h strm dsp ssp fe sc d a ds ix => some { h.raw true with opc := 0x1EB, mod := strm.bits, dst := d.bits, src0 := a.bits, src1 := ds.bits, src2 := ix.bits, xmod := (Raw.xput dsp.bits 19 ||| Raw.xput ssp.bits 17 ||| Raw.xflag fe 16 ||| Raw.xput sc.bits 13) }
  | .cpyb h strm dsp ssp fe sc d a ds mk => some { h.raw true with opc := 0x1EC, mod := strm.bits, dst := d.bits, src0 := a.bits, src1 := ds.bits, src2 := mk.bits, xmod := (Raw.xput dsp.bits 19 ||| Raw.xput ssp.bits 17 ||| Raw.xflag fe 16 ||| Raw.xput sc.bits 13) }
  | .cpyxSend h strm dsp ssp fe sc d a ds ep => some { h.raw true with opc := 0x1ED, mod := strm.bits, dst := d.bits, src0 := a.bits, src1 := ds.bits, src2 := ep.bits, xmod := (Raw.xput dsp.bits 19 ||| Raw.xput ssp.bits 17 ||| Raw.xflag fe 16 ||| Raw.xput sc.bits 13) }
  | .cpyxFetch h strm dsp ssp fe sc d a ds ep => some { h.raw true with opc := 0x1ED, mod := strm.bits, dst := d.bits, src0 := a.bits, src1 := ds.bits, src2 := ep.bits, xmod := (Raw.xput dsp.bits 19 ||| Raw.xput ssp.bits 17 ||| Raw.xflag fe 16 ||| Raw.xput sc.bits 13 ||| Raw.xflag true 12) }
  | .spenter h shape a => some { h.raw false with opc := 0x1F0, mod := shape.bits, src0 := a.bits }
  | .spleave h => some { h.raw false with opc := 0x1F1, mod := 0 }
  | .spstream h l gs n => some { h.raw l with opc := 0x1F2, mod := 0, src0 := gs.bits, src1 := n.src1, imm := n.immBits, xmod := (n.immsel) }
  | .spparamBase h l gs b => some { h.raw l with opc := 0x1F3, mod := 0, src0 := gs.bits, src1 := b.src1, imm := b.immBits, xmod := (b.immsel) }
  | .spparamExt h l gs n => some { h.raw l with opc := 0x1F3, mod := 1, src0 := gs.bits, src1 := n.src1, imm := n.immBits, xmod := (n.immsel) }
  | .spdrain h => some { h.raw false with opc := 0x1F4, mod := 0 }
  | .spstatRect h d => some { h.raw false with opc := 0x1F5, mod := 0, dst := d.bits }
  | .spstatGen h d gs => some { h.raw false with opc := 0x1F5, mod := 1, dst := d.bits, src0 := gs.bits }
  | .spstatPos h d gs => some { h.raw false with opc := 0x1F5, mod := 2, dst := d.bits, src0 := gs.bits }
  | .trap h n => some { h.raw false with opc := 0x1F8, mod := 0, src1 := n.bits }
  | .xret h => some { h.raw false with opc := 0x1F9, mod := 0 }
  | .bkpt h n => some { h.raw false with opc := 0x1FA, mod := 0, src1 := n.bits }
  | .halt h l code => some { h.raw l with opc := 0x1FB, mod := 0, src1 := code.src1, imm := code.immBits, xmod := (code.immsel) }
  | .pairWord _ => none
  | .regxCommit _ _ => none
  | .barrierPhaseComplete _ _ => none
  | .cbarPhaseComplete _ _ _ => none
  | .gbarCompletion _ _ => none
  | .waitmReread _ _ => none
  | .steepTimerExpiry _ _ => none
  | .variableAluCompletion _ _ => none
  | .ldfeServe _ _ => none
  | .lsCompletion _ _ => none
  | .instructionFetch _ _ _ => none
  | .pageWalk _ _ _ => none
  | .trapEntry _ _ => none
  | .pendingFaultDelivery _ _ => none
  | .copyElement _ _ => none
  | .copyGranuleFull _ _ _ => none
  | .copyRequestCompletion _ _ => none
  | .blockMerge _ => none
  | .arrayRequestAccept _ _ => none
  | .accumulatorPortAccess _ _ => none
  | .matrixRequestCompletion _ _ => none
  | .fwRequestCompletion _ _ => none
  | .cultureSpill _ _ => none
  | .cultureFill _ _ => none
  | .cultureEviction _ _ => none
  | .groupDeparture _ => none
  | .spenterCommit _ _ => none
  | .spleaveCommit _ _ => none
  | .spdrainComplete _ _ => none
  | .nodeFiring _ _ => none
  | .eoiFiring _ _ => none
  | .generatorRoundStart _ _ => none
  | .genElementRead _ _ => none
  | .generatorFaultDelivery _ _ => none
  | .preemptionRequest _ => none
  | .drainBudgetExpiry _ _ => none
  | .groupSave _ => none
  | .saveBudgetExpiry _ _ => none
  | .groupResume _ => none
  | .groupDispatch _ => none
  | .groupRetire _ => none
  | .qcfgEnableSet _ _ => none
  | .qcfgEnableClear _ _ => none
  | .qwpWrite _ _ => none
  | .qctlReset _ => none
  | .qctlResume _ => none
  | .qstatIrqClear _ => none
  | .registerWrite _ _ => none
  | .preqPreempt _ _ _ => none
  | .preqPreemptHold _ _ _ => none
  | .preqReleaseHold _ => none
  | .preqKill _ => none
  | .nopPacket _ => none
  | .launch _ => none
  | .waitPacket _ => none
  | .waitReread _ => none
  | .waitTimeout _ => none
  | .signal _ => none
  | .inval _ => none
  | .iflush _ => none
  | .launchAdmission _ => none
  | .chunkRequest _ _ => none
  | .grantAcknowledged _ _ => none
  | .launchCompletion _ => none
  | .rds _ _ => none
  | .rdx _ _ => none
  | .upg _ _ => none
  | .atomRequest _ _ _ => none
  | .blk _ _ => none
  | .flush _ _ => none
  | .snps _ _ => none
  | .snpc _ _ => none
  | .snpi _ _ => none
  | .rspi _ _ => none
  | .rsps _ _ => none
  | .rspwbp _ _ => none
  | .gntx _ _ => none
  | .ack _ _ => none
  | .wback _ _ => none
  | .cmp _ _ => none
  | .err _ => none
  | .dats _ _ => none
  | .date _ _ => none
  | .datm _ _ => none
  | .snpd _ _ => none
  | .wbd _ _ => none
  | .atomd _ _ => none
  | .linkSleep _ _ => none
  | .linkWake _ _ => none
  | .wakeTimeout _ _ => none
  | .deadDieDetection _ => none
  | .linkWakeFailureReport _ _ => none
  | .abruptWarmReset _ => none
  | .warmResetQuiesce _ => none
  | .warmResetCleanup _ => none
  | .plannedResetTimeout _ => none
  | .warmResetRetrain _ => none
  | .warmResetReadmit _ => none
  | .hostSnpdata _ _ => none
  | .hostSnpinv _ _ _ => none
  | .hostSnpcur _ _ => none
  | .hostM2sRequest _ _ => none
  | .birsp _ _ _ => none
  | .cxlCacheResponse _ _ _ => none
  | .glicharunFlitReceived _ _ _ _ _ _ => none
  | .flitAckTimeout _ _ => none
  | .glicharunLinkTraining _ _ => none
  | .peerWindowAccess _ => none
  | .gpstReplayClear _ _ => none
  | .powerUp _ => none
  | .clusterRelease => none
  | .controlInterval _ _ _ _ => none
  | .dctlWarmReset _ => none
  | .dctlGate _ => none
  | .dctlWake _ => none
  | .dbgdataRead => none
  | .correctedError _ _ _ => none
  | .uncorrectedError _ => none
  | .unitFence _ => none
  | .getVersion => none
  | .getCapabilities _ => none
  | .negotiateAlgorithms _ _ _ => none
  | .getDigests _ => none
  | .getCertificate _ _ _ _ => none
  | .challenge _ _ _ => none
  | .getMeasurements _ _ => none
  | .pldmBaseDiscovery => none
  | .pldmSensorRead _ _ => none
  | .requestUpdate => none
  | .passComponentTable => none
  | .updateComponent => none
  | .firmwareTransfer _ => none
  | .firmwareVerify => none
  | .firmwareApply => none
  | .activateFirmware => none
  | .fenceListRemove _ => none
  | .recoveryMailboxWrite _ => none
  | .linkAwake _ _ => none
  | .glicharunPortDown _ => none
  | .pldmEventLogRead _ _ => none
  | .endpointIdAssignment _ => none

/-- The words of a pair word (Table EC-7a), SET 0xF. -/
def PairWord.word (p : PairWord) : BitVec 64 :=
  1#2 ++ (p.stall ++ (p.wait ++ (15#4 ++ (p.aop ++ (p.adst ++ (p.asrc ++ (p.bop ++ (p.bdst ++ p.bsrc))))))))

/-- Table EC-7a. -/
def PairWord.ofWord (w : BitVec 64) : PairWord :=
  { stall := w.extractLsb' 58 4, wait := w.extractLsb' 46 12
    aop := w.extractLsb' 37 5, adst := w.extractLsb' 29 8, asrc := w.extractLsb' 21 8
    bop := w.extractLsb' 16 5, bdst := w.extractLsb' 8 8, bsrc := w.extractLsb' 0 8 }

/-- The words of an instruction, in address order; none for an event. -/
def encode (i : Instr) : List (BitVec 64) :=
  match i with
  | .pairWord p => [p.word]
  | _ =>
    match i.raw with
    | some r => if r.long then [r.word0, r.word1] else [r.word0]
    | none => []

/-! ### The decoder -/

/-- FMT (Table EC-1). -/
def fmtOf (w : BitVec 64) : BitVec 2 := w.extractLsb' 62 2

/-- R67: the length in bytes of an instruction whose first word is `w`. -/
def wordLength (w : BitVec 64) : Nat := if fmtOf w = 2 then 16 else 8

/-- Rows 1 to 5 of Table EC-9 on a first word and, for a long instruction, its second word. -/
def decodeWords (w0 : BitVec 64) (w1 : Option (BitVec 64)) : Except DecodeErr Instr :=
  match (fmtOf w0).toNat with
  | 0 => (Raw.first false w0).instr
  | 1 =>
    let p := PairWord.ofWord w0
    if w0.extractLsb' 42 4 = 15#4 && p.legal then .ok (.pairWord p) else .error .illegalEncoding
  | 2 =>
    match w1 with
    | none => .error .tooShort
    | some w1 => if fmtOf w1 = 3 then ((Raw.first true w0).withSecond w1).instr else .error .secondWord
  | _ => .error .notInstruction

/-- A little-endian 64-bit word (R67) from the head of a list of bytes. -/
def takeWord (bs : List Byte) : Option (BitVec 64 × List Byte) :=
  match bs with
  | b0 :: b1 :: b2 :: b3 :: b4 :: b5 :: b6 :: b7 :: rest =>
    some (b7 ++ (b6 ++ (b5 ++ (b4 ++ (b3 ++ (b2 ++ (b1 ++ b0)))))), rest)
  | _ => none

/-- The decoder on bytes: the instruction at their head and the bytes after it, or the reason there is none. -/
def decode (bs : List Byte) : Except DecodeErr (Instr × List Byte) :=
  match takeWord bs with
  | none => .error .tooShort
  | some (w0, rest) =>
    if fmtOf w0 = 2 then
      match takeWord rest with
      | none => .error .tooShort
      | some (w1, rest') => (decodeWords w0 (some w1)).map (·, rest')
    else (decodeWords w0 none).map (·, rest)

/-- The bytes of a 64-bit word, little-endian (R67). -/
def wordBytes (w : BitVec 64) : List Byte :=
  [w.extractLsb' 0 8, w.extractLsb' 8 8, w.extractLsb' 16 8, w.extractLsb' 24 8,
   w.extractLsb' 32 8, w.extractLsb' 40 8, w.extractLsb' 48 8, w.extractLsb' 56 8]

/-- The bytes of an instruction as memory holds them. -/
def encodeBytes (i : Instr) : List Byte := (encode i).flatMap wordBytes

/-- The instruction read from the low `nbits` bits of `w`, the first word in bits [63:0] and a second word in bits
[127:64]; bits above `nbits` are zero. -/
def decodeTableWord (nbits w : Nat) : Option Instr :=
  let v := w % 2 ^ nbits
  match decode (wordBytes (BitVec.ofNat 64 v) ++ wordBytes (BitVec.ofNat 64 (v / 2 ^ 64))) with
  | .ok (i, _) => some i
  | .error _ => none

end Sys2Proof
end

