-- ==== Sys2Proof/Machine/Float.lean ====
section
/-! DEFINITION. Number formats, rounding, special functions and the random generator
(spec/02_number_formats.md). Encodings are natural numbers below 2^width; exact values are of type Ex. -/

namespace Sys2Proof.Machine

/-! ### Formats and exact values -/

/-- The floating-point formats (Table NF-1). -/
inductive Fmt where
  | f64 | f32 | f16 | bf16 | e5m2 | e4m3
  deriving DecidableEq, Repr

/-- An exact value: NaN, an infinity, or (-1)^neg * m * 2^e. A zero keeps its sign. -/
inductive Ex where
  | nan
  | inf (neg : Bool)
  | fin (neg : Bool) (m : Nat) (e : Int)
  deriving DecidableEq, Repr

def Fmt.fracBits : Fmt → Nat
  | .f64 => 52
  | .f32 => 23
  | .f16 => 10
  | .bf16 => 7
  | .e5m2 => 2
  | .e4m3 => 3

def Fmt.expBits : Fmt → Nat
  | .f64 => 11
  | .f32 => 8
  | .f16 => 5
  | .bf16 => 8
  | .e5m2 => 5
  | .e4m3 => 4

def Fmt.bias : Fmt → Nat
  | .f64 => 1023
  | .f32 => 127
  | .f16 => 15
  | .bf16 => 127
  | .e5m2 => 15
  | .e4m3 => 7

/-- Bits of an encoding. -/
def Fmt.width (f : Fmt) : Nat := 1 + f.expBits + f.fracBits

/-- The sign bit's weight. -/
def Fmt.signBit (f : Fmt) : Nat := 2 ^ (f.expBits + f.fracBits)

/-- The encoding of the largest finite value M (Table NF-1). -/
def Fmt.maxFinite : Fmt → Nat
  | .f64 => 0x7FEFFFFFFFFFFFFF
  | .f32 => 0x7F7FFFFF
  | .f16 => 0x7BFF
  | .bf16 => 0x7F7F
  | .e5m2 => 0x7B
  | .e4m3 => 0x7E

/-- The canonical NaN (Table NF-3). -/
def Fmt.canonNaN : Fmt → Nat
  | .f64 => 0x7FF8000000000000
  | .f32 => 0x7FC00000
  | .f16 => 0x7E00
  | .bf16 => 0x7FC0
  | .e5m2 => 0x7E
  | .e4m3 => 0x7F

/-- E4M3 has no infinity (R37). -/
def Fmt.hasInf : Fmt → Bool
  | .e4m3 => false
  | _ => true

/-- The encoding of +infinity, for a format that has one. -/
def Fmt.infEnc (f : Fmt) : Nat := (2 ^ f.expBits - 1) * 2 ^ f.fracBits

/-- The magnitude bits of an encoding. -/
def Fmt.mag (f : Fmt) (b : Nat) : Nat := b % f.signBit

/-- The sign of an encoding. -/
def Fmt.neg (f : Fmt) (b : Nat) : Bool := b / f.signBit % 2 == 1

/-- Sets the sign of a magnitude. -/
def Fmt.signed (f : Fmt) (neg : Bool) (mag : Nat) : Nat := if neg then f.signBit + mag else mag

/-- The value of an encoding (R37). -/
def Fmt.toEx (f : Fmt) (b : Nat) : Ex :=
  let a := f.mag b
  let ef := a / 2 ^ f.fracBits
  let ff := a % 2 ^ f.fracBits
  let n := f.neg b
  if f = .e4m3 ∧ a = 0x7F then .nan
  else if f ≠ .e4m3 ∧ ef = 2 ^ f.expBits - 1 then (if ff = 0 then .inf n else .nan)
  else if ef = 0 then .fin n ff (1 - (f.bias : Int) - f.fracBits)
  else .fin n (2 ^ f.fracBits + ff) ((ef : Int) - f.bias - f.fracBits)

def Fmt.isNaN (f : Fmt) (b : Nat) : Bool := f.toEx b == .nan

/-- A subnormal encoding becomes a zero of its sign (Table NF-10, flush). -/
def Fmt.flush (f : Fmt) (b : Nat) : Nat :=
  if f.mag b / 2 ^ f.fracBits = 0 then f.signed (f.neg b) 0 else b

/-! ### Exact arithmetic -/

def Ex.isNaN : Ex → Bool
  | .nan => true
  | _ => false

def Ex.isZero : Ex → Bool
  | .fin _ m _ => m == 0
  | _ => false

def Ex.isNeg : Ex → Bool
  | .nan => false
  | .inf n => n
  | .fin n _ _ => n

def Ex.negate : Ex → Ex
  | .nan => .nan
  | .inf n => .inf (!n)
  | .fin n m e => .fin (!n) m e

def Ex.abs : Ex → Ex
  | .nan => .nan
  | .inf _ => .inf false
  | .fin _ m e => .fin false m e

/-- Multiplication by 2^k, exact. -/
def Ex.scale (k : Int) : Ex → Ex
  | .nan => .nan
  | .inf n => .inf n
  | .fin n m e => .fin n m (e + k)

/-- The product; an infinity times a zero is NaN, a zero's sign is the exclusive-or (R46). -/
def Ex.mul (a b : Ex) : Ex :=
  match a, b with
  | .nan, _ => .nan
  | _, .nan => .nan
  | .inf x, .inf y => .inf (x != y)
  | .inf x, .fin y m _ => if m = 0 then .nan else .inf (x != y)
  | .fin x m _, .inf y => if m = 0 then .nan else .inf (x != y)
  | .fin x m e, .fin y k d => .fin (x != y) (m * k) (e + d)

/-- The signed significand of a finite value on the grid 2^e0, for e0 at most its exponent. -/
def Ex.atGrid (e0 : Int) : Ex → Int
  | .fin n m e => (if n then -1 else 1) * (m : Int) * 2 ^ (e - e0).toNat
  | _ => 0

def Ex.expo : Ex → Int
  | .fin _ _ e => e
  | _ => 0

def Ex.isPosInf (x : Ex) : Bool := x == .inf false
def Ex.isNegInf (x : Ex) : Bool := x == .inf true
def Ex.isNegZero : Ex → Bool
  | .fin n m _ => n && m == 0
  | _ => false

/-- The least exponent of the finite terms. -/
def minExpo (xs : List Ex) : Int :=
  match xs with
  | [] => 0
  | x :: rest => rest.foldl (fun a y => min a y.expo) x.expo

/-- The exact sum of the terms; a zero sum takes its sign from R46 under the rounding mode. DEDUCED, log 13. -/
def sumEx (rm : RM) (xs : List Ex) : Ex :=
  if xs.any Ex.isNaN then .nan
  else if xs.any Ex.isPosInf && xs.any Ex.isNegInf then .nan
  else if xs.any Ex.isPosInf then .inf false
  else if xs.any Ex.isNegInf then .inf true
  else
    let e0 := minExpo xs
    let t : Int := xs.foldl (fun a x => a + x.atGrid e0) 0
    if t = 0 then .fin (xs.all Ex.isNegZero || rm == .rd) 0 e0 else .fin (decide (t < 0)) t.natAbs e0

/-- An order of two values that are not NaN; -0 and +0 are equal. -/
def Ex.cmp (a b : Ex) : Option Ordering :=
  match a, b with
  | .nan, _ => none
  | _, .nan => none
  | .inf x, .inf y => some (if x = y then .eq else if x then .lt else .gt)
  | .inf x, .fin _ _ _ => some (if x then .lt else .gt)
  | .fin _ _ _, .inf y => some (if y then .gt else .lt)
  | .fin n m e, .fin k p d =>
    let e0 := min e d
    some (compare ((Ex.fin n m e).atGrid e0) ((Ex.fin k p d).atGrid e0))

/-- The value of an integer. -/
def Ex.ofInt (i : Int) : Ex := .fin (decide (i < 0)) i.natAbs 0

/-! ### Rounding -/

/-- Whether a magnitude with discarded part `rem` of `2^sh` rounds up to the next value. -/
def roundsUp (rm : RM) (neg : Bool) (t rem sh : Nat) : Bool :=
  match rm with
  | .rne => decide (2 * rem > 2 ^ sh) || (decide (2 * rem = 2 ^ sh) && t % 2 == 1)
  | .rz => false
  | .ru => !neg && decide (rem ≠ 0)
  | .rd => neg && decide (rem ≠ 0)

/-- A value on the grid of a format: truncated significand, discarded part, its width, and the grid's exponent. -/
structure OnGrid where
  t : Nat
  rem : Nat
  sh : Nat
  q : Int
  deriving DecidableEq, Repr

/-- Places m * 2^e, m nonzero, on the grid of `f`, subnormal below the smallest normal (R43). -/
def Fmt.grid (f : Fmt) (m : Nat) (e : Int) : OnGrid :=
  let top := (Nat.log2 m : Int) + e
  let q := max top (1 - (f.bias : Int)) - f.fracBits
  if q ≤ e then { t := m * 2 ^ (e - q).toNat, rem := 0, sh := 0, q := q }
  else
    let sh := (q - e).toNat
    { t := m / 2 ^ sh, rem := m % 2 ^ sh, sh := sh, q := q }

/-- The magnitude encoding of t * 2^q for a grid significand t, the exponent range unbounded above. -/
def Fmt.encMag (f : Fmt) (t : Nat) (q : Int) : Nat :=
  if t < 2 ^ f.fracBits then t
  else ((q + f.fracBits + f.bias).toNat) * 2 ^ f.fracBits + (t - 2 ^ f.fracBits)

/-- Table NF-4, on a magnitude: `toMax` says that the mode delivers M. -/
def Fmt.overflow (f : Fmt) (sat toMax : Bool) : Nat :=
  if sat || toMax then f.maxFinite else if f.hasInf then f.infEnc else f.canonNaN

/-- An infinity of the format (R43); E4M3 gives NaN, or its largest value when saturating. -/
def Fmt.ofInf (f : Fmt) (neg sat : Bool) : Nat :=
  if f.hasInf then f.signed neg f.infEnc
  else if sat then f.signed neg f.maxFinite else f.canonNaN

/-- An overflowed magnitude with its sign; a NaN is canonical. -/
def Fmt.signedOverflow (f : Fmt) (neg sat toMax : Bool) : Nat :=
  let r := f.overflow sat toMax
  if r = f.canonNaN then r else f.signed neg r

/-- `round(x, fmt, mode, sat)` of R43 and R44. -/
def round (x : Ex) (f : Fmt) (rm : RM) (sat : Bool) : Nat :=
  match x with
  | .nan => f.canonNaN
  | .inf n => f.ofInf n sat
  | .fin n m e =>
    if m = 0 then f.signed n 0
    else
      let g := f.grid m e
      let up := roundsUp rm n g.t g.rem g.sh
      let low := f.encMag g.t g.q
      let mag := if up then f.encMag (g.t + 1) g.q else low
      let past := match rm with
        | .rne => decide (low > f.maxFinite) || (decide (low = f.maxFinite) && decide (2 * g.rem ≥ 2 ^ g.sh) && decide (g.sh ≠ 0))
        | _ => decide (mag > f.maxFinite)
      if past then
        let toMax := match rm with
          | .rne => false
          | .rz => true
          | .ru => n
          | .rd => !n
        f.signedOverflow n sat toMax
      else f.signed n mag

/-- `round_sr(x, fmt, rb, sat)` of R45. -/
def roundSr (x : Ex) (f : Fmt) (rb : Nat) (sat : Bool) : Nat :=
  match x with
  | .nan => f.canonNaN
  | .inf n => f.ofInf n sat
  | .fin n m e =>
    if m = 0 then f.signed n 0
    else
      let g := f.grid m e
      let fr := g.rem * 2 ^ 16 / 2 ^ g.sh
      let mag := f.encMag (if fr + rb ≥ 2 ^ 16 then g.t + 1 else g.t) g.q
      if mag > f.maxFinite then f.signedOverflow n sat false else f.signed n mag

/-- The integer nearest an exact finite value by the mode, as a magnitude. -/
def roundMag (rm : RM) (neg : Bool) (m : Nat) (e : Int) : Nat :=
  if 0 ≤ e then m * 2 ^ e.toNat
  else
    let sh := (-e).toNat
    let t := m / 2 ^ sh
    if roundsUp rm neg t (m % 2 ^ sh) sh then t + 1 else t

/-- `to_int` of R48 into the range [lo, hi]. -/
def exToInt (x : Ex) (rm : RM) (lo hi : Int) : Int :=
  match x with
  | .nan => 0
  | .inf n => if n then lo else hi
  | .fin n m e =>
    let v : Int := if n then -(roundMag rm n m e : Int) else roundMag rm n m e
    max lo (min hi v)

/-- `to_int_rne` into the unbounded integers; 0 where there is no finite value. -/
def exToIntRne (x : Ex) : Int :=
  match x with
  | .fin n m e => if n then -(roundMag .rne n m e : Int) else roundMag .rne n m e
  | _ => 0

/-- R142: rounding to an integral value of the same format; a zero keeps the sign. -/
def roundIntegral (f : Fmt) (rm : RM) (b : Nat) : Nat :=
  match f.toEx b with
  | .nan => f.canonNaN
  | .inf _ => b
  | .fin n m e => if 0 ≤ e then b else round (.fin n (roundMag rm n m e) 0) f rm false

/-- Integer square root by digits: the largest r' with r'^2 at most n, adding bits below 2^i to r. -/
def isqrtGo (i r n : Nat) : Nat :=
  match i with
  | 0 => r
  | j + 1 =>
    let r' := r + 2 ^ j
    isqrtGo j (if r' * r' ≤ n then r' else r) n

/-- The exact square root rounded to a format (R141): -0 stays, a negative value gives NaN. -/
def sqrtRound (f : Fmt) (rm : RM) (x : Ex) : Nat :=
  match x with
  | .nan => f.canonNaN
  | .inf n => if n then f.canonNaN else f.infEnc
  | .fin n m e =>
    if m = 0 then f.signed n 0
    else if n then f.canonNaN
    else
      let k := 120 - Nat.log2 m + (if (e - (120 - Nat.log2 m : Nat)) % 2 = 0 then 0 else 1)
      let v := m * 2 ^ k
      let r := isqrtGo 62 0 v
      round (.fin false (2 * r + (if r * r = v then 0 else 1)) ((e - k) / 2 - 1)) f rm false

/-! ### FP32 helpers (Table NF-10) -/

abbrev f32Ex (b : Nat) : Ex := Fmt.f32.toEx b

def round32 (x : Ex) : Nat := round x .f32 .rne false
def addF32 (a b : Nat) : Nat := round32 (sumEx .rne [f32Ex a, f32Ex b])
def mulF32 (a b : Nat) : Nat := round32 ((f32Ex a).mul (f32Ex b))
def fmaF32 (a b c : Nat) : Nat := round32 (sumEx .rne [(f32Ex a).mul (f32Ex b), f32Ex c])
/-- Negation of an FP32 encoding: the sign bit flips. -/
def negF32 (a : Nat) : Nat := if a < 2 ^ 31 then a + 2 ^ 31 else a - 2 ^ 31
def one32 : Nat := 0x3F800000
def inf32 : Nat := 0x7F800000
def nan32 : Nat := 0x7FC00000

/-- Table NF-7, TE: 2^(i/64) rounded by RNE. -/
def tableTE : List Nat :=
  [0x3F800000, 0x3F8164D2, 0x3F82CD87, 0x3F843A29, 0x3F85AAC3, 0x3F871F62, 0x3F88980F, 0x3F8A14D5,
   0x3F8B95C2, 0x3F8D1ADF, 0x3F8EA43A, 0x3F9031DC, 0x3F91C3D3, 0x3F935A2B, 0x3F94F4F0, 0x3F96942D,
   0x3F9837F0, 0x3F99E046, 0x3F9B8D3A, 0x3F9D3EDA, 0x3F9EF532, 0x3FA0B051, 0x3FA27043, 0x3FA43516,
   0x3FA5FED7, 0x3FA7CD94, 0x3FA9A15B, 0x3FAB7A3A, 0x3FAD583F, 0x3FAF3B79, 0x3FB123F6, 0x3FB311C4] ++
  [0x3FB504F3, 0x3FB6FD92, 0x3FB8FBAF, 0x3FBAFF5B, 0x3FBD08A4, 0x3FBF179A, 0x3FC12C4D, 0x3FC346CD,
   0x3FC5672A, 0x3FC78D75, 0x3FC9B9BE, 0x3FCBEC15, 0x3FCE248C, 0x3FD06334, 0x3FD2A81E, 0x3FD4F35B,
   0x3FD744FD, 0x3FD99D16, 0x3FDBFBB8, 0x3FDE60F5, 0x3FE0CCDF, 0x3FE33F89, 0x3FE5B907, 0x3FE8396A,
   0x3FEAC0C7, 0x3FED4F30, 0x3FEFE4BA, 0x3FF28177, 0x3FF5257D, 0x3FF7D0DF, 0x3FFA83B3, 0x3FFD3E0C]

/-- Table NF-7, RC: 1/(1 + (2i+1)/128) rounded by RNE. -/
def tableRC : List Nat :=
  [0x3F7E03F8, 0x3F7A232D, 0x3F76603E, 0x3F72B9D6, 0x3F6F2EB7, 0x3F6BBDB3, 0x3F6865AC, 0x3F652598,
   0x3F61FC78, 0x3F5EE95C, 0x3F5BEB62, 0x3F5901B2, 0x3F562B81, 0x3F53680D, 0x3F50B6A0, 0x3F4E168A,
   0x3F4B8728, 0x3F4907DA, 0x3F46980C, 0x3F443730, 0x3F41E4BC, 0x3F3FA030, 0x3F3D6910, 0x3F3B3EE7,
   0x3F392144, 0x3F370FBB, 0x3F3509E7, 0x3F330F63, 0x3F311FD4, 0x3F2F3ADE, 0x3F2D602B, 0x3F2B8F6A] ++
  [0x3F29C84A, 0x3F280A81, 0x3F2655C4, 0x3F24A9CF, 0x3F23065E, 0x3F216B31, 0x3F1FD80A, 0x3F1E4CAD,
   0x3F1CC8E1, 0x3F1B4C70, 0x3F19D723, 0x3F1868C8, 0x3F17012E, 0x3F15A025, 0x3F144581, 0x3F12F114,
   0x3F11A2B4, 0x3F105A38, 0x3F0F177A, 0x3F0DDA52, 0x3F0CA29C, 0x3F0B7034, 0x3F0A42F8, 0x3F091AC7,
   0x3F07F781, 0x3F06D905, 0x3F05BF37, 0x3F04A9FA, 0x3F039930, 0x3F028CC0, 0x3F01848E, 0x3F008081]

/-- Table NF-7, LG: -log2(RC[i]) rounded by RNE. -/
def tableLG : List Nat :=
  [0x3C37F28B, 0x3D08E68D, 0x3D626FCC, 0x3D9D5182, 0x3DC8C50D, 0x3DF3975C, 0x3E0EE690, 0x3E23B551,
   0x3E383A17, 0x3E4C76EA, 0x3E606DB6, 0x3E74205F, 0x3E83C856, 0x3E8D602E, 0x3E96D887, 0x3EA03234,
   0x3EA96DEF, 0x3EB28C80, 0x3EBB8E97, 0x3EC474E2, 0x3ECD4011, 0x3ED5F0C3, 0x3EDE8798, 0x3EE70525,
   0x3EEF69FF, 0x3EF7B6B5, 0x3EFFEBCB, 0x3F0404E8, 0x3F08089D, 0x3F0C0146, 0x3F0FEF1F, 0x3F13D260] ++
  [0x3F17AB44, 0x3F1B79FF, 0x3F1F3ECA, 0x3F22F9D5, 0x3F26AB53, 0x3F2A5375, 0x3F2DF268, 0x3F31885D,
   0x3F35157E, 0x3F3899F4, 0x3F3C15EE, 0x3F3F8991, 0x3F42F506, 0x3F465873, 0x3F49B3FA, 0x3F4D07C5,
   0x3F5053F6, 0x3F5398AF, 0x3F56D60F, 0x3F5A0C3A, 0x3F5D3B4E, 0x3F60636B, 0x3F6384AF, 0x3F669F36,
   0x3F69B31C, 0x3F6CC084, 0x3F6FC782, 0x3F72C831, 0x3F75C2B1, 0x3F78B713, 0x3F7BA577, 0x3F7E8DF1]

/-- Table NF-7, RQ: 1/sqrt(2^p (1 + (2j+1)/64)) rounded by RNE, i = 32p + j. -/
def tableRQ : List Nat :=
  [0x3F7E05EC, 0x3F7A33F9, 0x3F768CDC, 0x3F730D8A, 0x3F6FB345, 0x3F6C7B90, 0x3F69642A, 0x3F666B02,
   0x3F638E39, 0x3F60CC16, 0x3F5E2305, 0x3F5B9193, 0x3F59166B, 0x3F56B051, 0x3F545E22, 0x3F521ED0,
   0x3F4FF162, 0x3F4DD4ED, 0x3F4BC89B, 0x3F49CBA2, 0x3F47DD45, 0x3F45FCD6, 0x3F4429AF, 0x3F426337,
   0x3F40A8DE, 0x3F3EFA1C, 0x3F3D5671, 0x3F3BBD67, 0x3F3A2E8C, 0x3F38A975, 0x3F372DBF, 0x3F35BB09] ++
  [0x3F339F19, 0x3F30EB96, 0x3F2E565C, 0x3F2BDD46, 0x3F297E62, 0x3F2737F0, 0x3F250855, 0x3F22EE1D,
   0x3F20E7F5, 0x3F1EF4A4, 0x3F1D130E, 0x3F1B422C, 0x3F19810C, 0x3F17CED0, 0x3F162AA9, 0x3F1493D9,
   0x3F1309AF, 0x3F118B87, 0x3F1018C6, 0x3F0EB0E0, 0x3F0D534F, 0x3F0BFF97, 0x3F0AB544, 0x3F0973E8,
   0x3F083B1E, 0x3F070A87, 0x3F05E1C7, 0x3F04C08B, 0x3F03A682, 0x3F029362, 0x3F0186E2, 0x3F0080C1]

/-- Table NF-8: (ln 2)^k / k!. -/
def constC1 : Nat := 0x3F317218
/-- Table NF-8: (ln 2)^k / k!. -/
def constC2 : Nat := 0x3E75FDF0
/-- Table NF-8: (ln 2)^k / k!. -/
def constC3 : Nat := 0x3D635847
/-- Table NF-8: (-1)^(k+1) / (k ln 2). -/
def constD1 : Nat := 0x3FB8AA3B
/-- Table NF-8: (-1)^(k+1) / (k ln 2). -/
def constD2 : Nat := 0xBF38AA3B
/-- Table NF-8: (-1)^(k+1) / (k ln 2). -/
def constD3 : Nat := 0x3EF6384F
/-- Table NF-8: (-1)^(k+1) / (k ln 2). -/
def constD4 : Nat := 0xBEB8AA3B
/-- Table NF-8: (-1)^(k+1) / (k ln 2). -/
def constD5 : Nat := 0x3E93BB63
/-- Table NF-8: 1/2, 3/8, 5/16, 35/128. -/
def constE1 : Nat := 0x3F000000
/-- Table NF-8: 1/2, 3/8, 5/16, 35/128. -/
def constE2 : Nat := 0x3EC00000
/-- Table NF-8: 1/2, 3/8, 5/16, 35/128. -/
def constE3 : Nat := 0x3EA00000
/-- Table NF-8: 1/2, 3/8, 5/16, 35/128. -/
def constE4 : Nat := 0x3E8C0000
/-- Table NF-8: 2/pi. -/
def constHPI : Nat := 0x3F22F983
/-- Table NF-8: parts of pi/2. -/
def constP1 : Nat := 0x3FC90000
/-- Table NF-8: parts of pi/2. -/
def constP2 : Nat := 0x39FDA000
/-- Table NF-8: parts of pi/2. -/
def constP3 : Nat := 0x33A22169
/-- Table NF-8: (-1)^k / (2k+1)!. -/
def constA1 : Nat := 0xBE2AAAAB
/-- Table NF-8: (-1)^k / (2k+1)!. -/
def constA2 : Nat := 0x3C088889
/-- Table NF-8: (-1)^k / (2k+1)!. -/
def constA3 : Nat := 0xB9500D01
/-- Table NF-8: (-1)^k / (2k+1)!. -/
def constA4 : Nat := 0x3638EF1D
/-- Table NF-8: (-1)^k / (2k)!. -/
def constB1 : Nat := 0xBF000000
/-- Table NF-8: (-1)^k / (2k)!. -/
def constB2 : Nat := 0x3D2AAAAB
/-- Table NF-8: (-1)^k / (2k)!. -/
def constB3 : Nat := 0xBAB60B61
/-- Table NF-8: (-1)^k / (2k)!. -/
def constB4 : Nat := 0x37D00D01
/-- Table NF-8: (-1)^k / (2k)!. -/
def constB5 : Nat := 0xB493F27E
/-- Table NF-8: -1/3, 2/15, -17/315. -/
def constG1 : Nat := 0xBEAAAAAB
/-- Table NF-8: -1/3, 2/15, -17/315. -/
def constG2 : Nat := 0x3E088889
/-- Table NF-8: -1/3, 2/15, -17/315. -/
def constG3 : Nat := 0xBD5D0DD1
/-- Table NF-8: 2/ln 2. -/
def constK2 : Nat := 0x4038AA3B

/-- `normalise` of R55 for a finite nonzero value: the encoding of m in [1, 2) and the exponent. -/
def normalise (x : Nat) : Nat × Int :=
  match f32Ex x with
  | .fin _ m e =>
    let l := Nat.log2 m
    (round32 (.fin false m (-(l : Int))), (l : Int) + e)
  | _ => (one32, 0)

/-- x >= c for FP32 encodings that are not NaN. -/
def geF32 (x c : Nat) : Bool :=
  match (f32Ex x).cmp (f32Ex c) with
  | some .lt => false
  | none => false
  | _ => true

/-- R57. -/
def exp2Alg (x : Nat) : Nat :=
  if Fmt.f32.isNaN x then nan32
  else if geF32 x 0x43000000 then inf32
  else if !geF32 x 0xC3170000 then 0
  else
    let n := exToIntRne ((f32Ex x).scale 6)
    let r := round32 (sumEx .rne [f32Ex x, (Ex.ofInt n).scale (-6) |>.negate])
    let i := (n % 64).toNat
    let e := (n - i) / 64
    let u := fmaF32 constC3 r constC2
    let u := fmaF32 u r constC1
    let u := mulF32 r u
    let m := fmaF32 (tableTE.getD i 0) u (tableTE.getD i 0)
    round32 ((f32Ex m).scale e)

/-- R58. -/
def log2Alg (x : Nat) : Nat :=
  if Fmt.f32.isNaN x then nan32
  else if Fmt.f32.mag x = 0 then 0xFF800000
  else if Fmt.f32.neg x then nan32
  else if x = inf32 then inf32
  else
    let near1 := geF32 x 0x3F7C0000 && !geF32 x 0x3F820000
    let me := normalise x
    let i := me.1 % 2 ^ 23 / 2 ^ 17
    let t := if near1 then round32 (sumEx .rne [f32Ex x, f32Ex 0xBF800000])
      else fmaF32 me.1 (tableRC.getD i 0) 0xBF800000
    let w := fmaF32 constD5 t constD4
    let w := fmaF32 w t constD3
    let w := fmaF32 w t constD2
    let w := fmaF32 w t constD1
    let w := mulF32 t w
    if near1 then w
    else addF32 (round32 (Ex.ofInt me.2)) (addF32 (tableLG.getD i 0) w)

/-- R59. -/
def rcpAlg (x : Nat) : Nat :=
  match f32Ex x with
  | .nan => nan32
  | .inf n => Fmt.f32.signed n 0
  | .fin n m _ =>
    if m = 0 then Fmt.f32.signed n inf32
    else
      let me := normalise x
      let rc := tableRC.getD (me.1 % 2 ^ 23 / 2 ^ 17) 0
      let t := fmaF32 (negF32 me.1) rc one32
      let u := fmaF32 t t t
      let u := fmaF32 u t t
      let y := fmaF32 rc u rc
      round32 (if n then ((f32Ex y).scale (-me.2)).negate else (f32Ex y).scale (-me.2))

/-- R60. -/
def rsqrtAlg (x : Nat) : Nat :=
  match f32Ex x with
  | .nan => nan32
  | .inf n => if n then nan32 else 0
  | .fin n m _ =>
    if m = 0 then Fmt.f32.signed n inf32
    else if n then nan32
    else
      let me := normalise x
      let p := me.2 % 2
      let h := (me.2 - p) / 2
      let rq := tableRQ.getD (32 * p.toNat + me.1 % 2 ^ 23 / 2 ^ 18) 0
      let mp := round32 ((f32Ex me.1).scale p)
      let a := mulF32 mp rq
      let t := fmaF32 (negF32 a) rq one32
      let w := fmaF32 constE4 t constE3
      let w := fmaF32 w t constE2
      let w := fmaF32 w t constE1
      let w := mulF32 t w
      let y := fmaF32 rq w rq
      round32 ((f32Ex y).scale (-h))

/-- R61. -/
def sincos (x : Nat) (wantCos : Bool) : Nat :=
  match f32Ex x with
  | .nan => nan32
  | .inf _ => nan32
  | .fin _ m _ =>
    if m = 0 then (if wantCos then one32 else x)
    else
      let n := exToIntRne (f32Ex (mulF32 x constHPI))
      let nf := (Ex.ofInt n).negate
      let red (r p : Nat) : Nat := round32 (sumEx .rne [nf.mul (f32Ex p), f32Ex r])
      let r := red (red (red x constP1) constP2) constP3
      let s := mulF32 r r
      let u := fmaF32 constA4 s constA3
      let u := fmaF32 u s constA2
      let u := fmaF32 u s constA1
      let sv := fmaF32 (mulF32 r s) u r
      let v := fmaF32 constB5 s constB4
      let v := fmaF32 v s constB3
      let v := fmaF32 v s constB2
      let v := fmaF32 v s constB1
      let cv := fmaF32 s v one32
      match ((n + (if wantCos then 1 else 0)) % 4).toNat with
      | 0 => sv
      | 1 => cv
      | 2 => negF32 sv
      | _ => negF32 cv

def sinAlg (x : Nat) : Nat := sincos x false
def cosAlg (x : Nat) : Nat := sincos x true

/-- R62. -/
def tanhAlg (x : Nat) : Nat :=
  if Fmt.f32.isNaN x then nan32
  else
    let a := Fmt.f32.mag x
    let y :=
      if geF32 a 0x41200000 then one32
      else if !geF32 a 0x3E000000 then
        let s := mulF32 a a
        let u := fmaF32 constG3 s constG2
        let u := fmaF32 u s constG1
        fmaF32 (mulF32 a s) u a
      else
        let ev := exp2Alg (mulF32 a constK2)
        let d := addF32 ev one32
        fmaF32 0xC0000000 (rcpAlg d) one32
    Fmt.f32.signed (Fmt.f32.neg x) (Fmt.f32.mag y)

/-! ### Quantised formats -/

/-- `dequant(c, z, sigma)` of R49, as an FP32 encoding; sigma is an FP16 encoding. -/
def dequant (c z : Int) (sigma : Nat) : Nat := round32 ((Fmt.f16.toEx sigma).mul (Ex.ofInt (c - z)))

/-- The exact quotient of two values rounded to an integer by RNE; NaN gives none. -/
inductive QuantQuot where
  | nan | inf (neg : Bool) | int (i : Int)
  deriving DecidableEq, Repr

/-- The quotient of R51 with IEEE special values, rounded to the nearest integer with ties to even. -/
def quotInt (x y : Ex) : QuantQuot :=
  match x, y with
  | .nan, _ => .nan
  | _, .nan => .nan
  | .inf _, .inf _ => .nan
  | .inf a, .fin b _ _ => .inf (a != b)
  | .fin _ _ _, .inf _ => .int 0
  | .fin a m e, .fin b k d =>
    if k = 0 then (if m = 0 then .nan else .inf (a != b))
    else
      let num := m * 2 ^ (e - d).toNat
      let den := k * 2 ^ (d - e).toNat
      let q := num / den
      let r := num % den
      let v := if 2 * r > den ∨ (2 * r = den ∧ q % 2 = 1) then q + 1 else q
      .int (if a != b then -(v : Int) else v)

/-- `quant(x, sigma, z, w)` of R51. -/
def quant (x sigma : Nat) (z : Int) (w : Nat) : Int :=
  let lo : Int := -(2 ^ (w - 1) : Nat)
  let hi : Int := (2 ^ (w - 1) : Nat) - 1
  match quotInt (f32Ex x) (Fmt.f16.toEx sigma) with
  | .nan => z
  | .inf n => if n then lo else hi
  | .int i => max lo (min hi (i + z))

/-! ### Matrix accumulation -/

/-- `acc_step` of R52: one rounding of the exact sum of the products and the prior value. -/
def accStep (acc : Nat) (ab : List (Ex × Ex)) : Nat :=
  round32 (sumEx .rne (f32Ex acc :: ab.map fun p => p.1.mul p.2))

/-! ### Minimum, maximum and comparison (R131, R142) -/

/-- Total order used by FMIN and FMAX on values that are not NaN: -0 counts as less than +0. -/
def Ex.lessZ (a b : Ex) : Bool :=
  match a.cmp b with
  | some .lt => true
  | some .eq => a.isZero && b.isZero && a.isNeg && !b.isNeg
  | _ => false

/-- FMIN on encodings (R142); `mx` selects FMAX. -/
def minMaxEnc (f : Fmt) (mx : Bool) (a b : Nat) : Nat :=
  let x := f.toEx a
  let y := f.toEx b
  if x.isNaN && y.isNaN then f.canonNaN
  else if x.isNaN then b
  else if y.isNaN then a
  else if mx then (if x.lessZ y then b else a) else (if y.lessZ x then b else a)

/-- Table AL-2 on exact values. -/
def condEx (cc : Cond) (a b : Ex) : Bool :=
  match cc, a.cmp b with
  | .eq, o => o == some .eq
  | .ne, o => o != some .eq
  | .lt, o => o == some .lt
  | .le, o => o == some .lt || o == some .eq
  | .gt, o => o == some .gt
  | .ge, o => o == some .gt || o == some .eq
  | .un, o => o == none
  | .ord, o => o != none

/-- The class mask of FCLASS (Table AL-6). -/
def classMask (f : Fmt) (b : Nat) : Nat :=
  let a := f.mag b
  let ef := a / 2 ^ f.fracBits
  let ff := a % 2 ^ f.fracBits
  let n := f.neg b
  let bit :=
    if ef = 2 ^ f.expBits - 1 then
      if ff = 0 then (if n then 2 else 9) else if ff / 2 ^ (f.fracBits - 1) = 0 then 0 else 1
    else if ef = 0 then
      if ff = 0 then (if n then 5 else 6) else (if n then 4 else 7)
    else if n then 3 else 8
  2 ^ bit

/-! ### The random generator (R64, R65) -/

/-- The state of one round: the counter words c0 to c3 and the keys k0 and k1. -/
structure RngState where
  c0 : BitVec 32
  c1 : BitVec 32
  c2 : BitVec 32
  c3 : BitVec 32
  k0 : BitVec 32
  k1 : BitVec 32
  deriving DecidableEq, Repr

def rngRound (s : RngState) : RngState :=
  let p0 := (0xD3A26F1B#64) * s.c0.setWidth 64
  let p1 := (0xC58B9E63#64) * s.c2.setWidth 64
  { c0 := p1.extractLsb' 32 32 ^^^ s.c1 ^^^ s.k0
    c1 := p1.extractLsb' 0 32
    c2 := p0.extractLsb' 32 32 ^^^ s.c3 ^^^ s.k1
    c3 := p0.extractLsb' 0 32
    k0 := s.k0 + 0x7A4F2C35#32
    k1 := s.k1 + 0xB1E69D07#32 }

def rngRounds (n : Nat) (s : RngState) : RngState :=
  match n with
  | 0 => s
  | k + 1 => rngRounds k (rngRound s)

/-- `rng_block(key, ctr)` of R64. -/
def rngBlock (key : BitVec 64) (ctr : BitVec 128) : BitVec 128 :=
  let s := rngRounds 10
    { c0 := ctr.extractLsb' 0 32, c1 := ctr.extractLsb' 32 32, c2 := ctr.extractLsb' 64 32, c3 := ctr.extractLsb' 96 32
      k0 := key.extractLsb' 0 32, k1 := key.extractLsb' 32 32 }
  s.c3 ++ (s.c2 ++ (s.c1 ++ s.c0))

end Sys2Proof.Machine
end

