-- ==== Sys2Proof/Config.lean ====
section
/-! DEFINITION. What the device fixes, and the values the spec leaves open. The opaque constants have no body: no
proof can know a value of them. -/

namespace Sys2Proof.Config

/-- Compute dies (R8). -/
def dies : Nat := 4
/-- Cores of a compute die (R11). -/
def coresPerDie : Nat := 128
/-- Cores of the package (R11). -/
def cores : Nat := 512
/-- Warp slots of a quadrant (R14). -/
def slotsPerQuad : Nat := 16
/-- Register rows of a quadrant's file (R14). -/
def rowsPerQuad : Nat := 1024
/-- Largest group memory partition (R25). -/
def maxPartition : Nat := 512 * 1024

/-- Free values: results that the spec does not state. The argument is the model's counter `freeCtr`, read and
advanced by the step that needs the value. -/
opaque freeValue : Nat → BitVec 64

/-- The value of an inline constant that its 8-bit float type cannot hold (R81 states only the exact conversions):
arguments are the format's width in exponent bits and the constant's code. -/
opaque constE8 : Nat → BitVec 6 → BitVec 8

/-- LANEID read by an instruction that executes once for the warp (R80 and R121 state no lane for it): the argument is
the model's counter `freeCtr`. -/
opaque issueLaneId : Nat → BitVec 32

/-- Lengths of a firmware image's header and signature (R475). -/
def imageHeader : Nat := 4096
def imageSignature : Nat := 29792

/-- The IMAGE VERSION and the security version number that an image's header holds; R475 gives no place for them. -/
opaque imageVersion : List (BitVec 8) → Nat
opaque imageSvn : List (BitVec 8) → Nat

/-- Whether a signature over a header and payload verifies (SLH-DSA-SHAKE-256s, R473, R475). -/
opaque signatureOk : List (BitVec 8) → List (BitVec 8) → Bool

/-- The security version number in fuses (R475). -/
opaque fusedSvn : Nat

/-- The SHA-384 digest of some bytes (R473). -/
opaque sha384 : List (BitVec 8) → BitVec 384

/-- The leaf key of the device identity, fixed at manufacture: a public key of 64 bytes (R473). -/
opaque leafKey : BitVec 512

/-- The device identity chain with a leaf key (R473). -/
opaque chain : BitVec 512 → List (BitVec 8)

/-- The certificate chain of slot 0, and its digest (R473). -/
def certificates : List (BitVec 8) := chain leafKey
def certificateDigest : BitVec 384 := sha384 certificates

/-- The signature of 29,792 bytes that verifies under a public key, over a nonce and the measurement blocks (R473). -/
opaque signature : BitVec 512 → BitVec 256 → List (BitVec 384) → BitVec 238336

/-- The device's signature as bytes. -/
def sign (nonce : BitVec 256) (blocks : List (BitVec 384)) : List (BitVec 8) :=
  (List.range 29792).map fun i => (signature leafKey nonce blocks).extractLsb' (8 * i) 8

/-- What a measurement block covers (Table MC-5), as it ran at the last cold reset. Arguments: the block's index, the image
(none: that of manufacture), and the fence list in force as numbers. -/
opaque measured : Nat → Option (List (BitVec 8)) → List Nat → List (BitVec 8)

/-- The measurement block of an index: a SHA-384 digest (R474). -/
def measurement (i : Nat) (image : Option (List (BitVec 8))) (fences : List Nat) : BitVec 384 := sha384 (measured i image fences)

end Sys2Proof.Config
end

