-- ==== Sys2Proof/Machine/Store.lean ====
section
/-! DEFINITION. Sparse stores: lists of key and value pairs in one canonical form, keys strictly rising. A store
with a default value lists no entry equal to it, so that equal contents are equal lists. -/

namespace Sys2Proof.Machine

/-- A store keyed by naturals. -/
abbrev SMap (α : Type) := List (Nat × α)

variable {α : Type}

/-- The entry at a key. -/
def SMap.find? (m : SMap α) (k : Nat) : Option α :=
  match m with
  | [] => none
  | (i, a) :: rest => if i = k then some a else SMap.find? rest k

/-- The entry at a key, or the default of an unlisted key. -/
def SMap.get (d : α) (m : SMap α) (k : Nat) : α := (m.find? k).getD d

/-- Inserts or replaces the entry at a key. -/
def SMap.put (m : SMap α) (k : Nat) (a : α) : SMap α :=
  match m with
  | [] => [(k, a)]
  | (i, b) :: rest => if i = k then (k, a) :: rest else if k < i then (k, a) :: (i, b) :: rest else (i, b) :: SMap.put rest k a

/-- Removes the entry at a key. -/
def SMap.del (m : SMap α) (k : Nat) : SMap α :=
  match m with
  | [] => []
  | (i, b) :: rest => if i = k then rest else (i, b) :: SMap.del rest k

/-- Writes a value in canonical form: the default is not listed. -/
def SMap.set [DecidableEq α] (d : α) (m : SMap α) (k : Nat) (a : α) : SMap α :=
  if a = d then m.del k else m.put k a

/-- Keys strictly rise from a lower bound. -/
def SMap.above (m : SMap α) (lo : Nat) : Bool :=
  match m with
  | [] => true
  | (i, _) :: rest => decide (lo ≤ i) && SMap.above rest (i + 1)

/-- The canonical form of a store without a default: keys strictly rise. -/
def SMap.sorted (m : SMap α) : Bool := m.above 0

/-- The canonical form of a store with a default: keys strictly rise and no entry equals the default. -/
def SMap.wf [DecidableEq α] (d : α) (m : SMap α) : Bool := m.above 0 && m.all fun p => decide (p.2 ≠ d)

/-- A set of naturals in canonical form: the list strictly rises. -/
abbrev NSet := List Nat

def NSet.has (s : NSet) (k : Nat) : Bool := s.contains k

def NSet.add (s : NSet) (k : Nat) : NSet :=
  match s with
  | [] => [k]
  | i :: rest => if i = k then i :: rest else if k < i then k :: i :: rest else i :: NSet.add rest k

def NSet.remove (s : NSet) (k : Nat) : NSet := s.filter (· ≠ k)

/-- Adds or removes by a flag. -/
def NSet.assign (s : NSet) (k : Nat) (b : Bool) : NSet := if b then s.add k else s.remove k

/-- The members of a set that lie in [lo, lo + n), less lo. -/
def NSet.slice (s : NSet) (lo n : Nat) : List Nat := (s.filter fun i => decide (lo ≤ i ∧ i < lo + n)).map (· - lo)

def NSet.above (s : NSet) (lo : Nat) : Bool :=
  match s with
  | [] => true
  | i :: rest => decide (lo ≤ i) && NSet.above rest (i + 1)

/-- The canonical form of a set. -/
def NSet.wf (s : NSet) : Bool := s.above 0

/-! ### Sorted lists -/

/-- Puts an element before the first element that it does not come after. -/
def insertBy {α : Type} (le : α → α → Bool) (a : α) : List α → List α
  | [] => [a]
  | b :: xs => if le a b then a :: b :: xs else b :: insertBy le a xs

/-- A list in rising order, equal elements in their order. -/
def sortBy {α : Type} (le : α → α → Bool) : List α → List α
  | [] => []
  | a :: xs => insertBy le a (sortBy le xs)

end Sys2Proof.Machine
end

