-- ==== Sys2Proof/Machine/State.lean ====
section
/-! DEFINITION. The machine's state as plain data, the reasons a step can stop, and the state after reset. -/

namespace Sys2Proof.Machine

/-! ### Registers -/

/-- The poison tag of a register lane (R170, R171). -/
inductive Tag where
  | clean | poison | fabric
  deriving DecidableEq, Repr

/-- A 32-bit register lane with its tag. -/
structure RegVal where
  val : Word
  tag : Tag
  deriving DecidableEq, Repr

def RegVal.zero : RegVal := { val := 0, tag := .clean }

/-- The 32 lanes of a vector register, lane 0 first. -/
abbrev Lanes := List RegVal

/-- A vector register that reads zero on every lane (R113). -/
def zeroLanes : Lanes := List.replicate 32 RegVal.zero

/-- A register write: lanes of a vector register, a scalar register, bits of a predicate, or a trap register. -/
inductive Wr where
  | v (r : Nat) (mask : LaneMask) (vals : Lanes)
  | s (r : Nat) (x : RegVal)
  | k (r : Nat) (mask : LaneMask) (x : Word)
  | x (r : BitVec 5) (x : DWord)
  deriving DecidableEq, Repr

/-- A register write that takes effect in core cycle `due`: of a fixed-latency instruction from its issue on (R108), of
another from its completion on (R106). `ord` is its word's place in program order. -/
structure Pend where
  due : Nat
  ord : Nat
  wr : Wr
  deriving DecidableEq, Repr

/-! ### Traps -/

/-- What a trap reports besides the addresses of its word (R228, R230). -/
structure Trap where
  code : BitVec 6
  xaddr : DWord
  xmask : LaneMask
  origin : BitVec 4
  unit : BitVec 8
  detail : BitVec 8
  wr : Bool
  deriving DecidableEq, Repr

/-- The kinds of reconvergence token (Table BR-4). -/
inductive TokKind where
  | join | els | loop | call
  deriving DecidableEq, Repr

/-- A reconvergence token (Table BR-3). `poison` marks a token that a resumption restored as poisoned (R246). -/
structure Token where
  kind : TokKind
  depth : BitVec 8
  pc : BitVec 57
  mask : LaneMask
  poison : Bool := false
  deriving DecidableEq, Repr

/-- The entry state that a warp holds from a trap until XRET or a halt (R234). -/
structure Held where
  wa : BitVec 57
  s94 : RegVal
  s95 : RegVal
  act : LaneMask
  depth : BitVec 8
  mode : BitVec 3
  deriving DecidableEq, Repr

/-- A trap whose entry waits for the warp's engine requests to write their registers (R111, R234). -/
structure TrapWait where
  wa : BitVec 57
  xpc : DWord
  trap : Trap
  deriving DecidableEq, Repr

/-! ### Blocking waits -/

/-- A storage location that an access reaches: global memory by physical address, with the compressed attribute of the
translation (R309), or a group's memory by offset. -/
inductive Loc where
  | glob (pa : Nat) (comp : Bool)
  | sram (gid : Nat) (off : Nat)
  deriving DecidableEq, Repr

/-- The location and comparison of a WAITM (R268), the cycle of its last read, and the number of the next write at that read
(R269). -/
structure WaitmState where
  loc : Loc
  wide : Bool
  sgn : Bool
  ea : Int
  c : DWord
  cc : ICond
  peer : Peer
  d : Nat
  tmo : Option (BitVec 3)
  lastRead : Nat
  seen : Nat
  value : DWord
  deriving DecidableEq, Repr

/-- What one lane of an access received: its lane, the tag, and the bytes as a number. -/
structure Got where
  lane : Nat
  tag : Tag
  val : Nat
  deriving DecidableEq, Repr

/-- An LDFE in progress: its lanes' locations, the lanes not yet served, the results of those served, and the granules
it has emptied (R174). -/
structure LdfeState where
  n : Nat
  sx : Bool
  clr : Bool
  peer : Peer
  d : Nat
  tmo : Option (BitVec 3)
  eas : List Int
  locs : List Loc
  pending : LaneMask
  results : List Got
  emptied : List Loc
  deriving DecidableEq, Repr

/-- Why a warp issues nothing: the blocking instruction that has issued and not completed. -/
inductive Wait where
  | none
  | waitf (flag thr : Nat)
  | regx (delta : Int) (mask : Word)
  | bar (b : Nat)
  | cbar (b : Nat)
  | gbar
  | barw (loc : Loc) (ea : Int) (cmem : Bool) (p : Bool) (tmo : Option (BitVec 3))
  | waitm (w : WaitmState)
  | ldfe (w : LdfeState)
  | spenter (shape : Rect) (image : DWord)
  | spleave
  | spdrain
  deriving DecidableEq, Repr

/-! ### Warps -/

/-- A resident warp (R104 to R128, R170, R199, R230 to R236, R270). `order` counts the words that it has issued, `pend` holds the
writes that have yet to take effect, and `settled` those that took effect in the present cycle (R110). -/
structure Warp where
  wid : Nat
  gid : Nat
  pc : BitVec 57
  act : LaneMask
  depth : BitVec 8
  ntok : Nat
  held : List Token
  alloc : Nat
  rows : List (Nat × Nat)
  v : SMap Lanes
  s : SMap RegVal
  k : SMap Word
  order : Nat
  pend : List Pend
  settled : List Pend
  flags : SMap Nat
  mode : BitVec 3
  probef : Bool
  steep : BitVec 32
  notBefore : Nat
  wait : Wait
  waitPc : BitVec 57
  waitSet : Option (Fin 12)
  parked : Bool
  halted : Bool
  xpc : DWord
  xcause : BitVec 32
  xaddr : DWord
  xmask : LaneMask
  xinfo : BitVec 32
  hstate : Bool
  rdCause : Bool
  rdAddr : Bool
  dmark : Nat
  entry : Held
  trapWait : Option TrapWait
  faults : List Trap
  deriving DecidableEq, Repr

/-! ### Units of a core -/

/-- A load-store instruction in flight: its register results, its flag, the groups of its cluster whose memory it
reached (R160), whether an error reply is on its way, and the pending fault that the reply leaves (R457). -/
structure LsOp where
  lid : Nat
  gid : Nat
  wid : Nat
  ord : Nat
  due : Nat
  writes : List Wr
  flag : Option (Fin 12)
  refs : List Nat
  err : Bool
  fault : Option Trap
  deriving DecidableEq, Repr

/-- A variable-latency float instruction in flight (R134). -/
structure AluOp where
  gid : Nat
  wid : Nat
  ord : Nat
  due : Nat
  writes : List Wr
  flag : Option (Fin 12)
  deriving DecidableEq, Repr

/-- The copy instructions, by what a request does. -/
inductive CopyKind where
  | cpy | cpyz | gather | scatter | bcast | send | fetch
  deriving DecidableEq, Repr

/-- One element of a copy request: its linear index, its addresses, and the locations of its local sides. -/
structure CopyElem where
  e : Nat
  sa : Int
  da : Int
  src : Option Loc
  dst : Option Loc
  deriving DecidableEq, Repr

/-- A copy request (R284): the elements not yet performed in walk order, and the granules not yet set full. `transl` lists the
translations that it holds, each by its first virtual address and its size (R292), `waiting` the tag of the CPYX element whose
answer it awaits, `stale` the queues whose INVAL has removed one of its translations. -/
structure CopyReq where
  lid : Nat
  gid : Nat
  wid : Nat
  asid : Nat
  strm : Stream
  kind : CopyKind
  flag : Option (Fin 12)
  es : Nat
  ep : Word
  elems : List CopyElem
  grans : List Loc
  transl : List (Nat × Nat)
  waiting : Option Nat
  ended : Option Trap
  abandoned : Bool
  stale : NSet
  deriving DecidableEq, Repr

/-! ### The matrix engine and the fast-weight unit -/

/-- A stationary plane: its cells (cell (c, j) under key 64c + j), the poisoned ones, and its metadata table (entry
(j, g) under key 16j + g) (R318, R319). -/
structure Plane where
  cells : SMap (BitVec 16)
  poison : NSet
  table : SMap Word
  deriving DecidableEq, Repr

def Plane.zero : Plane := { cells := [], poison := [], table := [] }

/-- STATE of an ownership table entry (Table FW-2). -/
inductive OwnState where
  | free | owned | pinned | spilling | filling
  deriving DecidableEq, Repr

/-- An ownership table entry (Table FW-2), with what the directory keeps beside it: the group that owns the region, the
group, slot and part that it is reserved for, the launch it acts for, the culture's shape, FERR, and when the culture
was pinned. -/
structure Own where
  st : OwnState
  pin : Bool
  bound : Bool
  bwarp : Nat
  slot : Nat
  part : Nat
  asid : Nat
  handle : Nat
  gid : Option Nat
  resv : Option (Nat × Nat × Nat)
  lid : Nat
  dv16 : Nat
  dk16 : Nat
  ferr : Bool
  since : Nat
  deriving DecidableEq, Repr

/-- The reset value of an entry. -/
def Own.free : Own :=
  { st := .free, pin := false, bound := false, bwarp := 0, slot := 0, part := 0, asid := 0, handle := 0, gid := none
    resv := none, lid := 0, dv16 := 0, dk16 := 0, ferr := false, since := 0 }

/-- What a matrix request does. `regs` marks the forms on vector registers. -/
inductive MxOp where
  | wldB (w : Nat)
  | wldQ (w g : Nat)
  | flip
  | mms (ta tb : MTy) (zi regs : Bool)
  | mmsq (w g : Nat) (zi : Bool)
  | aclr
  | ald (regs : Bool)
  | ast (glob : Bool)
  | adrn (act : ActFn) (t : DrainTy) (bias sat clr regs : Bool)
  | amov
  | smx
  | smxrInit
  | smxrNorm
  | smxrRd
  | smxrWr
  deriving DecidableEq, Repr

/-- The operands of a matrix request as read at issue: the control block's fields (Table MX-5), with the tile height
`m` and the physical regions of the two slots; base and pitch; the source registers' values; the destination register;
and the locations of an AST.GLOB, element by element. -/
structure MxArgs where
  m : Nat
  mv : Nat
  kv : Nat
  rowA : Nat
  rowB : Nat
  regsA : List Nat
  regsB : List Nat
  aux : Nat
  scl : Nat
  lo : Nat
  hi : Nat
  cmask : DWord
  base : Nat
  pitch : Nat
  src : List Word
  dst : Nat
  locs : List (Nat × Nat × Loc)
  deriving DecidableEq, Repr

/-- What a fast-weight request does. -/
inductive FwOp where
  | bind
  | bindSw (h : Nat)
  | rel (pin : Option Bool)
  | delta (rec : Bool)
  | dqry
  | spill
  | fill
  | stat (d : Nat) (h : Bool)
  deriving DecidableEq, Repr

/-- The operands of a fast-weight request (Table FW-8), the slot's regions and shape, and the 4 KiB pages whose
translations it holds: virtual page, physical page and the compressed attribute. -/
structure FwArgs where
  slot : Nat
  regs : List Nat
  dv : Nat
  dk : Nat
  nt : Nat
  koff : Nat
  voff : Nat
  goff : Nat
  kp : Nat
  vp : Nat
  raddr : Nat
  pages : List (Nat × Nat × Bool)
  deriving DecidableEq, Repr

inductive ArrOp where
  | mx (o : MxOp) (a : MxArgs)
  | fw (o : FwOp) (a : FwArgs)
  deriving DecidableEq, Repr

/-- How far a CBIND.SW that changes cultures has come (R370): the old culture's spill, the wait until the new handle is resident
nowhere, the spill of its pinned copy, the fill. -/
inductive SwStage where
  | start | spillOld | spillNew | spillCopy | fill
  deriving DecidableEq, Repr

/-- A request of the matrix engine or the fast-weight unit, with the translations that it holds (R421). -/
structure ArrReq where
  lid : Nat
  gid : Nat
  wid : Nat
  ord : Nat
  asid : Nat
  flag : Option (Fin 12)
  op : ArrOp
  accepted : Bool
  stage : SwStage
  performed : Bool
  abandoned : Bool
  writes : List Wr
  fault : Option Trap
  transl : List (Nat × Nat)
  stale : NSet
  deriving DecidableEq, Repr

/-! ### The spatial fabric -/

/-- Token kinds (Table SF-1). -/
inductive TokenKind where
  | value | eoi | cancel | poison
  deriving DecidableEq, Repr

/-- A token on a queue (R384). -/
structure Tok where
  k : TokenKind
  v : Word
  deriving DecidableEq, Repr

/-- A node record (Table EC-14). -/
structure Node where
  op : Nat
  ty : Nat
  fn : Nat
  kin : Bool
  in0 : Option Nat
  in1 : Option Nat
  in2 : Option Nat
  out0 : Option Nat
  out1 : Option Nat
  const : Word
  param : Word
  deriving DecidableEq, Repr

/-- A node's state (R391, Table SF-10): `on` marks CARRY in its loop and INVAR holding, `held` the held token's kind. -/
structure NodeSt where
  s0 : Word
  s1 : Word
  inv : Word
  fire : Word
  on : Bool
  held : TokenKind
  poison : Bool
  deriving DecidableEq, Repr

def NodeSt.initial : NodeSt := { s0 := 0, s1 := 0, inv := 0, fire := 0, on := false, held := .value, poison := false }

/-- A command in a generator's FIFO (R394). -/
inductive GCmd where
  | stream (n : Nat)
  | base (b : Nat)
  | ext (d n : Nat)
  deriving DecidableEq, Repr

/-- An edge generator (R393 to R395, R409): `ready` says that the next round's parameter token has been taken, and
`taken` that the held fault has been delivered. -/
structure Gen where
  node : Nat
  rank : Nat
  sink : Bool
  esize : Nat
  dims : Nat
  cbase : Nat
  base : Nat
  ext : List Nat
  stride : List Word
  pos : Nat
  active : Bool
  pwait : Bool
  ready : Bool
  fault : Option Trap
  taken : Bool
  fifo : List GCmd
  deriving DecidableEq, Repr

/-- The configuration in force on a group's rectangle, with its queues, node states and generators; `handling` names
the generator whose fault the control thread's handler serves. -/
structure Fabric where
  shape : Rect
  image : DWord
  bytes : List Byte
  nodes : List Node
  depth : List Nat
  queues : SMap (List Tok)
  nst : SMap NodeSt
  gens : SMap Gen
  ovf : Bool
  handling : Option Nat
  deriving DecidableEq, Repr

/-- An instruction word that the core's L1 instruction cache may still return (R182). -/
structure IcEntry where
  asid : Nat
  va : Nat
  word : DWord
  deriving DecidableEq, Repr

/-- A page's translation (R435): page address, size in bytes, permissions and the compressed attribute. -/
structure Xlate where
  page : Nat
  size : Nat
  r : Bool
  w : Bool
  x : Bool
  comp : Bool
  deriving DecidableEq, Repr

/-- A translation that the core's TLBs may still use (R185). -/
structure TlbEntry where
  asid : Nat
  va : Nat
  tr : Xlate
  deriving DecidableEq, Repr

/-- The state of a core (R30). -/
inductive CoreMode where
  | simt | spatial | switching
  deriving DecidableEq, Repr

/-- The step of a pre-emption request on a core (R243). -/
inductive PreStep where
  | drain | save
  deriving DecidableEq, Repr

/-- A pre-emption request on a core (R243): the address space that it names, if one, the groups that it concerns, its
drain budget, its step with the core cycle at which that began, whether the core has learnt that another core of a gang has
entered its save step (R279), and the die whose arbiter sent it, if one (R429). -/
structure PreReq where
  asid : Option Nat
  gids : List Nat
  budget : Nat
  step : PreStep
  since : Nat
  told : Bool
  arb : Option Nat
  deriving DecidableEq, Repr

/-- A compute core. `issued` holds the quadrants that have issued a word in the present cycle (R15); `phase` is the parity of its
die's clock at its release, by which the array cycles of a die's cores begin together (R32). -/
structure Core where
  released : Bool
  cycle : Nat
  phase : Nat
  cmode : CoreMode
  part : Nat
  sram : List Host.Cell
  full : NSet
  sramPoison : NSet
  warps : SMap Warp
  last : SMap Nat
  ls : List LsOp
  alu : List AluOp
  copy : List CopyReq
  acc : SMap Word
  accPoison : NSet
  sideM : SMap Word
  sideL : SMap Word
  sidePoison : NSet
  active : Plane
  shadow : Plane
  own : SMap Own
  arr : List ArrReq
  icache : List IcEntry
  tlb : List TlbEntry
  fenceSeen : NSet
  lastAsid : Option Nat
  pre : List PreReq
  fenced : Bool
  issued : NSet
  deriving DecidableEq, Repr

/-- A core before its release from reset. DESIGN CHOICE, log 1. -/
def Core.initial : Core :=
  { released := false, cycle := 0, phase := 0, cmode := .simt, part := 0, sram := [], full := [], sramPoison := [], warps := []
    last := [], ls := [], alu := [], copy := [], acc := [], accPoison := [], sideM := [], sideL := []
    sidePoison := [], active := Plane.zero, shadow := Plane.zero, own := [], arr := [], icache := [], tlb := [], fenceSeen := [], lastAsid := none, pre := [], fenced := false
    issued := [] }

/-! ### Groups, launches and address spaces -/

/-- A group barrier (R259). -/
structure Barrier where
  isOpen : Bool
  n : Nat
  arrived : BitVec 32
  deriving DecidableEq, Repr

def Barrier.closed : Barrier := { isOpen := false, n := 0, arrived := 0 }

/-- Whether the warps of a placed group issue: it holds its place and has not started, it runs, or it is stopped for a
save or a halt. -/
inductive GroupRun where
  | placed | running | stopped
  deriving DecidableEq, Repr

/-- A resident group. `rows` holds the register rows of its place until its warps exist (first row and count), `resumed`
that its warps were restored from a save record, `kept` the PIN and FERR that its matrix record held. -/
structure Group where
  launch : Nat
  index : Nat
  cores : List Nat
  gbase : Nat
  slots : SMap Nat
  retired : SMap Nat
  bars : SMap Barrier
  run : GroupRun
  binds : SMap Nat
  handles : SMap Nat
  rows : SMap (Nat × Nat)
  resumed : Bool
  kept : SMap (Bool × Bool)
  gphase : Nat
  deriving DecidableEq, Repr

/-- A declared culture of a launch record (Table FW-1). -/
structure Cult where
  handle : Nat
  pin : Bool
  dv16 : Nat
  dk16 : Nat
  deriving DecidableEq, Repr

/-- A launch record's fields (Table LE-6); `cults` holds the declared culture slots, `clSize` the groups per cluster. -/
structure LaunchRec where
  code : BitVec 57
  codesz : Nat
  gx : Nat
  gy : Nat
  gz : Nat
  warps : Nat
  regs : Nat
  gmem : Nat
  steep : Nat
  deadline : Nat
  gclass : Nat
  clSize : Nat
  prio : Nat
  rect : Option Rect
  dies : Nat
  restart : Bool
  fresh : Bool
  sigaddr : Nat
  sigval : DWord
  listaddr : Nat
  listcap : Nat
  cults : SMap Cult
  deriving DecidableEq, Repr

/-- A saved group: its save record, the registers of its warps that have not retired, the handles that it holds, and
the pending faults of its warps that its record has no room for. -/
structure SavedGroup where
  rec_ : Nat
  allocs : SMap Nat
  handles : SMap Nat
  faults : SMap (List Trap)
  deriving DecidableEq, Repr

/-- A chunk of linear indices granted to a die (R431): those not yet placed, [lo, hi), and whether the grant has taken
effect. -/
structure Grant where
  die : Nat
  lo : Nat
  hi : Nat
  live : Bool
  deriving DecidableEq, Repr

/-- An address space in use: the fields of its descriptor (Tables TC-1, PF-2). -/
structure Space where
  desc : Nat
  tvtb : Nat
  tsb : Nat
  xsb : Nat
  csab : Nat
  csas : Nat
  csan : Nat
  saveb : Nat
  cspb : Nat
  ptroot : Nat
  deriving DecidableEq, Repr

/-- A launch: its identifier, queue, address space with the descriptor's values and the offset of its packet at its dispatch, and
record; its priority, die set and the hub cycle of its reading
(R423, R427); the number of the next memory write at that reading, for .CONST loads (R161); the leader's counters (R431); and the linear
indices of its groups that have started, have retired, are not retired, and are to start again (R432). -/
structure Launch where
  id : DWord
  queue : Nat
  asid : Nat
  space : Option Space
  off : Nat
  record : LaunchRec
  prio : Nat
  dies : NSet
  readAt : Nat
  preempt : Bool
  irq : Bool
  constAt : Nat
  gphase : Nat
  fault : Bool
  next : Nat
  grants : List Grant
  back : List (Nat × Nat)
  started : NSet
  retired : NSet
  lost : NSet
  again : NSet
  saved : SMap SavedGroup
  freshDone : NSet
  unadmit : Bool
  killed : Bool
  deriving DecidableEq, Repr

/-! ### Glicharun ports (R461 to R463) -/

/-- STATE of a port (Table PF-12). -/
inductive PortState where
  | down | training | up
  deriving DecidableEq, Repr

/-- A flit sent and not yet acknowledged, with the hub cycle of its sending. -/
structure GFlit where
  seq : Nat
  sent : Nat
  msg : GMsg
  deriving DecidableEq, Repr

/-- A Glicharun port: GPST's fields, the flits it has to send again, and the peer's requests that it has received. -/
structure Port where
  st : PortState
  peer : BitVec 16
  replay : BitVec 16
  nextTx : Nat
  nextRx : Nat
  tx : List GFlit
  rx : List GMsg
  deriving DecidableEq, Repr

def Port.initial : Port := { st := .down, peer := 0, replay := 0, nextTx := 0, nextRx := 0, tx := [], rx := [] }

/-- A window's registers (Table PF-13). -/
structure Window where
  base : BitVec 40
  size : BitVec 28
  en : Bool
  rd : Bool
  wr : Bool
  ports : BitVec 18
  deriving DecidableEq, Repr

def Window.initial : Window := { base := 0, size := 0, en := false, rd := false, wr := false, ports := 0 }

/-! ### Command queues and the event log -/

/-- STATE of a queue (Table LE-2). -/
inductive QState where
  | disabled | enabled | halted
  deriving DecidableEq, Repr

/-- What a queue has in progress (R417, R421). -/
inductive QWork where
  | none
  | launch (lid : Nat)
  | wait (off : Nat) (va n cond : Nat) (value : DWord) (start last : Nat) (timeout : Nat) (irq : Bool)
  | inval (irq : Bool)
  deriving DecidableEq, Repr

/-- A command queue's registers (Table LE-2), the address space that it is bound to, the descriptor's values as its latest enable
or RESUME has read them (R415), and the packet in progress. -/
structure Queue where
  base : BitVec 40
  log2sz : BitVec 5
  desc : BitVec 45
  vec : BitVec 8
  preempt : Bool
  enable : Bool
  qprio : BitVec 3
  wp : BitVec 26
  rp : BitVec 26
  st : QState
  irq : Bool
  errdet : BitVec 8
  err : BitVec 4
  erroff : BitVec 26
  seq : BitVec 56
  asid : Option Nat
  space : Option Space
  work : QWork
  stopping : Bool
  deriving DecidableEq, Repr

/-- The reset values of Table LE-2. -/
def Queue.initial : Queue :=
  { base := 0, log2sz := 0x0C, desc := 0, vec := 0, preempt := false, enable := false, qprio := 0, wp := 0, rp := 0
    st := .disabled, irq := false, errdet := 0, err := 0, erroff := 0, seq := 0, asid := none, space := none, work := .none, stopping := false }

/-- An event-log entry (Table MC-3); `read` says that PLDM has read it (R470). -/
structure LogEntry where
  seq : BitVec 32
  code : BitVec 8
  src : BitVec 8
  unit : BitVec 16
  data : DWord
  read : Bool
  deriving DecidableEq, Repr

/-! ### Coherence between dies (R437 to R448) -/

/-- The stable states of a directory entry (R441). -/
inductive DirSt where
  | i | s | x | o
  deriving DecidableEq, Repr

/-- What a caching agent holds of a line (R440, R444). -/
inductive AgentSt where
  | i | s | e | m | o | is | ix | sx | xw
  deriving DecidableEq, Repr

/-- Requests to a home (Table PF-5), and the host's write of a sector. -/
inductive Req where
  | rdS | rdX | upg | atom (ret : Bool) | blk | flush
  | hostWr (sec : Nat) (data : List Byte) (poison : Bool)
  deriving DecidableEq, Repr

/-- Syzer messages (Table PF-5). -/
inductive Msg where
  | req (r : Req)
  | snpS | snpC | snpI
  | rspI | rspS | rspWbP | gntX | ack | wbAck | cmp | err
  | datS | datE | datM | snpD | wbD | atomD
  deriving DecidableEq, Repr

/-- A message about a line. -/
structure FMsg where
  line : Nat
  msg : Msg
  deriving DecidableEq, Repr

/-- One virtual channel from one agent to another: the messages in the receiver's slots, and those that wait for a
credit or for the link (R437, R449). -/
structure Chan where
  slots : List FMsg
  wait : List FMsg
  deriving DecidableEq, Repr

def Chan.empty : Chan := { slots := [], wait := [] }

/-- The transient states of a line at its home (R442). -/
inductive Phase where
  | hs | hd | ha
  deriving DecidableEq, Repr

/-- The transaction of a line at its home: the requester and its request, the agents whose snoop answers are
outstanding, those whose WbD is awaited or has come before their RspWbP (R445), the sectors whose BIRsp is outstanding and
whether the host has kept one (R454), and whether an owner has supplied dirty data. -/
structure Txn where
  a : Nat
  req : Req
  phase : Phase
  awaiting : NSet
  wbWait : NSet
  wbGot : NSet
  bi : NSet
  kept : Bool
  dirty : Bool
  deriving DecidableEq, Repr

/-- A request that waits at a line's home (R442): the agent, the request, and the cycle of the home's clock in which it
arrived. -/
structure Waiting where
  a : Nat
  req : Req
  at_ : Nat
  deriving DecidableEq, Repr

/-- A line of device HBM at its home: the directory entry, the requests that wait in the order in which they are taken, the
transaction in progress, and what each caching agent (dies 0 to 3; 4 is the host) holds. `recallBit` says that the host bit
stands for copies from before an abrupt reset (Table PF-11), `resv` the residency register in whose reserved ways the home's
L2 holds the line (R452). -/
structure LineSt where
  dir : DirSt
  sh : NSet
  owner : Nat
  recallBit : Bool
  queue : List Waiting
  txn : Option Txn
  agents : SMap AgentSt
  resv : Option Nat
  deriving DecidableEq, Repr

def LineSt.initial : LineSt :=
  { dir := .i, sh := [], owner := 0, recallBit := false, queue := [], txn := none, agents := [], resv := none }

/-- The state of a die-to-die link (R449). -/
inductive LinkMode where
  | awake | asleep | waking
  deriving DecidableEq, Repr

/-- A link: the cycle of its last message on its lower die's clock, and, while it wakes, the cycles at which the present
attempt and the first one began, each on the clocks of the lower and of the higher end. -/
structure LinkSt where
  mode : LinkMode
  last : Nat
  sinceLo : Nat
  sinceHi : Nat
  firstLo : Nat
  firstHi : Nat
  deriving DecidableEq, Repr

def LinkSt.initial : LinkSt := { mode := .awake, last := 0, sinceLo := 0, sinceHi := 0, firstLo := 0, firstHi := 0 }

/-- A residency range register pair (Table PF-9) with its count of the accesses that it has decided (R452). -/
structure Residency where
  base : BitVec 40
  en : Bool
  limit : BitVec 40
  ratio : BitVec 5
  ways : BitVec 4
  count : BitVec 4
  deriving DecidableEq, Repr

def Residency.initial : Residency := { base := 0, en := false, limit := 0, ratio := 0, ways := 0, count := 0 }

/-! ### Compute dies (R458 to R460, R466 to R469) -/

/-- DSTAT.STATE (Table MC-2). -/
inductive DieMode where
  | running | warm | gated | waking
  deriving DecidableEq, Repr

/-- The steps of a warm reset (R459). -/
inductive ResetStep where
  | none | save | quiesce | cleanup | cleaned | retrained
  deriving DecidableEq, Repr

/-- A compute die: its mode and warm reset with the die cycle of the step's start, its clock, the hub link's last message
and the lines of the unanswered ones with the hub cycles of their sending (R450), DCTL and DSTAT's fields, the temperature and raising rules' memory (R467), and
whether its directory begins with every host bit set (Table PF-11). `wakeRank` orders the release of its clusters among
those of other dies (R468). -/
structure DieSt where
  mode : DieMode
  step : ResetStep
  abrupt : Bool
  gate : Bool
  since : Nat
  clk : Nat
  dead : Bool
  lastHub : Nat
  unanswered : List (Nat × Nat)
  pcap : BitVec 12
  power : BitVec 16
  temp : BitVec 8
  vmin : BitVec 8
  freq : BitVec 8
  hot : Bool
  good : Nat
  hostBits : Bool
  wakeRank : Nat
  deriving DecidableEq, Repr

def DieSt.initial : DieSt :=
  { mode := .running, step := .none, abrupt := false, gate := false, since := 0, clk := 0, dead := false, lastHub := 0
    unanswered := [], pcap := 0, power := 0, temp := 0, vmin := 0, freq := 48, hot := false, good := 0, hostBits := false
    wakeRank := 0 }

/-! ### The management controller (R465 to R478) -/

/-- Whether the device has power, and what its boot ROM found (R468, R476). -/
inductive BootState where
  | off | on | recovery
  deriving DecidableEq, Repr

/-- How far a firmware update has come (R475). -/
inductive UpdStep where
  | requested | table | component | verified | applied
  deriving DecidableEq, Repr

structure Update where
  step : UpdStep
  image : List Byte
  deriving DecidableEq, Repr

/-- Corrected errors of a class on a die: the total, and those of the present control interval (R471, R477). -/
structure ErrCount where
  total : BitVec 32
  recent : Nat
  deriving DecidableEq, Repr

def ErrCount.zero : ErrCount := { total := 0, recent := 0 }

/-- The errors of a unit (R478): uncorrected ones, and the control intervals of its corrected ones. -/
structure UnitErr where
  uncorrected : Nat
  corrected : List Nat
  deriving DecidableEq, Repr

/-- What the device last answered to a reader outside it: the host's requests and snoops, DBGDATA, and the management
endpoint's SPDM and PLDM requests. -/
inductive Reply where
  | hostData (sec : Nat) (data : List Byte) (poison : Bool) (excl : Bool)
  | hostDone (sec : Nat)
  | snooped (sec : Nat) (held : AgentSt) (data : Option (List Byte)) (poison : Bool)
  | dbgData (v : DWord)
  | spdmUnsupported
  | spdmVersion (v : BitVec 8)
  | spdmCapabilities
  | spdmAlgorithms (sha384 slhDsaShake256s : Bool)
  | spdmDigests (slot : Nat) (d : BitVec 384)
  | spdmCertificate (bytes : List Byte)
  | spdmSigned (nonce : BitVec 256) (signature : List Byte)
  | spdmMeasurements (blocks : List (Nat × BitVec 384))
  | pldmTypes (ts : List Nat)
  | pldmValue (v : Nat)
  | pldmDone
  | pldmRefused
  | pldmAlreadyUpdating
  | pldmLog (entries : List LogEntry)
  deriving DecidableEq, Repr

/-- Who acts in a step that no event fills: quadrant q of core c issues; a core's units do their next work; a cycle of a die
and of all its cores ends (R32); the hub's cycle ends; the hub does its next work. -/
inductive Turn where
  | issue (c q : Nat)
  | work (c : Nat)
  | die (d : Nat)
  | hub
  | hubWork
  deriving DecidableEq, Repr

/-! ### The machine -/

/-- The device.

- `agenda`: the events that come next, oldest first; `sched`, `turn`: whose turn it is when there are none; `choices`: the
  outcomes of the choices that the spec leaves open; `freeCtr`: the argument of the next free value; `seq`: a number for
  the next launch or group; `cur`: the core and slot whose word executes.
- `cores`, `groups`, `launches`, `fabrics`, `spaces`, `queues`, `bypass`, `heldAsids`: work and where it stands.
- `mem`, `memPoison`, `poisonDies`, `compLines`: global memory as every party reads it; `hbm`, `hbmPoison`, `tags`: the
  blocks as the memory controllers store them (R307).
- `history`, `writes`, `touched`: what bytes of memory held before the writes made while a launch is live, each with the number
  of its write (R161), the number of the next write, and that of the write after the last one to a line or a granule (R269).
- `stalled`: an access of the present step has met a line in a transaction or a channel in use, and waits (R437, R442).
- `l1`: what each core's L1 data cache holds of a line (R440), `l1stream`: what it gives up first (R172), `dieDir`: the
  clusters that may hold a line of each 512-byte region of a die (R440), `clIc`: the lines of each cluster's instruction
  cache (R13), `l2tlb`: each cluster's L2 TLB (R185).
- `fenced`: fenced dies; `dies`, `links`, `chans`, `lines`, `hostSec`, `residency`: the package fabric; `ports`,
  `windows`: Glicharun.
- `boot`, `release` (the clusters that wait, by their die's rank), `releaseTurn`, `lastRelease`, `mclk`, `errs`, `unitErrs`,
  `fenceList`, `fenceDrop`, `fencedUnits`, `flash` (none: the image of manufacture), `running` and `bootFences` (the image and the fence list of the last cold reset), `update`,
  `eid`, `dbgsel`, `log`, `logNext`, `logLost`: the management controller; `hub`: the hub's cycle; `msix`: the MSI-X
  messages sent; `reply`: the last answer to the outside. -/
structure State where
  agenda : List Instr
  choices : List Nat
  freeCtr : Nat
  seq : Nat
  cur : Nat × Nat
  cores : SMap Core
  groups : SMap Group
  launches : SMap Launch
  fabrics : SMap Fabric
  spaces : SMap Space
  mem : List Host.Cell
  memPoison : NSet
  poisonDies : NSet
  compLines : NSet
  history : SMap (List (Nat × Byte))
  writes : Nat
  touched : SMap Nat
  stalled : Bool
  l1 : SMap AgentSt
  l1stream : NSet
  dieDir : SMap NSet
  clIc : NSet
  l2tlb : List (Nat × TlbEntry)
  hbm : List Host.Cell
  hbmPoison : NSet
  tags : SMap (BitVec 8)
  fenced : NSet
  queues : SMap Queue
  bypass : SMap (SMap Nat)
  heldAsids : NSet
  msix : List (BitVec 8)
  hub : Nat
  ports : SMap Port
  windows : SMap Window
  log : SMap LogEntry
  logNext : BitVec 32
  logLost : BitVec 32
  boot : BootState
  dies : SMap DieSt
  links : SMap LinkSt
  chans : SMap Chan
  lines : SMap LineSt
  hostSec : SMap AgentSt
  residency : SMap Residency
  release : SMap (List Nat)
  releaseTurn : Nat
  lastRelease : Option Nat
  mclk : Nat
  errs : SMap ErrCount
  unitErrs : List (UnitRef × UnitErr)
  fenceList : List UnitRef
  fenceDrop : List UnitRef
  fencedUnits : List UnitRef
  flash : Option (List Byte)
  running : Option (List Byte)
  bootFences : List UnitRef
  update : Option Update
  eid : BitVec 8
  dbgsel : BitVec 13
  reply : Option Reply
  sched : List Turn
  turn : Nat
  deriving DecidableEq, Repr

/-- The machine at power-on, before the hub die starts (R468): every register at its reset value, no program, no queue
enabled, no core released. -/
def State.reset : State :=
  { agenda := [], choices := [], freeCtr := 0, seq := 0, cur := (0, 0), cores := [], groups := [], launches := []
    fabrics := [], spaces := [], mem := [], memPoison := [], poisonDies := [], compLines := [], history := [], writes := 0, touched := []
    stalled := false, l1 := [], l1stream := [], dieDir := [], clIc := [], l2tlb := [], hbm := [], hbmPoison := []
    tags := [], fenced := [], queues := [], bypass := [], heldAsids := [], msix := [], hub := 0, ports := [], windows := []
    log := [], logNext := 0, logLost := 0, boot := .off, dies := [], links := [], chans := [], lines := [], hostSec := []
    residency := [], release := [], releaseTurn := 0, lastRelease := none, mclk := 0, errs := [], unitErrs := [], fenceList := []
    fenceDrop := [], fencedUnits := [], flash := none, running := none, bootFences := [], update := none, eid := 0
    dbgsel := 0, reply := none, sched := [], turn := 0 }

/-- The reasons an instruction stops the model. -/
inductive Fault where
  /-- Raised by a word instruction when no warp is resident in the acting slot: no hardware issues it. Safe. -/
  | noWarp
  deriving DecidableEq, Repr

/-- The reasons the model gives no meaning. -/
inductive Refusal where
  /-- Raised by the dispatch of an instruction without a meaning. Safe. -/
  | notModelled (mnemonic : String)
  deriving DecidableEq, Repr

end Sys2Proof.Machine
end

