-- ==== Sys2Proof/Machine/Base.lean ====
section
/-! DEFINITION. The plainest operations over the machine's state: access to warps, cores and registers, the effective mask,
physical memory and its poison, address translation, and locations. -/

namespace Sys2Proof.Machine

/-! ### Cores, groups and the acting warp -/

def State.core (s : State) (c : Nat) : Core := s.cores.get Core.initial c

def State.setCore (s : State) (c : Nat) (x : Core) : State := { s with cores := s.cores.set Core.initial c x }

def State.warpAt (s : State) (c j : Nat) : Option Warp := (s.core c).warps.find? j

def State.setWarpAt (s : State) (c j : Nat) (w : Warp) : State :=
  s.setCore c { s.core c with warps := (s.core c).warps.put j w }

def State.dropWarpAt (s : State) (c j : Nat) : State :=
  s.setCore c { s.core c with warps := (s.core c).warps.del j }

/-- The warp in the acting slot. -/
def State.warp (s : State) : Option Warp := s.warpAt s.cur.1 s.cur.2

/-- Replaces the warp in the acting slot. -/
def State.setWarp (s : State) (w : Warp) : State := s.setWarpAt s.cur.1 s.cur.2 w

def State.curCore (s : State) : Core := s.core s.cur.1

def State.setCurCore (s : State) (x : Core) : State := s.setCore s.cur.1 x

/-- Changes the acting warp, if there is one. -/
def State.updWarp (s : State) (f : Warp → Warp) : State :=
  match s.warp with
  | some w => s.setWarp (f w)
  | none => s

def State.group (s : State) (g : Nat) : Option Group := s.groups.find? g

def State.setGroup (s : State) (g : Nat) (x : Group) : State := { s with groups := s.groups.put g x }

def State.launch (s : State) (l : Nat) : Option Launch := s.launches.find? l

def State.space (s : State) (a : Nat) : Option Space := s.spaces.find? a

/-- The acting warp's group. -/
def State.groupOf (s : State) (w : Warp) : Option Group := s.group w.gid

def State.launchOf (s : State) (w : Warp) : Option Launch := (s.groupOf w).bind fun g => s.launch g.launch

/-- The address space of a warp. -/
def State.spaceOf (s : State) (w : Warp) : Option Space := (s.launchOf w).bind fun l => s.space l.asid

def State.asidOf (s : State) (w : Warp) : Nat := ((s.launchOf w).map (·.asid)).getD 0

/-- The next of the device's free choices; 0 when the list is exhausted. -/
def State.choose (s : State) : Nat × State :=
  match s.choices with
  | [] => (0, s)
  | c :: rest => (c, { s with choices := rest })

/-- A fresh free value, and the state with the counter advanced. DESIGN CHOICE, log 6. -/
def State.free (s : State) : BitVec 64 × State := (Config.freeValue s.freeCtr, { s with freeCtr := s.freeCtr + 1 })

/-- A fresh request number. -/
def State.tick (s : State) : Nat × State := (s.seq, { s with seq := s.seq + 1 })

/-- The die of a core (R11). -/
def dieOf (c : Nat) : Nat := c / 128

/-- The cluster of a core, numbered over the package (R11). -/
def clusterOf (c : Nat) : Nat := c / 4

/-- The quadrant of a warp slot. -/
def quadOf (j : Nat) : Nat := j / 16

/-! ### Registers -/

def Warp.lane (w : Warp) (r l : Nat) : RegVal := (w.v.get zeroLanes r).getD l RegVal.zero

def Warp.sreg (w : Warp) (r : Nat) : RegVal := w.s.get RegVal.zero r

/-- R75, R79: k0 reads as all ones. -/
def Warp.kreg (w : Warp) (r : Nat) : LaneMask := if r = 0 then BitVec.allOnes 32 else w.k.get 0 r

/-- A list of 32 lanes from a function. -/
def tab (f : Nat → RegVal) : Lanes := (List.range 32).map f

/-- Bit l of a mask. -/
def laneOn (m : LaneMask) (l : Nat) : Bool := m.getLsbD l

/-- Applies one register write; a write to k0 is discarded (R79), and lanes outside the mask keep their values. -/
def Warp.apply (w : Warp) (x : Wr) : Warp :=
  match x with
  | .v r m vals =>
    let old := w.v.get zeroLanes r
    { w with v := w.v.set zeroLanes r (tab fun l => if laneOn m l then vals.getD l RegVal.zero else old.getD l RegVal.zero) }
  | .s r x => { w with s := w.s.set RegVal.zero r x }
  | .k r m x => if r = 0 then w else { w with k := w.k.set 0 r ((w.k.get 0 r &&& ~~~m) ||| (x &&& m)) }

  | .x r x =>
    match r.toNat with
    | 0x10 => { w with xpc := x }
    | 0x11 => { w with xcause := x.setWidth 32 &&& 0x8000003F#32 }
    | 0x12 => { w with xaddr := x }
    | 0x13 => { w with xmask := x.setWidth 32 }
    | 0x14 => { w with xinfo := x.setWidth 32 &&& 0xFFF0FF01#32 }
    | _ => w

def Warp.applyAll (w : Warp) (xs : List Wr) : Warp := xs.foldl Warp.apply w

/-- Inserts a pending write after every one that is due no later. -/
def insertDue (p : Pend) (ps : List Pend) : List Pend :=
  match ps with
  | [] => [p]
  | q :: rest => if q.due ≤ p.due then q :: insertDue p rest else p :: q :: rest

/-- Pending writes in order of the cycle they take effect and, in one cycle, of program order (R110). -/
def dueOrder (ps : List Pend) : List Pend := ps.foldl (fun a p => insertDue p a) []

/-- A cycle begins: the pending writes that are due by it take effect (R108). -/
def Warp.settle (w : Warp) (t : Nat) : Warp :=
  let ready := dueOrder (w.pend.filter fun p => decide (p.due ≤ t))
  { (w.applyAll (ready.map (·.wr))) with pend := w.pend.filter fun p => decide (¬ p.due ≤ t), settled := ready }

/-- Completes every pending fixed-latency write (R111). -/
def Warp.settleAll (w : Warp) : Warp := { (w.applyAll ((dueOrder w.pend).map (·.wr))) with pend := [], settled := [] }

/-- Inserts a write behind every one that is earlier in program order. DEDUCED, log 9. -/
def insertOrd (p : Pend) (ps : List Pend) : List Pend :=
  match ps with
  | [] => [p]
  | q :: rest => if q.ord ≤ p.ord then q :: insertOrd p rest else p :: q :: rest

/-- An instruction completes in cycle `t` (R106): its writes take effect, but where a later word of the warp has written the
same register in this cycle, that word's value remains (R110). The warp's next word issues in a later cycle: one that issues in
`t` has issued before, and has seen the values from before the completion (R106, R109). DEDUCED, log 8. -/
def Warp.complete (w : Warp) (t ord : Nat) (xs : List Wr) : Warp :=
  let later := (w.settled.filter fun p => decide (ord < p.ord)).foldl (fun a p => insertOrd p a) []
  { w.applyAll (xs ++ later.map (·.wr)) with settled := w.settled ++ xs.map fun x => { due := t, ord := ord, wr := x },
                                                notBefore := max w.notBefore (t + 1) }

/-- Adds a fixed-latency write of latency `lat` issued at cycle `t`. -/
def Warp.defer (w : Warp) (t lat : Nat) (xs : List Wr) : Warp :=
  { w with pend := w.pend ++ xs.map fun x => { due := t + lat, ord := w.order, wr := x } }

def Warp.flag (w : Warp) (f : Nat) : Nat := w.flags.get 0 f

def Warp.incFlag (w : Warp) (f : Option (Fin 12)) : Warp :=
  match f with
  | some i => { w with flags := w.flags.set 0 i.val (w.flag i.val + 1) }
  | none => w

def Warp.decFlag (w : Warp) (f : Option (Fin 12)) : Warp :=
  match f with
  | some i => { w with flags := w.flags.set 0 i.val (w.flag i.val - 1) }
  | none => w

/-- Blocks a warp in a blocking instruction at `pc` (R104). -/
def Warp.block (w : Warp) (x : Wait) (pc : BitVec 57) (flag : Option (Fin 12)) : Warp :=
  { w with wait := x, waitPc := pc, waitSet := flag }

/-- A blocking instruction completes: its flag falls, STEEP is zeroed (R272), and the next word issues no earlier than
the following cycle (R258). -/
def Warp.unblock (w : Warp) (cycle : Nat) : Warp :=
  { w.decFlag w.waitSet with wait := .none, waitSet := none, steep := 0, notBefore := max w.notBefore (cycle + 1) }

/-- A blocked WAITF whose flag has come down to its threshold completes (R123). -/
def Warp.wakeWaitf (w : Warp) : Warp :=
  match w.wait with
  | .waitf f thr => if w.flag f ≤ thr then { w with wait := .none } else w
  | _ => w

/-- The warp's side of a blocking instruction rolled back as if it had not issued (R244, R271); STEEP is kept. A WAITF is none of
them and goes on waiting. -/
def Warp.rollback (w : Warp) : Warp :=
  match w.wait with
  | .none => w
  | .waitf _ _ => w
  | _ => { w.decFlag w.waitSet with wait := .none, waitSet := none, pc := w.waitPc }

/-- R75: the effective mask of a word. -/
def Warp.eff (w : Warp) (h : Hdr) : LaneMask :=
  let p := w.kreg h.pidx.toNat
  w.act &&& (if h.pneg then ~~~p else p)

def fullMask : LaneMask := BitVec.allOnes 32

/-- The lanes of a mask, in increasing order. -/
def lanesOf (m : LaneMask) : List Nat := (List.range 32).filter fun l => laneOn m l

def lowestLane (m : LaneMask) : Nat := (lanesOf m).headD 0

/-- A mask from a predicate on lanes. -/
def maskOf (f : Nat → Bool) : LaneMask :=
  (List.range 32).foldl (fun a l => if f l then a ||| (1#32 <<< l) else a) 0#32

/-- A 64-bit scalar pair, the low word in the even register (R47). -/
def Warp.spair (w : Warp) (r : Nat) : DWord := (w.sreg (r + 1)).val ++ (w.sreg r).val

/-- The writes that place a 64-bit value in a scalar pair. -/
def pairWrites (r : Nat) (x : DWord) (t : Tag) : List Wr :=
  [.s r { val := x.extractLsb' 0 32, tag := t }, .s (r + 1) { val := x.extractLsb' 32 32, tag := t }]

/-! ### Bytes and physical memory -/

/-- The little-endian value of a list of bytes (R4). -/
def leNat (bs : List Byte) : Nat := bs.foldr (fun b a => b.toNat + 256 * a) 0

/-- The low `n` bytes of a value, least significant first. -/
def leBytes (n v : Nat) : List Byte :=
  match n with
  | 0 => []
  | k + 1 => BitVec.ofNat 8 v :: leBytes k (v / 256)

/-- One byte of a store whose unlisted bytes read zero. DESIGN CHOICE, log 2. -/
def byteAt (m : List Host.Cell) (a : Nat) : Byte := SMap.get 0 m a

def putByte (m : List Host.Cell) (a : Nat) (b : Byte) : List Host.Cell := SMap.set 0 m a b

def bytesAt (m : List Host.Cell) (a n : Nat) : List Byte :=
  match n with
  | 0 => []
  | k + 1 => byteAt m a :: bytesAt m (a + 1) k

def putBytes (m : List Host.Cell) (a : Nat) (bs : List Byte) : List Host.Cell :=
  match bs with
  | [] => m
  | b :: rest => putBytes (putByte m a b) (a + 1) rest

/-- One byte of physical memory. -/
def State.memByte (s : State) (pa : Nat) : Byte := byteAt s.mem pa

def State.memRead (s : State) (pa n : Nat) : List Byte := bytesAt s.mem pa n

/-- The 128-byte lines of [pa, pa + n). -/
def linesOf (pa n : Nat) : List Nat := (List.range ((pa + n - 1) / 128 + 1 - pa / 128)).map (· + pa / 128)

/-- What [pa, pa + n) holds is kept as the value before write number `i` (R161). -/
def keepPast (m : List Host.Cell) (past : SMap (List (Nat × Byte))) (pa n i : Nat) : SMap (List (Nat × Byte)) :=
  (List.range n).foldl (fun h k => h.put (pa + k) ((i, byteAt m (pa + k)) :: h.get [] (pa + k))) past

/-- The key under which `State.touched` holds a granule of a core's SRAM; a line has its own number. -/
def sramKey (c granule : Nat) : Nat := 2 ^ 45 + 2 ^ 16 * c + granule

/-- Writes bytes, through a translation with or without the compressed attribute (R309, R310). The old bytes are kept for
.CONST loads while a launch is live (R161), and the cluster instruction caches lose the lines (R182). DEDUCED, log 32. -/
def State.memWrite (s : State) (pa : Nat) (bs : List Byte) (comp : Bool := false) : State :=
  let ls := linesOf pa bs.length
  { s with mem := putBytes s.mem pa bs
           compLines := ls.foldl (fun a l => a.assign l (comp && decide (pa < 2 ^ 41))) s.compLines
           history := if s.launches.isEmpty then [] else keepPast s.mem s.history pa bs.length s.writes
           writes := s.writes + 1
           touched := ls.foldl (fun t k => SMap.put t k (s.writes + 1)) s.touched
           clIc := s.clIc.filter fun k => !ls.contains (k / 128) }

def State.memNat (s : State) (pa n : Nat) : Nat := leNat (s.memRead pa n)

/-- Whether a 64-byte sector is poisoned (R170). On a die whose memory domain has been reset every sector is poisoned
(Table PF-11), and `memPoison` lists those that no longer are. -/
def State.secPoisoned (s : State) (sec : Nat) : Bool :=
  (decide (sec < 2 ^ 35) && s.poisonDies.has (sec / 2 ^ 33)) != s.memPoison.has sec

/-- Marks or cleans a sector. -/
def State.setSec (s : State) (sec : Nat) (b : Bool) : State :=
  { s with memPoison := s.memPoison.assign sec (b != (decide (sec < 2 ^ 35) && s.poisonDies.has (sec / 2 ^ 33))) }

/-- The 64-byte sectors of [pa, pa + n). -/
def sectorsOf (pa n : Nat) : List Nat := (List.range ((pa + n - 1) / 64 + 1 - pa / 64)).map (· + pa / 64)

/-- Whether some byte of [pa, pa + n) lies in a poisoned sector. -/
def State.memPoisoned (s : State) (pa n : Nat) : Bool := (sectorsOf pa n).any fun k => s.secPoisoned k

/-- Marks every sector that holds a byte of [pa, pa + n) as poisoned. -/
def State.poisonSecs (s : State) (pa n : Nat) : State := (sectorsOf pa n).foldl (fun t k => t.setSec k true) s

/-- Device HBM lies below 2^41, host memory from 2^51 to 2^52 (Table PF-1). -/
def paExists (pa : Nat) : Bool := decide (pa < 2 ^ 41) || (decide (2 ^ 51 ≤ pa) && decide (pa < 2 ^ 52))

/-- The home die of a physical address; host memory has none (R433). -/
def homeDie (pa : Nat) : Option Nat := if pa < 2 ^ 41 then some (pa / 2 ^ 39) else none

/-! ### Translation -/

/-- Why a walk or an access finds no page. -/
inductive XFault where
  | notPresent | poisonWalk | errorWalk
  deriving DecidableEq, Repr

/-- The reserved bits of a page-table entry (Table PF-3) are zero. -/
def pteReservedOk (e : DWord) : Bool := e &&& 0xF7F0000000000F0C#64 == 0#64

/-- One page-table entry at a level: the next table, a page, or no translation (R435). -/
inductive Pte where
  | invalid
  | table (pa : Nat)
  | page (t : Xlate)
  deriving DecidableEq, Repr

def pageSize (level : Nat) : Nat := 4096 * 512 ^ level

/-- R435. -/
def decodePte (e : DWord) (level : Nat) : Pte :=
  let addr := e.toNat % 2 ^ 52 / 4096 * 4096
  let leaf := e.getLsbD 1
  let r := e.getLsbD 4
  let w := e.getLsbD 5
  let x := e.getLsbD 6
  let cont := e.getLsbD 7
  let comp := e.getLsbD 59
  if !e.getLsbD 0 || !pteReservedOk e then .invalid
  else if leaf then
    if level > 2 || (w && !r) || (cont && level != 0) || addr % pageSize level != 0 ||
        !(paExists addr && paExists (addr + pageSize level - 1) && (decide (addr < 2 ^ 41) == decide (addr + pageSize level - 1 < 2 ^ 41)))
    then .invalid
    else .page { page := addr, size := pageSize level, r := r, w := w, x := x, comp := comp }
  else if level == 0 || r || w || x || cont || comp then .invalid
  else .table addr

/-- Reads one table entry for the walker: poisoned sectors and fenced home dies give no translation (R481). -/
def State.readPte (s : State) (pa : Nat) : Except XFault DWord :=
  if (homeDie pa).any (fun d => s.fenced.has d) then .error .errorWalk
  else if s.memPoisoned pa 8 then .error .poisonWalk
  else .ok (BitVec.ofNat 64 (s.memNat pa 8))

/-- The walk from a table at a level down (R434). DEDUCED, log 21. -/
def State.walkFrom (s : State) (table va : Nat) (level : Nat) : Except XFault Xlate :=
  match s.readPte (table + 8 * (va / 2 ^ (12 + 9 * level) % 512)) with
  | .error f => .error f
  | .ok e =>
    match decodePte e level with
    | .invalid => .error .notPresent
    | .page t => .ok t
    | .table pa =>
      match level with
      | 0 => .error .notPresent
      | k + 1 => if paExists pa then s.walkFrom pa va k else .error .notPresent

/-- The table entries that a walk reads. -/
def State.walkPath (s : State) (table va : Nat) (level : Nat) : List Nat :=
  let pa := table + 8 * (va / 2 ^ (12 + 9 * level) % 512)
  pa :: match s.readPte pa with
  | .error _ => []
  | .ok e =>
    match decodePte e level, level with
    | .table t, k + 1 => if paExists t then s.walkPath t va k else []
    | _, _ => []

/-- The five-level walk of an address space. -/
def State.walk (s : State) (sp : Space) (va : Nat) : Except XFault Xlate := s.walkFrom sp.ptroot va 4

/-- The translation of an address that a list of entries holds. -/
def tlbLookup (es : List TlbEntry) (asid va : Nat) : Option Xlate :=
  (es.find? fun e => decide (e.asid = asid ∧ e.va ≤ va ∧ va < e.va + e.tr.size)).map (·.tr)

/-- A translation the core's L1 TLB holds for an address (R185). -/
def Core.tlbFind (c : Core) (asid va : Nat) : Option Xlate := tlbLookup c.tlb asid va

/-- The entries of a cluster's L2 TLB. -/
def State.l2tlbOf (s : State) (k : Nat) : List TlbEntry := (s.l2tlb.filter fun p => p.1 == k).map (·.2)

/-- The translation an access of a core uses (R185): one that its L1 TLB or its cluster's L2 TLB holds, or that of a walk. -/
def State.xlate (s : State) (c asid va : Nat) : Except XFault Xlate :=
  match (s.core c).tlbFind asid va with
  | some t => .ok t
  | none =>
    match tlbLookup (s.l2tlbOf (clusterOf c)) asid va with
    | some t => .ok t
    | none =>
      match s.space asid with
      | some sp => s.walk sp va
      | none => .error .notPresent

/-- The physical address of a virtual address in a page. -/
def Xlate.pa (t : Xlate) (va : Nat) : Nat := t.page + va % t.size

/-- The kinds of access that permissions distinguish (R435, R436). -/
inductive Access where
  | read | write | rmw | fetch
  deriving DecidableEq, Repr

def Xlate.allows (t : Xlate) (a : Access) : Bool :=
  match a with
  | .read => t.r
  | .write => t.w
  | .rmw => t.r && t.w
  | .fetch => t.x

/-- Why a global access fails its checks (checks 5 to 7 of Table LS-6, R481). -/
inductive GFault where
  | translation | protection | fabric | poison | walkPoison | walkError
  deriving DecidableEq, Repr

/-- Checks 5 to 7 of Table LS-6 on one address: the physical address reached and the page's compressed attribute,
or the failing check. A core learns of a
fence with `fenceSeen` (R457). -/
def State.probe (s : State) (c asid va : Nat) (a : Access) : Except GFault (Nat × Bool) :=
  match s.xlate c asid va with
  | .error .notPresent => .error .translation
  | .error .poisonWalk => .error .walkPoison
  | .error .errorWalk => .error .walkError
  | .ok t =>
    if !t.allows a then .error .protection
    else
      match homeDie (t.pa va) with
      | some d => if (s.core c).fenceSeen.has d then .error .fabric else .ok (t.pa va, t.comp)
      | none => .ok (t.pa va, t.comp)

/-- Whether an access that passed its checks meets an error reply: its home die is fenced and the core had not
learned of it (R457). DEDUCED, log 27. -/
def State.errReply (s : State) (pa : Nat) : Bool := (homeDie pa).any fun d => s.fenced.has d

/-! ### Trap causes (Table TC-2) -/

abbrev cIllegalInstr : BitVec 6 := 0x01
abbrev cIllegalOperand : BitVec 6 := 0x02
abbrev cAddressRange : BitVec 6 := 0x03
abbrev cMisaligned : BitVec 6 := 0x04
abbrev cTranslation : BitVec 6 := 0x05
abbrev cProtection : BitVec 6 := 0x06
abbrev cPoison : BitVec 6 := 0x07
abbrev cFabric : BitVec 6 := 0x08
abbrev cPartialMask : BitVec 6 := 0x09
abbrev cIllegalWait : BitVec 6 := 0x0A
abbrev cSteep : BitVec 6 := 0x0B
abbrev cRegx : BitVec 6 := 0x0C
abbrev cDivergent : BitVec 6 := 0x0D
abbrev cBranchTarget : BitVec 6 := 0x0E
abbrev cReconvergence : BitVec 6 := 0x0F
abbrev cCallDepth : BitVec 6 := 0x10
abbrev cTokenOverflow : BitVec 6 := 0x11
abbrev cConfig : BitVec 6 := 0x12
abbrev cCulture : BitVec 6 := 0x13
abbrev cCopy : BitVec 6 := 0x14
abbrev cBreakpoint : BitVec 6 := 0x15
abbrev cTrapState : BitVec 6 := 0x16

/-- A trap of the word's own checks: ORIGIN 0, the effective mask, no address. -/
def trapAt (code : BitVec 6) (mask : LaneMask) (detail : Nat := 0) (xaddr : Nat := 0) (wr : Bool := false) : Trap :=
  { code := code, xaddr := BitVec.ofNat 64 xaddr, xmask := mask, origin := 0, unit := 0
    detail := BitVec.ofNat 8 detail, wr := wr }

/-- The cause and detail of a failed global access (Table LS-6, R457, R481). -/
def GFault.code : GFault → BitVec 6
  | .translation => cTranslation
  | .protection => cProtection
  | .fabric => cFabric
  | .poison => cPoison
  | .walkPoison => cPoison
  | .walkError => cFabric

def GFault.detail : GFault → Nat
  | .translation => 0
  | .protection => 0
  | .fabric => 0
  | .poison => 0
  | .walkPoison => 0x10
  | .walkError => 0x10

/-- XINFO of a trap (Table TC-4). -/
def Trap.info (t : Trap) : BitVec 32 :=
  t.origin ++ (t.unit ++ (0#4 ++ (t.detail ++ (0#7 ++ BitVec.ofBool t.wr))))

/-! ### Locations -/

/-- The core and SRAM address of an offset of a group's memory. -/
def State.sramAt (s : State) (gid off : Nat) : Nat × Nat :=
  match s.group gid with
  | some g => (g.cores.headD 0, g.gbase + off)
  | none => (0, 0)

def State.locRead (s : State) (l : Loc) (n : Nat) : List Byte :=
  match l with
  | .glob pa _ => s.memRead pa n
  | .sram g off => let p := s.sramAt g off; bytesAt (s.core p.1).sram p.2 n

/-- The 16-byte granules that [a, a + n) touches. -/
def granules (a n : Nat) : List Nat := (List.range ((a + n - 1) / 16 + 1 - a / 16)).map (· + a / 16)

/-- The 16-byte granules that [a, a + n) covers whole. -/
def wholeGranules (a n : Nat) : List Nat := (granules a n).filter fun g => decide (a ≤ 16 * g ∧ 16 * g + 16 ≤ a + n)

/-- Whether a read of the location meets poison (R170). -/
def State.locPoisoned (s : State) (l : Loc) (n : Nat) : Bool :=
  match l with
  | .glob pa _ => s.memPoisoned pa n
  | .sram g off => let p := s.sramAt g off; (granules p.2 n).any fun k => (s.core p.1).sramPoison.has k

/-- The key of the line or granule that holds a location (R269). -/
def State.touchKey (s : State) (l : Loc) : Nat :=
  match l with
  | .glob pa _ => pa / 128
  | .sram g off => let p := s.sramAt g off; sramKey p.1 (p.2 / 16)

/-- Group memory is written: the granules of a core's SRAM and the number of the write. -/
def State.touchSram (s : State) (c : Nat) (gs : List Nat) : State :=
  { s with touched := gs.foldl (fun t k => SMap.put t (sramKey c k) (s.writes + 1)) s.touched, writes := s.writes + 1 }

/-- One access writes bytes: a whole group-memory granule written loses its poison, any other poison stays (R171). -/
def State.locWrite (s : State) (l : Loc) (bs : List Byte) : State :=
  match l with
  | .glob pa comp => s.memWrite pa bs comp
  | .sram g off =>
    let p := s.sramAt g off
    let c := s.core p.1
    (s.setCore p.1 { c with sram := putBytes c.sram p.2 bs
                            sramPoison := (wholeGranules p.2 bs.length).foldl NSet.remove c.sramPoison }).touchSram p.1
      (granules p.2 bs.length)

/-- Whether an access to the location meets an error reply. -/
def State.locErr (s : State) (l : Loc) : Bool :=
  match l with
  | .glob pa _ => s.errReply pa
  | .sram _ _ => false

/-- Poisons the granule or sector that holds a location (R302). -/
def State.locPoison (s : State) (l : Loc) : State :=
  match l with
  | .glob pa _ => s.setSec (pa / 64) true
  | .sram g off =>
    let p := s.sramAt g off
    let c := s.core p.1
    s.setCore p.1 { c with sramPoison := c.sramPoison.add (p.2 / 16) }

/-- The full-empty bit of the granule that holds a group-memory location (R162). -/
def State.isFull (s : State) (l : Loc) : Bool :=
  match l with
  | .glob _ _ => false
  | .sram g off => let p := s.sramAt g off; (s.core p.1).full.has (p.2 / 16)

def State.setFull (s : State) (l : Loc) (b : Bool) : State :=
  match l with
  | .glob _ _ => s
  | .sram g off => let p := s.sramAt g off; let c := s.core p.1; s.setCore p.1 { c with full := c.full.assign (p.2 / 16) b }

/-- The resident group of a launch with a linear index. -/
def State.groupIdx (s : State) (lid idx : Nat) : Option (Nat × Group) :=
  List.find? (fun p : Nat × Group => p.2.launch == lid && p.2.index == idx) s.groups

/-- The group of a rank in a group's cluster instance (R21). -/
def State.rankGroup (s : State) (g : Group) (rank : Nat) : Option (Nat × Group) :=
  match s.launch g.launch with
  | none => none
  | some l =>
    let n := l.record.clSize
    if rank < n then s.groupIdx g.launch (g.index / n * n + rank) else none

end Sys2Proof.Machine
end

