-- ==== Sys2Proof/Machine/Block.lean ====
section
/-! DEFINITION. The memory controllers' compressed blocks (R306 to R310 of spec/10_copy_engine.md): block tags, the stored
forms of Table CE-8 with their encoding and decoding, and the merge of a written-back line. `State.hbm` holds the stored
bytes. -/

namespace Sys2Proof.Machine

/-! ### Tags and formats -/

/-- The tag that stands for "reserved" on a die whose memory domain has been reset (Table PF-11). DEDUCED, log 31. -/
def tagReserved : BitVec 8 := 0x10

/-- The tag of a block (R306): raw unless written otherwise. -/
def State.tagOf (s : State) (blk : Nat) : BitVec 8 :=
  match s.tags.find? blk with
  | some t => t
  | none => if s.poisonDies.has (blk / 2 ^ 30) then tagReserved else 0x08

/-- SECTORS of each format (Table CE-8). -/
def formatSectors (f : Nat) : Nat :=
  match f with
  | 0 => 8
  | 1 => 0
  | 2 => 2
  | 3 => 3
  | 4 => 5
  | 5 => 3
  | 6 => 5
  | _ => 6

def tagFor (f : Nat) : BitVec 8 := BitVec.ofNat 8 (f * 32 + formatSectors f)

/-- R306: a tag whose reserved bit is clear and whose SECTORS agree with FORMAT. -/
def tagValid (t : BitVec 8) : Bool := !t.getLsbD 4 && t.toNat % 16 == formatSectors (t.toNat / 32)

/-- The little-endian units of `n` bytes of a list. -/
def units (n : Nat) (bs : List Byte) (fuel : Nat) : List Nat :=
  match fuel with
  | 0 => []
  | k + 1 => if bs.isEmpty then [] else leNat (bs.take n) :: units n (bs.drop n) k

/-- Every delta from the first unit fits `w` bits of the unit's `8n`-bit wrap (R307). -/
def deltaFits (n w : Nat) (bs : List Byte) : Bool :=
  let us := units n bs 512
  let m := 2 ^ (8 * n)
  us.all fun u =>
    let d := (u + m - us.headD 0) % m
    decide (d < 2 ^ (w - 1) ∨ m - 2 ^ (w - 1) ≤ d)

/-- The ES form (R307): in each group of 16 BF16 values every nonzero exponent field lies within 2 of the largest. -/
def esFits (bs : List Byte) : Bool :=
  let es := (units 2 bs 512).map fun u => u / 128 % 256
  (List.range 16).all fun k =>
    let g := (es.drop (16 * k)).take 16
    let top := g.foldl max 0
    g.all fun e => e == 0 || decide (top ≤ e + 2)

/-- R308: the first encodable format of a block. -/
def chooseFormat (bs : List Byte) : Nat :=
  if bs.all (· == 0) then 1
  else if deltaFits 4 4 bs then 2
  else if deltaFits 2 4 bs then 5
  else if deltaFits 4 8 bs then 3
  else if deltaFits 2 8 bs then 6
  else if deltaFits 4 16 bs then 4
  else if esFits bs then 7
  else 0

/-! ### Stored forms (R307) -/

/-- Values of `w` bits, the first lowest, as one number. -/
def packBits (w : Nat) (xs : List Nat) : Nat := xs.foldr (fun x a => x % 2 ^ w + 2 ^ w * a) 0

/-- The first `k` values of `w` bits of a number. -/
def unpackBits (w k v : Nat) : List Nat :=
  match k with
  | 0 => []
  | n + 1 => v % 2 ^ w :: unpackBits w n (v / 2 ^ w)

/-- A payload with zeros up to the 512 bytes of its block. -/
def padBlock (bs : List Byte) : List Byte := bs ++ List.replicate (512 - bs.length) 0

/-- BD32.w and BD16.w: units of `n` bytes, the base in the first eight bytes, then the deltas of `w` bits. -/
def encodeDeltas (n w : Nat) (bs : List Byte) : List Byte :=
  let us := units n bs 512
  let m := 2 ^ (8 * n)
  let b := us.headD 0
  leBytes 8 b ++ leBytes (us.length * w / 8) (packBits w (us.map fun u => (u + m - b) % m))

/-- The units that a base and deltas of `w` bits give. -/
def decodeDeltas (n w : Nat) (p : List Byte) : List Byte :=
  let m := 2 ^ (8 * n)
  let b := leNat (p.take n)
  let ds := unpackBits w (512 / n) (leNat ((p.drop 8).take (512 / n * w / 8)))
  ds.flatMap fun d => leBytes n ((b + (if d < 2 ^ (w - 1) then d else d + m - 2 ^ w)) % m)

/-- The exponent field of a BF16 value. -/
def bfExp (u : Nat) : Nat := u / 128 % 256

/-- The group exponents of the ES form: the largest of each group of 16 values. -/
def esTops (us : List Nat) : List Nat := (List.range 16).map fun k => (((us.drop (16 * k)).take 16).map bfExp).foldl max 0

/-- ES: group exponents, offsets of two bits (3 for a zero exponent), signs with fractions. -/
def encodeEs (bs : List Byte) : List Byte :=
  let us := units 2 bs 512
  let tops := esTops us
  let off (i u : Nat) : Nat := if bfExp u = 0 then 3 else tops.getD (i / 16) 0 - bfExp u
  let os := ((List.range 256).zip us).map fun p => off p.1 p.2
  tops.map (BitVec.ofNat 8) ++ leBytes 64 (packBits 2 os) ++ us.map fun u => BitVec.ofNat 8 (u / 32768 * 128 + u % 128)

def decodeEs (p : List Byte) : List Byte :=
  let os := unpackBits 2 256 (leNat ((p.drop 16).take 64))
  ((List.range 256).zip os).flatMap fun q =>
    let x := ((p.drop (80 + q.1)).headD 0).toNat
    let e := if q.2 = 3 then 0 else ((p.drop (q.1 / 16)).headD 0).toNat - q.2
    leBytes 2 (x / 128 * 32768 + e * 128 + x % 128)

/-- The stored bytes of a block's 512 bytes in a format (Table CE-8). -/
def encodeBlock (f : Nat) (bs : List Byte) : List Byte :=
  match f with
  | 0 => bs
  | 1 => padBlock []
  | 2 => padBlock (encodeDeltas 4 4 bs)
  | 3 => padBlock (encodeDeltas 4 8 bs)
  | 4 => padBlock (encodeDeltas 4 16 bs)
  | 5 => padBlock (encodeDeltas 2 4 bs)
  | 6 => padBlock (encodeDeltas 2 8 bs)
  | _ => padBlock (encodeEs bs)

/-- The 512 bytes that a stored form stands for. -/
def decodeBlock (f : Nat) (p : List Byte) : List Byte :=
  match f with
  | 0 => p
  | 1 => List.replicate 512 0
  | 2 => decodeDeltas 4 4 p
  | 3 => decodeDeltas 4 8 p
  | 4 => decodeDeltas 4 16 p
  | 5 => decodeDeltas 2 4 p
  | 6 => decodeDeltas 2 8 p
  | _ => decodeEs p

/-- A block's bytes as the controller expands them. -/
def State.expandBlock (s : State) (blk : Nat) : List Byte :=
  decodeBlock ((s.tagOf blk).toNat / 32) (bytesAt s.hbm (512 * blk) 512)

/-! ### Merges (R310) -/

/-- Whether a block reads as poisoned in the stored form (R306): its tag is not valid, or every sector is marked. -/
def State.blockPoisoned (s : State) (blk : Nat) : Bool :=
  !tagValid (s.tagOf blk) || (List.range 8).all fun i => s.hbmPoison.has (8 * blk + i)

/-- A block's bytes with those of one of its lines replaced. -/
def replaceLine (blk line : Nat) (block bytes : List Byte) : List Byte :=
  let o := 128 * line - 512 * blk
  block.take o ++ bytes ++ block.drop (o + 128)

/-- A line is written back to its block (R310). A line of a raw block that was not written through a compressed translation
replaces its bytes; every other write-back is a merge. -/
def State.mergeLine (s : State) (line : Nat) : State :=
  let blk := line / 4
  let comp := s.compLines.has line
  let bytes := s.memRead (128 * line) 128
  let secs := [2 * line, 2 * line + 1]
  let marks := secs.foldl (fun a k => a.assign k (s.secPoisoned k)) s.hbmPoison
  let plain := putBytes s.hbm (128 * line) bytes
  if s.tagOf blk == 0x08 && !comp then { s with hbm := plain, hbmPoison := marks }
  else if s.blockPoisoned blk then
    let rest := ((List.range 8).map (· + 8 * blk)).filter fun k => !secs.contains k
    { s with hbm := plain, hbmPoison := rest.foldl NSet.add marks, tags := s.tags.put blk 0x08 }
  else
    let block := replaceLine blk line (s.expandBlock blk) bytes
    let f := if comp then chooseFormat block else 0
    { s with hbm := putBytes s.hbm (512 * blk) (encodeBlock f block), hbmPoison := marks, tags := s.tags.put blk (tagFor f) }

end Sys2Proof.Machine
end

