-- ==== Sys2Proof/Machine/Cache.lean ====
section
/-! DEFINITION. Coherence (spec/15_package_fabric.md, R437 to R455) as an access meets it: virtual channels and links, the
home's directory, the caching agents' states, the L1 data caches and directories of a die, and the course of one access
through them. Agents 0 to 3 are the compute dies and 4 is the host. None of these structures holds a value (R184): values
stand in `mem`, and a write-back merges the line into its stored block (R310). -/

namespace Sys2Proof.Machine

/-! ### Channels (R437, R438) -/

/-- The virtual channel of a message (Table PF-4): 0 REQ, 1 SNP, 2 RSP, 3 DAT. -/
def Msg.chan : Msg → Nat
  | .req _ => 0
  | .snpS => 1
  | .snpC => 1
  | .snpI => 1
  | .snpD => 3
  | .wbD => 3
  | .atomD => 3
  | .datS => 3
  | .datE => 3
  | .datM => 3
  | .rspI => 2
  | .rspS => 2
  | .rspWbP => 2
  | .gntX => 2
  | .ack => 2
  | .wbAck => 2
  | .cmp => 2
  | .err => 2

/-- The messages that a receiver has slots for on a channel: a data message takes two of DAT's 32 beats (R439). -/
def chanSlots (ch : Nat) : Nat := if ch = 2 then 32 else 16

/-- The key of a channel from one agent to another. -/
def chanKey (src dst ch : Nat) : Nat := (5 * src + dst) * 4 + ch

/-- The home die of a line. -/
def homeOf (line : Nat) : Nat := line / 2 ^ 32

def State.chan (s : State) (src dst ch : Nat) : Chan := s.chans.get Chan.empty (chanKey src dst ch)

def State.setChan (s : State) (src dst ch : Nat) (x : Chan) : State :=
  { s with chans := s.chans.set Chan.empty (chanKey src dst ch) x }

def State.die (s : State) (d : Nat) : DieSt := s.dies.get DieSt.initial d

def State.setDie (s : State) (d : Nat) (x : DieSt) : State := { s with dies := s.dies.set DieSt.initial d x }

/-- The clock of a die; the hub's own for agent 4. -/
def State.dieClk (s : State) (d : Nat) : Nat := if d < 4 then (s.die d).clk else s.hub

def linkKey (a b : Nat) : Nat := 5 * min a b + max a b

def State.link (s : State) (a b : Nat) : LinkSt := s.links.get LinkSt.initial (linkKey a b)

def State.setLink (s : State) (a b : Nat) (x : LinkSt) : State :=
  { s with links := s.links.set LinkSt.initial (linkKey a b) x }

/-- Messages pass between an agent and itself, and over a link that is awake. -/
def State.linkUp (s : State) (a b : Nat) : Bool := a == b || (s.link a b).mode == .awake

/-- Whether the hub expects an answer to a message: a request, as against an answer or an acknowledgement (R450). -/
def Msg.expects (m : Msg) : Bool := m.chan == 0

/-- Whether a message to the hub answers a request of its. -/
def Msg.replies (m : Msg) : Bool := m.chan == 2 || m.chan == 3

/-- What the hub still waits for after messages of a die: the oldest request for a line goes with the answer about it (R450). -/
def heard (us : List (Nat × Nat)) (fs : List FMsg) : List (Nat × Nat) :=
  fs.foldl (fun a f => if f.msg.replies then a.eraseP fun u => u.1 == f.line else a) us

/-- Messages pass a link: the link is busy, and the hub hears from a die (R449, R450). -/
def State.noteSend (s : State) (src dst : Nat) (fs : List FMsg) : State :=
  let s1 := if src = dst then s else s.setLink src dst { s.link src dst with last := s.dieClk (min src dst) }
  if dst = 4 ∧ src < 4 then s1.setDie src { s1.die src with lastHub := s.hub, unanswered := heard (s1.die src).unanswered fs } else s1

/-- Sends a message: it enters a free slot of its channel, or waits for a credit or for the link (R437, R449). The hub notes a
request that it sends to a die (R450). -/
def State.send (s : State) (src dst line : Nat) (m : Msg) : State :=
  let ch := s.chan src dst m.chan
  let f : FMsg := { line := line, msg := m }
  let s0 := if src = 4 ∧ dst < 4 ∧ m.expects then s.setDie dst { s.die dst with unanswered := (s.die dst).unanswered ++ [(line, s.hub)] } else s
  if ch.wait.isEmpty && s.linkUp src dst && decide (ch.slots.length < chanSlots m.chan) then
    (s0.setChan src dst m.chan { ch with slots := ch.slots ++ [f] }).noteSend src dst [f]
  else s0.setChan src dst m.chan { ch with wait := ch.wait ++ [f] }

/-- The messages that wait on a channel enter the slots that are free. -/
def State.refill (s : State) (src dst n : Nat) : State :=
  let ch := s.chan src dst n
  let k := chanSlots n - ch.slots.length
  if s.linkUp src dst && !ch.wait.isEmpty && k != 0 then
    (s.setChan src dst n { slots := ch.slots ++ ch.wait.take k, wait := ch.wait.drop k }).noteSend src dst (ch.wait.take k)
  else s

/-- The receiver takes a message, if it is the oldest in its channel's slots, and returns the credit. -/
def State.deliver (s : State) (src dst line : Nat) (m : Msg) : Option State :=
  let ch := s.chan src dst m.chan
  match ch.slots with
  | [] => none
  | f :: rest =>
    if f = { line := line, msg := m } then some ((s.setChan src dst m.chan { ch with slots := rest }).refill src dst m.chan) else none

/-! ### Messages that pass at once -/

/-- The present step waits: what it has done so far does not happen (R442). DESIGN CHOICE, log 46. -/
def State.stall (s : State) : State := { s with stalled := true }

/-- What is sent between two agents within a step, over a link that is awake or wakes for it; the messages that waited
for the link are sent. DESIGN CHOICE, log 46. -/
def State.pass (s : State) (src dst : Nat) : State :=
  if src = dst then s
  else
    let x := s.link src dst
    let s1 := if x.mode = .awake then s
      else (List.range 4).foldl (fun t n => (t.refill src dst n).refill dst src n) (s.setLink src dst { x with mode := .awake })
    s1.noteSend src dst []

/-- A request and its answer, other than messages of Syzer. -/
def State.exchange (s : State) (a b : Nat) : State := (s.pass a b).pass b a

/-- A message of Syzer is sent and received within a step: it takes a slot of its channel and gives it back. Where messages are in
the channel or wait for it, it waits behind them (R437). -/
def State.passOn (s : State) (src dst ch : Nat) : State :=
  if (s.chan src dst ch).slots.isEmpty && (s.chan src dst ch).wait.isEmpty then s.pass src dst else s.stall

/-! ### Lines -/

/-- The entry of a line that the home has not seen: empty, or with its host bit set after an abrupt reset
(Table PF-11). -/
def State.freshLine (s : State) (line : Nat) : LineSt :=
  if (s.die (homeOf line)).hostBits then { LineSt.initial with dir := .s, sh := [4], recallBit := true } else LineSt.initial

def State.line (s : State) (line : Nat) : LineSt := s.lines.get (s.freshLine line) line

def State.setLine (s : State) (line : Nat) (e : LineSt) : State := { s with lines := s.lines.set (s.freshLine line) line e }

/-- What an agent holds of a line. -/
def LineSt.agent (e : LineSt) (a : Nat) : AgentSt := e.agents.get .i a

def LineSt.setAgent (e : LineSt) (a : Nat) (x : AgentSt) : LineSt := { e with agents := e.agents.set .i a x }

def State.setAgent (s : State) (line a : Nat) (x : AgentSt) : State := s.setLine line ((s.line line).setAgent a x)

/-- Clears an agent's bit and its ownership: memory is then current, and an entry without copies is empty. -/
def LineSt.clear (e : LineSt) (b : Nat) : LineSt :=
  let owned := (e.dir == .x || e.dir == .o) && e.owner == b
  let sh := e.sh.remove b
  let dir := if owned then .s else e.dir
  { e with sh := sh, owner := if owned then 0 else e.owner, recallBit := e.recallBit && b != 4
           dir := if dir = .s ∧ sh = [] then .i else dir }

/-- Every agent with a copy. -/
def LineSt.copies (e : LineSt) : NSet := if e.dir == .x || e.dir == .o then e.sh.add e.owner else e.sh

/-! ### Residency (R451, R452) -/

/-- Whether a register covers a line. -/
def Residency.covers (r : Residency) (line : Nat) : Bool :=
  r.en && decide (r.base.toNat ≤ line / 32) && decide (line / 32 ≤ r.limit.toNat)

/-- The register of die d that decides an access to a line. -/
def State.residencyFor (s : State) (line : Nat) : Option Nat :=
  ((List.range 16).map (· + 16 * homeOf line)).find? fun i => (s.residency.get Residency.initial i).covers line

/-- Whether the access that a register decides next receives the retained class. -/
def Residency.retains (r : Residency) : Bool :=
  let ratio := min r.ratio.toNat 16
  decide (r.count.toNat * ratio % 16 < ratio)

/-- The ways of each slice that an enabled register reserves: registers take their ways in increasing index, WAYS each or
what is left of 12. -/
def State.reservedWays (s : State) (i : Nat) : Nat :=
  let ways (k : Nat) : Nat := let r := s.residency.get Residency.initial k; if r.en then min r.ways.toNat 12 else 0
  let taken := ((List.range (i % 16)).map fun k => ways (16 * (i / 16) + k)).foldl (fun a w => min 12 (a + w)) 0
  min (ways i) (12 - taken)

/-- The home's L2 is accessed: the register that decides advances its count, and a line of the retained class stands in the
register's reserved ways, where no other line does. -/
def State.touchL2 (s : State) (line : Nat) : State :=
  let place (t : State) (k : Option Nat) : State := t.setLine line { t.line line with resv := k }
  match s.residencyFor line with
  | none => place s none
  | some i =>
    let r := s.residency.get Residency.initial i
    place { s with residency := s.residency.set Residency.initial i { r with count := r.count + 1 } }
      (if r.retains && decide (0 < s.reservedWays i) then some i else none)

/-! ### Snoops, answers and grants (R443, R444, Tables PF-6 and PF-7) -/

/-- The snoops of Table PF-6 for a request of agent a. The host is never asked to give up what it holds for its own
request, and a host bit from before an abrupt reset is recalled by the first one (Table PF-11). -/
def snoops (e : LineSt) (a : Nat) (r : Req) : List (Nat × Msg) :=
  let inv (xs : NSet) : List (Nat × Msg) := xs.map fun b => (b, .snpI)
  let held := e.dir == .x || e.dir == .o
  let base : List (Nat × Msg) := match r with
    | .rdS => if held then [(e.owner, .snpS)] else []
    | .blk => if held then [(e.owner, .snpC)] else []
    | .upg => if e.dir == .s || (e.dir == .o && e.owner == a) then inv (e.copies.remove a) else inv e.copies
    | .hostWr _ _ _ => inv (e.copies.remove 4)
    | _ => inv e.copies
  let xs := base.filter fun p => !(a == 4 && p.1 == 4)
  if e.recallBit && a != 4 && !(xs.any fun p => p.1 == 4) then (4, .snpI) :: xs else xs

/-- Which snoop an agent of a transaction was sent. -/
def snoopKind (r : Req) (recallBit : Bool) (b : Nat) : Msg :=
  match r with
  | .rdS => if recallBit && b == 4 then .snpI else .snpS
  | .blk => if recallBit && b == 4 then .snpI else .snpC
  | _ => .snpI

/-- The entry after a request has been answered, the reply, and whether dirty data goes to memory. `alone` says that
nothing was snooped. -/
def answer (e : LineSt) (a : Nat) (r : Req) (dirty alone : Bool) : LineSt × Msg × Bool :=
  let owned : LineSt := { e with dir := .x, owner := a, sh := [], recallBit := false }
  let empty : LineSt := { e with dir := .i, owner := 0, sh := [], recallBit := false }
  match r with
  | .rdS =>
    match e.dir with
    | .i => if alone then (owned, .datE, false) else ({ e with dir := .s, sh := e.sh.add a }, .datS, false)
    | .s => ({ e with dir := .s, sh := e.sh.add a }, .datS, false)
    | .x =>
      if e.owner = a then (e, .datE, false)
      else if dirty then ({ e with dir := .o, sh := e.sh.add a }, .datS, false)
      else ({ e with dir := .s, sh := (e.sh.add e.owner).add a, owner := 0 }, .datS, false)
    | .o => if e.owner = a then (e, .datS, false) else ({ e with sh := e.sh.add a }, .datS, false)
  | .rdX => (owned, if dirty then .datM else .datE, false)
  | .upg =>
    let mine := (e.dir == .s && e.sh.has a) || (e.dir == .o && e.owner == a)
    (owned, if mine then .gntX else if dirty then .datM else .datE, false)
  | .atom ret => (empty, if ret then .atomD else .cmp, dirty)
  | .flush => (empty, .cmp, dirty)
  | .blk =>
    let held := e.dir == .x || e.dir == .o
    (if held then { e with dir := .s, sh := e.sh.add e.owner, owner := 0 } else e, .atomD, dirty)
  | .hostWr _ _ _ => (empty, .cmp, dirty)

/-- Whether the requester acknowledges a reply. -/
def Msg.needsAck : Msg → Bool
  | .datS => true
  | .datE => true
  | .datM => true
  | .gntX => true
  | _ => false

/-- What an agent answers to a snoop and holds afterwards. `drop` says that it has dropped its clean copy before. -/
def AgentSt.snooped (x : AgentSt) (m : Msg) (drop : Bool) : Msg × AgentSt :=
  let inv := m == .snpI
  match x with
  | .s => if drop then (.rspI, .i) else if inv then (.rspI, .i) else (.rspS, .s)
  | .e => if drop then (.rspI, .i) else if inv then (.rspI, .i) else (.rspS, .s)
  | .m => (.snpD, if inv then .i else if m = .snpC then .s else .o)
  | .o => (.snpD, if inv then .i else if m = .snpC then .s else .o)
  | .sx => if inv then (.rspI, .ix) else (.rspS, .sx)
  | .xw => (.rspWbP, .xw)
  | .i => (.rspI, .i)
  | .is => (.rspI, .is)
  | .ix => (.rspI, .ix)

/-- What an agent holds after a grant. -/
def AgentSt.granted (x : AgentSt) (m : Msg) : AgentSt :=
  match m, x with
  | .datS, _ => .s
  | .datE, .is => .e
  | .datE, _ => .m
  | .datM, _ => .m
  | .gntX, _ => .m
  | _, y => y


/-! ### Inside a die: L1 data caches, sharer filters and the die directory (R13, R440) -/

/-- The key of what a core's L1 data cache holds of a line. -/
def l1Key (line c : Nat) : Nat := 512 * line + c

/-- What the L1 data cache of a core holds of a line: M, E, S or I. -/
def State.l1At (s : State) (c line : Nat) : AgentSt := s.l1.get .i (l1Key line c)

/-- The sharer filter of a cluster: the cores of it whose L1 data caches hold a line. -/
def State.filterOf (s : State) (k line : Nat) : List Nat :=
  ((List.range 4).map (· + 4 * k)).filter fun c => s.l1At c line != .i

/-- A snoop or a write reaches the L1 data caches of a die: copies of the line go, but the one of core `keep`. -/
def State.l1Drop (s : State) (d line : Nat) (keep : Option Nat := none) : State :=
  { s with l1 := s.l1.filter fun p => !(p.1 / 512 == line && dieOf (p.1 % 512) == d && some (p.1 % 512) != keep) }

/-- Exclusive copies of a line in the L1 data caches of a die become shared; dirty data goes to the L2. -/
def State.l1Share (s : State) (d line : Nat) : State :=
  { s with l1 := s.l1.map fun p => if p.1 / 512 == line && dieOf (p.1 % 512) == d then (p.1, .s) else p }

/-- The lines that a core's L1 data cache can hold: 768 KiB less the group memory partition (R14, R184). -/
def State.l1Lines (s : State) (c : Nat) : Nat := 6144 - (s.core c).part / 128

/-- An L1 data cache that holds more lines than it has room for gives up as many, dirty ones to the L2: first those marked .STREAM
(R172), then the lowest, and never line `keep`. DESIGN CHOICE, log 57. -/
def State.l1Evict (s : State) (c : Nat) (keep : Option Nat) : State :=
  let mine := (s.l1.filter fun p => p.1 % 512 == c).map (·.1)
  let may := mine.filter fun k => some (k / 512) != keep
  let order := (may.filter fun k => s.l1stream.has k) ++ may.filter fun k => !s.l1stream.has k
  let out := order.take (mine.length - s.l1Lines c)
  { s with l1 := s.l1.filter fun p => !out.contains p.1, l1stream := s.l1stream.filter fun k => !out.contains k }

/-- The key of a 512-byte region in the directory of a die. -/
def regionKey (line d : Nat) : Nat := 4 * (line / 4) + d

/-- A line enters the L1 data cache of a core: the die directory records its cluster for the region. -/
def State.l1Fill (s : State) (c line : Nat) (x : AgentSt) : State :=
  let k := regionKey line (dieOf c)
  let t := { s with l1 := s.l1.set .i (l1Key line c) x
                    l1stream := if s.l1At c line = AgentSt.i then s.l1stream.remove (l1Key line c) else s.l1stream
                    dieDir := s.dieDir.put k (NSet.add (s.dieDir.get [] k) (clusterOf c % 32)) }
  t.l1Evict c (some line)

/-- .STREAM marks a line that the L1 data cache of a core holds first for eviction (R172). -/
def State.l1Mark (s : State) (c line : Nat) : State :=
  if s.l1At c line = .i then s else { s with l1stream := s.l1stream.add (l1Key line c) }

/-! ### Host memory (R454) -/

/-- The key of a die's state of a sector of host memory. -/
def hostKey (sec d : Nat) : Nat := 4 * sec + d

/-- A die obtains a sector of host memory through the hub: shared, or exclusively, when no other die holds it any more. The host
recalls it from each of the others over that die's hub link. -/
def State.hostAccess (s : State) (d sec : Nat) (wr : Bool) : State :=
  let held := s.hostSec.get .i (hostKey sec d)
  if held == .m || (!wr && held != .i) then s
  else
    let others := (List.range 4).filter fun b => b != d && s.hostSec.get .i (hostKey sec b) != .i
    let s1 := others.foldl (fun t0 b =>
      let t := t0.exchange 4 b
      if wr then { (t.l1Drop b (sec / 2)) with hostSec := t.hostSec.del (hostKey sec b) }
      else { (t.l1Share b (sec / 2)) with hostSec := t.hostSec.put (hostKey sec b) .s }) s
    { (s1.exchange d 4) with hostSec := s1.hostSec.put (hostKey sec d) (if wr then .m else .s) }

/-! ### One access of a die to a line of device HBM (R443 to R448) -/

def AgentSt.stable (x : AgentSt) : Bool :=
  match x with
  | .i => true
  | .s => true
  | .e => true
  | .m => true
  | .o => true
  | _ => false

/-- No transaction of the line is in progress or waits, and no agent has a request or a write-back of it on its way. -/
def LineSt.idle (e : LineSt) : Bool := e.txn.isNone && e.queue.isEmpty && e.agents.all fun p => p.2.stable

/-- The snoops of a transaction and their answers, as an entry takes them: the entry, and whether an owner gave dirty data. -/
def LineSt.snoopAll (e : LineSt) (sn : List (Nat × Msg)) : LineSt × Bool :=
  sn.foldl (fun p q =>
    let x := (p.1.agent q.1).snooped q.2 false
    let e1 := p.1.setAgent q.1 x.2
    (if x.1 = .rspI ∨ q.2 = .snpI then e1.clear q.1 else e1, p.2 || x.1 == .snpD)) (e, false)

/-- The state in which an agent waits for the answer to a request. -/
def Req.pending (r : Req) : AgentSt :=
  match r with
  | .rdS => .is
  | .rdX => .ix
  | .upg => .sx
  | _ => .i

/-- A snoop of a transaction passes to an agent, and its answer to the home. -/
def State.passSnoop (s : State) (e : LineSt) (h b : Nat) (m : Msg) : State :=
  (s.passOn h b 1).passOn b h ((e.agent b).snooped m false).1.chan

/-- The entry of an idle line once a request of it has been served, the reply, and whether dirty data goes to memory. -/
def LineSt.served (e : LineSt) (a : Nat) (r : Req) : LineSt × Msg × Bool :=
  let sn := snoops e a r
  let p := e.snoopAll sn
  let x := answer { p.1 with recallBit := p.1.recallBit && a != 4 } a r p.2 sn.isEmpty
  (if x.2.1.needsAck then x.1.setAgent a (r.pending.granted x.2.1) else x.1, x.2)

/-- What the home does for a request of an idle line, between the request and the reply (Tables PF-6 and PF-7): the snoops and
their answers, and the write-back of dirty data. -/
def State.homeServes (s : State) (line a : Nat) (r : Req) : State :=
  let e := s.line line
  let x := e.served a r
  let s1 := (snoops e a r).foldl (fun t q =>
    (if q.2 = .snpI then t.l1Drop q.1 line else t.l1Share q.1 line).passSnoop e (homeOf line) q.1 q.2) ((s.setLine line x.1).touchL2 line)
  if x.2.2 then s1.mergeLine line else s1

/-- A whole transaction of an idle line within one step (Tables PF-6 and PF-7): the request, what the home does, the reply and the
Ack, each on its own channel (Table PF-4). -/
def State.transact (s : State) (line a : Nat) (r : Req) : State :=
  let h := homeOf line
  let m := ((s.line line).served a r).2.1
  let s1 := ((s.passOn a h 0).homeServes line a r).passOn h a m.chan
  if m.needsAck then s1.passOn a h 2 else s1

/-- A die reads or writes a line of device HBM through its L2: it takes part as a caching agent (R440), and a store turns its
E into M. An access that meets a transaction in progress waits for its end (R442). -/
def State.lineAccess (s : State) (d line : Nat) (wr : Bool) : State :=
  let e := s.line line
  if !e.idle then s.stall
  else
    let s0 := if homeOf line = d then s.touchL2 line else s
    match e.agent d, wr with
    | .m, _ => s0
    | .e, true => s0.setLine line ((s0.line line).setAgent d .m)
    | .e, false => s0
    | .s, false => s0
    | .o, false => s0
    | .s, true => s.transact line d .upg
    | .o, true => s.transact line d .upg
    | _, true => s.transact line d .rdX
    | _, false => s.transact line d .rdS

/-- A read-modify-write, or the write of a party that holds no copies, is made at the home: every copy is recalled
(R447). One that meets a transaction in progress waits for its end (R442). -/
def State.homeAccess (s : State) (a line : Nat) : State :=
  if (s.line line).idle then (s.transact line a (.atom false)).mergeLine line else s.stall

/-! ### Accesses (R440, R447) -/

/-- How a party reaches memory: through a core's L1 data cache, whose line it may mark .STREAM, through a die's L2 (engines,
fetches, walks), or from the hub. -/
inductive Party where
  | core (c : Nat)
  | stream (c : Nat)
  | die (d : Nat)
  | hub
  deriving DecidableEq, Repr

/-- How an LD or ST of a core reaches memory: .NOL1 bypasses the L1 data cache (R172). -/
def hintParty (c : Nat) (h : Hint) : Party :=
  match h with
  | .none => .core c
  | .stream => .stream c
  | .noL1 => .die (dieOf c)

/-- Whether an access changes what it reaches. -/
def Access.writes (x : Access) : Bool := x == .write || x == .rmw

/-- One line as a core's L1 data cache meets it: a hit changes nothing but E to M; a miss or an upgrade goes to the L2 and
probes the other cores of the die that hold the line. -/
def State.coreLine (s : State) (c line : Nat) (wr : Bool) (l2 : State → State) (excl : State → Bool) : State :=
  let d := dieOf c
  let st := s.l1At c line
  if st == .m || (!wr && st != .i) then s
  else
    let s1 := l2 s
    if s1.stalled then s1
    else
    let others := s1.l1.any fun p => p.1 / 512 == line && dieOf (p.1 % 512) == d && p.1 % 512 != c
    if wr then (s1.l1Drop d line (some c)).l1Fill c line .m
    else (s1.l1Share d line).l1Fill c line (if !others && excl s1 then .e else .s)

/-- One line of device HBM as a core meets it. -/
def State.coreHbm (s : State) (c line : Nat) (wr : Bool) : State :=
  s.coreLine c line wr (fun t => t.lineAccess (dieOf c) line wr)
    fun t => (t.line line).agent (dieOf c) == .e || (t.line line).agent (dieOf c) == .m

/-- One sector of host memory as a core meets it: its die obtains the sector, whatever the L1 data cache holds of the line. -/
def State.coreHost (s : State) (c sec : Nat) (wr : Bool) : State :=
  (s.hostAccess (dieOf c) sec wr).coreLine c (sec / 2) wr id fun t => t.hostSec.get .i (hostKey sec (dieOf c)) == .m

/-- An access of a party to one line of device HBM; its writes have been made. The hub reads and writes in the L2 of the home.
DESIGN CHOICE, log 46. -/
def State.devAccess (s : State) (p : Party) (line : Nat) (x : Access) : State :=
  if s.fenced.has (homeOf line) then s
  else
    match p, x with
    | .core c, .rmw => (s.homeAccess (dieOf c) line).l1Drop (dieOf c) line
    | .stream c, .rmw => (s.homeAccess (dieOf c) line).l1Drop (dieOf c) line
    | .core c, _ => s.coreHbm c line x.writes
    | .stream c, _ => (s.coreHbm c line x.writes).l1Mark c line
    | .die d, .rmw => (s.homeAccess d line).l1Drop d line
    | .die d, .write => (s.lineAccess d line true).l1Drop d line
    | .die d, _ => (s.lineAccess d line false).l1Share d line
    | .hub, _ =>
      let h := homeOf line
      (if x.writes then (s.homeAccess h line).l1Drop h line else (s.lineAccess h line false).l1Share h line).exchange 4 h

/-- An access of a party to one sector of host memory; a read-modify-write is made in the L2 of the issuing die. -/
def State.hostLine (s : State) (p : Party) (sec : Nat) (x : Access) : State :=
  let viaL2 (d : Nat) : State :=
    let t := s.hostAccess d sec x.writes
    if x.writes then t.l1Drop d (sec / 2) else t.l1Share d (sec / 2)
  match p with
  | .core c => if x = .rmw then viaL2 (dieOf c) else s.coreHost c sec x.writes
  | .stream c => if x = .rmw then viaL2 (dieOf c) else (s.coreHost c sec x.writes).l1Mark c (sec / 2)
  | .die d => viaL2 d
  | .hub =>
    if x.writes then
      (List.range 4).foldl (fun t b =>
        if t.hostSec.get .i (hostKey sec b) = .i then t
        else { ((t.exchange 4 b).l1Drop b (sec / 2)) with hostSec := t.hostSec.del (hostKey sec b) }) s
    else s

/-- What an access to [pa, pa + n) does to the caches and directories, after its writes have been made. Nothing of it changes
a value. -/
def State.access (s : State) (p : Party) (pa n : Nat) (x : Access) : State :=
  if pa < 2 ^ 41 then (linesOf pa n).foldl (fun t l => t.devAccess p l x) s
  else (sectorsOf pa n).foldl (fun t k => t.hostLine p k x) s

/-- The same for a location. -/
def State.locAccess (s : State) (p : Party) (l : Loc) (n : Nat) (x : Access) : State :=
  match l with
  | .glob pa _ => s.access p pa n x
  | .sram _ _ => s

/-- A party writes bytes of physical memory. -/
def State.store (s : State) (p : Party) (pa : Nat) (bs : List Byte) (comp : Bool := false) : State :=
  (s.memWrite pa bs comp).access p pa bs.length .write

/-- A party writes bytes of a location. -/
def State.locStore (s : State) (p : Party) (l : Loc) (bs : List Byte) : State :=
  (s.locWrite l bs).locAccess p l bs.length .write

/-- The accesses of a party to some locations. -/
def State.locAccesses (s : State) (p : Party) (ls : List Loc) (n : Nat) (x : Access) : State :=
  ls.foldl (fun t l => t.locAccess p l n x) s

/-- The walk of a core's access to an address: where neither the core's L1 TLB nor its cluster's L2 TLB holds the translation, a
walker of the die reads the table entries through its L2 (R13, R185). -/
def State.walked (s : State) (c asid va : Nat) : State :=
  if ((s.core c).tlbFind asid va).isSome || (tlbLookup (s.l2tlbOf (clusterOf c)) asid va).isSome then s
  else
    match s.space asid with
    | none => s
    | some sp => (s.walkPath sp.ptroot va 4).foldl (fun t pa => t.access (.die (dieOf c)) pa 8 .read) s

/-- The walks of some addresses; an address outside the virtual address space has none. -/
def State.walkedAll (s : State) (c asid : Nat) (eas : List Int) : State :=
  eas.foldl (fun t ea => if 0 ≤ ea ∧ ea < 2 ^ 57 then t.walked c asid ea.toNat else t) s

/-- The walk of an access to a location at an address; group memory has none. -/
def State.walkLoc (s : State) (c asid : Nat) (l : Loc) (ea : Int) : State :=
  match l with
  | .glob _ _ => s.walkedAll c asid [ea]
  | .sram _ _ => s

/-! ### Eviction and instruction caches (R13, R180 to R182) -/

/-- A core's L1 data cache gives up a line; a dirty one goes to the L2. -/
def State.l1Evicted (s : State) (c line : Nat) : State := { s with l1 := s.l1.del (l1Key line c) }

/-- A line of device HBM leaves every L1 data cache and L2 of the package for a die's Flush (R439, R443): the home invalidates the
copies of the dies, has a dirty one written to its HBM, and answers with Cmp. The host's copy stays, as R181 says. One that meets a
transaction of the line waits for its end. DEDUCED, log 57. -/
def State.devEvicted (s : State) (d line : Nat) : State :=
  let e := s.line line
  let h := homeOf line
  if s.fenced.has h then s
  else if !e.idle then s.stall
  else
    let dirty := (List.range 4).any fun b => e.agent b == .m || e.agent b == .o
    let s1 := (s.setLine line ((List.range 4).foldl (fun x b => (x.setAgent b .i).clear b) e)).passOn d h 0
    let s2 := ((List.range 4).filter fun b => e.copies.has b).foldl (fun t b => t.passSnoop e h b .snpI) s1
    let s3 := (List.range 4).foldl (fun t b => t.l1Drop b line) s2
    (if dirty then s3.mergeLine line else s3).passOn h d 2

/-- A die's copies of the two sectors of a line of host memory are given up to the hub (R454). -/
def State.hostEvicted (s : State) (d line : Nat) : State :=
  let held := [2 * line, 2 * line + 1].filter fun k => s.hostSec.get .i (hostKey k d) != .i
  held.foldl (fun t k => { (t.exchange d 4) with hostSec := t.hostSec.del (hostKey k d) }) (s.l1Drop d line)

/-- A line leaves every L1 data cache and L2 of the package, as a core of a die asks (R181). -/
def State.l2Evicted (s : State) (d line : Nat) : State :=
  if line < 2 ^ 34 then s.devEvicted d line else (List.range 4).foldl (fun t b => t.hostEvicted b line) s

/-- Lines of the cluster instruction cache: 512 KiB (R13). -/
def clusterLines : Nat := 4096

/-- A core's instruction fetch reads its cluster's instruction cache, which takes the line from the L2 and gives up the lowest of
its others when it is full (R13). DESIGN CHOICE, log 57. -/
def State.clusterFetch (s : State) (c pa : Nat) : State :=
  let k := clusterOf c
  let key := pa / 128 * 128 + k
  if s.clIc.has key then s
  else
    let s1 := s.access (.die (dieOf c)) pa 8 .fetch
    if s1.stalled then s1
    else
    let mine := s1.clIc.filter fun q => q % 128 == k
    let s2 := if mine.length < clusterLines then s1 else { s1 with clIc := s1.clIc.remove (mine.headD 0) }
    { s2 with clIc := s2.clIc.add key
              dieDir := s2.dieDir.put (regionKey (pa / 128) (dieOf c)) (NSet.add (s2.dieDir.get [] (regionKey (pa / 128) (dieOf c))) (k % 32)) }

end Sys2Proof.Machine
end

