-- ==== Sys2Proof/Machine/Ops.lean ====
section
/-! DEFINITION. The named operations over memory and the machine's state that more than one unit performs: accesses at virtual
addresses, the event log, halts, taking a trap, group barriers, and rolling a blocking instruction back. -/

namespace Sys2Proof.Machine

/-! ### The event log and queue halts -/

/-- Writes one event-log entry (R470); `src` is a die or 4 for the hub. -/
def State.logEvent (s : State) (code src unit : Nat) (data : DWord) : State :=
  let i := s.logNext.toNat % 4096
  let lost := match s.log.find? i with
    | some e => !e.read
    | none => false
  { s with
    log := s.log.put i { seq := s.logNext, code := BitVec.ofNat 8 code, src := BitVec.ofNat 8 src,
                         unit := BitVec.ofNat 16 unit, data := data, read := false }
    logNext := s.logNext + 1
    logLost := if lost && s.logLost != BitVec.allOnes 32 then s.logLost + 1 else s.logLost }

/-- Writes an event-log entry that a die reports, over its hub link (R9). -/
def State.logDie (s : State) (code d unit : Nat) (data : DWord) : State := (s.pass d 4).logEvent code d unit data

/-- What an agent sends to the dies of some cores (R9). -/
def State.passTo (s : State) (src : Nat) (cores : List Nat) : State := (cores.map dieOf).eraseDups.foldl (fun a d => a.pass src d) s

/-- The live dies of a launch's die set (R423). -/
def State.liveDies (s : State) (l : Launch) : NSet := l.dies.filter fun d => !s.fenced.has d

/-- The leader of a launch (R431). -/
def State.leader (s : State) (l : Launch) : Nat := (s.liveDies l).headD 4

def State.queue (s : State) (q : Nat) : Queue := s.queues.get Queue.initial q

def State.setQueue (s : State) (q : Nat) (x : Queue) : State := { s with queues := s.queues.set Queue.initial q x }

/-- Raises a queue's interrupt: IRQ is set and the MSI-X message sent, unless the queue is disabled (R419, R424). A queue
whose ENABLE is clear is disabled once its packet in progress has ended and has raised the interrupts of that end. -/
def State.raiseIrq (s : State) (q : Nat) : State :=
  let x := s.queue q
  if x.st = .disabled then s else { s.setQueue q { x with irq := true } with msix := s.msix ++ [x.vec] }

/-- Halts a queue (R418). A disabled queue stays disabled, and one that stops becomes disabled when its packet in progress
completes (R419). -/
def State.haltQueue (s : State) (q err det off : Nat) : State :=
  let x := s.queue q
  (s.setQueue q { x with st := if x.enable then .halted else x.st, err := BitVec.ofNat 4 err, errdet := BitVec.ofNat 8 det,
                         erroff := BitVec.ofNat 26 off }).raiseIrq q

/-- Halts every enabled queue of an address space with ERR 7. -/
def State.haltQueues (s : State) (asid : Nat) (qs : List Nat) : State :=
  match qs with
  | [] => s
  | q :: rest =>
    let x := s.queue q
    let s' := if x.asid = some asid ∧ x.st = .enabled then s.haltQueue q 7 0 x.rp.toNat else s
    s'.haltQueues asid rest

/-! ### Context halts (R242) -/

/-- What a halt records (Table TC-8); `log` is what the event log records of a later halt, XCAUSE : XPC[31:0] (Table MC-4). -/
structure HaltInfo where
  reason : Nat
  slot : Nat
  core : Nat
  code : Nat
  pc : Nat
  xcause : Nat
  xmask : Nat
  xaddr : Nat
  log : DWord
  deriving DecidableEq, Repr

def HaltInfo.bytes (h : HaltInfo) : List Byte :=
  leBytes 1 h.reason ++ leBytes 1 h.slot ++ leBytes 2 h.core ++ leBytes 4 h.code ++ leBytes 8 h.pc ++
  leBytes 4 h.xcause ++ leBytes 4 h.xmask ++ leBytes 8 h.xaddr

/-- REASON of an address space's halt record, as memory holds it. -/
def State.haltReason (s : State) (sp : Space) : Nat := (s.memByte (sp.desc + 96)).toNat

/-- Every running group of an address space stops issuing. A placed group that has not started keeps its place, and waits
(R247); one whose warps have all retired goes on to retire. -/
def State.stopGroups (s : State) (asid : Nat) : State :=
  { s with groups := s.groups.map fun p =>
      if p.2.run = .running ∧ !p.2.slots.isEmpty ∧ ((s.launch p.2.launch).any fun l => l.asid == asid) then (p.1, { p.2 with run := .stopped }) else p }

/-- The cores of the groups of an address space. -/
def State.coresOfAsid (s : State) (asid : Nat) : List Nat :=
  (s.groups.filter fun p => (s.launch p.2.launch).any fun l => l.asid == asid).flatMap fun p => p.2.cores

/-- Halts an address space: its warps stop, its queues stop, and the first halt writes HALTREC. A later halt is
recorded in the event log only. The hub hears of it from the core's die, and tells the dies that hold groups of it (R9). -/
def State.haltContext (s : State) (asid : Nat) (h : HaltInfo) : State :=
  match s.space asid with
  | none => s
  | some sp =>
    let s1 := ((s.pass (dieOf h.core) 4).passTo 4 (s.coresOfAsid asid)).stopGroups asid
    if s.haltReason sp = 0 then
      (s1.store (.die (dieOf h.core)) (sp.desc + 96) h.bytes).haltQueues asid (List.range 128)
    else s1.logDie 4 (dieOf h.core) h.core h.log

/-! ### Completing the register writes of a warp (R111) -/

/-- Completes, for a warp, every fixed-latency write and every load-store or float instruction in flight that
writes registers; those that write none stay in flight. Their order among each other is the model's. DESIGN CHOICE, log 59. -/
def Core.flushWarp (c : Core) (w : Warp) : Core × Warp :=
  let mineA := c.alu.filter fun o => decide (o.gid = w.gid ∧ o.wid = w.wid)
  let mineL := c.ls.filter fun o => decide (o.gid = w.gid ∧ o.wid = w.wid ∧ o.writes ≠ [])
  let w1 := w.settleAll
  let w2 := mineA.foldl (fun a o => (a.applyAll o.writes).decFlag o.flag) w1
  let w3 := mineL.foldl (fun a o => (a.applyAll o.writes).decFlag o.flag) w2
  ({ c with
      alu := c.alu.filter fun o => decide (¬ (o.gid = w.gid ∧ o.wid = w.wid))
      ls := c.ls.filter fun o => decide (¬ (o.gid = w.gid ∧ o.wid = w.wid ∧ o.writes ≠ [])) }, w3)

/-- R111 for the warp in a slot. -/
def State.flushAt (s : State) (c j : Nat) : State :=
  match s.warpAt c j with
  | none => s
  | some w =>
    let p := (s.core c).flushWarp w
    (s.setCore c p.1).setWarpAt c j p.2

/-- Whether an engine request of the warp has still to write a register (R111). -/
def Core.writesPending (c : Core) (w : Warp) : Bool :=
  c.arr.any fun r => r.gid == w.gid && r.wid == w.wid && !r.abandoned && match r.op with
    | .mx (.adrn _ _ _ _ _ regs) _ => regs
    | .fw (.stat _ _) _ => true
    | _ => false

/-! ### Taking a trap (R229 to R236) -/

/-- R203: a target is a multiple of 8 below 2^57. -/
def legalTarget (a : Int) : Bool := decide (0 ≤ a) && decide (a < 2 ^ 57) && decide (a % 8 = 0)

/-- The trap area of a slot (R234). -/
def trapArea (sp : Space) (c j : Nat) : Nat := sp.xsb + 1024 * (64 * c + j)

/-- Reads `n` bytes at a virtual address for the trap unit or the branch unit: no fault, no poison, no error reply. -/
def State.vread (s : State) (c asid va n : Nat) : Except GFault (List Byte) :=
  match s.probe c asid va .read with
  | .error f => .error f
  | .ok (pa, _) =>
    if s.errReply pa then .error .fabric else if s.memPoisoned pa n then .error .poison else .ok (s.memRead pa n)

/-- What such a read does to the caches and directories: the walk of the address, and the access. -/
def State.vtouch (s : State) (c asid va n : Nat) : State :=
  let t := s.walked c asid va
  match s.probe c asid va .read with
  | .error _ => t
  | .ok (pa, _) => t.access (.die (dieOf c)) pa n .read

/-- Writes bytes at a virtual address. -/
def State.vwrite (s : State) (c asid va : Nat) (bs : List Byte) : Except GFault State :=
  match s.probe c asid va .write with
  | .error f => .error f
  | .ok (pa, comp) => if s.errReply pa then .error .fabric else .ok ((s.walked c asid va).store (.die (dieOf c)) pa bs comp)

/-- Table TC-6. -/
def frameBytes (w : Warp) : List Byte :=
  leBytes 4 (w.sreg 94).val.toNat ++ leBytes 4 (w.sreg 95).val.toNat ++ leBytes 4 w.act.toNat ++
  leBytes 1 w.depth.toNat ++ leBytes 1 w.mode.toNat ++ leBytes 2 w.ntok ++ List.replicate 48 0

/-- A trap vector entry's fields (Table TC-5), or none when it is absent (V clear or a reserved bit set). -/
structure VecEntry where
  halt : Bool
  hpc : BitVec 57
  deriving DecidableEq, Repr

def decodeVec (e : Nat) : Option VecEntry :=
  let reserved := (e / 2 ^ 65 != 0) || (e / 2 ^ 57 % 2 ^ 7 != 0) || (e / 2 % 4 != 0)
  if e % 2 = 0 || reserved then none
  else some { halt := e / 2 ^ 64 % 2 == 1, hpc := BitVec.ofNat 57 (e % 2 ^ 57 / 8 * 8) }

/-- The five trap registers as a trap writes them (R230); `nest` is XCAUSE.NEST. -/
def Warp.trapRegs (w : Warp) (xpc : DWord) (t : Trap) (nest : Bool) : Warp :=
  { w with xpc := xpc, xcause := BitVec.ofBool nest ++ (0#25 ++ t.code), xaddr := t.xaddr, xmask := t.xmask
           xinfo := t.info }

/-- The halt record of a warp. -/
def Warp.haltInfo (w : Warp) (c j reason code : Nat) (regs : Bool) : HaltInfo :=
  { reason := reason, slot := j, core := c, code := code, pc := w.pc.toNat
    xcause := if regs then w.xcause.toNat else 0, xmask := if regs then w.xmask.toNat else 0
    xaddr := if regs then w.xaddr.toNat else 0, log := w.xcause ++ w.xpc.extractLsb' 0 32 }

/-- The state of a warp before its trap (R236): the held values, the tokens present at entry, not in handler state. DEDUCED, log 25. -/
def Warp.unwind (w : Warp) : Warp :=
  { (w.applyAll [.s 94 w.entry.s94, .s 95 w.entry.s95]) with
      act := w.entry.act, depth := w.entry.depth, mode := w.entry.mode, pc := w.entry.wa, hstate := false, halted := true
      held := w.held.drop (w.ntok - w.dmark), ntok := min w.ntok w.dmark }

/-- `trap_entry` of R234, and R235 for a warp already in handler state, for the warp in a slot whose register writes
are complete. -/
def State.enterTrap (s : State) (c j : Nat) (tw : TrapWait) : State :=
  match s.warpAt c j with
  | none => s
  | some w0 =>
    let asid := s.asidOf w0
    let w := { w0 with trapWait := none }
    if w.hstate then
      if w.rdCause && w.rdAddr then
        let w1 := { w.trapRegs tw.xpc tw.trap true with halted := true, pc := tw.wa }
        (s.setWarpAt c j w1).haltContext asid (w1.haltInfo c j 3 0 true)
      else
        let w1 := w.unwind
        ((s.setWarpAt c j w1).logDie 4 (dieOf c) c
            ((BitVec.ofBool true ++ (0#25 ++ tw.trap.code)) ++ tw.xpc.extractLsb' 0 32)).haltContext asid
          (w1.haltInfo c j 2 0 true)
    else
      let w1 := { w.trapRegs tw.xpc tw.trap false with
        entry := { wa := tw.wa, s94 := w.sreg 94, s95 := w.sreg 95, act := w.act, depth := w.depth, mode := w.mode } }
      let halt (s : State) (reason : Nat) : State :=
        let w2 := { w1 with halted := true, pc := tw.wa }
        (s.setWarpAt c j w2).haltContext asid (w2.haltInfo c j reason 0 true)
      match s.space asid with
      | none => halt s 2
      | some sp =>
        let va := sp.tvtb + 16 * tw.trap.code.toNat
        let s0 := s.vtouch c asid va 16
        match s.vread c asid va 16 with
        | .error _ => halt s0 2
        | .ok bs =>
          match decodeVec (leNat bs) with
          | none => halt s0 1
          | some e =>
            if e.halt then halt s0 4
            else
              let area := trapArea sp c j
              match s0.vwrite c asid area (frameBytes w1) with
              | .error _ => halt s0 2
              | .ok s1 =>
                let w2 := w1.applyAll (pairWrites 94 (BitVec.ofNat 64 (area + 64)) .clean)
                s1.setWarpAt c j { w2 with act := fullMask, mode := 0, dmark := w2.ntok, hstate := true
                                           rdCause := false, rdAddr := false, pc := e.hpc }

/-- Takes a trap on the warp in a slot: its register writes complete (R111), and it enters the handler at once, or
once its engine requests have written their registers. `xpc` is the address that XPC receives. -/
def State.takeTrapAt (s : State) (c j : Nat) (xpc : DWord) (t : Trap) : State :=
  let s1 := s.flushAt c j
  match s1.warpAt c j with
  | none => s1
  | some w =>
    let tw : TrapWait := { wa := w.pc, xpc := xpc, trap := t }
    if (s1.core c).writesPending w then s1.setWarpAt c j { w with trapWait := some tw } else s1.enterTrap c j tw

/-- Takes a trap on the acting warp at the word its pc names. -/
def State.takeTrap (s : State) (t : Trap) : State :=
  match s.warp with
  | none => s
  | some w => s.takeTrapAt s.cur.1 s.cur.2 (w.pc.setWidth 64) t

/-! ### Group barriers (R259) -/

/-- Completes the blocking instruction of a warp. -/
def State.unblockAt (s : State) (c j : Nat) : State :=
  match s.warpAt c j with
  | some w => s.setWarpAt c j (w.unblock (s.core c).cycle)
  | none => s

def State.unblockWarps (s : State) (c : Nat) (js : List Nat) : State := js.foldl (fun a j => a.unblockAt c j) s

/-- Whether the open phase of a barrier is complete. -/
def Group.barDone (g : Group) (b : Barrier) : Bool :=
  let arrived := (lanesOf b.arrived).length
  b.isOpen && decide ((if b.n = 0 then g.slots.length else b.n) ≤ arrived)

/-- Completes the phase of a group barrier once enough warps have arrived: every arrived warp's BAR completes. -/
def State.completeBar (s : State) (gid b : Nat) : State :=
  match s.group gid with
  | none => s
  | some g =>
    let x := g.bars.get Barrier.closed b
    if g.barDone x then
      (s.setGroup gid { g with bars := g.bars.del b }).unblockWarps (g.cores.headD 0)
        ((lanesOf x.arrived).filterMap fun wid => g.slots.find? wid)
    else s

/-! ### Cluster barriers (R266) -/

/-- The resident groups of a cluster instance. -/
def State.instance_ (s : State) (lid inst : Nat) : List (Nat × Group) :=
  let n := ((s.launch lid).map (·.record.clSize)).getD 1
  s.groups.filter fun p => p.2.launch == lid && p.2.index / n == inst

/-- The slots of every live warp of some groups. -/
def liveSlots (gs : List (Nat × Group)) : List (Nat × Nat) :=
  gs.flatMap fun p => p.2.slots.map fun q => (p.2.cores.headD 0, q.2)

def State.allWait (s : State) (ps : List (Nat × Nat)) (f : Wait → Bool) : Bool :=
  ps.all fun p => (s.warpAt p.1 p.2).any fun w => f w.wait

def State.unblockAll (s : State) (ps : List (Nat × Nat)) : State := ps.foldl (fun a p => a.unblockAt p.1 p.2) s

/-- Completes the phase of a cluster barrier once every live warp of the instance waits at it. -/
def State.completeCbar (s : State) (lid inst b : Nat) : State :=
  let ps := liveSlots (s.instance_ lid inst)
  if s.allWait ps fun w => w == .cbar b then s.unblockAll ps else s

/-! ### Rolling back a blocking instruction (R244, R271) -/

/-- Withdraws an arrival from a group barrier; a phase without arrivals is no longer open. DEDUCED, log 30. -/
def Barrier.withdraw (b : Barrier) (wid : Nat) : Barrier :=
  let a := b.arrived &&& ~~~(1#32 <<< wid)
  if a = 0 then Barrier.closed else { b with arrived := a }

/-- Sets the mode of a group's cores. -/
def State.setModes (s : State) (cores : List Nat) (m : CoreMode) : State :=
  cores.foldl (fun a c => a.setCore c { a.core c with cmode := m }) s

/-- The other warps of a group resume after a park (R402, R404). -/
def State.unpark (s : State) (g : Group) : State :=
  g.slots.foldl (fun a p =>
    match a.warpAt (g.cores.headD 0) p.2 with
    | some w => a.setWarpAt (g.cores.headD 0) p.2 { w with parked := false }
    | none => a) s

/-- What a blocking instruction has done outside its warp is undone: a BAR's arrival is withdrawn, the granules that an
LDFE has emptied are full again, and a switch of mode that has not committed is rolled back (R402, R404). -/
def State.withdraw (s : State) (w : Warp) : State :=
  match w.wait with
  | .bar b =>
    match s.group w.gid with
    | some g => s.setGroup w.gid { g with bars := g.bars.set Barrier.closed b ((g.bars.get Barrier.closed b).withdraw w.wid) }
    | none => s
  | .ldfe l => l.emptied.foldl (fun a x => a.setFull x true) s
  | .spenter _ _ =>
    match s.group w.gid with
    | some g =>
      if (s.fabrics.find? w.gid).isSome then s.setModes g.cores .spatial else (s.setModes g.cores .simt).unpark g
    | none => s
  | .spleave =>
    match s.group w.gid with
    | some g => s.setModes g.cores .spatial
    | none => s
  | _ => s

/-- Rolls back the blocking instruction of the warp in a slot as if it had not issued; STEEP is kept. -/
def State.rollbackAt (s : State) (c j : Nat) : State :=
  match s.warpAt c j with
  | some w => (s.withdraw w).setWarpAt c j w.rollback
  | none => s

/-- A trap at a blocking instruction in progress: it is rolled back, STEEP is zeroed (R272), and the trap is taken at
the instruction. -/
def State.trapWait (s : State) (c j : Nat) (t : Trap) : State :=
  let s1 := s.rollbackAt c j
  match s1.warpAt c j with
  | none => s1
  | some w => (s1.setWarpAt c j { w with steep := 0 }).takeTrapAt c j (w.pc.setWidth 64) t

/-! ### Generator faults (R410) -/

/-- The control thread returns from the handler of a generator fault: that generator goes on. -/
def State.resumeGen (s : State) (gid : Nat) : State :=
  match s.fabrics.find? gid with
  | none => s
  | some f =>
    match f.handling with
    | none => s
    | some i =>
      let gens := match f.gens.find? i with
        | some g => f.gens.put i { g with fault := none, taken := false }
        | none => f.gens
      { s with fabrics := s.fabrics.put gid { f with gens := gens, handling := none } }

end Sys2Proof.Machine
end

