-- ==== Sys2Proof/Machine/Operands.lean ====
section
/-! DEFINITION. Reading operands as a type (R77 to R81, R86, R129), the operand checks of row 6 of Table EC-9, the
poison check of R170, and the common course of a word's issue (R71, R76, R88, R229). -/

namespace Sys2Proof.Machine

/-! ### The issuing warp's context -/

/-- What operands are read from: the warp and the identities of R22. -/
structure Ctx where
  w : Warp
  core : Nat
  groupId : Nat
  clusterId : Nat
  cycle : Nat
  deriving DecidableEq, Repr

/-- The context of the acting warp. -/
def State.ctx (s : State) : Option Ctx :=
  s.warp.map fun w =>
    let g := s.groupOf w
    let n := ((s.launchOf w).map (·.record.clSize)).getD 1
    let idx := (g.map (·.index)).getD 0
    { w := w, core := s.cur.1, groupId := idx, clusterId := idx / n, cycle := s.curCore.cycle }

/-- Codes of the operand map's specials (Table EC-4): 0 ZERO to 6 DIE. -/
def specialAssigned (c : BitVec 5) : Bool := decide (c.toNat < 7)

/-- Table EC-4 and Table EN-6. DESIGN CHOICE, log 15. -/
def Ctx.special (x : Ctx) (c : BitVec 5) (lane : Nat) : Word :=
  match c.toNat with
  | 1 => BitVec.ofNat 32 lane
  | 2 => BitVec.ofNat 32 x.w.wid
  | 3 => BitVec.ofNat 32 x.groupId
  | 4 => BitVec.ofNat 32 x.clusterId
  | 5 => BitVec.ofNat 32 x.core
  | 6 => BitVec.ofNat 32 (dieOf x.core)
  | _ => 0

/-! ### Types in which operands are read -/

/-- The type an operand is read as: an integer or bit type of a width, a float format, or a packed pair. -/
inductive RdTy where
  | i8 | i16 | i32 | i64
  | f (t : Fmt)
  | pair (t : Fmt)
  deriving DecidableEq, Repr

/-- The operand occupies a register pair. -/
def RdTy.wide : RdTy → Bool
  | .i64 => true
  | .f .f64 => true
  | _ => false

/-- Bits of a value of the type. -/
def RdTy.width : RdTy → Nat
  | .i8 => 8
  | .i16 => 16
  | .i32 => 32
  | .i64 => 64
  | .f t => t.width
  | .pair _ => 32

/-- The low bits of a value that the type reads (R129). -/
def RdTy.low (t : RdTy) (x : DWord) : DWord := BitVec.ofNat 64 (x.toNat % 2 ^ t.width)

/-- The value of an inline constant (Table EC-5); the largest finite value depends on the type. -/
inductive ConstVal where
  | int (i : Int)
  | float (x : Ex)
  | largest
  deriving DecidableEq, Repr

/-- Table EC-5. -/
def constOf (c : BitVec 6) : ConstVal :=
  let n := c.toNat
  if n < 0x20 then .int n
  else if n < 0x30 then .int (n - 0x30)
  else
    match n with
    | 0x30 => .float (.fin false 1 (-1))
    | 0x31 => .float (.fin true 1 (-1))
    | 0x32 => .float (.fin false 1 0)
    | 0x33 => .float (.fin true 1 0)
    | 0x34 => .float (.fin false 1 1)
    | 0x35 => .float (.fin true 1 1)
    | 0x36 => .float (.fin false 1 2)
    | 0x37 => .float (.fin true 1 2)
    | 0x38 => .float (.fin false 1 (-2))
    | 0x39 => .float (.fin false 1 3)
    | 0x3A => .float (.fin false 1 6)
    | 0x3B => .float (.fin false 1 (-6))
    | 0x3C => .float (.inf false)
    | 0x3D => .float (.inf true)
    | 0x3E => .largest
    | _ => .float (.fin true 0 0)

/-- Whether a format holds an exact value. -/
def Fmt.holds (f : Fmt) (x : Ex) : Bool :=
  match x with
  | .nan => true
  | .inf _ => f.hasInf
  | .fin n m e => (f.toEx (round (.fin n m e) f .rne false)).cmp (.fin n m e) == some .eq

/-- An inline constant read as a float format (R81). A value that an 8-bit format cannot hold is not stated. -/
def constFmt (f : Fmt) (c : BitVec 6) : Nat :=
  match constOf c with
  | .largest => f.maxFinite
  | .float x => if f.holds x then round x f .rne false else (Config.constE8 f.expBits c).toNat
  | .int i => if f.holds (Ex.ofInt i) then round (Ex.ofInt i) f .rne false else (Config.constE8 f.expBits c).toNat

/-- An inline constant read as an integer or bit type of a width (R81). DEDUCED, log 14. -/
def constBits (width : Nat) (c : BitVec 6) : Nat :=
  match constOf c with
  | .int i => (i % (2 ^ width : Nat)).toNat
  | _ => (if width = 64 then constFmt .f64 c else constFmt .f32 c) % 2 ^ width

/-- A 16-bit value in both halves. -/
def both16 (x : Nat) : Nat := x % 65536 * 65537

/-- An inline constant read as a type. -/
def constVal (t : RdTy) (c : BitVec 6) : DWord :=
  match t with
  | .f f => BitVec.ofNat 64 (constFmt f c)
  | .pair f => BitVec.ofNat 64 (both16 (constFmt f c))
  | t => BitVec.ofNat 64 (constBits t.width c)

/-- An immediate read as a type (R86). -/
def immVal (t : RdTy) (x : Word) : DWord :=
  match t with
  | .i64 => x.signExtend 64
  | .f .f64 => BitVec.ofNat 64 (round (f32Ex x.toNat) .f64 .rne false)
  | .pair _ => BitVec.ofNat 64 (both16 x.toNat)
  | t => t.low (x.setWidth 64)

/-- Reads an operand on a lane as a type. -/
def Ctx.read (x : Ctx) (t : RdTy) (o : Operand) (lane : Nat) : DWord :=
  match o with
  | .v r =>
    if t.wide then (x.w.lane (r.toNat + 1) lane).val ++ (x.w.lane r.toNat lane).val
    else t.low ((x.w.lane r.toNat lane).val.setWidth 64)
  | .s r => if t.wide then x.w.spair r.val else t.low ((x.w.sreg r.val).val.setWidth 64)
  | .special c => t.low ((x.special c lane).setWidth 64)
  | .const c => constVal t c
  | .reserved _ => 0

/-- Reads source 1 (R86). -/
def Ctx.readSrc (x : Ctx) (t : RdTy) (b : Src) (lane : Nat) : DWord :=
  match b with
  | .op o => x.read t o lane
  | .imm w => immVal t w

/-- An operand read as a 32-bit unsigned control value. -/
def Ctx.n32 (x : Ctx) (o : Operand) (lane : Nat := 0) : Nat := (x.read .i32 o lane).toNat

def Ctx.n32Src (x : Ctx) (b : Src) (lane : Nat := 0) : Nat := (x.readSrc .i32 b lane).toNat

/-- A predicate field's register. -/
def Ctx.k (x : Ctx) (f : KField) : LaneMask := x.w.kreg f.idx.toNat

/-! ### Row 6 of Table EC-9 (R78, R79) -/

/-- A vector register within the allocation, even where `n` is 2, a multiple of 4 where it is 4. -/
def regOk (alloc n r : Nat) : Bool := decide (r + n ≤ alloc) && r % n == 0

/-- A source of a vector instruction. -/
def vSrc (alloc : Nat) (wide : Bool) (o : Operand) : Bool :=
  match o with
  | .v r => regOk alloc (if wide then 2 else 1) r.toNat
  | .s r => !wide || r.val % 2 == 0
  | .special c => specialAssigned c
  | .const _ => true
  | .reserved _ => false

def vSrc1 (alloc : Nat) (wide : Bool) (b : Src) : Bool :=
  match b with
  | .op o => vSrc alloc wide o
  | .imm _ => true

/-- A vector destination. -/
def vDst (alloc n : Nat) (o : Operand) : Bool :=
  match o with
  | .v r => regOk alloc n r.toNat
  | _ => false

/-- A source of a scalar-unit instruction, and every source that takes a scalar register, a special other than LANEID
or a constant. -/
def sSrc (wide : Bool) (o : Operand) : Bool :=
  match o with
  | .v _ => false
  | .s r => !wide || r.val % 2 == 0
  | .special c => specialAssigned c && c != 1
  | .const _ => true
  | .reserved _ => false

def sSrc1 (wide : Bool) (b : Src) : Bool :=
  match b with
  | .op o => sSrc wide o
  | .imm _ => true

/-- A scalar destination. -/
def sDst (wide : Bool) (o : Operand) : Bool :=
  match o with
  | .s r => !wide || r.val % 2 == 0
  | _ => false

/-- A source in an issue-unit instruction (R121): no vector register; specials of Table EC-4 are accepted. -/
def iSrc (wide : Bool) (o : Operand) : Bool :=
  match o with
  | .v _ => false
  | .s r => !wide || r.val % 2 == 0
  | .special c => specialAssigned c
  | .const _ => true
  | .reserved _ => false

def iSrc1 (b : Src) : Bool :=
  match b with
  | .op o => iSrc false o
  | .imm _ => true

/-- R79: a predicate field. -/
def kOk (k : KField) : Bool := k.upper == 0

/-- R79: a flag field. -/
def fOk (f : FField) : Bool := f.upper == 0 && decide (f.idx.toNat < 12)

/-- A descriptor or control-block register: s0, s8, ... s88. -/
def blockReg (o : Operand) : Bool :=
  match o with
  | .s r => r.val % 8 == 0
  | _ => false

/-- The index of a register operand. -/
def regOf : Operand → Nat
  | .v r => r.toNat
  | .s r => r.val
  | _ => 0

def isVec : Operand → Bool
  | .v _ => true
  | _ => false

def isSreg : Operand → Bool
  | .s _ => true
  | _ => false

def srcIsVec : Src → Bool
  | .op o => isVec o
  | .imm _ => false

/-- Field codes of XINFO.DETAIL for an illegal-operand trap (Table TC-4). -/
abbrev fDst : Nat := 0
abbrev fSrc0 : Nat := 1
abbrev fSrc1 : Nat := 2
abbrev fSrc2 : Nat := 3
abbrev fXmod : Nat := 4

/-- A list of operand checks in field order: the field's code and whether it holds. -/
abbrev Checks := List (Nat × Bool)

/-- The first failing field. -/
def firstFail (cs : Checks) : Option Nat :=
  match cs with
  | [] => none
  | (d, ok) :: rest => if ok then firstFail rest else some d

/-! ### The poison check (R170, R229 step 3) -/

/-- A register read that the poison check covers: an operand, how many registers it spans, and the lanes read. -/
structure Rd where
  o : Operand
  n : Nat
  lanes : LaneMask
  deriving DecidableEq, Repr

def Rd.of (o : Operand) (wide : Bool) (lanes : LaneMask) : Rd := { o := o, n := if wide then 2 else 1, lanes := lanes }

/-- The reads of source 1. -/
def Rd.src (b : Src) (wide : Bool) (lanes : LaneMask) : List Rd :=
  match b with
  | .op o => [Rd.of o wide lanes]
  | .imm _ => []

/-- The tags that a read meets, by increasing lane and register: the lane (or none for a scalar) and the kind. -/
def Rd.tags (w : Warp) (r : Rd) : List (Nat × Tag) :=
  match r.o with
  | .v i =>
    if r.lanes = 0 then [] else
    (lanesOf r.lanes).flatMap fun l => (List.range r.n).filterMap fun d =>
      let t := (w.lane (i.toNat + d) l).tag
      if t = .clean then none else some (l, t)
  | .s i => (List.range r.n).filterMap fun d =>
      let t := (w.sreg (i.val + d)).tag
      if t = .clean then none else some (32, t)
  | _ => []

/-- The trap of a word that reads a tagged register lane, if any (R170, R457). DEDUCED, log 16. -/
def poisonTrap (w : Warp) (eff : LaneMask) (rs : List Rd) : Option Trap :=
  let ts := rs.flatMap (Rd.tags w)
  match ts with
  | [] => none
  | (_, .fabric) :: _ =>
    let m := if ts.any (fun p => p.2 == .fabric && p.1 == 32) then eff
      else maskOf fun l => ts.any fun p => p.2 == .fabric && p.1 == l
    some (trapAt cFabric m 1)
  | _ :: _ => some (trapAt cPoison eff 0)

/-- The reads of a word of the acting warp whose source lanes an operand names: the operand, and the lanes it names, which a
tagged operand does not (R137, R150, R170). -/
def State.laneReads (s : State) (n : Src) (eff : LaneMask) (src : Ctx → Rd) : List Rd :=
  let sel := Rd.src n false eff
  match s.ctx with
  | none => sel
  | some x => if (poisonTrap x.w eff sel).isSome then sel else sel ++ [src x]

/-! ### The course of a word -/

/-- The acting warp after its word has issued: pc advanced, STALL counted, the SET flag raised (R67, R71). -/
def Warp.issued (w : Warp) (h : Hdr) (len cycle extra : Nat) : Warp :=
  { w with pc := w.pc + BitVec.ofNat 57 len, notBefore := cycle + 1 + max h.stall.toNat extra, order := w.order + 1 }

/-- The acting core is in spatial mode. -/
def State.spatial (s : State) : Bool := s.curCore.cmode == .spatial

/-- R382: a word that the control thread may not issue. -/
def spatialTrap (eff : LaneMask) : Trap := trapAt cConfig eff 3

/-- What an instruction brings to its issue: length in bytes, the operand checks against the warp's allocation, the
register reads under an effective mask, whether a control thread may issue it (R382), and the least distance to the
next word beyond STALL. A failed check of a blocking instruction zeroes STEEP (R256, R272). -/
structure Form where
  len : Nat
  checks : Nat → Checks
  reads : LaneMask → List Rd
  spatialOk : Bool
  extra : Nat := 0
  zeroSteep : Bool := false

/-- A trap of the acting warp's word; one of a blocking instruction sets STEEP to zero (R256, R272). -/
def State.takeWordTrap (s : State) (zeroSteep : Bool) (t : Trap) : State :=
  (if zeroSteep then s.updWarp (fun w => { w with steep := 0 }) else s).takeTrap t

/-- The course of a word of the acting warp (R76, R88, R229): row 6, then nothing more if the effective mask is empty,
then the poison check, then the instruction's own checks and effect. The body sees the state after issue and answers
the next state or a trap, which is exact: it is taken on the state before the word. -/
def issue (h : Hdr) (f : Form) (body : Ctx → LaneMask → State → Except Trap State) (s : State) :
    Host.Outcome State Fault Refusal :=
  match s.ctx with
  | none => .fault .noWarp
  | some x =>
    let eff := x.w.eff h
    match firstFail (f.checks x.w.alloc) with
    | some d => .next (s.takeWordTrap f.zeroSteep (trapAt cIllegalOperand eff d))
    | none =>
      if eff = 0 then .next (s.setWarp (x.w.issued h f.len x.cycle 0))
      else
        match poisonTrap x.w eff (f.reads eff) with
        | some t => .next (s.takeWordTrap f.zeroSteep t)
        | none =>
          if s.spatial && !f.spatialOk then .next (s.takeWordTrap f.zeroSteep (spatialTrap eff))
          else
            match body x eff (s.setWarp ((x.w.issued h f.len x.cycle f.extra).incFlag h.set)) with
            | .ok s' => .next s'
            | .error t => .next (s.takeWordTrap f.zeroSteep t)

/-- The length of a word offered in both forms. -/
def lenOf (long : Bool) : Nat := if long then 16 else 8

/-- A word whose only effect is register writes of a fixed latency. -/
def alu (h : Hdr) (f : Form) (lat : Nat) (wr : Ctx → LaneMask → List Wr) (s : State) :
    Host.Outcome State Fault Refusal :=
  issue h f (fun x eff s' => .ok (s'.updWarp fun w => w.defer x.cycle lat (wr x eff))) s

/-- Lanes of a vector register from a function on lanes, untagged. -/
def tabVal (f : Nat → Word) : Lanes := tab fun l => { val := f l, tag := .clean }

/-- The writes of a 32-bit vector result on the lanes of a mask. -/
def vWrite (r : Nat) (m : LaneMask) (f : Nat → DWord) : List Wr := [.v r m (tabVal fun l => (f l).setWidth 32)]

/-- The writes of a 64-bit vector result: the low word in the even register. -/
def vWrite64 (r : Nat) (m : LaneMask) (f : Nat → DWord) : List Wr :=
  [.v r m (tabVal fun l => (f l).extractLsb' 0 32), .v (r + 1) m (tabVal fun l => (f l).extractLsb' 32 32)]

def vWriteW (wide : Bool) (r : Nat) (m : LaneMask) (f : Nat → DWord) : List Wr :=
  if wide then vWrite64 r m f else vWrite r m f

/-- The writes of a scalar result. -/
def sWriteW (wide : Bool) (r : Nat) (x : DWord) : List Wr :=
  if wide then pairWrites r x .clean else [.s r { val := x.setWidth 32, tag := .clean }]

/-- The write of predicate bits in a mask. -/
def kWrite (k : KField) (m : LaneMask) (x : LaneMask) : List Wr := [.k k.idx.toNat m x]

/-! ### The shapes of arithmetic words -/

/-- A scalar-unit word with sources `a` and `b` and a scalar destination. -/
def scalarForm (l : Bool) (wd wa wb : Bool) (d a : Operand) (b : Src) : Form :=
  { len := lenOf l
    checks := fun _ => [(fDst, sDst wd d), (fSrc0, sSrc wa a), (fSrc1, sSrc1 wb b)]
    reads := fun m => Rd.of a wa m :: Rd.src b wb m
    spatialOk := true }

/-- A vector word with sources `a` and `b` and a vector destination of `nd` registers. -/
def vectorForm (l : Bool) (nd : Nat) (wa wb : Bool) (d a : Operand) (b : Src) : Form :=
  { len := lenOf l
    checks := fun A => [(fDst, vDst A nd d), (fSrc0, vSrc A wa a), (fSrc1, vSrc1 A wb b)]
    reads := fun m => Rd.of a wa m :: Rd.src b wb m
    spatialOk := false }

/-- Adds a third source operand to a form. -/
def Form.withSrc2 (f : Form) (ok : Nat → Bool) (c : Operand) (wide : Bool) : Form :=
  { f with checks := fun A => f.checks A ++ [(fSrc2, ok A)], reads := fun m => f.reads m ++ [Rd.of c wide m] }

/-- Adds a predicate field in SRC2 to a form. -/
def Form.withK2 (f : Form) (k : KField) : Form := { f with checks := fun A => f.checks A ++ [(fSrc2, kOk k)] }

def regsOf (wide : Bool) : Nat := if wide then 2 else 1

end Sys2Proof.Machine
end

