-- ==== Sys2Proof/Machine/Flags.lean ====
section
/-! DEFINITION. The arithmetic results that the integer, bit and comparison instructions share: wrapping and
saturation, carry, comparison codes, shifts and bit fields (R131, R136, R138 to R140). The device keeps no arithmetic
flag register: a carry or a comparison is a predicate bit. -/

namespace Sys2Proof.Machine

/-- A width in bits and a signedness: the integer types of Table NF-5. -/
structure ITy where
  width : Nat
  signed : Bool
  deriving DecidableEq, Repr

def ITy.lo (t : ITy) : Int := if t.signed then -(2 ^ (t.width - 1) : Nat) else 0
def ITy.hi (t : ITy) : Int := if t.signed then (2 ^ (t.width - 1) : Nat) - 1 else (2 ^ t.width : Nat) - 1

/-- The integer that the low bits of a value stand for. -/
def ITy.toInt (t : ITy) (x : DWord) : Int :=
  let n := x.toNat % 2 ^ t.width
  if t.signed && decide (2 ^ (t.width - 1) ≤ n) then (n : Int) - (2 ^ t.width : Nat) else n

/-- `wrap(x, type)` (Table NF-10), as the low bits of a 64-bit value. -/
def ITy.wrap (t : ITy) (i : Int) : DWord := BitVec.ofNat 64 (i % (2 ^ t.width : Nat)).toNat

/-- `sat(x, type)`. -/
def ITy.sat (t : ITy) (i : Int) : DWord := t.wrap (max t.lo (min t.hi i))

/-- Wraps, or saturates with SAT. -/
def ITy.result (t : ITy) (sat : Bool) (i : Int) : DWord := if sat then t.sat i else t.wrap i

def ityOf : IntTy → ITy
  | .i32 => { width := 32, signed := true }
  | .n32 => { width := 32, signed := false }
  | .i64 => { width := 64, signed := true }
  | .n64 => { width := 64, signed := false }

def i32T : ITy := { width := 32, signed := true }
def n32T : ITy := { width := 32, signed := false }
def n64T : ITy := { width := 64, signed := false }

def intWide : IntTy → Bool
  | .i32 => false
  | .n32 => false
  | .i64 => true
  | .n64 => true

def bitWide : BitTy → Bool
  | .b32 => false
  | .b64 => true

def rdW (wide : Bool) : RdTy := if wide then .i64 else .i32

def widthW (wide : Bool) : Nat := if wide then 64 else 32

/-- The integer conditions of Table AL-2. -/
def icond (cc : ICond) (a b : Int) : Bool :=
  match cc with
  | .eq => decide (a = b)
  | .ne => decide (a ≠ b)
  | .lt => decide (a < b)
  | .le => decide (a ≤ b)
  | .gt => decide (a > b)
  | .ge => decide (a ≥ b)

/-- Logical shifts by an amount at least the width give 0 (R136). -/
def shlW (width : Nat) (a : DWord) (n : Nat) : DWord :=
  if n ≥ width then 0 else BitVec.ofNat 64 (a.toNat % 2 ^ width * 2 ^ n % 2 ^ width)

def shrW (width : Nat) (a : DWord) (n : Nat) : DWord :=
  if n ≥ width then 0 else BitVec.ofNat 64 (a.toNat % 2 ^ width / 2 ^ n)

/-- Arithmetic right shift: all copies of the sign bit where the amount reaches the width. -/
def sraW (width : Nat) (a : DWord) (n : Nat) : DWord :=
  let t : ITy := { width := width, signed := true }
  t.wrap (t.toInt a / (2 ^ (min n width) : Nat))

/-- Set bits of the low `n` bits. -/
def popCount (n x : Nat) : Nat :=
  match n with
  | 0 => 0
  | k + 1 => x % 2 + popCount k (x / 2)

/-- Leading zeros in a width; the width itself for zero. -/
def clz (width x : Nat) : Nat := if x % 2 ^ width = 0 then width else width - 1 - Nat.log2 (x % 2 ^ width)

/-- Position and effective length of a bit field (R139). -/
def bfField (width c : Nat) : Nat × Nat :=
  let pos := c % 256
  (pos, min (c / 256 % 256) (width - pos))

/-- SBFE and IBFE (R139). -/
def bfe (width : Nat) (sx : Bool) (a : DWord) (c : Nat) : DWord :=
  let f := bfField width c
  let x := a.toNat % 2 ^ width / 2 ^ f.1 % 2 ^ f.2
  if f.2 = 0 then 0
  else if sx && decide (x / 2 ^ (f.2 - 1) = 1) then BitVec.ofNat 64 (2 ^ width - 2 ^ f.2 + x)
  else BitVec.ofNat 64 x

/-- IBFI (R139): `b` with a field replaced by the low bits of `a`. -/
def bfi (width : Nat) (a b : DWord) (c : Nat) : DWord :=
  let f := bfField width c
  let bn := b.toNat % 2 ^ width
  let old := bn / 2 ^ f.1 % 2 ^ f.2
  BitVec.ofNat 64 (bn - old * 2 ^ f.1 + a.toNat % 2 ^ f.2 * 2 ^ f.1)

/-- IFUNNEL: the low bits of b : a shifted right by c mod w. -/
def funnel (width : Nat) (a b : DWord) (c : Nat) : DWord :=
  BitVec.ofNat 64 ((b.toNat % 2 ^ width * 2 ^ width + a.toNat % 2 ^ width) / 2 ^ (c % width) % 2 ^ width)

/-- One element of a packed operand of IDP4 or IDP2. -/
def dpElem (signed : Bool) (bits : Nat) (x i : Nat) : Int :=
  ({ width := bits, signed := signed } : ITy).toInt (BitVec.ofNat 64 (x / 2 ^ (bits * i)))

def sgA : Sg → Bool
  | .ss => true
  | .uu => false
  | .su => true
  | .us => false

def sgB : Sg → Bool
  | .ss => true
  | .uu => false
  | .su => false
  | .us => true

/-- The dot products of R140 with `n` elements of `bits` bits. -/
def dotProduct (sg : Sg) (sat : Bool) (n bits : Nat) (a b c : DWord) : DWord :=
  let acc := if sg == .uu then n32T else i32T
  let e := (List.range n).foldl (fun t i => t + dpElem (sgA sg) bits a.toNat i * dpElem (sgB sg) bits b.toNat i) (acc.toInt c)
  acc.result sat e

/-- All 32 bits of a predicate from one truth value. -/
def allBits (b : Bool) : LaneMask := if b then BitVec.allOnes 32 else 0

end Sys2Proof.Machine
end

