-- ==== Sys2Proof/Machine/VecInt.lean ====
section
/-! DEFINITION. The vector integer instructions (R138 to R140, Tables AL-4 and IU-1), on every lane of the effective
mask. -/

namespace Sys2Proof.Machine

/-- Latency by width (Table IU-1). -/
def latW (wide : Bool) (l32 : Nat) : Nat := if wide then 8 else l32

/-- A two-source vector word over an integer type. -/
def vecInt (h : Hdr) (l : Bool) (t : IntTy) (lat : Nat) (d a : Operand) (b : Src) (op : ITy → Int → Int → DWord)
    (s : State) : Host.Outcome State Fault Refusal :=
  let w := intWide t
  let ty := ityOf t
  alu h (vectorForm l (regsOf w) w w d a b) (latW w lat) (fun x eff => vWriteW w (regOf d) eff fun i =>
    op ty (ty.toInt (x.read (rdW w) a i)) (ty.toInt (x.readSrc (rdW w) b i))) s

/-- A two-source vector word over a bit type. -/
def vecBit (h : Hdr) (l : Bool) (t : BitTy) (d a : Operand) (b : Src) (op : DWord → DWord → DWord) (s : State) :
    Host.Outcome State Fault Refusal :=
  let w := bitWide t
  alu h (vectorForm l (regsOf w) w w d a b) (latW w 4) (fun x eff => vWriteW w (regOf d) eff fun i =>
    op (x.read (rdW w) a i) (x.readSrc (rdW w) b i)) s

/-- A vector shift or bit-field extraction: the second source is a .N32 control value (R129). -/
def vecCtl (h : Hdr) (l : Bool) (t : BitTy) (d a : Operand) (b : Src) (op : Nat → DWord → Nat → DWord) (s : State) :
    Host.Outcome State Fault Refusal :=
  let w := bitWide t
  alu h (vectorForm l (regsOf w) w false d a b) (latW w 4) (fun x eff => vWriteW w (regOf d) eff fun i =>
    op (widthW w) (x.read (rdW w) a i) (x.n32Src b i)) s

/-- MOV (R138): the source is source 1. -/
def execMov (h : Hdr) (l : Bool) (t : BitTy) (d : Operand) (a : Src) (s : State) : Host.Outcome State Fault Refusal :=
  let w := bitWide t
  alu h { len := lenOf l, checks := fun A => [(fDst, vDst A (regsOf w) d), (fSrc1, vSrc1 A w a)]
          reads := fun m => Rd.src a w m, spatialOk := false } (latW w 4)
    (fun x eff => vWriteW w (regOf d) eff fun i => x.readSrc (rdW w) a i) s

/-- IADD (R138). -/
def execIadd (h : Hdr) (l : Bool) (t : IntTy) (sat : Bool) (d a : Operand) (b : Src) (s : State) :
    Host.Outcome State Fault Refusal :=
  vecInt h l t 4 d a b (fun ty x y => ty.result sat (x + y)) s

/-- IADDC (R138): carry in from kC, carry out to kC on the effective lanes; a write to k0 is discarded. -/
def execIaddc (h : Hdr) (t : CarryTy) (d a : Operand) (b : Src) (kC : KField) (s : State) :
    Host.Outcome State Fault Refusal :=
  let w := t == .n64
  let ty : ITy := { width := widthW w, signed := false }
  alu h ((vectorForm true (regsOf w) w w d a b).withK2 kC) (latW w 4)
    (fun x eff =>
      let sum (i : Nat) : Nat := ((ty.toInt (x.read (rdW w) a i) + ty.toInt (x.readSrc (rdW w) b i)).toNat +
        (if laneOn (x.k kC) i then 1 else 0))
      vWriteW w (regOf d) eff (fun i => ty.wrap (sum i)) ++
      kWrite kC eff (maskOf fun i => decide (sum i ≥ 2 ^ ty.width))) s

/-- ISUB (R138). -/
def execIsub (h : Hdr) (l : Bool) (t : IntTy) (sat : Bool) (d a : Operand) (b : Src) (s : State) :
    Host.Outcome State Fault Refusal :=
  vecInt h l t 4 d a b (fun ty x y => ty.result sat (x - y)) s

/-- IMUL (R138). -/
def execImul (h : Hdr) (l : Bool) (t : IntTy) (d a : Operand) (b : Src) (s : State) : Host.Outcome State Fault Refusal :=
  vecInt h l t 6 d a b (fun ty x y => ty.wrap (x * y)) s

/-- IMULH (R138): the high word of the exact product. -/
def execImulh (h : Hdr) (l : Bool) (t : IntTy) (d a : Operand) (b : Src) (s : State) :
    Host.Outcome State Fault Refusal :=
  vecInt h l t 6 d a b (fun ty x y => ty.wrap (x * y / (2 ^ ty.width : Nat))) s

/-- IMAD (R138). -/
def execImad (h : Hdr) (t : IntTy) (d a : Operand) (b : Src) (c : Operand) (s : State) :
    Host.Outcome State Fault Refusal :=
  let w := intWide t
  let ty := ityOf t
  alu h ((vectorForm true (regsOf w) w w d a b).withSrc2 (fun A => vSrc A w c) c w) (latW w 6)
    (fun x eff => vWriteW w (regOf d) eff fun i =>
      ty.wrap (ty.toInt (x.read (rdW w) a i) * ty.toInt (x.readSrc (rdW w) b i) + ty.toInt (x.read (rdW w) c i))) s

/-- IMIN (R138). -/
def execImin (h : Hdr) (l : Bool) (t : IntTy) (d a : Operand) (b : Src) (s : State) : Host.Outcome State Fault Refusal :=
  vecInt h l t 4 d a b (fun ty x y => ty.wrap (min x y)) s

/-- IMAX (R138). -/
def execImax (h : Hdr) (l : Bool) (t : IntTy) (d a : Operand) (b : Src) (s : State) : Host.Outcome State Fault Refusal :=
  vecInt h l t 4 d a b (fun ty x y => ty.wrap (max x y)) s

/-- IABS (R138): the most negative value wraps to itself, or saturates. -/
def execIabs (h : Hdr) (l : Bool) (t : AbsTy) (sat : Bool) (d a : Operand) (s : State) :
    Host.Outcome State Fault Refusal :=
  let w := t == .i64
  let ty : ITy := { width := widthW w, signed := true }
  alu h { len := lenOf l, checks := fun A => [(fDst, vDst A (regsOf w) d), (fSrc0, vSrc A w a)]
          reads := fun m => [Rd.of a w m], spatialOk := false } (latW w 4)
    (fun x eff => vWriteW w (regOf d) eff fun i => ty.result sat (ty.toInt (x.read (rdW w) a i)).natAbs) s

/-- IAND (R138). -/
def execIand (h : Hdr) (l : Bool) (t : BitTy) (d a : Operand) (b : Src) (s : State) : Host.Outcome State Fault Refusal :=
  vecBit h l t d a b (fun x y => x &&& y) s

/-- IOR (R138). -/
def execIor (h : Hdr) (l : Bool) (t : BitTy) (d a : Operand) (b : Src) (s : State) : Host.Outcome State Fault Refusal :=
  vecBit h l t d a b (fun x y => x ||| y) s

/-- IXOR (R138). -/
def execIxor (h : Hdr) (l : Bool) (t : BitTy) (d a : Operand) (b : Src) (s : State) : Host.Outcome State Fault Refusal :=
  vecBit h l t d a b (fun x y => x ^^^ y) s

/-- A one-source vector word over a bit type; `wd` tells a 64-bit result. -/
def vecUnary (h : Hdr) (t : BitTy) (wd : Bool) (d a : Operand) (op : Nat → DWord → DWord) (s : State) :
    Host.Outcome State Fault Refusal :=
  let w := bitWide t
  alu h { len := 8, checks := fun A => [(fDst, vDst A (regsOf wd) d), (fSrc0, vSrc A w a)]
          reads := fun m => [Rd.of a w m], spatialOk := false } (latW w 4)
    (fun x eff => vWriteW wd (regOf d) eff fun i => op (widthW w) (x.read (rdW w) a i)) s

/-- INOT (R138). -/
def execInot (h : Hdr) (t : BitTy) (d a : Operand) (s : State) : Host.Outcome State Fault Refusal :=
  vecUnary h t (bitWide t) d a (fun _ x => ~~~x) s

/-- ISHL (R138). -/
def execIshl (h : Hdr) (l : Bool) (t : BitTy) (d a : Operand) (b : Src) (s : State) : Host.Outcome State Fault Refusal :=
  vecCtl h l t d a b shlW s

/-- ISHR (R138). -/
def execIshr (h : Hdr) (l : Bool) (t : BitTy) (d a : Operand) (b : Src) (s : State) : Host.Outcome State Fault Refusal :=
  vecCtl h l t d a b shrW s

/-- ISRA (R138). -/
def execIsra (h : Hdr) (l : Bool) (t : BitTy) (d a : Operand) (b : Src) (s : State) : Host.Outcome State Fault Refusal :=
  vecCtl h l t d a b sraW s

/-- A three-source bit word whose third source is a .N32 control value. -/
def vecBit3 (h : Hdr) (t : BitTy) (d a : Operand) (b : Src) (c : Operand) (op : Nat → DWord → DWord → Nat → DWord)
    (s : State) : Host.Outcome State Fault Refusal :=
  let w := bitWide t
  alu h ((vectorForm true (regsOf w) w w d a b).withSrc2 (fun A => vSrc A false c) c false) (latW w 4)
    (fun x eff => vWriteW w (regOf d) eff fun i =>
      op (widthW w) (x.read (rdW w) a i) (x.readSrc (rdW w) b i) (x.n32 c i)) s

/-- IFUNNEL (R138). -/
def execIfunnel (h : Hdr) (t : BitTy) (d a : Operand) (b : Src) (c : Operand) (s : State) :
    Host.Outcome State Fault Refusal :=
  vecBit3 h t d a b c funnel s

/-- IPOPC (R138): one 32-bit result register. -/
def execIpopc (h : Hdr) (t : BitTy) (d a : Operand) (s : State) : Host.Outcome State Fault Refusal :=
  vecUnary h t false d a (fun n x => BitVec.ofNat 64 (popCount n x.toNat)) s

/-- ICLZ (R138). -/
def execIclz (h : Hdr) (t : BitTy) (d a : Operand) (s : State) : Host.Outcome State Fault Refusal :=
  vecUnary h t false d a (fun n x => BitVec.ofNat 64 (clz n x.toNat)) s

/-- IBFE (R139). -/
def execIbfe (h : Hdr) (l : Bool) (t : BitTy) (sx : Bool) (d a : Operand) (b : Src) (s : State) :
    Host.Outcome State Fault Refusal :=
  vecCtl h l t d a b (fun n x c => bfe n sx x c) s

/-- IBFI (R139). -/
def execIbfi (h : Hdr) (t : BitTy) (d a : Operand) (b : Src) (c : Operand) (s : State) :
    Host.Outcome State Fault Refusal :=
  vecBit3 h t d a b c bfi s

/-- The dot products (R140). -/
def vecDot (h : Hdr) (sg : Sg) (sat : Bool) (n bits : Nat) (d a : Operand) (b : Src) (c : Operand) (s : State) :
    Host.Outcome State Fault Refusal :=
  alu h ((vectorForm true 1 false false d a b).withSrc2 (fun A => vSrc A false c) c false) 6
    (fun x eff => vWrite (regOf d) eff fun i =>
      dotProduct sg sat n bits (x.read .i32 a i) (x.readSrc .i32 b i) (x.read .i32 c i)) s

/-- IDP4 (R140). -/
def execIdp4 (h : Hdr) (sg : Sg) (sat : Bool) (d a : Operand) (b : Src) (c : Operand) (s : State) :
    Host.Outcome State Fault Refusal :=
  vecDot h sg sat 4 8 d a b c s

/-- IDP2 (R140). -/
def execIdp2 (h : Hdr) (sg : Sg) (sat : Bool) (d a : Operand) (b : Src) (c : Operand) (s : State) :
    Host.Outcome State Fault Refusal :=
  vecDot h sg sat 2 16 d a b c s

/-- ICMP (R131, R138): the predicate bits of the effective lanes. -/
def execIcmp (h : Hdr) (t : IntTy) (cc : ICond) (kD : KField) (a : Operand) (b : Src) (s : State) :
    Host.Outcome State Fault Refusal :=
  let w := intWide t
  let ty := ityOf t
  alu h { len := 16, checks := fun A => [(fDst, kOk kD), (fSrc0, vSrc A w a), (fSrc1, vSrc1 A w b)]
          reads := fun m => Rd.of a w m :: Rd.src b w m, spatialOk := false } (latW w 4)
    (fun x eff => kWrite kD eff (maskOf fun i =>
      icond cc (ty.toInt (x.read (rdW w) a i)) (ty.toInt (x.readSrc (rdW w) b i)))) s

/-- ISEL (R138). -/
def execIsel (h : Hdr) (t : BitTy) (d a : Operand) (b : Src) (kC : KField) (s : State) :
    Host.Outcome State Fault Refusal :=
  let w := bitWide t
  alu h ((vectorForm true (regsOf w) w w d a b).withK2 kC) (latW w 4)
    (fun x eff => vWriteW w (regOf d) eff fun i =>
      if laneOn (x.k kC) i then x.read (rdW w) a i else x.readSrc (rdW w) b i) s

end Sys2Proof.Machine
end

