-- ==== Sys2Proof/Machine/VecFloat.lean ====
section
/-! DEFINITION. The vector float instructions (R141 to R145, R134). -/

namespace Sys2Proof.Machine

def fmtOfF : FTy → Fmt
  | .f32 => .f32
  | .f64 => .f64
  | .f16 => .f16
  | .bf16 => .bf16

def fmtOfH : HTy → Fmt
  | .f16 => .f16
  | .bf16 => .bf16

def fmtOfSq : SqTy → Fmt
  | .f32 => .f32
  | .f64 => .f64

/-- The warp's FLUSH bit (Table IU-4). -/
def Ctx.flush (x : Ctx) : Bool := x.w.mode.getLsbD 0

def flushIf (fl : Bool) (f : Fmt) (b : Nat) : Nat := if fl then f.flush b else b

/-- The effect of R141: flush, an exact value, one rounding, flush. -/
def floatOp (fl : Bool) (f : Fmt) (rm : RM) (args : List Nat) (op : List Ex → Ex) : Nat :=
  flushIf fl f (round (op (args.map fun b => f.toEx (flushIf fl f b))) f rm false)

def addOp (rm : RM) (xs : List Ex) : Ex := sumEx rm xs

def subOp (rm : RM) (xs : List Ex) : Ex :=
  match xs with
  | [a, b] => sumEx rm [a, b.negate]
  | _ => .nan

def mulOp (xs : List Ex) : Ex :=
  match xs with
  | [a, b] => a.mul b
  | _ => .nan

def fmaOp (rm : RM) (xs : List Ex) : Ex :=
  match xs with
  | [a, b, c] => sumEx rm [a.mul b, c]
  | _ => .nan

/-- The writes of a float result: a pair for FP64, else the low bits of one register with zeros above (R129). -/
def fWrite (f : Fmt) (d : Nat) (m : LaneMask) (g : Nat → Nat) : List Wr :=
  vWriteW (f == .f64) d m fun i => BitVec.ofNat 64 (g i)

/-- A two-source float word. -/
def float2 (h : Hdr) (l : Bool) (f : Fmt) (d a : Operand) (b : Src) (g : Bool → Nat → Nat → Nat) (s : State) :
    Host.Outcome State Fault Refusal :=
  let w := f == .f64
  alu h (vectorForm l (regsOf w) w w d a b) (latW w 4) (fun x eff => fWrite f (regOf d) eff fun i =>
    g x.flush (x.read (.f f) a i).toNat (x.readSrc (.f f) b i).toNat) s

/-- FADD (R141). -/
def execFadd (h : Hdr) (l : Bool) (t : FTy) (rm : RM) (d a : Operand) (b : Src) (s : State) :
    Host.Outcome State Fault Refusal :=
  float2 h l (fmtOfF t) d a b (fun fl x y => floatOp fl (fmtOfF t) rm [x, y] (addOp rm)) s

/-- FSUB (R141). -/
def execFsub (h : Hdr) (l : Bool) (t : FTy) (rm : RM) (d a : Operand) (b : Src) (s : State) :
    Host.Outcome State Fault Refusal :=
  float2 h l (fmtOfF t) d a b (fun fl x y => floatOp fl (fmtOfF t) rm [x, y] (subOp rm)) s

/-- FMUL (R141). -/
def execFmul (h : Hdr) (l : Bool) (t : FTy) (rm : RM) (d a : Operand) (b : Src) (s : State) :
    Host.Outcome State Fault Refusal :=
  float2 h l (fmtOfF t) d a b (fun fl x y => floatOp fl (fmtOfF t) rm [x, y] mulOp) s

/-- FFMA (R141): one rounding. -/
def execFfma (h : Hdr) (t : FTy) (rm : RM) (d a : Operand) (b : Src) (c : Operand) (s : State) :
    Host.Outcome State Fault Refusal :=
  let f := fmtOfF t
  let w := f == .f64
  alu h ((vectorForm true (regsOf w) w w d a b).withSrc2 (fun A => vSrc A w c) c w) (latW w 4)
    (fun x eff => fWrite f (regOf d) eff fun i =>
      floatOp x.flush f rm [(x.read (.f f) a i).toNat, (x.readSrc (.f f) b i).toNat, (x.read (.f f) c i).toNat]
        (fmaOp rm)) s

/-- Minimum or maximum with the flushing of R42 on operands and result (R142). -/
def minMaxFl (mx fl : Bool) (f : Fmt) (x y : Nat) : Nat :=
  flushIf fl f (minMaxEnc f mx (flushIf fl f x) (flushIf fl f y))

/-- FMIN (R142). -/
def execFmin (h : Hdr) (l : Bool) (t : FTy) (d a : Operand) (b : Src) (s : State) : Host.Outcome State Fault Refusal :=
  float2 h l (fmtOfF t) d a b (fun fl x y => minMaxFl false fl (fmtOfF t) x y) s

/-- FMAX (R142). -/
def execFmax (h : Hdr) (l : Bool) (t : FTy) (d a : Operand) (b : Src) (s : State) : Host.Outcome State Fault Refusal :=
  float2 h l (fmtOfF t) d a b (fun fl x y => minMaxFl true fl (fmtOfF t) x y) s

/-- FCMP (R131, R141): no flushing. -/
def execFcmp (h : Hdr) (t : FTy) (cc : Cond) (kD : KField) (a : Operand) (b : Src) (s : State) :
    Host.Outcome State Fault Refusal :=
  let f := fmtOfF t
  let w := f == .f64
  alu h { len := 16, checks := fun A => [(fDst, kOk kD), (fSrc0, vSrc A w a), (fSrc1, vSrc1 A w b)]
          reads := fun m => Rd.of a w m :: Rd.src b w m, spatialOk := false } (latW w 4)
    (fun x eff => kWrite kD eff (maskOf fun i =>
      condEx cc (f.toEx (x.read (.f f) a i).toNat) (f.toEx (x.readSrc (.f f) b i).toNat))) s

/-- A one-source float word; `nd` registers of result. -/
def float1 (h : Hdr) (l : Bool) (f : Fmt) (wd : Bool) (d a : Operand) (g : Bool → Nat → Nat) (s : State) :
    Host.Outcome State Fault Refusal :=
  let w := f == .f64
  alu h { len := lenOf l, checks := fun A => [(fDst, vDst A (regsOf wd) d), (fSrc0, vSrc A w a)]
          reads := fun m => [Rd.of a w m], spatialOk := false } (latW w 4)
    (fun x eff => vWriteW wd (regOf d) eff fun i => BitVec.ofNat 64 (g x.flush (x.read (.f f) a i).toNat)) s

/-- FCLASS (R143). -/
def execFclass (h : Hdr) (t : FTy) (d a : Operand) (s : State) : Host.Outcome State Fault Refusal :=
  float1 h false (fmtOfF t) false d a (fun _ x => classMask (fmtOfF t) x) s

/-- FRND (R142). -/
def execFrnd (h : Hdr) (l : Bool) (t : FTy) (rm : RM) (d a : Operand) (s : State) : Host.Outcome State Fault Refusal :=
  let f := fmtOfF t
  float1 h l f (f == .f64) d a (fun fl x => flushIf fl f (roundIntegral f rm (flushIf fl f x))) s

/-- A float word of variable latency (R134): it completes at its own event, no earlier than any before it of its warp. -/
def aluVar (h : Hdr) (f : Form) (wr : Ctx → LaneMask → List Wr) (s : State) : Host.Outcome State Fault Refusal :=
  issue h f (fun x eff s' =>
    let p := s'.choose
    let c := p.2.curCore
    .ok (p.2.setCurCore { c with alu := c.alu ++
      [{ gid := x.w.gid, wid := x.w.wid, ord := x.w.order + 1, due := x.cycle + 1 + p.1, writes := wr x eff, flag := h.set }] })) s

/-- A one-source FP32 or FP64 word of variable latency. -/
def floatVar (h : Hdr) (l : Bool) (f : Fmt) (d a : Operand) (g : Nat → Nat) (s : State) :
    Host.Outcome State Fault Refusal :=
  let w := f == .f64
  aluVar h { len := lenOf l, checks := fun A => [(fDst, vDst A (regsOf w) d), (fSrc0, vSrc A w a)]
             reads := fun m => [Rd.of a w m], spatialOk := false }
    (fun x eff => fWrite f (regOf d) eff fun i =>
      flushIf x.flush f (g (flushIf x.flush f (x.read (.f f) a i).toNat))) s

/-- FRCP (R144). -/
def execFrcp (h : Hdr) (d a : Operand) (s : State) : Host.Outcome State Fault Refusal := floatVar h false .f32 d a rcpAlg s

/-- FRSQ (R144). -/
def execFrsq (h : Hdr) (d a : Operand) (s : State) : Host.Outcome State Fault Refusal := floatVar h false .f32 d a rsqrtAlg s

/-- FSQRT (R141). -/
def execFsqrt (h : Hdr) (l : Bool) (t : SqTy) (rm : RM) (d a : Operand) (s : State) :
    Host.Outcome State Fault Refusal :=
  let f := fmtOfSq t
  floatVar h l f d a (fun x => sqrtRound f rm (f.toEx x)) s

/-- FEXP2 (R144). -/
def execFexp2 (h : Hdr) (d a : Operand) (s : State) : Host.Outcome State Fault Refusal := floatVar h false .f32 d a exp2Alg s

/-- FLOG2 (R144). -/
def execFlog2 (h : Hdr) (d a : Operand) (s : State) : Host.Outcome State Fault Refusal := floatVar h false .f32 d a log2Alg s

/-- FSIN (R144). -/
def execFsin (h : Hdr) (d a : Operand) (s : State) : Host.Outcome State Fault Refusal := floatVar h false .f32 d a sinAlg s

/-- FCOS (R144). -/
def execFcos (h : Hdr) (d a : Operand) (s : State) : Host.Outcome State Fault Refusal := floatVar h false .f32 d a cosAlg s

/-- FTANH (R144). -/
def execFtanh (h : Hdr) (d a : Operand) (s : State) : Host.Outcome State Fault Refusal := floatVar h false .f32 d a tanhAlg s

/-! ### Packed pairs (R145) -/

def lo16 (x : Nat) : Nat := x % 65536
def hi16 (x : Nat) : Nat := x / 65536 % 65536

/-- A function on each half of two packed values. -/
def halves (g : Nat → Nat → Nat) (x y : Nat) : Nat := g (lo16 x) (lo16 y) + 65536 * g (hi16 x) (hi16 y)

/-- A two-source packed word. -/
def packed2 (h : Hdr) (l : Bool) (f : Fmt) (d a : Operand) (b : Src) (g : Bool → Nat → Nat → Nat) (s : State) :
    Host.Outcome State Fault Refusal :=
  alu h (vectorForm l 1 false false d a b) 4 (fun x eff => vWrite (regOf d) eff fun i =>
    BitVec.ofNat 64 (halves (g x.flush) (x.read (.pair f) a i).toNat (x.readSrc (.pair f) b i).toNat)) s

/-- HADD2 (R145). -/
def execHadd2 (h : Hdr) (l : Bool) (t : HTy) (rm : RM) (d a : Operand) (b : Src) (s : State) :
    Host.Outcome State Fault Refusal :=
  packed2 h l (fmtOfH t) d a b (fun fl x y => floatOp fl (fmtOfH t) rm [x, y] (addOp rm)) s

/-- HMUL2 (R145). -/
def execHmul2 (h : Hdr) (l : Bool) (t : HTy) (rm : RM) (d a : Operand) (b : Src) (s : State) :
    Host.Outcome State Fault Refusal :=
  packed2 h l (fmtOfH t) d a b (fun fl x y => floatOp fl (fmtOfH t) rm [x, y] mulOp) s

/-- HFMA2 (R145). -/
def execHfma2 (h : Hdr) (t : HTy) (rm : RM) (d a : Operand) (b : Src) (c : Operand) (s : State) :
    Host.Outcome State Fault Refusal :=
  let f := fmtOfH t
  alu h ((vectorForm true 1 false false d a b).withSrc2 (fun A => vSrc A false c) c false) 4
    (fun x eff => vWrite (regOf d) eff fun i =>
      let p := (x.read (.pair f) a i).toNat
      let q := (x.readSrc (.pair f) b i).toNat
      let r := (x.read (.pair f) c i).toNat
      let g (u v w : Nat) : Nat := floatOp x.flush f rm [u, v, w] (fmaOp rm)
      BitVec.ofNat 64 (g (lo16 p) (lo16 q) (lo16 r) + 65536 * g (hi16 p) (hi16 q) (hi16 r))) s

/-- HMIN2 (R145). -/
def execHmin2 (h : Hdr) (l : Bool) (t : HTy) (d a : Operand) (b : Src) (s : State) :
    Host.Outcome State Fault Refusal :=
  packed2 h l (fmtOfH t) d a b (fun fl x y => minMaxFl false fl (fmtOfH t) x y) s

/-- HMAX2 (R145). -/
def execHmax2 (h : Hdr) (l : Bool) (t : HTy) (d a : Operand) (b : Src) (s : State) :
    Host.Outcome State Fault Refusal :=
  packed2 h l (fmtOfH t) d a b (fun fl x y => minMaxFl true fl (fmtOfH t) x y) s

/-- FDOT2 (R145): two exact products and an FP32 value, one rounding. -/
def execFdot2 (h : Hdr) (t : HTy) (rm : RM) (d a : Operand) (b : Src) (c : Operand) (s : State) :
    Host.Outcome State Fault Refusal :=
  let f := fmtOfH t
  alu h ((vectorForm true 1 false false d a b).withSrc2 (fun A => vSrc A false c) c false) 4
    (fun x eff => vWrite (regOf d) eff fun i =>
      let p := (x.read (.pair f) a i).toNat
      let q := (x.readSrc (.pair f) b i).toNat
      let v (u : Nat) : Ex := f.toEx (flushIf x.flush f u)
      let cv := f32Ex (flushIf x.flush .f32 (x.read (.f .f32) c i).toNat)
      let e := sumEx rm [(v (lo16 p)).mul (v (lo16 q)), (v (hi16 p)).mul (v (hi16 q)), cv]
      BitVec.ofNat 64 (flushIf x.flush .f32 (round e .f32 rm false))) s

end Sys2Proof.Machine
end

