-- ==== Sys2Proof/Machine/Convert.lean ====
section
/-! DEFINITION. Conversions, packing, quantisation and the random generator (R146 to R149, R155). -/

namespace Sys2Proof.Machine

/-- A conversion type is an integer type or a float format (Table AL-7). -/
inductive CvtKind where
  | int (t : ITy)
  | flt (f : Fmt)
  deriving DecidableEq, Repr

def cvtKind : CvtTy → CvtKind
  | .i8 => .int { width := 8, signed := true }
  | .i16 => .int { width := 16, signed := true }
  | .i32 => .int { width := 32, signed := true }
  | .i64 => .int { width := 64, signed := true }
  | .n8 => .int { width := 8, signed := false }
  | .n16 => .int { width := 16, signed := false }
  | .n32 => .int { width := 32, signed := false }
  | .n64 => .int { width := 64, signed := false }
  | .f64 => .flt .f64
  | .f32 => .flt .f32
  | .f16 => .flt .f16
  | .bf16 => .flt .bf16
  | .e4m3 => .flt .e4m3
  | .e5m2 => .flt .e5m2

/-- How an operand of a conversion type is read. -/
def cvtRd (t : CvtTy) : RdTy :=
  match cvtKind t with
  | .flt f => .f f
  | .int i => if i.width = 8 then .i8 else if i.width = 16 then .i16 else if i.width = 32 then .i32 else .i64

def cvtWide (t : CvtTy) : Bool := (cvtRd t).wide

/-- An integer result in its register: sign-extended or zero-extended to 32 bits (R129), or 64 bits. -/
def intResult (t : ITy) (i : Int) : DWord := ({ width := max t.width 32, signed := t.signed } : ITy).wrap i

/-- The value of R146 on one lane. -/
def cvtValue (rm : RM) (sat : Bool) (src tgt : CvtTy) (a : DWord) : DWord :=
  match cvtKind tgt, cvtKind src with
  | .flt f, .flt g => BitVec.ofNat 64 (round (g.toEx a.toNat) f rm sat)
  | .flt f, .int t => BitVec.ofNat 64 (round (Ex.ofInt (t.toInt a)) f rm sat)
  | .int t, .flt g => intResult t (exToInt (g.toEx a.toNat) rm t.lo t.hi)
  | .int t, .int u =>
    let i := u.toInt a
    intResult t (if sat then max t.lo (min t.hi i) else t.toInt (t.wrap i))

/-- CVT (R146). A reserved type code fails row 6 in the conversion field. -/
def execCvt (h : Hdr) (rm : RM) (cv : ConvField) (d a : Operand) (s : State) : Host.Outcome State Fault Refusal :=
  let tgt := CvtTy.ofBits cv.tgt
  let src := CvtTy.ofBits cv.src
  let wt := (tgt.map cvtWide).getD false
  let ws := (src.map cvtWide).getD false
  alu h { len := 8
          checks := fun A => [(fDst, vDst A (regsOf wt) d), (fSrc0, vSrc A ws a), (fSrc1, tgt.isSome && src.isSome)]
          reads := fun m => [Rd.of a ws m]
          spatialOk := false } 4
    (fun x eff =>
      match src, tgt with
      | some sy, some ty => vWriteW wt (regOf d) eff fun i => cvtValue rm cv.sat sy ty (x.read (cvtRd sy) a i)
      | _, _ => []) s

/-- CVT.SR (R147): stochastic rounding by a half of the random operand. -/
def execCvtSr (h : Hdr) (half : RndHalf) (tgt src : CvtTy) (sat : Bool) (d a rnd : Operand) (s : State) :
    Host.Outcome State Fault Refusal :=
  let wt := cvtWide tgt
  let ws := cvtWide src
  alu h { len := 16
          checks := fun A => [(fDst, vDst A (regsOf wt) d), (fSrc0, vSrc A ws a), (fSrc1, vSrc A false rnd)]
          reads := fun m => [Rd.of a ws m, Rd.of rnd false m]
          spatialOk := false } 4
    (fun x eff => vWriteW wt (regOf d) eff fun i =>
      match cvtKind tgt, cvtKind src with
      | .flt f, .flt g =>
        let r := x.n32 rnd i
        let rb := match half with
          | .lo => lo16 r
          | .hi => hi16 r
        BitVec.ofNat 64 (roundSr (g.toEx (x.read (.f g) a i).toNat) f rb sat)
      | _, _ => 0) s

/-- PACK (R148). -/
def execPack (h : Hdr) (l : Bool) (t : PackTy) (d a : Operand) (b : Src) (s : State) :
    Host.Outcome State Fault Refusal :=
  let wd := t == .b32
  alu h (vectorForm l (regsOf wd) false false d a b) 4 (fun x eff => vWriteW wd (regOf d) eff fun i =>
    let p := (x.read .i32 a i).toNat
    let q := (x.readSrc .i32 b i).toNat
    match t with
    | .b16 => BitVec.ofNat 64 (lo16 q * 65536 + lo16 p)
    | .b32 => BitVec.ofNat 64 (q * 2 ^ 32 + p)) s

/-- UNPACK (R148). -/
def execUnpack (h : Hdr) (l : Bool) (t : UnpackTy) (d a : Operand) (sel : Src) (s : State) :
    Host.Outcome State Fault Refusal :=
  let bits := match t with
    | .n16 => 16
    | .i16 => 16
    | .n8 => 8
    | .i8 => 8
  let signed := t == .i16 || t == .i8
  alu h (vectorForm l 1 false false d a sel) 4 (fun x eff => vWrite (regOf d) eff fun i =>
    let k := x.n32Src sel i % (32 / bits)
    let ty : ITy := { width := bits, signed := signed }
    intResult ty (ty.toInt (BitVec.ofNat 64 ((x.read .i32 a i).toNat / 2 ^ (bits * k))))) s

def qBits : QTy → Nat
  | .q8 => 8
  | .q4 => 4

/-- The scale and zero point of a parameter operand (R149). -/
def qParam (t : QTy) (p : Nat) : Nat × Int :=
  (p % 65536, ({ width := qBits t, signed := true } : ITy).toInt (BitVec.ofNat 64 (p / 65536)))

/-- QNT (R149, R51). -/
def execQnt (h : Hdr) (l : Bool) (t : QTy) (d a : Operand) (p : Src) (s : State) : Host.Outcome State Fault Refusal :=
  alu h (vectorForm l 1 false false d a p) 6 (fun x eff => vWrite (regOf d) eff fun i =>
    let q := qParam t (x.readSrc .i32 p i).toNat
    i32T.wrap (quant (x.read (.f .f32) a i).toNat q.1 q.2 (qBits t))) s

/-- DQNT (R149, R49). -/
def execDqnt (h : Hdr) (t : QTy) (d a p sel : Operand) (s : State) : Host.Outcome State Fault Refusal :=
  alu h { len := 16
          checks := fun A => [(fDst, vDst A 1 d), (fSrc0, vSrc A false a), (fSrc1, vSrc A false p), (fSrc2, vSrc A false sel)]
          reads := fun m => [Rd.of a false m, Rd.of p false m, Rd.of sel false m]
          spatialOk := false } 6
    (fun x eff => vWrite (regOf d) eff fun i =>
      let q := qParam t (x.read .i32 p i).toNat
      let k := x.n32 sel i % (32 / qBits t)
      let c := ({ width := qBits t, signed := true } : ITy).toInt
        (BitVec.ofNat 64 ((x.read .i32 a i).toNat / 2 ^ (qBits t * k)))
      BitVec.ofNat 64 (dequant c q.2 q.1)) s

/-- RNG (R155): 128 random bits a lane, from the key, the lane's identity and the counter word. DEDUCED, log 22. -/
def execRng (h : Hdr) (l : Bool) (d a n : Operand) (imm : Word) (s : State) : Host.Outcome State Fault Refusal :=
  alu h { len := lenOf l
          checks := fun A => [(fDst, vDst A 4 d), (fSrc0, vSrc A true a), (fSrc1, vSrc A false n)]
          reads := fun m => [Rd.of a true m, Rd.of n false m]
          spatialOk := false } 8
    (fun x eff =>
      let out (i : Nat) : BitVec 128 := rngBlock (x.read .i64 a i)
        (imm ++ (BitVec.ofNat 32 x.groupId ++ (BitVec.ofNat 32 (32 * x.w.wid + i) ++ (x.read .i32 n i).setWidth 32)))
      (List.range 4).map fun q => .v (regOf d + q) eff (tabVal fun i => (out i).extractLsb' (32 * q) 32)) s

end Sys2Proof.Machine
end

