-- ==== Sys2Proof/Machine/Lane.lean ====
section
/-! DEFINITION. Lane operations, predicate instructions and the pair word (R150 to R154, R83, R84, R156), and the
completion of variable-latency float instructions (R134). -/

namespace Sys2Proof.Machine

/-- The source lane of SHFL, if it names one (R150). -/
def shflLane (m : ShflMode) (i n : Nat) : Option Nat :=
  match m with
  | .idx => some (n % 32)
  | .up => if n ≤ i then some (i - n) else none
  | .down => if i + n ≤ 31 then some (i + n) else none
  | .xor => some (i ^^^ (n % 32))

/-- SHFL (R150): every source lane as it stands at issue, active or not. -/
def execShfl (h : Hdr) (l : Bool) (m : ShflMode) (d a : Operand) (n : Src) (s : State) :
    Host.Outcome State Fault Refusal :=
  let from_ (x : Ctx) (i : Nat) : Nat := (shflLane m i (x.n32Src n i)).getD i
  alu h { len := lenOf l
          checks := fun A => [(fDst, vDst A 1 d), (fSrc0, vSrc A false a), (fSrc1, vSrc1 A false n)]
          reads := fun e => s.laneReads n e fun x => Rd.of a false ((lanesOf e).foldl (fun q i => q ||| (1#32 <<< from_ x i)) 0#32)
          spatialOk := false } 6
    (fun x eff => vWrite (regOf d) eff fun i => x.read .i32 a (from_ x i)) s

/-- VOTE (R151). -/
def execVote (h : Hdr) (v : VoteForm) (kS : KField) (s : State) : Host.Outcome State Fault Refusal :=
  let dOk := match v with
    | .all k => kOk k
    | .any k => kOk k
    | .eq k => kOk k
    | .ballot d => sDst false d
  alu h { len := 8, checks := fun _ => [(fDst, dOk), (fSrc0, kOk kS)], reads := fun _ => [], spatialOk := false } 6
    (fun x eff =>
      let m := x.k kS &&& eff
      match v with
      | .all k => kWrite k eff (allBits (m == eff))
      | .any k => kWrite k eff (allBits (m != 0))
      | .eq k => kWrite k eff (allBits (m == 0 || m == eff))
      | .ballot d => sWriteW false (regOf d) (m.setWidth 64)) s

/-- A NaN encoding becomes the canonical one (R39). -/
def canonF32 (b : Nat) : Nat := if Fmt.f32.isNaN b then nan32 else b

/-- The combination of the lanes' values, in increasing lane order (R152); the list is not empty. DEDUCED, log 23. -/
def combine (op : RedOp) (ty : Nat) (xs : List Nat) : Nat :=
  match op, ty with
  | .add, 2 => round32 (sumEx .rne (xs.map f32Ex))
  | .add, _ => xs.foldl (· + ·) 0 % 2 ^ 32
  | .or, _ => xs.foldl (· ||| ·) 0
  | .min, 2 => canonF32 (xs.tail.foldl (minMaxEnc .f32 false) (xs.headD 0))
  | .max, 2 => canonF32 (xs.tail.foldl (minMaxEnc .f32 true) (xs.headD 0))
  | op, ty =>
    let t := if ty = 0 then i32T else n32T
    let pick (a b : Nat) : Nat :=
      if decide (t.toInt (BitVec.ofNat 64 b) < t.toInt (BitVec.ofNat 64 a)) == (op == .min) then b else a
    xs.tail.foldl pick (xs.headD 0)

def tyOk (ty : TypeField) : Bool := ty.ty != 3 && ty.upper == 0

/-- A lane's value of the type that the type field selects (R129, R152). -/
def Ctx.redVal (x : Ctx) (ty : TypeField) (a : Operand) (lane : Nat) : Nat :=
  (x.read (if ty.ty = 2 then .f .f32 else .i32) a lane).toNat

/-- WRED (R152): to every effective lane, or once to a scalar. -/
def execWred (h : Hdr) (op : RedOp) (ty : TypeField) (d a : Operand) (s : State) : Host.Outcome State Fault Refusal :=
  alu h { len := 8
          checks := fun A => [(fDst, vDst A 1 d || sDst false d), (fSrc0, vSrc A false a), (fSrc1, tyOk ty)]
          reads := fun m => [Rd.of a false m]
          spatialOk := false } 10
    (fun x eff =>
      let r := BitVec.ofNat 64 (combine op ty.ty.toNat ((lanesOf eff).map (x.redVal ty a)))
      if isSreg d then sWriteW false (regOf d) r else vWrite (regOf d) eff fun _ => r) s

/-- WSCAN (R152). -/
def execWscan (h : Hdr) (op : RedOp) (ty : TypeField) (d a : Operand) (s : State) : Host.Outcome State Fault Refusal :=
  alu h { len := 8
          checks := fun A => [(fDst, vDst A 1 d), (fSrc0, vSrc A false a), (fSrc1, tyOk ty)]
          reads := fun m => [Rd.of a false m]
          spatialOk := false } 10
    (fun x eff => vWrite (regOf d) eff fun i =>
      BitVec.ofNat 64 (combine op ty.ty.toNat (((lanesOf eff).filter (· ≤ i)).map (x.redVal ty a)))) s

/-- MATCH (R153). -/
def execMatchW (h : Hdr) (t : BitTy) (d a : Operand) (s : State) : Host.Outcome State Fault Refusal :=
  let w := bitWide t
  alu h { len := 8, checks := fun A => [(fDst, vDst A 1 d), (fSrc0, vSrc A w a)], reads := fun m => [Rd.of a w m]
          spatialOk := false } 6
    (fun x eff => vWrite (regOf d) eff fun i =>
      (eff &&& maskOf fun j => x.read (rdW w) a j == x.read (rdW w) a i).setWidth 64) s

/-! ### Predicates (R154) -/

/-- A predicate word with two sources. -/
def pred2 (h : Hdr) (kD kA kB : KField) (op : LaneMask → LaneMask → LaneMask) (s : State) :
    Host.Outcome State Fault Refusal :=
  alu h { len := 8, checks := fun _ => [(fDst, kOk kD), (fSrc0, kOk kA), (fSrc1, kOk kB)], reads := fun _ => []
          spatialOk := true } 2
    (fun x _ => kWrite kD fullMask (op (x.k kA) (x.k kB))) s

/-- KAND (R154). -/
def execKand (h : Hdr) (kD kA kB : KField) (s : State) : Host.Outcome State Fault Refusal := pred2 h kD kA kB (· &&& ·) s

/-- KOR (R154). -/
def execKor (h : Hdr) (kD kA kB : KField) (s : State) : Host.Outcome State Fault Refusal := pred2 h kD kA kB (· ||| ·) s

/-- KXOR (R154). -/
def execKxor (h : Hdr) (kD kA kB : KField) (s : State) : Host.Outcome State Fault Refusal := pred2 h kD kA kB (· ^^^ ·) s

/-- KNOT (R154). -/
def execKnot (h : Hdr) (kD kA : KField) (s : State) : Host.Outcome State Fault Refusal :=
  alu h { len := 8, checks := fun _ => [(fDst, kOk kD), (fSrc0, kOk kA)], reads := fun _ => [], spatialOk := true } 2
    (fun x _ => kWrite kD fullMask (~~~(x.k kA))) s

/-- KMOV, its three forms (R154). -/
def execKmov (h : Hdr) (v : KmovForm) (s : State) : Host.Outcome State Fault Refusal :=
  match v with
  | .k kD kA =>
    alu h { len := 8, checks := fun _ => [(fDst, kOk kD), (fSrc0, kOk kA)], reads := fun _ => [], spatialOk := true } 2
      (fun x _ => kWrite kD fullMask (x.k kA)) s
  | .s l kD b =>
    alu h { len := lenOf l, checks := fun _ => [(fDst, kOk kD), (fSrc1, sSrc1 false b)]
            reads := fun m => Rd.src b false m, spatialOk := true } 2
      (fun x _ => kWrite kD fullMask ((x.readSrc .i32 b 0).setWidth 32)) s
  | .toS d kA =>
    alu h { len := 8, checks := fun _ => [(fDst, sDst false d), (fSrc0, kOk kA)], reads := fun _ => []
            spatialOk := true } 2
      (fun x _ => sWriteW false (regOf d) ((x.k kA).setWidth 64)) s

/-- KPOP (R154). -/
def execKpop (h : Hdr) (d : Operand) (kA : KField) (s : State) : Host.Outcome State Fault Refusal :=
  alu h { len := 8, checks := fun _ => [(fDst, sDst false d), (fSrc0, kOk kA)], reads := fun _ => [], spatialOk := true } 4
    (fun x _ => sWriteW false (regOf d) (BitVec.ofNat 64 (popCount 32 (x.k kA).toNat))) s

/-! ### The pair word (R83, R84, R156) -/

/-- Whether a pairable operation reads its destination (Table AL-10). -/
def pairReadsDst (op : BitVec 5) : Bool :=
  match op.toNat with
  | 0x00 => false
  | 0x0B => false
  | 0x0F => false
  | 0x1D => false
  | 0x1E => false
  | 0x1F => false
  | _ => true

/-- Table AL-10: the result of a pairable operation on d and s under the FLUSH bit. -/
def pairOp (op : BitVec 5) (fl : Bool) (d s : Nat) : Nat :=
  let dw := BitVec.ofNat 64 d
  let sw := BitVec.ofNat 64 s
  let iop (ty : ITy) (g : Int → Int → Int) : Nat := (ty.wrap (g (ty.toInt dw) (ty.toInt sw))).toNat
  match op.toNat with
  | 0x00 => s
  | 0x01 => iop i32T (· + ·)
  | 0x02 => iop i32T (· - ·)
  | 0x03 => iop i32T (· * ·)
  | 0x04 => iop i32T min
  | 0x05 => iop i32T max
  | 0x06 => iop n32T min
  | 0x07 => iop n32T max
  | 0x08 => d &&& s
  | 0x09 => d ||| s
  | 0x0A => d ^^^ s
  | 0x0B => 2 ^ 32 - 1 - s
  | 0x0C => (shlW 32 dw s).toNat
  | 0x0D => (shrW 32 dw s).toNat
  | 0x0E => (sraW 32 dw s).toNat
  | 0x0F => popCount 32 s
  | 0x10 => floatOp fl .f32 .rne [d, s] (addOp .rne)
  | 0x11 => floatOp fl .f32 .rne [d, s] (subOp .rne)
  | 0x12 => floatOp fl .f32 .rne [d, s] mulOp
  | 0x13 => minMaxFl false fl .f32 d s
  | 0x14 => minMaxFl true fl .f32 d s
  | 0x15 => halves (fun x y => floatOp fl .f16 .rne [x, y] (addOp .rne)) d s
  | 0x16 => halves (fun x y => floatOp fl .f16 .rne [x, y] mulOp) d s
  | 0x17 => halves (fun x y => floatOp fl .bf16 .rne [x, y] (addOp .rne)) d s
  | 0x18 => halves (fun x y => floatOp fl .bf16 .rne [x, y] mulOp) d s
  | 0x19 => halves (minMaxFl false fl .f16) d s
  | 0x1A => halves (minMaxFl true fl .f16) d s
  | 0x1B => halves (minMaxFl false fl .bf16) d s
  | 0x1C => halves (minMaxFl true fl .bf16) d s
  | 0x1D => round (Fmt.bf16.toEx (lo16 s)) .f32 .rne false
  | 0x1E => round (f32Ex s) .bf16 .rne false
  | _ => (i32T.wrap (i32T.toInt sw).natAbs).toNat

/-- The schedule fields of a pair word; it carries no predicate (R75). -/
def pairHdr (p : PairWord) : Hdr := { stall := p.stall, wait := p.wait, set := none, pneg := false, pidx := 0 }

/-- The reads of one half. -/
def pairReads (op : BitVec 5) (d s : BitVec 8) (m : LaneMask) : List Rd :=
  (if pairReadsDst op then [Rd.of (.v d) false m] else []) ++ [Rd.of (.v s) false m]

/-- A pair word: both halves read register values from before the word (R84). -/
def execPairWord (p : PairWord) (s : State) : Host.Outcome State Fault Refusal :=
  alu (pairHdr p)
    { len := 8
      checks := fun A => [(0, vDst A 1 (.v p.adst)), (1, vDst A 1 (.v p.asrc)), (2, vDst A 1 (.v p.bdst)),
                          (3, vDst A 1 (.v p.bsrc))]
      reads := fun m => pairReads p.aop p.adst p.asrc m ++ pairReads p.bop p.bdst p.bsrc m
      spatialOk := false } 4
    (fun x eff =>
      let half (op : BitVec 5) (d r : BitVec 8) (i : Nat) : DWord :=
        BitVec.ofNat 64 (pairOp op x.flush (x.n32 (.v d) i) (x.n32 (.v r) i))
      vWrite p.adst.toNat eff (half p.aop p.adst p.asrc) ++ vWrite p.bdst.toNat eff (half p.bop p.bdst p.bsrc)) s

/-! ### Completion of variable-latency float instructions -/

/-- The warp in a slot takes the results of one of its instructions in flight and its flag falls (R106). -/
def State.completeAt (s : State) (c j : Nat) (gid wid ord : Nat) (writes : List Wr) (flag : Option (Fin 12)) : State :=
  match s.warpAt c j with
  | none => s
  | some w => if w.gid = gid ∧ w.wid = wid then s.setWarpAt c j ((w.complete (s.core c).cycle ord writes).decFlag flag) else s

/-- The slot of a warp, by its group. -/
def State.slotOf (s : State) (gid wid : Nat) : Option (Nat × Nat) :=
  (s.group gid).bind fun g => (g.slots.find? wid).map fun j => (g.cores.headD 0, j)

/-- The same for a warp wherever its slot is; nothing when the warp has retired. -/
def State.completeOf (s : State) (gid wid ord : Nat) (writes : List Wr) (flag : Option (Fin 12)) : State :=
  match s.slotOf gid wid with
  | some p => s.completeAt p.1 p.2 gid wid ord writes flag
  | none => s

/-- Removes the first element that satisfies a condition. -/
def takeFirst {α : Type} (p : α → Bool) (xs : List α) : Option (α × List α) :=
  match xs with
  | [] => none
  | x :: rest => if p x then some (x, rest) else (takeFirst p rest).map fun q => (q.1, x :: q.2)

/-- VARIABLE_ALU_COMPLETION (R134) on a core: the oldest float instruction of the warp in a slot writes its destination
and its flag falls. Without one in flight whose time has come, nothing happens. -/
def execVariableAluCompletion (c j : Nat) (s : State) : Host.Outcome State Fault Refusal :=
  match s.warpAt c j with
  | none => .next s
  | some w =>
    match takeFirst (fun o : AluOp => o.gid == w.gid && o.wid == w.wid) (s.core c).alu with
    | none => .next s
    | some (o, rest) =>
      if o.due ≤ (s.core c).cycle then
        .next ((s.setCore c { s.core c with alu := rest }).completeAt c j o.gid o.wid o.ord o.writes o.flag)
      else .next s

end Sys2Proof.Machine
end

