-- ==== Sys2Proof/Machine/IssueUnit.lean ====
section
/-! DEFINITION. The issue unit's seven instructions, the REGX rendezvous, and words that are not instructions
(spec/04_issue_unit.md, R88, R89). -/

namespace Sys2Proof.Machine

/-- An operand of an instruction that executes once for the warp in the issue unit; LANEID there is a free value. -/
def State.iread (s : State) (x : Ctx) (t : RdTy) (o : Operand) : DWord :=
  match o with
  | .special c => if c = 1 then t.low ((Config.issueLaneId s.freeCtr).setWidth 64) else x.read t o 0
  | _ => x.read t o 0

def State.ireadSrc (s : State) (x : Ctx) (t : RdTy) (b : Src) : DWord :=
  match b with
  | .op o => s.iread x t o
  | .imm w => immVal t w

/-- The counter of free values after a step that may have used one. -/
def State.bump (s : State) : State := { s with freeCtr := s.freeCtr + 1 }

/-- NOP (R122). -/
def execNop (h : Hdr) (s : State) : Host.Outcome State Fault Refusal :=
  issue h { len := 8, checks := fun _ => [], reads := fun _ => [], spatialOk := true } (fun _ _ s' => .ok s') s

/-- WAITF (R123). -/
def execWaitf (h : Hdr) (l : Bool) (f : FField) (n : Src) (s : State) : Host.Outcome State Fault Refusal :=
  issue h { len := lenOf l, checks := fun _ => [(fSrc0, fOk f), (fSrc1, iSrc1 n)], reads := fun m => Rd.src n false m
            spatialOk := true }
    (fun x _ s' =>
      let thr := min (s'.ireadSrc x .i32 n).toNat 63
      .ok ((s'.updWarp fun w => w.block (.waitf f.idx.toNat thr) x.w.pc none).bump)) s

/-- YIELD (R124): the warp is last in the round-robin order because it issued last (R105). -/
def execYieldW (h : Hdr) (l : Bool) (n : Src) (s : State) : Host.Outcome State Fault Refusal :=
  issue h { len := lenOf l, checks := fun _ => [(fSrc1, iSrc1 n)], reads := fun m => Rd.src n false m
            spatialOk := true }
    (fun x _ s' =>
      let k := min (s'.ireadSrc x .i32 n).toNat 65535
      .ok ((s'.updWarp fun w => { w with notBefore := x.cycle + 1 + max h.stall.toNat k }).bump)) s

/-- The warps a mask names. -/
def maskMembers (m : Word) : List Nat := lanesOf m

/-- R114: the mask holds the issuing warp, and names only warps of the group congruent to it modulo 4; the delta lies
in -31 to 31. -/
def regxOk (wid count : Nat) (d : Int) (m : Word) : Bool :=
  laneOn m wid && (maskMembers m).all (fun i => decide (i < count) && i % 4 == wid % 4) &&
  decide (-31 ≤ d) && decide (d ≤ 31)

/-- REGX (R114, R116): the warp waits for the rendezvous. -/
def execRegx (h : Hdr) (l : Bool) (dlt : Operand) (mask : Src) (s : State) : Host.Outcome State Fault Refusal :=
  issue h { len := lenOf l, checks := fun _ => [(fSrc0, iSrc false dlt), (fSrc1, iSrc1 mask)]
            reads := fun m => Rd.of dlt false m :: Rd.src mask false m, spatialOk := false, zeroSteep := true }
    (fun x eff s' =>
      if eff ≠ fullMask then .error (trapAt cPartialMask eff)
      else
        let d := i32T.toInt (s'.iread x .i32 dlt)
        let m := (s'.ireadSrc x .i32 mask).setWidth 32
        let count := ((s'.launchOf x.w).map (·.record.warps)).getD 0
        if regxOk x.w.wid count d m then
          .ok ((s'.updWarp fun w => w.block (.regx d m) x.w.pc h.set).bump)
        else .error (trapAt cRegx eff)) s

/-- The delta and mask of a warp that waits at REGX. -/
def regxOf (w : Warp) : Option (Int × Word) :=
  match w.wait with
  | .regx d m => some (d, m)
  | _ => none

/-- Rows taken from the end of a list of ranges: those left and those taken. DEDUCED, log 24. -/
def splitRows (n : Nat) (rs : List (Nat × Nat)) : List (Nat × Nat) × List (Nat × Nat) :=
  match rs with
  | [] => ([], [])
  | (b, k) :: rest =>
    if n = 0 then ([], (b, k) :: rest)
    else if k ≤ n then
      let p := splitRows (n - k) rest
      ((b, k) :: p.1, p.2)
    else ([(b, n)], (b + n, k - n) :: rest)

/-- The warps of one rendezvous as they stand: slot, warp and delta. -/
def State.regxParty (s : State) (c : Nat) (g : Group) (m : Word) : List (Nat × Warp × Int × Word) :=
  (maskMembers m).filterMap fun wid =>
    (g.slots.find? wid).bind fun j => (s.warpAt c j).bind fun w => (regxOf w).map fun p => (j, w, p.1, p.2)

/-- The allocation of a warp after a committed exchange: registers above the new allocation are lost, new ones read
zero (R115). -/
def Warp.realloc (w : Warp) (n : Nat) : Warp := { w with alloc := n, v := w.v.filter fun p => decide (p.1 < n) }

/-- The commit of an exchange on its parties in turn: a giver's last rows go to a pool, a taker takes from it. -/
def State.regxGive (s : State) (c : Nat) (ps : List (Nat × Warp × Int × Word)) (pool : List (Nat × Nat)) :
    State × List (Nat × Nat) :=
  match ps with
  | [] => (s, pool)
  | (j, w, d, _) :: rest =>
    if d < 0 then
      let n := ((w.alloc : Int) + 8 * d).toNat
      let p := splitRows n w.rows
      (s.setWarpAt c j { (w.realloc n).unblock (s.core c).cycle with rows := p.1 }).regxGive c rest (pool ++ p.2)
    else s.regxGive c rest pool

def State.regxTake (s : State) (c : Nat) (ps : List (Nat × Warp × Int × Word)) (pool : List (Nat × Nat)) : State :=
  match ps with
  | [] => s
  | (j, w, d, _) :: rest =>
    if d < 0 then s.regxTake c rest pool
    else
      let p := splitRows (8 * d).toNat pool
      (s.setWarpAt c j { (w.realloc (w.alloc + (8 * d).toNat)).unblock (s.core c).cycle with rows := w.rows ++ p.1 }).regxTake
        c rest p.2

/-- R115: the conditions of a commit. -/
def regxCommits (ps : List (Nat × Warp × Int × Word)) (m : Word) : Bool :=
  ps.all (fun p => p.2.2.2 == m) && decide ((ps.map fun p => p.2.2.1).sum = 0) &&
  ps.all fun p => decide (8 ≤ (p.2.1.alloc : Int) + 8 * p.2.2.1) && decide ((p.2.1.alloc : Int) + 8 * p.2.2.1 ≤ 256)

def State.trapAll (s : State) (c : Nat) (js : List Nat) (t : Trap) : State :=
  match js with
  | [] => s
  | j :: rest => (s.trapWait c j t).trapAll c rest t

def State.flushAll (s : State) (c : Nat) (js : List Nat) : State :=
  match js with
  | [] => s
  | j :: rest => (s.flushAt c j).flushAll c rest

/-- The rendezvous of the warp in a slot (R115): once every named warp has issued REGX and their register writes are complete,
all allocations change, or every participant traps. A named warp that has exited makes the participants trap. The participants are
those that the mask of this slot's warp names. DEDUCED, log 24. -/
def State.regxCommit (s : State) (c j : Nat) : State :=
  match s.warpAt c j with
  | none => s
  | some w =>
    match regxOf w, s.group w.gid with
    | some (_, m), some g =>
      let ps := s.regxParty c g m
      let t := trapAt cRegx fullMask
      if (maskMembers m).any fun i => (g.retired.find? i).isSome then s.trapAll c (ps.map (·.1)) t
      else if ps.length < (maskMembers m).length then s
      else if ps.any fun p => (s.core c).writesPending p.2.1 then s
      else
        let s1 := s.flushAll c (ps.map (·.1))
        let qs := s1.regxParty c g m
        if regxCommits qs m then
          let p := s1.regxGive c qs []
          p.1.regxTake c qs p.2
        else s1.trapAll c (qs.map (·.1)) t
    | _, _ => s

/-- REGX_COMMIT (R115). -/
def execRegxCommit (c j : Nat) (s : State) : Host.Outcome State Fault Refusal := .next (s.regxCommit c j)

/-! ### Special registers -/

/-- The special registers of Table IU-3: assigned, 64 bits wide. -/
def srAssigned (i : BitVec 5) : Bool := decide (i.toNat ≤ 0x0A) || (decide (0x10 ≤ i.toNat) && decide (i.toNat ≤ 0x14))
def srWide (i : BitVec 5) : Bool := i == 0x06 || i == 0x10 || i == 0x12
def srWritable (i : BitVec 5) : Bool := i == 0x08 || (decide (0x10 ≤ i.toNat) && decide (i.toNat ≤ 0x14))

def cstateBits : CoreMode → Nat
  | .simt => 0
  | .spatial => 1
  | .switching => 2

/-- The value of a special register as it stands (Tables IU-3 to IU-6). -/
def State.special (s : State) (x : Ctx) (i : BitVec 5) (lane : Nat) : DWord :=
  match i.toNat with
  | 0x00 => BitVec.ofNat 64 lane
  | 0x01 => (x.special 2 0).setWidth 64
  | 0x02 => (x.special 3 0).setWidth 64
  | 0x03 => (x.special 4 0).setWidth 64
  | 0x04 => (x.special 5 0).setWidth 64
  | 0x05 => (x.special 6 0).setWidth 64
  | 0x06 => BitVec.ofNat 64 x.cycle
  | 0x07 => BitVec.ofNat 64 (cstateBits s.curCore.cmode * 256 + x.w.mode.toNat)
  | 0x08 => if x.w.probef then 1 else 0
  | 0x09 => x.w.steep.setWidth 64
  | 0x0A =>
    match s.launchOf x.w with
    | some l => BitVec.ofNat 64 ((l.record.clSize - 1) * 4 + l.record.gclass)
    | none => 0
  | 0x10 => x.w.xpc
  | 0x11 => x.w.xcause.setWidth 64
  | 0x12 => x.w.xaddr
  | 0x13 => x.w.xmask.setWidth 64
  | 0x14 => x.w.xinfo.setWidth 64
  | _ => 0

/-- R235: SRD of XCAUSE or XADDR in handler state is noted. -/
def Warp.noteRead (w : Warp) (i : BitVec 5) : Warp :=
  if w.hstate then { w with rdCause := w.rdCause || i == 0x11, rdAddr := w.rdAddr || i == 0x12 } else w

/-- SRD (R126). -/
def execSrd (h : Hdr) (d : Operand) (ix : SIdx) (s : State) : Host.Outcome State Fault Refusal :=
  let w := srWide ix.idx
  issue h { len := 8
            checks := fun A => [(fDst, vDst A (regsOf w) d || sDst w d),
              (fSrc0, srAssigned ix.idx && ix.upper == 0 && !(ix.idx == 0 && isSreg d))]
            reads := fun _ => [], spatialOk := !isVec d }
    (fun x eff s' =>
      let ws := if isSreg d then sWriteW w (regOf d) (s'.special x ix.idx 0)
        else vWriteW w (regOf d) eff fun i => s'.special x ix.idx i
      .ok (s'.updWarp fun q => (q.noteRead ix.idx).defer x.cycle 2 ws)) s

/-- SWR (R127, R231): PROBEF at once (R118), a trap register in handler state. -/
def execSwr (h : Hdr) (ix : SIdx) (a : Operand) (s : State) : Host.Outcome State Fault Refusal :=
  let w := srWide ix.idx
  issue h { len := 8, checks := fun _ => [(fDst, srWritable ix.idx && ix.upper == 0), (fSrc0, iSrc w a)]
            reads := fun m => [Rd.of a w m], spatialOk := true }
    (fun x eff s' =>
      let v := s'.iread x (rdW w) a
      if ix.idx = 0x08 then .ok ((s'.updWarp fun q => { q with probef := v.getLsbD 0 }).bump)
      else if x.w.hstate then .ok ((s'.updWarp fun q => q.defer x.cycle 2 [.x ix.idx v]).bump)
      else .error (trapAt cTrapState eff)) s

/-- The three MODE instructions (R128): the new bits govern the next word (R118). -/
def modeWord (h : Hdr) (bits : Operand) (op : BitVec 3 → BitVec 3 → BitVec 3) (s : State) :
    Host.Outcome State Fault Refusal :=
  issue h { len := 8, checks := fun _ => [(fSrc1, iSrc false bits)], reads := fun m => [Rd.of bits false m]
            spatialOk := true }
    (fun x _ s' =>
      let v := (s'.iread x .i32 bits).setWidth 3
      .ok ((s'.updWarp fun q => { q with mode := op q.mode v }).bump)) s

/-- MODE.SET (R128). -/
def execModeSet (h : Hdr) (bits : Operand) (s : State) : Host.Outcome State Fault Refusal :=
  modeWord h bits (fun m v => m ||| v) s

/-- MODE.CLR (R128). -/
def execModeClr (h : Hdr) (bits : Operand) (s : State) : Host.Outcome State Fault Refusal :=
  modeWord h bits (fun m v => m &&& ~~~v) s

/-- MODE.WR (R128). -/
def execModeWr (h : Hdr) (bits : Operand) (s : State) : Host.Outcome State Fault Refusal :=
  modeWord h bits (fun _ v => v) s

/-! ### Words that are not instructions (Table EC-9) -/

/-- The schedule and predicate fields of a word as its format places them. A pair word carries no predicate, and a word of
format 0b11, which is no instruction, has none of these fields (Tables EC-1, EC-9). DEDUCED, log 20. -/
def wordHdr (w : DWord) : Hdr :=
  let r := (Raw.first false w).hdr
  if fmtOf w = 3 then { stall := 0, wait := 0, set := none, pneg := false, pidx := 0 }
  else if fmtOf w = 1 then { r with pneg := false, pidx := 0 }
  else r

/-- Rows 1 to 5 of Table EC-9 on the acting warp: in probe mode rows 1 and 4 act as NOP and set PROBEF (R89, R119);
otherwise an illegal-instruction trap. DEDUCED, log 20. -/
def rejectWord (e : DecodeErr) (w0 : DWord) (s : State) : State :=
  match s.ctx with
  | none => s
  | some x =>
    let h := wordHdr w0
    let trap := s.takeTrap (trapAt cIllegalInstr (x.w.eff h))
    let probe := x.w.mode.getLsbD 1
    match e with
    | .notInstruction =>
      if probe then s.setWarp { x.w.issued h 8 x.cycle 0 with probef := true } else trap
    | .unassigned =>
      if probe then s.setWarp { x.w.issued h (wordLength w0) x.cycle 0 with probef := true } else trap
    | _ => trap

end Sys2Proof.Machine
end

