-- ==== Sys2Proof/Machine/Branch.lean ====
section
/-! DEFINITION. The branch unit (spec/07_branch_unit.md): the token stack with its spill area, and the ten
instructions that change a warp's control state. -/

namespace Sys2Proof.Machine

/-! ### Tokens (Tables BR-3 and BR-4) -/

def TokKind.code : TokKind → Nat
  | .join => 0
  | .els => 1
  | .loop => 2
  | .call => 3

def TokKind.ofCode (n : Nat) : TokKind :=
  match n with
  | 0 => .join
  | 1 => .els
  | 2 => .loop
  | _ => .call

/-- The 16 bytes of a token. -/
def Token.nat (t : Token) : Nat :=
  t.kind.code + t.depth.toNat * 2 ^ 2 + t.pc.toNat / 8 * 2 ^ 10 + t.mask.toNat * 2 ^ 64

/-- A token from its 16 bytes; its reserved bits are not looked at. -/
def Token.ofNat (n : Nat) : Token :=
  { kind := .ofCode (n % 4), depth := BitVec.ofNat 8 (n / 4), pc := BitVec.ofNat 57 (n / 2 ^ 10 % 2 ^ 54 * 8)
    mask := BitVec.ofNat 32 (n / 2 ^ 64) }

/-- The depth in force below a token: below a CALL token, its DEPTH (R218). DEDUCED, log 17. -/
def Token.below (t : Token) (f : Int) : Int := if t.kind = .call then t.depth.toNat else f

/-- The spill area of a slot (R207). -/
def spillArea (sp : Space) (c j : Nat) : Nat := sp.tsb + 4096 * (64 * c + j)

/-- What the branch unit needs besides the stack: the core, the address space, the spill area, the effective mask, the
warp's depth, and the number of tokens that the instruction may not pop (R235). -/
structure BrEnv where
  core : Nat
  asid : Nat
  area : Nat
  eff : LaneMask
  depth : BitVec 8
  lo : Nat
  deriving DecidableEq, Repr

/-- A token stack in use: its count, the tokens held in the unit (top first), the call depth in force at the top, and
the machine whose memory holds the rest. -/
structure Stk where
  d : Nat
  held : List Token
  force : Int
  s : State
  deriving DecidableEq, Repr

def BrEnv.pos (e : BrEnv) (n : Nat) : Nat := e.area + 16 * n

/-- A trap of a spill-area access: ORIGIN 2 and the position's address (R208). -/
def BrEnv.spillTrap (e : BrEnv) (code : BitVec 6) (n : Nat) (detail : Nat) (wr : Bool) : Trap :=
  { trapAt code e.eff detail (e.pos n) wr with origin := 2 }

def BrEnv.recon (e : BrEnv) : Trap := trapAt cReconvergence e.eff

/-- R208, R209: reads token `n` from its position. DEDUCED, log 17. -/
def BrEnv.readTok (e : BrEnv) (s : State) (n : Nat) (force : Int) : Except Trap Token :=
  match s.vread e.core e.asid (e.pos n) 16 with
  | .error f => .error (e.spillTrap f.code n f.detail false)
  | .ok bs =>
    let x := leNat bs
    let t := Token.ofNat x
    let d : Int := t.depth.toNat
    let depthOk := if t.kind = .call then decide (d < e.depth.toNat) else decide (d = force)
    if x / 2 ^ 96 = 0 ∧ t.depth.toNat ≤ e.depth.toNat ∧ depthOk then .ok t
    else .error (trapAt cReconvergence e.eff 0 (e.pos n))

/-- Writes token `n` to its position. -/
def BrEnv.writeTok (e : BrEnv) (s : State) (n : Nat) (t : Token) : Except Trap State :=
  match s.vwrite e.core e.asid (e.pos n) (leBytes 16 t.nat) with
  | .error f => .error (e.spillTrap f.code n f.detail true)
  | .ok s' => .ok s'

/-- Reads tokens back until the unit holds the top min(D, 16) (R208). -/
def BrEnv.refill (e : BrEnv) (k : Stk) : Nat → Except Trap Stk
  | 0 => .ok k
  | fuel + 1 =>
    if k.held.length < min k.d 16 then
      let n := k.d - k.held.length - 1
      match e.readTok k.s n (k.held.foldl (fun f t => t.below f) k.force) with
      | .error t => .error t
      | .ok t => e.refill { k with held := k.held ++ [t], s := k.s.vtouch e.core e.asid (e.pos n) 16 } fuel
    else .ok k

/-- The poison trap of a token that was restored as poisoned (R246). -/
def BrEnv.poisonTok (e : BrEnv) (n : Nat) : Trap := e.spillTrap cPoison n 0 false

/-- Token `n` is written to its position; a poisoned one leaves its sector poisoned. -/
def BrEnv.spillTok (e : BrEnv) (s : State) (n : Nat) (t : Token) : Except Trap State :=
  match e.writeTok s n t, s.probe e.core e.asid (e.pos n) .write with
  | .ok s', .ok (pa, _) => .ok (if t.poison then s'.setSec (pa / 64) true else s')
  | r, _ => r

/-- Pushes a token (R208). -/
def BrEnv.push (e : BrEnv) (k : Stk) (t : Token) : Except Trap Stk :=
  match k.held.drop 15 with
  | [] => .ok { k with d := k.d + 1, held := t :: k.held }
  | low :: _ =>
    match e.spillTok k.s (k.d - k.held.length) low with
    | .error x => .error x
    | .ok s' => .ok { k with d := k.d + 1, held := t :: k.held.take 15, s := s' }

/-- Pops the top token; a pop below the mark of handler state traps (R235). -/
def BrEnv.pop (e : BrEnv) (k : Stk) : Except Trap (Token × Stk) :=
  if k.d ≤ e.lo then .error e.recon
  else
    match e.refill k 16 with
    | .error x => .error x
    | .ok k1 =>
      match k1.held with
      | [] => .error e.recon
      | t :: rest =>
        if t.poison then .error (e.poisonTok (k.d - 1))
        else
        match e.refill { k1 with d := k1.d - 1, held := rest, force := t.below k1.force } 16 with
        | .error x => .error x
        | .ok k2 => .ok (t, k2)

/-- Where a warp goes on: a token that holds lanes, or nowhere (R211). -/
def BrEnv.resume (e : BrEnv) (k : Stk) : Nat → Except Trap (Option Token × Stk)
  | 0 => .ok (none, k)
  | fuel + 1 =>
    if k.d = 0 then .ok (none, k)
    else
      match e.pop k with
      | .error x => .error x
      | .ok (t, k1) => if t.mask = 0 then e.resume k1 fuel else .ok (some t, k1)

/-- Which token a retiring instruction stops at (R217, R219, R220). -/
inductive Sweep where
  | brk | ret | exit
  deriving DecidableEq, Repr

/-- Whether the sweep stops at a token, goes past it, or finds no token to stop at. -/
inductive SweepAct where
  | stop | pass | fail
  deriving DecidableEq, Repr

def Sweep.act (w : Sweep) (k : TokKind) : SweepAct :=
  match w, k with
  | .brk, .loop => .stop
  | .brk, .call => .fail
  | .ret, .call => .stop
  | _, _ => .pass

/-- The new mask of a token that the sweep meets: a LOOP token that a BRK stops at gains the lanes. -/
def Sweep.mask (w : Sweep) (a : SweepAct) (clr m : LaneMask) : LaneMask :=
  match a with
  | .stop => if w = .brk then m ||| clr else m
  | _ => m &&& ~~~clr

/-- The tokens from the top down to the one that the instruction stops at, which ends the list. `n` tokens are left, `held` of
them in the unit; the rest are read (R208). A stack without the token that BRK or RET needs gives a reconvergence trap (R222).
DEDUCED, log 18. -/
def BrEnv.look (e : BrEnv) (w : Sweep) (n : Nat) (held : List Token) (force : Int) (s : State) : Except Trap (List Token) :=
  match n with
  | 0 => if w = .exit then .ok [] else .error e.recon
  | n + 1 =>
    if w ≠ .exit ∧ n < e.lo then .error e.recon
    else
      let top : Except Trap Token := match held with
        | t :: _ => if t.poison then .error (e.poisonTok n) else .ok t
        | [] => e.readTok s n force
      match top with
      | .error x => .error x
      | .ok t =>
        match w.act t.kind with
        | .fail => .error e.recon
        | .stop => .ok [t]
        | .pass =>
          match e.look w n held.tail (t.below force) s with
          | .error x => .error x
          | .ok ts => .ok (t :: ts)

/-- A token with the mask that the sweep gives it. -/
def Sweep.change (w : Sweep) (clr : LaneMask) (t : Token) : Token := { t with mask := w.mask (w.act t.kind) clr t.mask }

/-- Writes the spilled tokens whose mask changes back to their positions (R208); the first of the list is token n - 1. -/
def BrEnv.putBack (e : BrEnv) (w : Sweep) (clr : LaneMask) (n : Nat) (ts : List Token) (s : State) : Except Trap State :=
  match ts with
  | [] => .ok s
  | t :: rest =>
    match if (w.change clr t).mask = t.mask then Except.ok s else e.writeTok s (n - 1) (w.change clr t) with
    | .error x => .error x
    | .ok s1 => e.putBack w clr (n - 1) rest s1

/-- The reads of `k` spilled tokens from token n - 1 down, as the caches meet them (R208). -/
def BrEnv.touched (e : BrEnv) (n k : Nat) (s : State) : State :=
  (List.range k).foldl (fun t i => t.vtouch e.core e.asid (e.pos (n - 1 - i)) 16) s

/-- Takes the lanes `clr` out of the tokens from the top down to the one that the instruction stops at: the tokens that the unit
then holds, and the machine with the spilled ones written back. -/
def BrEnv.sweep (e : BrEnv) (w : Sweep) (clr : LaneMask) (n : Nat) (held : List Token) (force : Int) (s : State) :
    Except Trap (List Token × State) :=
  match e.look w n held force s with
  | .error x => .error x
  | .ok ts =>
    let away := ts.drop held.length
    match e.putBack w clr (n - held.length) away (e.touched (n - held.length) away.length s) with
    | .error x => .error x
    | .ok s1 => .ok ((ts.take held.length).map (w.change clr) ++ held.drop ts.length, s1)

/-! ### Retirement (R221) -/

/-- The ownership entries of a core give up the bindings of a warp. -/
def Core.unbind (k : Core) (gid wid : Nat) : Core :=
  { k with own := k.own.map fun p =>
      if p.2.gid = some gid ∧ p.2.bound ∧ p.2.bwarp = wid then (p.1, { p.2 with bound := false, bwarp := 0 }) else p }

/-- The warp in a slot gives up its slot, registers, flags and bindings (R352). Its float operations in flight have nothing left
to write. -/
def State.freeWarp (s : State) (c j : Nat) : State :=
  match s.warpAt c j with
  | none => s
  | some w =>
    let s0 := s.dropWarpAt c j
    let k := (s0.core c).unbind w.gid w.wid
    let s1 := s0.setCore c { k with alu := k.alu.filter fun o => !(o.gid == w.gid && o.wid == w.wid) }
    match s1.group w.gid with
    | none => s1
    | some g => s1.setGroup w.gid { g with slots := g.slots.del w.wid, retired := g.retired.put w.wid w.alloc
                                           binds := g.binds.filter fun p => decide (p.2 ≠ w.wid) }

/-- Every phase of a group's BAR and of its cluster's CBAR that is complete completes. -/
def State.completePhases (s : State) (gid : Nat) : State :=
  let s1 := (List.range 16).foldl (fun t b => t.completeBar gid b) s
  match s1.group gid with
  | none => s1
  | some g =>
    let n := ((s1.launch g.launch).map (·.record.clSize)).getD 1
    (List.range 4).foldl (fun t b => t.completeCbar g.launch (g.index / n) b) s1

/-- The warp in a slot retires (R221): live_warps falls, and the phases of barriers that the arrivals then cover complete in the
same cycle (R261). -/
def State.retireWarp (s : State) (c j : Nat) : State :=
  match s.warpAt c j with
  | none => s
  | some w => (s.freeWarp c j).completePhases w.gid

/-! ### The course of a branch word -/

/-- A uniform instruction's check 1 of Table BR-5. -/
def uniform (x : Ctx) (eff : LaneMask) : Except Trap Unit :=
  if eff = x.w.act then .ok () else .error (trapAt cDivergent eff)

/-- Check 2 of Table BR-5. -/
def checkTarget (eff : LaneMask) (a : Int) : Except Trap Unit :=
  if legalTarget a then .ok () else .error (trapAt cBranchTarget eff 0 (a % (2 ^ 64 : Nat)).toNat)

/-- The target of a relative branch: exact (R202). -/
def Ctx.rel (x : Ctx) (off : Int) : Int := x.w.pc.toNat + 8 * off

def pcOf (a : Int) : BitVec 57 := BitVec.ofInt 57 a

def State.brEnv (s : State) (x : Ctx) (eff : LaneMask) : BrEnv :=
  { core := s.cur.1, asid := s.asidOf x.w
    area := ((s.spaceOf x.w).map fun sp => spillArea sp s.cur.1 s.cur.2).getD 0
    eff := eff, depth := x.w.depth, lo := if x.w.hstate then x.w.dmark else 0 }

def Ctx.stk (x : Ctx) (s : State) : Stk := { d := x.w.ntok, held := x.w.held, force := x.w.depth.toNat, s := s }

/-- The warp takes a changed stack. -/
def Stk.commit (k : Stk) (f : Warp → Warp) : State := k.s.updWarp fun w => { f w with ntok := k.d, held := k.held }

/-- Ends an instruction that leaves the warp without active lanes: it goes on at a token, or retires (R211). -/
def BrEnv.finish (e : BrEnv) (k : Stk) : Except Trap State :=
  match e.resume k 257 with
  | .error x => .error x
  | .ok (some t, k1) => .ok (k1.commit fun w => { w with act := t.mask, pc := t.pc, depth := t.depth })
  | .ok (none, k1) => .ok (k1.s.retireWarp k1.s.cur.1 k1.s.cur.2)

/-- The form of a branch word: no register reads besides a target pair. -/
def branchForm (len : Nat) (cs : Checks) : Form :=
  { len := len, checks := fun _ => cs, reads := fun _ => [], spatialOk := true, extra := 2 }

/-- Jumps. -/
def State.jump (s : State) (a : Int) : State := s.updWarp fun w => { w with pc := pcOf a }

/-- BRA (R212). -/
def execBra (h : Hdr) (off : BitVec 27) (s : State) : Host.Outcome State Fault Refusal :=
  issue h (branchForm 8 []) (fun x eff s' => do
    uniform x eff
    let a := x.rel off.toInt
    checkTarget eff a
    return s'.jump a) s

/-- A register target (R202). -/
def targetForm (a : Operand) : Form :=
  { branchForm 8 [(fSrc0, sDst true a)] with reads := fun m => [Rd.of a true m] }

/-- BRX (R213). -/
def execBrx (h : Hdr) (a : Operand) (s : State) : Host.Outcome State Fault Refusal :=
  issue h (targetForm a) (fun x eff s' => do
    uniform x eff
    let t : Int := (x.read .i64 a 0).toNat
    checkTarget eff t
    return s'.jump t) s

/-- SPLIT (R214). Of two illegal targets the else part's is reported. DESIGN CHOICE, log 65. -/
def execSplit (h : Hdr) (els : BitVec 27) (kC : KField) (jn : BitVec 32) (s : State) :
    Host.Outcome State Fault Refusal :=
  issue h (branchForm 16 [(fSrc2, kOk kC)]) (fun x eff s' => do
    uniform x eff
    let ea := x.rel els.toInt
    let ja := x.rel jn.toInt
    checkTarget eff ea
    checkTarget eff ja
    let tk := x.w.act &&& x.k kC
    let pk := x.w.act &&& ~~~(x.k kC)
    let both := tk != 0 && pk != 0
    if x.w.ntok + (if both then 2 else 1) > 256 then .error (trapAt cTokenOverflow eff)
    else
      let e := s'.brEnv x eff
      let k1 ← e.push (x.stk s') { kind := .join, depth := x.w.depth, pc := pcOf ja, mask := x.w.act }
      if both then
        let k2 ← e.push k1 { kind := .els, depth := x.w.depth, pc := pcOf ea, mask := pk }
        return k2.commit fun w => { w with act := tk }
      else if tk = 0 then return k1.commit fun w => { w with act := pk, pc := pcOf ea }
      else return k1.commit id) s

/-- JOIN (R215). -/
def execJoin (h : Hdr) (s : State) : Host.Outcome State Fault Refusal :=
  issue h (branchForm 8 []) (fun x eff s' => do
    uniform x eff
    let e := s'.brEnv x eff
    let k ← e.refill (x.stk s') 16
    match k.held with
    | [] => .error e.recon
    | t :: _ =>
      if t.poison then .error (e.poisonTok (k.d - 1))
      else if (t.kind = .join ∨ t.kind = .els) ∧ t.depth = x.w.depth then
        let (t, k1) ← e.pop k
        if t.mask = 0 then e.finish k1
        else return k1.commit fun w => { w with act := t.mask, pc := t.pc }
      else .error e.recon) s

/-- LOOPR (R216). -/
def execLoopr (h : Hdr) (ext : BitVec 27) (s : State) : Host.Outcome State Fault Refusal :=
  issue h (branchForm 8 []) (fun x eff s' => do
    uniform x eff
    let a := x.rel ext.toInt
    checkTarget eff a
    if x.w.ntok + 1 > 256 then .error (trapAt cTokenOverflow eff)
    else
      let k ← (s'.brEnv x eff).push (x.stk s') { kind := .loop, depth := x.w.depth, pc := pcOf a, mask := 0 }
      return k.commit id) s

/-- The course of BRK, RET and EXIT: the lanes leave the tokens above the one named, and the active mask. -/
def retiring (w : Sweep) (x : Ctx) (eff : LaneMask) (s' : State) : Except Trap State := do
  let e := s'.brEnv x eff
  let (hs, s1) ← e.sweep w eff x.w.ntok x.w.held x.w.depth.toNat s'
  let k := { x.stk s1 with held := hs }
  let act := x.w.act &&& ~~~eff
  if act = 0 then e.finish k
  else return k.commit fun w => { w with act := act }

/-- BRK (R217). -/
def execBrk (h : Hdr) (s : State) : Host.Outcome State Fault Refusal :=
  issue h (branchForm 8 []) (fun x eff s' => retiring .brk x eff s') s

/-- The pushes of CALL and CALLX (R218). -/
def callTo (x : Ctx) (eff : LaneMask) (a : Int) (s' : State) : Except Trap State := do
  uniform x eff
  checkTarget eff a
  if x.w.depth = 255 then .error (trapAt cCallDepth eff)
  else if x.w.ntok + 1 > 256 then .error (trapAt cTokenOverflow eff)
  else
    let k ← (s'.brEnv x eff).push (x.stk s') { kind := .call, depth := x.w.depth, pc := x.w.pc + 8, mask := x.w.act }
    return k.commit fun w => { w with depth := x.w.depth + 1, pc := pcOf a }

/-- CALL (R218). -/
def execCall (h : Hdr) (off : BitVec 27) (s : State) : Host.Outcome State Fault Refusal :=
  issue h (branchForm 8 []) (fun x eff s' => callTo x eff (x.rel off.toInt) s') s

/-- CALLX (R218). -/
def execCallx (h : Hdr) (a : Operand) (s : State) : Host.Outcome State Fault Refusal :=
  issue h (targetForm a) (fun x eff s' => callTo x eff (x.read .i64 a 0).toNat s') s

/-- RET (R219). -/
def execRet (h : Hdr) (s : State) : Host.Outcome State Fault Refusal :=
  issue h (branchForm 8 []) (fun x eff s' => retiring .ret x eff s') s

/-- EXIT (R220): in handler state a trap-state trap (R235), in spatial mode a configuration-error trap (R382). -/
def execExit (h : Hdr) (s : State) : Host.Outcome State Fault Refusal :=
  issue h { branchForm 8 [] with spatialOk := false } (fun x eff s' =>
    if x.w.hstate then .error (trapAt cTrapState eff) else retiring .exit x eff s') s

end Sys2Proof.Machine
end

