-- ==== Sys2Proof/Machine/TrapUnit.lean ====
section
/-! DEFINITION. The trap unit's instructions TRAP, XRET, BKPT and HALT, the entry of a trap that waited for engine
requests, and the delivery of pending faults (spec/08_trap_context_unit.md). -/

namespace Sys2Proof.Machine

/-- The small constant that TRAP and BKPT name in SRC1 (Table TC-7). -/
def smallConst (bound : Nat) (n : Operand) : Option Nat :=
  match n with
  | .const c => if c.toNat < bound then some c.toNat else none
  | _ => none

def trapForm (len : Nat) (cs : Checks) : Form :=
  { len := len, checks := fun _ => cs, reads := fun _ => [], spatialOk := true }

/-- TRAP (R238): XPC receives the address of the following word. -/
def execTrap (h : Hdr) (n : Operand) (s : State) : Host.Outcome State Fault Refusal :=
  issue h (trapForm 8 [(fSrc1, (smallConst 16 n).isSome)]) (fun x eff _ =>
    let k := (smallConst 16 n).getD 0
    .ok (s.takeTrapAt s.cur.1 s.cur.2 ((x.w.pc + 8).setWidth 64) (trapAt (BitVec.ofNat 6 (0x30 + k)) eff k))) s

/-- BKPT (R239). -/
def execBkpt (h : Hdr) (n : Operand) (s : State) : Host.Outcome State Fault Refusal :=
  issue h (trapForm 8 [(fSrc1, (smallConst 32 n).isSome)]) (fun _ eff _ =>
    .error (trapAt cBreakpoint eff ((smallConst 32 n).getD 0))) s

/-- HALT (R240): the warp's pc is the following word's address, which the halt record holds with the code. -/
def execHalt (h : Hdr) (l : Bool) (code : Src) (s : State) : Host.Outcome State Fault Refusal :=
  issue h { len := lenOf l, checks := fun _ => [(fSrc1, sSrc1 false code)], reads := fun m => Rd.src code false m
            spatialOk := true }
    (fun x _ s' =>
      let c := s.cur.1
      let j := s.cur.2
      let s1 := s'.updWarp fun w => { w with halted := true }
      let w := { x.w with pc := x.w.pc + BitVec.ofNat 57 (lenOf l) }
      .ok (s1.haltContext (s.asidOf x.w) (w.haltInfo c j 5 (x.n32Src code) false))) s

/-- R231: the address at which XRET resumes is that of the last SWR of XPC, whatever the latency with which SRD reads it
(log 26). -/
def Warp.lastXpc (w : Warp) : DWord := w.settleAll.xpc

/-- XRET (R241); a handler entered for a generator fault lets that generator go on (R410). -/
def execXret (h : Hdr) (s : State) : Host.Outcome State Fault Refusal :=
  issue h (trapForm 8 []) (fun x eff s' =>
    if !x.w.hstate || eff ≠ fullMask || x.w.act ≠ fullMask || x.w.ntok ≠ x.w.dmark then .error (trapAt cTrapState eff)
    else if !legalTarget x.w.lastXpc.toNat then .error (trapAt cBranchTarget eff 0 x.w.lastXpc.toNat)
    else
      let c := s.cur.1
      let area := ((s.spaceOf x.w).map fun sp => trapArea sp c s.cur.2).getD 0
      match s.vread c (s.asidOf x.w) area 64 with
      | .error f => .error { trapAt f.code eff f.detail area with origin := 3 }
      | .ok bs =>
        let at_ (o n : Nat) : Nat := leNat ((bs.drop o).take n)
        let sv (o : Nat) : RegVal := { val := BitVec.ofNat 32 (at_ o 4), tag := .clean }
        let s0 := s'.vtouch c (s.asidOf x.w) area 64
        let s1 := if x.w.wid = 0 then s0.resumeGen x.w.gid else s0
        .ok (s1.updWarp fun w => { w.applyAll [.s 94 (sv 0), .s 95 (sv 4)] with
          act := BitVec.ofNat 32 (at_ 8 4), depth := BitVec.ofNat 8 (at_ 12 1), mode := BitVec.ofNat 3 (at_ 13 1)
          hstate := false, pc := x.w.lastXpc.setWidth 57 })) s

/-- TRAP_ENTRY (R234) of a trap that waited for the warp's engine requests to write their registers (R111). -/
def execTrapEntry (c j : Nat) (s : State) : Host.Outcome State Fault Refusal :=
  match s.warpAt c j with
  | none => .next s
  | some w =>
    match w.trapWait with
    | none => .next s
    | some tw => if (s.core c).writesPending w then .next s else .next ((s.flushAt c j).enterTrap c j tw)

/-- Whether a pending fault of a warp may be delivered: outside handler state, at a word boundary (R305). -/
def Warp.faultDue (w : Warp) : Bool := !w.hstate && !w.halted && !w.parked && w.trapWait.isNone && !w.faults.isEmpty

/-- Delivers a warp's first pending fault as a trap at its next word, or at the blocking instruction that it waits in,
which is rolled back. -/
def State.deliverFault (s : State) (c j : Nat) : State :=
  match s.warpAt c j with
  | none => s
  | some w =>
    match w.faults with
    | [] => s
    | t :: rest =>
      if w.faultDue then
        let s1 := s.setWarpAt c j { w with faults := rest }
        match w.wait with
        | .waitf _ _ => s
        | .none => s1.takeTrapAt c j (w.pc.setWidth 64) t
        | _ => s1.trapWait c j t
      else s

end Sys2Proof.Machine
end

