-- ==== Sys2Proof/Machine/LoadStore.lean ====
section
/-! DEFINITION. The load-store unit (spec/06_load_store_unit.md): address formation, the checks of Table LS-6, loads,
stores, full-empty accesses, atomics, fences and cache control, their completion, and instruction fetch. Every access is
performed when its word issues, in one interleaving of all warps. -/

namespace Sys2Proof.Machine

/-! ### Addresses and checks -/

def sizeBytes : Size → Nat
  | .b8 => 1
  | .b16 => 2
  | .b32 => 4
  | .b64 => 8
  | .b128 => 16

/-- The address spaces of an effective address (Table LS-1). -/
inductive Sp where
  | glob | gmem | cmem | const
  deriving DecidableEq, Repr

def spOf : Sys2Proof.Space → Sp
  | .glob => .glob
  | .gmem => .gmem
  | .cmem => .cmem
  | .const => .const

def spOfRw : RwSpace → Sp
  | .glob => .glob
  | .gmem => .gmem
  | .cmem => .cmem

def spOfSram : SramSpace → Sp
  | .gmem => .gmem
  | .cmem => .cmem

/-- Whether the space is reached through translation, with a 64-bit base. -/
def Sp.wide (sp : Sp) : Bool := sp == .glob || sp == .const

/-- R158: the effective address of a lane, exact. -/
def Ctx.ea (x : Ctx) (sp : Sp) (n : Nat) (scl : Bool) (a : Operand) (b : Option Operand) (disp : Word) (lane : Nat) : Int :=
  let base : Nat := (x.read (if sp.wide then .i64 else .i32) a lane).toNat
  let idx : Int := match b with
    | some o => i32T.toInt (x.read .i32 o lane)
    | none => 0
  (base : Int) + idx * (if scl then n else 1) + disp.toInt

/-- Why a lane fails a check of Table LS-6: the check's number, the cause and the detail. -/
structure LsFail where
  order : Nat
  code : BitVec 6
  detail : Nat
  deriving DecidableEq, Repr

/-- Checks 3 to 7 of Table LS-6 on one address: the location reached, or the failing check. -/
def State.lsCheck (s : State) (w : Warp) (sp : Sp) (acc : Access) (n : Nat) (ea : Int) : Except LsFail Loc :=
  let range : LsFail := { order := 3, code := cAddressRange, detail := 0 }
  let misaligned : LsFail := { order := 4, code := cMisaligned, detail := 0 }
  let size (g : Group) : Int := ((s.launch g.launch).map (·.record.gmem)).getD 0
  let inGroup (g : Nat × Group) (off : Int) : Except LsFail Loc :=
    if 0 ≤ off ∧ off + n ≤ size g.2 then
      if off % n = 0 then .ok (.sram g.1 off.toNat) else .error misaligned
    else .error range
  match sp with
  | .gmem =>
    match s.group w.gid with
    | some g => inGroup (w.gid, g) ea
    | none => .error range
  | .cmem =>
    if 0 ≤ ea ∧ ea < 2 ^ 21 then
      match (s.group w.gid).bind fun g => s.rankGroup g (ea.toNat / 2 ^ 19) with
      | some g => if g.2.slots.isEmpty then .error range else inGroup g (ea % 2 ^ 19)
      | none => .error range
    else .error range
  | _ =>
    if 0 ≤ ea ∧ ea < 2 ^ 57 then
      if ea % n = 0 then
        match s.probe s.cur.1 (s.asidOf w) ea.toNat acc with
        | .ok (pa, comp) => .ok (.glob pa comp)
        | .error f =>
          .error { order := match f with
                     | .translation => 5
                     | .walkPoison => 5
                     | .walkError => 5
                     | .protection => 6
                     | _ => 7
                   code := f.code, detail := f.detail }
      else .error misaligned
    else .error range

/-- An address as XADDR holds it. -/
def addrNat (a : Int) : Nat := (a % (2 ^ 64 : Nat)).toNat

/-- R169: checks 3 to 7 on every lane; the first check that fails on any lane decides. -/
def State.lsCheckAll (s : State) (w : Warp) (sp : Sp) (acc : Access) (n : Nat) (lanes : List Nat) (ea : Nat → Int) :
    Except Trap (List (Nat × Loc)) :=
  let rs := lanes.map fun l => (l, s.lsCheck w sp acc n (ea l))
  let fails := rs.filterMap fun p =>
    match p.2 with
    | .error f => some (p.1, f)
    | .ok _ => none
  match fails with
  | [] => .ok (rs.filterMap fun p => p.2.toOption.map fun l => (p.1, l))
  | f0 :: rest =>
    let first := rest.foldl (fun m p => min m p.2.order) f0.2.order
    let bad := fails.filter fun p => p.2.order == first
    match bad with
    | [] => .ok []
    | (l, f) :: _ =>
      .error (trapAt f.code (maskOf fun i => bad.any fun p => p.1 == i) f.detail (addrNat (ea l))
        (acc == .write || acc == .rmw))

/-! ### The course of a load-store word -/

/-- The lanes that perform accesses: those of the mask; in spatial mode lane 0 alone (R383). -/
def State.lsLanes (s : State) (eff : LaneMask) : List Nat := if s.spatial then [0] else lanesOf eff

/-- R254's and R158's limits on a base operand: in global space an even register pair or a constant. DEDUCED, log 28. -/
def baseOk (alloc : Nat) (sp : Sp) (scalarOnly : Bool) (a : Operand) : Bool :=
  let shape := match a with
    | .special _ => !sp.wide
    | _ => true
  shape && (if scalarOnly then sSrc sp.wide a else vSrc alloc sp.wide a)

/-- A data register of ST and STFE, or an operand b or c of an atomic (R166). -/
def dataOk (alloc n : Nat) (constOk : Bool) (o : Operand) : Bool :=
  match o with
  | .v r => regOk alloc (if n ≤ 4 then 1 else n / 4) r.toNat
  | .s r => if n ≤ 4 then true else n == 8 && r.val % 2 == 0
  | .const _ => constOk
  | _ => false

/-- The registers that a data operand of a size spans. -/
def dataRegs (n : Nat) : Nat := if n ≤ 4 then 1 else n / 4

def Rd.data (o : Operand) (n : Nat) (m : LaneMask) : Rd := { o := o, n := dataRegs n, lanes := m }

/-- The bytes of a data operand on a lane; `flt` says that an inline constant is read as a float (R81). -/
def Ctx.data (x : Ctx) (o : Operand) (n lane : Nat) (flt : Bool := false) : Nat :=
  match o with
  | .v r => ((List.range (dataRegs n)).foldl (fun a i => a + (x.w.lane (r.toNat + i) lane).val.toNat * 2 ^ (32 * i)) 0) % 2 ^ (8 * n)
  | .const _ =>
    let t : RdTy := if flt then (if n = 8 then .f .f64 else .f .f32) else if n = 8 then .i64 else .i32
    (x.read t o lane).toNat % 2 ^ (8 * n)
  | o => (x.read (if n ≤ 4 then .i32 else .i64) o lane).toNat % 2 ^ (8 * n)

/-- The groups of other ranks that a set of locations reaches. -/
def locRefs (own : Nat) (ls : List Loc) : List Nat :=
  ls.filterMap fun l =>
    match l with
    | .sram g _ => if g = own then none else some g
    | .glob _ _ => none

/-- Puts a load-store instruction in flight. -/
def State.pushLs (s : State) (x : Ctx) (h : Hdr) (writes : List Wr) (locs : List Loc) (err : Bool) (fault : Option Trap) :
    State :=
  let p := s.choose
  let c := p.2.curCore
  p.2.setCurCore { c with ls := c.ls ++
    [{ lid := ((s.groupOf x.w).map (·.launch)).getD 0, gid := x.w.gid, wid := x.w.wid, ord := x.w.order + 1, due := x.cycle + 1 + p.1
       writes := writes, flag := h.set, refs := locRefs x.w.gid locs, err := err, fault := fault }] }

/-- The destination registers of a load: lanes and scalars with their tags (R168, R170, R172). -/
def loadWrites (d : Operand) (n : Nat) (sx : Bool) (gs : List Got) : List Wr :=
  let ext (v : Nat) : Nat := if sx && n ≤ 2 && v / 2 ^ (8 * n - 1) % 2 == 1 then v + 2 ^ 32 - 2 ^ (8 * n) else v
  let word (g : Got) (i : Nat) : RegVal := { val := BitVec.ofNat 32 (ext g.val / 2 ^ (32 * i)), tag := g.tag }
  match d with
  | .s r =>
    match gs with
    | [] => []
    | g :: _ => (List.range (dataRegs n)).map fun i => .s (r.val + i) (word g i)
  | .v r => (List.range (dataRegs n)).map fun i =>
      .v (r.toNat + i) (maskOf fun l => gs.any fun g => g.lane == l)
        (tab fun l => ((gs.find? fun g => g.lane == l).map fun g => word g i).getD RegVal.zero)
  | _ => []

/-- Reads one location for a lane: an error reply or poison gives zero with a tag (R170, R171). -/
def State.lsRead (s : State) (lane n : Nat) (l : Loc) : Got :=
  if s.locErr l then { lane := lane, tag := .fabric, val := 0 }
  else if s.locPoisoned l n then { lane := lane, tag := .poison, val := 0 }
  else { lane := lane, tag := .clean, val := leNat (s.locRead l n) }

/-- What a .CONST load of a launch may return for a byte (R161): the newest value, or one that the byte has held since the
launch was dispatched. -/
def State.constBytes (s : State) (la : Launch) (pa : Nat) : List Byte :=
  s.memByte pa :: ((s.history.get [] pa).filter fun p => decide (la.constAt ≤ p.1)).map (·.2)

/-- Each byte of a .CONST load makes its own choice among them. -/
def State.constRead (s : State) (la : Launch) (pa n : Nat) : List Byte × State :=
  match n with
  | 0 => ([], s)
  | k + 1 =>
    let bs := s.constBytes la pa
    let c := if bs.length = 1 then (0, s) else s.choose
    let p := c.2.constRead la (pa + 1) k
    (bs.getD (c.1 % bs.length) 0 :: p.1, p.2)

/-- One lane of a .CONST load. -/
def State.constLane (s : State) (w : Warp) (lane n : Nat) (l : Loc) : Got × State :=
  let g := s.lsRead lane n l
  match l, s.launchOf w with
  | .glob pa _, some la =>
    if g.tag = .clean then
      let p := s.constRead la pa n
      ({ g with val := leNat p.1 }, p.2)
    else (g, s)
  | _, _ => (g, s)

/-- The lanes of a .CONST load in increasing order. -/
def State.constLanes (s : State) (w : Warp) (n : Nat) (locs : List (Nat × Loc)) : List Got × State :=
  locs.foldl (fun a p => let r := a.2.constLane w p.1 n p.2; (a.1 ++ [r.1], r.2)) ([], s)

/-- The walks of an instruction's addresses in global memory (R185). -/
def State.lsWalks (s : State) (w : Warp) (sp : Sp) (eas : List Int) : State :=
  if sp.wide then s.walkedAll s.cur.1 (s.asidOf w) eas else s

/-- The lanes of a load: what each receives, and the machine after the accesses. -/
def State.loadLanes (s : State) (w : Warp) (const : Bool) (hint : Hint) (n : Nat) (locs : List (Nat × Loc)) : List Got × State :=
  let r := if const then s.constLanes w n locs else (locs.map fun p => s.lsRead p.1 n p.2, s)
  (r.1, r.2.locAccesses (hintParty s.cur.1 hint) (locs.map (·.2)) n .read)

def scalarDest (d : Operand) : Bool :=
  match d with
  | .s _ => true
  | _ => false

/-- LD (R172). -/
def execLd (h : Hdr) (l : Bool) (sp : Sys2Proof.Space) (sz : Size) (sx : Bool) (_sc : Scope) (_od : Order) (hint : Hint) (scl : Bool)
    (d a b : Operand) (disp : BitVec 32) (s : State) : Host.Outcome State Fault Refusal :=
  let n := sizeBytes sz
  let sd := scalarDest d
  issue h { len := lenOf l
            checks := fun A => [(fDst, if sd then sDst (n == 8) d && n ≤ 8 else vDst A (dataRegs n) d),
              (fSrc0, baseOk A (spOf sp) sd a), (fSrc1, if sd then sSrc false b else vSrc A false b)]
            reads := fun m => [Rd.of a (spOf sp).wide m, Rd.of b false m], spatialOk := sd }
    (fun x eff s' =>
      let lanes := if sd then [lowestLane eff] else lanesOf eff
      let ea := x.ea (spOf sp) n scl a (some b) disp
      match s'.lsCheckAll x.w (spOf sp) .read n lanes ea with
      | .error t => .error t
      | .ok locs =>
        let r := (s'.lsWalks x.w (spOf sp) (lanes.map ea)).loadLanes x.w (sp == .const) hint n locs
        .ok (r.2.pushLs x h (loadWrites d n sx r.1) (locs.map (·.2)) (r.1.any fun g => g.tag == .fabric) none)) s

/-! ### Writes -/

/-- The pending fault of a write that met an error reply (R457): the lowest failing address. -/
def errFault (eff : LaneMask) (ea : Nat → Int) (bad : List Nat) : Option Trap :=
  match bad with
  | [] => none
  | l :: rest =>
    let low := rest.foldl (fun m i => min m (ea i)) (ea l)
    some (trapAt cFabric (maskOf fun i => laneOn eff i && bad.contains i) 2 (addrNat low) true)

/-- Performs the lanes' writes in increasing order (R168); lanes that meet an error reply write nothing. -/
def State.lsStore (s : State) (full : Bool) (hint : Hint) (ws : List (Nat × Loc × List Byte)) : State :=
  ws.foldl (fun a p => if a.locErr p.2.1 then a else
    let a1 := a.locStore (hintParty a.cur.1 hint) p.2.1 p.2.2
    if full then a1.setFull p.2.1 true else a1) s

/-- The course of ST and STFE. -/
def storeWord (h : Hdr) (l : Bool) (sp : Sp) (full : Bool) (hint : Hint) (sz : Size) (scl : Bool) (d a b : Operand) (disp : BitVec 32)
    (s : State) : Host.Outcome State Fault Refusal :=
  let n := sizeBytes sz
  issue h { len := lenOf l
            checks := fun A => [(fDst, dataOk A n false d), (fSrc0, baseOk A sp false a), (fSrc1, vSrc A false b)]
            reads := fun m => [Rd.data d n m, Rd.of a sp.wide m, Rd.of b false m]
            spatialOk := !full && sSrc (n == 8) d && sSrc sp.wide a && sSrc false b }
    (fun x eff s' =>
      let ea := x.ea sp n scl a (some b) disp
      match s'.lsCheckAll x.w sp .write n (s'.lsLanes eff) ea with
      | .error t => .error t
      | .ok locs =>
        let bad := (locs.filter fun p => s'.locErr p.2).map (·.1)
        let s1 := (s'.lsWalks x.w sp ((s'.lsLanes eff).map ea)).lsStore full hint (locs.map fun p => (p.1, p.2, leBytes n (x.data d n p.1)))
        .ok (s1.pushLs x h [] (locs.map (·.2)) (!bad.isEmpty) (errFault eff ea bad))) s

/-- ST (R172). -/
def execSt (h : Hdr) (l : Bool) (sp : RwSpace) (sz : Size) (_sc : Scope) (_od : Order) (hint : Hint) (scl : Bool)
    (d a b : Operand) (disp : BitVec 32) (s : State) : Host.Outcome State Fault Refusal :=
  storeWord h l (spOfRw sp) false hint sz scl d a b disp s

/-- STFE (R173). -/
def execStfe (h : Hdr) (l : Bool) (sp : SramSpace) (sz : Size) (_sc : Scope) (scl : Bool) (d a b : Operand)
    (disp : BitVec 32) (s : State) : Host.Outcome State Fault Refusal :=
  storeWord h l (spOfSram sp) true .none sz scl d a b disp s

/-! ### Atomic operations (Table LS-5) -/

/-- The new value of a read-modify-write of `n` bytes. -/
def aop (op : Aop) (n old b : Nat) : Nat :=
  let m := 2 ^ (8 * n)
  let sgn (v : Nat) : Int := if v < m / 2 then v else (v : Int) - m
  let f : Fmt := if n = 8 then .f64 else .f32
  let canon (v : Nat) : Nat := if f.isNaN v then f.canonNaN else v
  match op with
  | .add => (old + b) % m
  | .smin => if sgn b < sgn old then b else old
  | .smax => if sgn old < sgn b then b else old
  | .umin => min old b
  | .umax => max old b
  | .and => old &&& b
  | .or => old ||| b
  | .xor => old ^^^ b
  | .exch => b
  | .inc => if b ≤ old then 0 else old + 1
  | .dec => if old = 0 ∨ b < old then b else old - 1
  | .fadd => round (sumEx .rne [f.toEx old, f.toEx b]) f .rne false
  | .fmin => canon (minMaxEnc f false old b)
  | .fmax => canon (minMaxEnc f true old b)

/-- One lane's read-modify-write: the state, what it read, and whether poison discarded it (R171). DEDUCED, log 34. -/
def State.lsRmw (s : State) (lane n : Nat) (l : Loc) (upd : Nat → Option Nat) : State × Got :=
  let g := s.lsRead lane n l
  let s1 := match g.tag, upd g.val with
    | .clean, some v => s.locWrite l (leBytes n v)
    | _, _ => s
  (s1.locAccess (.core s.cur.1) l n .rmw, g)

/-- The lanes' read-modify-writes in increasing order. -/
def State.lsRmwAll (s : State) (n : Nat) (locs : List (Nat × Loc)) (upd : Nat → Nat → Option Nat) : State × List Got :=
  locs.foldl (fun p q => let r := p.1.lsRmw q.1 n q.2 (upd q.1); (r.1, p.2 ++ [r.2])) (s, [])

/-- The course of ATOM and ATOMC: `upd` gives the value written for a lane, if any. -/
def atomWord (h : Hdr) (sp : RwSpace) (sz : Size) (d a : Operand) (os : List (Nat × Operand)) (disp : BitVec 32)
    (upd : Ctx → Nat → Nat → Option Nat) (s : State) : Host.Outcome State Fault Refusal :=
  let n := sizeBytes sz
  let sp := spOfRw sp
  issue h { len := 16
            checks := fun A => (fDst, vDst A (dataRegs n) d) :: (fSrc0, baseOk A sp false a) ::
              os.map fun p => (p.1, dataOk A n true p.2)
            reads := fun m => Rd.of a sp.wide m :: os.map fun p => Rd.data p.2 n m, spatialOk := false }
    (fun x eff s' =>
      let ea := x.ea sp n false a none disp
      match s'.lsCheckAll x.w sp .rmw n (lanesOf eff) ea with
      | .error t => .error t
      | .ok locs =>
        let r := (s'.lsWalks x.w sp ((lanesOf eff).map ea)).lsRmwAll n locs (upd x)
        .ok (r.1.pushLs x h (loadWrites d n false r.2) (locs.map (·.2)) (r.2.any fun g => g.tag == .fabric) none)) s

/-- The operations whose operand is a float (Table LS-5). -/
def floatAop (op : Aop) : Bool := op == .fadd || op == .fmin || op == .fmax

/-- ATOM (R176). -/
def execAtom (h : Hdr) (sp : RwSpace) (sz : Size) (_sc : Scope) (_od : Order) (op : Aop) (d a b : Operand)
    (disp : BitVec 32) (s : State) : Host.Outcome State Fault Refusal :=
  atomWord h sp sz d a [(fSrc1, b)] disp (fun x l old => some (aop op (sizeBytes sz) old (x.data b (sizeBytes sz) l (floatAop op)))) s

/-- ATOMC (R177). -/
def execAtomc (h : Hdr) (sp : RwSpace) (sz : Size) (_sc : Scope) (_od : Order) (d a b c : Operand) (disp : BitVec 32)
    (s : State) : Host.Outcome State Fault Refusal :=
  atomWord h sp sz d a [(fSrc1, b), (fSrc2, c)] disp
    (fun x l old => if old = x.data c (sizeBytes sz) l then some (x.data b (sizeBytes sz) l) else none) s

/-- RED (R178): a poisoned location is a poison discard in the event log (R171). -/
def execRed (h : Hdr) (sp : RwSpace) (sz : Size) (_sc : Scope) (_od : Order) (op : Aop) (a b : Operand)
    (disp : BitVec 32) (s : State) : Host.Outcome State Fault Refusal :=
  let n := sizeBytes sz
  let sp := spOfRw sp
  issue h { len := 16
            checks := fun A => [(fSrc0, baseOk A sp false a), (fSrc1, dataOk A n true b)]
            reads := fun m => [Rd.of a sp.wide m, Rd.data b n m]
            spatialOk := sSrc sp.wide a && sSrc (n == 8) b }
    (fun x eff s' =>
      let ea := x.ea sp n false a none disp
      match s'.lsCheckAll x.w sp .rmw n (s'.lsLanes eff) ea with
      | .error t => .error t
      | .ok locs =>
        let r := (s'.lsWalks x.w sp ((s'.lsLanes eff).map ea)).lsRmwAll n locs fun l old => some (aop op n old (x.data b n l (floatAop op)))
        let s1 := r.2.foldl (fun q g => if g.tag = .poison then
          q.logDie 3 (dieOf x.core) x.core (BitVec.ofInt 64 (ea g.lane)) else q) r.1
        let bad := (r.2.filter fun g => g.tag == .fabric).map (·.lane)
        .ok (s1.pushLs x h [] (locs.map (·.2)) (!bad.isEmpty) (errFault eff ea bad))) s

/-! ### Fences, prefetches and cache control -/

/-- FENCE (R179): every access has been performed in order when its word issued. DESIGN CHOICE, log 4. -/
def execFence (h : Hdr) (_sc : Scope) (_od : Order) (s : State) : Host.Outcome State Fault Refusal :=
  issue h { len := 16, checks := fun _ => [], reads := fun _ => [], spatialOk := true }
    (fun x _ s' => .ok (s'.pushLs x h [] [] false none)) s

/-- The form of PREF and CCTL. -/
def lineForm (l : Bool) (a b : Operand) : Form :=
  { len := lenOf l, checks := fun A => [(fSrc0, baseOk A .glob false a), (fSrc1, vSrc A false b)]
    reads := fun m => [Rd.of a true m, Rd.of b false m], spatialOk := false }

/-- The physical address that a lane of PREF, CCTL.L1EV or CCTL.L2EV names: none where check 3, 5 or 7 of Table LS-6 fails, or
where its address registers are tagged (R169). These act on the line that holds ea, whatever ea is a multiple of (R180, R181),
and ask for no permission, since check 6 names none for them. DEDUCED, log 57. -/
def State.hintAddr (s : State) (x : Ctx) (scl : Bool) (a b : Operand) (disp : BitVec 32) (lane : Nat) : Option Nat :=
  let ea := x.ea .glob 128 scl a (some b) disp lane
  let m := 1#32 <<< lane
  if (poisonTrap x.w m [Rd.of a true m, Rd.of b false m]).isSome || !decide (0 ≤ ea ∧ ea < 2 ^ 57) then none
  else
    match s.xlate s.cur.1 (s.asidOf x.w) ea.toNat with
    | .error _ => none
    | .ok t =>
      let pa := t.pa ea.toNat
      if (homeDie pa).any fun d => s.curCore.fenceSeen.has d then none else some (pa / 128 * 128)

/-- The course of PREF, CCTL.L1EV and CCTL.L2EV, which change only time (R180, R181, R184) and take no trap after decode
(R169). -/
def lineHint (h : Hdr) (l scl : Bool) (a b : Operand) (disp : BitVec 32) (act : State → Nat → State) (s : State) :
    Host.Outcome State Fault Refusal :=
  issue h { lineForm l a b with reads := fun _ => [] } (fun x eff s' =>
    let pas := (lanesOf eff).filterMap fun i => s'.hintAddr x scl a b disp i
    let lanes := (lanesOf eff).filter fun i => (s'.hintAddr x scl a b disp i).isSome
    .ok ((pas.foldl act (s'.lsWalks x.w .glob (lanes.map (x.ea .glob 128 scl a (some b) disp)))).pushLs x h [] [] false none)) s

/-- PREF (R180): the line enters the core's L1 data cache, or the L2 of its home, or of the core's die for host memory. -/
def execPref (h : Hdr) (l : Bool) (lv : PrefLevel) (scl : Bool) (a b : Operand) (disp : BitVec 32) (s : State) :
    Host.Outcome State Fault Refusal :=
  lineHint h l scl a b disp (fun t pa =>
    match lv with
    | .l1 => t.access (.core t.cur.1) pa 128 .read
    | .l2 => t.access (.die ((homeDie pa).getD (dieOf t.cur.1))) pa 128 .read) s

/-- CCTL.L1EV (R181). -/
def execCctlL1ev (h : Hdr) (l : Bool) (scl : Bool) (a b : Operand) (disp : BitVec 32) (s : State) :
    Host.Outcome State Fault Refusal := lineHint h l scl a b disp (fun t pa => t.l1Evicted t.cur.1 (pa / 128)) s

/-- CCTL.L2EV (R181). -/
def execCctlL2ev (h : Hdr) (l : Bool) (scl : Bool) (a b : Operand) (disp : BitVec 32) (s : State) :
    Host.Outcome State Fault Refusal := lineHint h l scl a b disp (fun t pa => t.l2Evicted (dieOf t.cur.1) (pa / 128)) s

/-- Clears the poison of the two sectors of a 128-byte line. -/
def State.cleanLine (s : State) (l : Loc) : State :=
  match l with
  | .glob pa _ => (s.setSec (pa / 64) false).setSec (pa / 64 + 1) false
  | .sram _ _ => s

/-- CCTL.ZERO (R181, R171). -/
def execCctlZero (h : Hdr) (l : Bool) (scl : Bool) (a b : Operand) (disp : BitVec 32) (s : State) :
    Host.Outcome State Fault Refusal :=
  issue h (lineForm l a b) (fun x eff s' =>
    let ea := x.ea .glob 128 scl a (some b) disp
    match s'.lsCheckAll x.w .glob .write 128 (lanesOf eff) ea with
    | .error t => .error t
    | .ok locs =>
      let bad := (locs.filter fun p => s'.locErr p.2).map (·.1)
      let s1 := locs.foldl (fun q p => if q.locErr p.2 then q else
        (q.locStore (.core q.cur.1) p.2 (List.replicate 128 0)).cleanLine p.2) (s'.lsWalks x.w .glob ((lanesOf eff).map ea))
      .ok (s1.pushLs x h [] [] (!bad.isEmpty) (errFault eff ea bad))) s

/-- Discards the instruction words of an address space that a core may still hold; `keep` says which stay. -/
def State.dropCode (s : State) (c : Nat) (asid : Nat) (keep : Nat → Bool) : State :=
  s.setCore c { s.core c with icache := (s.core c).icache.filter fun e => e.asid != asid || keep e.va }

/-- IFENCE (R182). -/
def execIfence (h : Hdr) (s : State) : Host.Outcome State Fault Refusal :=
  issue h { len := 8, checks := fun _ => [], reads := fun _ => [], spatialOk := false }
    (fun x _ s' => .ok ((s'.dropCode s'.cur.1 (s'.asidOf x.w) (fun _ => false)).pushLs x h [] [] false none)) s

/-! ### Full-empty loads (R174, R175) -/

/-- The peer classes legal in a grid class (Table SY-1): 0 concurrent, 1 parallel, 2 weakly parallel. -/
def peerLegal (p : Peer) (gclass : Nat) : Bool :=
  match p with
  | .lower => gclass != 2
  | .any => gclass == 0
  | _ => true

/-- The grid class of a warp's launch. -/
def State.gclassOf (s : State) (w : Warp) : Nat := ((s.launchOf w).map (·.record.gclass)).getD 0

/-- The class code that a steep-timer trap reports (R257). -/
def peerCode : Peer → Nat
  | .grp => 0
  | .clu => 1
  | .lower => 2
  | .any => 3
  | .host => 4

/-- The granule of a group-memory location. -/
def Loc.granule : Loc → Nat × Nat
  | .sram g off => (g, off / 16)
  | .glob pa _ => (0, pa / 16)

/-- Serves the waiting lanes of an LDFE whose granule is full: lanes of one granule together, by one read; with .CLR
the granule is then empty. `todo` lists lanes with their locations. -/
def State.serveLanes (s : State) (l : LdfeState) (todo : List (Nat × Loc)) (fuel : Nat) : State × LdfeState :=
  match fuel, todo with
  | 0, _ => (s, l)
  | _, [] => (s, l)
  | k + 1, (i, loc) :: rest =>
    if laneOn l.pending i && s.isFull loc then
      let same := ((i, loc) :: rest).filter fun p => p.2.granule == loc.granule
      let gs := same.map fun p => s.lsRead p.1 l.n p.2
      let m := maskOf fun j => same.any fun p => p.1 == j
      let l' := { l with pending := l.pending &&& ~~~m, results := l.results ++ gs
                         emptied := if l.clr then l.emptied ++ [loc] else l.emptied }
      (if l.clr then s.setFull loc false else s).serveLanes l' rest k
    else s.serveLanes l rest k

/-- The lanes of an LDFE with their locations. -/
def LdfeState.todo (l : LdfeState) : List (Nat × Loc) :=
  ((List.range 32).zip l.locs).filter fun p => laneOn l.pending p.1

/-- The lanes served by an LDFE. -/
def LdfeState.served (l : LdfeState) : LaneMask := ~~~l.pending

/-- The register writes of an LDFE that completes (R172, R175). -/
def LdfeState.writes (l : LdfeState) : List Wr :=
  (if l.results.isEmpty then [] else loadWrites (.v (BitVec.ofNat 8 l.d)) l.n l.sx l.results) ++
  match l.tmo with
  | some k => [.k k.toNat fullMask l.served]
  | none => []

/-- Serves an LDFE in progress in a slot; when every lane is served it completes. -/
def State.ldfeServe (s : State) (c j : Nat) : State :=
  match s.warpAt c j with
  | none => s
  | some w =>
    match w.wait with
    | .ldfe l =>
      let p := s.serveLanes l l.todo 32
      if p.2.pending = 0 then p.1.setWarpAt c j ((w.complete (s.core c).cycle w.order p.2.writes).unblock (s.core c).cycle)
      else p.1.setWarpAt c j { w with wait := .ldfe p.2 }
    | _ => s

/-- LDFE (R174). -/
def execLdfe (h : Hdr) (sp : SramSpace) (sz : Size) (sx : Bool) (_sc : Scope) (scl : Bool) (peer : Peer) (clr : Bool)
    (d a b : Operand) (disp : BitVec 32) (tmo : Option KField) (s : State) : Host.Outcome State Fault Refusal :=
  let n := sizeBytes sz
  let sp := spOfSram sp
  issue h { len := 16
            checks := fun A => [(fDst, vDst A (dataRegs n) d), (fSrc0, baseOk A sp false a), (fSrc1, vSrc A false b),
              (fSrc2, tmo.all kOk)]
            reads := fun m => [Rd.of a false m, Rd.of b false m], spatialOk := false, zeroSteep := true }
    (fun x eff s' =>
      let ea := x.ea sp n scl a (some b) disp
      if eff ≠ fullMask then .error (trapAt cPartialMask eff)
      else if !peerLegal peer (s'.gclassOf x.w) then .error (trapAt cIllegalWait eff 0 (addrNat (ea 0)))
      else
        match s'.lsCheckAll x.w sp .read n (lanesOf eff) ea with
        | .error t => .error t
        | .ok locs =>
          let l : LdfeState := { n := n, sx := sx, clr := clr, peer := peer, d := regOf d, tmo := tmo.map (·.idx)
                                 eas := (List.range 32).map ea, locs := locs.map (·.2), pending := fullMask
                                 results := [], emptied := [] }
          .ok ((s'.updWarp fun w => w.block (.ldfe l) x.w.pc h.set).ldfeServe s'.cur.1 s'.cur.2)) s

/-- LDFE_SERVE (R174) for the warp in a slot. -/
def execLdfeServe (c j : Nat) (s : State) : Host.Outcome State Fault Refusal := .next (s.ldfeServe c j)

/-! ### Completion -/

/-- A fault becomes pending on a warp, which takes it in a later cycle; when the warp has retired, on its launch's completion record (R305, R457). -/
def State.pendFault (s : State) (lid gid wid : Nat) (t : Trap) : State :=
  match (s.slotOf gid wid).bind fun p => (s.warpAt p.1 p.2).map fun w => (p, w) with
  | some (p, w) => s.setWarpAt p.1 p.2 { w with faults := w.faults ++ [t], notBefore := max w.notBefore ((s.core p.1).cycle + 1) }
  | none =>
    match s.launch lid with
    | some l => { s with launches := s.launches.put lid { l with fault := true } }
    | none => s

/-- Takes the element at an index out of a list. -/
def takeAt {α : Type} (n : Nat) (xs : List α) : Option (α × List α) :=
  match n, xs with
  | _, [] => none
  | 0, x :: rest => some (x, rest)
  | k + 1, x :: rest => (takeAt k rest).map fun q => (q.1, x :: q.2)

/-- Completes the n-th load-store instruction in flight on a core, if its time has come and it is of the kind asked
for: with or without an error reply. -/
def State.lsComplete (s : State) (c n : Nat) (err : Bool) : State :=
  match takeAt n (s.core c).ls with
  | none => s
  | some (o, rest) =>
    if o.due ≤ (s.core c).cycle ∧ o.err = err then
      let s1 := s.setCore c { s.core c with ls := rest }
      let s2 := s1.completeOf o.gid o.wid o.ord o.writes o.flag
      match o.fault with
      | some t => s2.pendFault o.lid o.gid o.wid t
      | none => s2
    else s

/-- LS_COMPLETION (R183): the n-th instruction in flight in a core's load-store unit completes. -/
def execLsCompletion (c n : Nat) (s : State) : Host.Outcome State Fault Refusal := .next (s.lsComplete c n false)

/-! ### Instruction fetch (R68, R182) -/

/-- The word that a core fetches at an address: one its L1 instruction cache holds, or memory's. -/
def State.fetchWord (s : State) (c asid va : Nat) : Except GFault DWord :=
  match (s.core c).icache.find? fun e => e.asid == asid && e.va == va with
  | some e => .ok e.word
  | none =>
    match s.probe c asid va .fetch with
    | .error f => .error f
    | .ok (pa, _) =>
      if s.errReply pa then .error .fabric
      else if s.memPoisoned pa 8 then .error .poison
      else .ok (BitVec.ofNat 64 (s.memNat pa 8))

/-- The instruction words that a core's L1 instruction cache holds: 64 KiB (R14). -/
def icacheWords : Nat := 8192

/-- Whether a core's L1 instruction cache holds the word at an address. -/
def State.fetched (s : State) (c asid va : Nat) : Bool := (s.core c).icache.any fun e => e.asid == asid && e.va == va

/-- What the fetch of a word that the core does not hold does to the caches: the walk of its address, and the access through the
cluster's instruction cache. -/
def State.fetchTouch (s : State) (c asid va : Nat) : State :=
  if s.fetched c asid va then s
  else
    let t := s.walked c asid va
    match s.probe c asid va .fetch with
    | .error _ => t
    | .ok (pa, _) => t.clusterFetch c pa

/-- A core takes the word at an address into its L1 instruction cache. -/
def State.fetchInto (s : State) (c asid va : Nat) : State :=
  let t := s.fetchTouch c asid va
  match s.fetched c asid va, s.fetchWord c asid va with
  | false, .ok x => t.setCore c { t.core c with icache := ({ asid := asid, va := va, word := x } :: (t.core c).icache).take icacheWords }
  | _, _ => t

/-- INSTRUCTION_FETCH (R68, R182): the core takes the word at an address, through its cluster's instruction cache, into its L1
instruction cache, where it stays as it is until it is discarded or makes room for others. A fault is reported only when the
word issues. -/
def execInstructionFetch (c j : Nat) (va : BitVec 57) (s : State) : Host.Outcome State Fault Refusal :=
  match s.warpAt c j with
  | none => .next s
  | some w => .next (s.fetchInto c (s.asidOf w) (va.toNat / 8 * 8))

/-- PAGE_WALK (R434): a core's L1 TLB takes the translation of an address from its cluster's L2 TLB, which takes it from a walk,
and both hold it until it is discarded (R185). A walk that finds no page leaves nothing. -/
def execPageWalk (c : Nat) (asid : BitVec 12) (va : BitVec 57) (s : State) : Host.Outcome State Fault Refusal :=
  let entry (t : Xlate) : TlbEntry := { asid := asid.toNat, va := va.toNat / t.size * t.size, tr := t }
  let s0 := s.walked c asid.toNat va.toNat
  let take (q : State) (t : Xlate) : State := q.setCore c { q.core c with tlb := entry t :: (q.core c).tlb }
  if ((s.core c).tlbFind asid.toNat va.toNat).isSome then .next s
  else
    match tlbLookup (s.l2tlbOf (clusterOf c)) asid.toNat va.toNat, s.space asid.toNat with
    | some t, _ => .next (take s t)
    | none, none => .next s
    | none, some sp =>
      match s.walk sp va.toNat with
      | .error _ => .next s0
      | .ok t => .next (take { s0 with l2tlb := (clusterOf c, entry t) :: s0.l2tlb } t)

end Sys2Proof.Machine
end

