-- ==== Sys2Proof/Machine/Sync.lean ====
section
/-! DEFINITION. The synchronisation and progress unit (spec/09_sync_progress_unit.md): the barrier and wait
instructions, the completion of phases, rereads, and the steep timer. -/

namespace Sys2Proof.Machine

/-- The form of the six instructions: sources are scalar registers, specials other than LANEID and constants (R254). -/
def syncForm (len : Nat) (cs : Checks) (rs : LaneMask → List Rd) (spatialOk : Bool) : Form :=
  { len := len, checks := fun _ => cs, reads := rs, spatialOk := spatialOk, zeroSteep := true }

/-- Checks 3 to 5 of Table LS-6 and check 5 of Table SY-5 on the one access of a barrier word or WAITM. -/
def State.syncLoc (s : State) (w : Warp) (eff : LaneMask) (sp : Sp) (acc : Access) (n : Nat) (ea : Int) : Except Trap Loc :=
  match s.lsCheck w sp acc n ea with
  | .error f => .error (trapAt f.code eff f.detail (addrNat ea) (acc == .rmw))
  | .ok l =>
    if s.locErr l then .error (trapAt cFabric eff 0 (addrNat ea))
    else if s.locPoisoned l n then .error (trapAt cPoison eff 0 (addrNat ea))
    else .ok l

/-! ### Group barriers -/

/-- BAR (R259). -/
def execBar (h : Hdr) (l : Bool) (b : Operand) (n : Src) (s : State) : Host.Outcome State Fault Refusal :=
  issue h (syncForm (lenOf l) [(fSrc0, sSrc false b), (fSrc1, sSrc1 false n)]
      (fun m => Rd.of b false m :: Rd.src n false m) false)
    (fun x eff s' =>
      let bi := x.n32 b
      let cnt := x.n32Src n
      let warps := ((s'.launchOf x.w).map (·.record.warps)).getD 0
      if eff ≠ fullMask then .error (trapAt cPartialMask eff)
      else if ¬ bi < 16 then .error (trapAt cIllegalWait eff 2)
      else if warps < cnt then .error (trapAt cIllegalWait eff 3)
      else
        match s'.groupOf x.w with
        | none => .ok s'
        | some g =>
          let old := g.bars.get Barrier.closed bi
          if old.isOpen && old.n ≠ cnt then .error (trapAt cIllegalWait eff 4)
          else
            let new : Barrier := { isOpen := true, n := cnt, arrived := old.arrived ||| (1#32 <<< x.w.wid) }
            let s1 := s'.setGroup x.w.gid { g with bars := g.bars.set Barrier.closed bi new }
            .ok ((s1.updWarp fun w => w.block (.bar bi) x.w.pc h.set).completeBar x.w.gid bi)) s

/-- BARRIER_PHASE_COMPLETE (R259, R261) for a barrier of a group: completes the phase once enough warps have arrived. -/
def execBarrierPhaseComplete (gid : Nat) (b : BitVec 4) (s : State) : Host.Outcome State Fault Refusal :=
  .next (s.completeBar gid b.toNat)

/-! ### Barrier words (Table SY-6) -/

/-- The fields of a barrier word: expect, remain, phase; and whether it is well formed (R262). -/
structure BarWord where
  expect : Nat
  remain : Nat
  phase : Bool
  ok : Bool
  deriving DecidableEq, Repr

def BarWord.ofNat (w : Nat) : BarWord :=
  let e := w % 2 ^ 16
  let r := w / 2 ^ 16 % 2 ^ 16
  { expect := e, remain := r, phase := w / 2 ^ 32 % 2 == 1
    ok := decide (1 ≤ e) && decide (1 ≤ r) && decide (r ≤ e) && w / 2 ^ 33 == 0 }

def BarWord.nat (b : BarWord) : Nat := b.expect + b.remain * 2 ^ 16 + if b.phase then 2 ^ 32 else 0

/-- The word after `cnt` arrivals (R263). -/
def BarWord.arrive (b : BarWord) (cnt : Nat) : BarWord :=
  if cnt = b.remain then { b with remain := b.expect, phase := !b.phase } else { b with remain := b.remain - cnt }

/-- BARA (R263). -/
def execBara (h : Hdr) (l : Bool) (sp : SramSpace) (d a cnt : Operand) (disp : BitVec 32) (s : State) :
    Host.Outcome State Fault Refusal :=
  issue h (syncForm (lenOf l) [(fDst, sDst false d), (fSrc0, sSrc false a), (fSrc1, sSrc false cnt)]
      (fun m => [Rd.of a false m, Rd.of cnt false m]) false)
    (fun x eff s' =>
      let k := x.n32 cnt
      let ea := x.ea (spOfSram sp) 8 false a none disp 0
      if eff ≠ fullMask then .error (trapAt cPartialMask eff)
      else if k < 1 ∨ 0xFFFF < k then .error (trapAt cIllegalWait eff 3 (addrNat ea))
      else
        match s'.lsCheck x.w (spOfSram sp) .rmw 8 ea with
        | .error f => .error (trapAt f.code eff f.detail (addrNat ea) true)
        | .ok loc =>
          if s'.locPoisoned loc 8 then .error (trapAt cPoison eff 0 (addrNat ea))
          else
            let w := BarWord.ofNat (leNat (s'.locRead loc 8))
            if !w.ok || w.remain < k then .error (trapAt cIllegalWait eff 5 (addrNat ea))
            else
              let s1 := s'.locWrite loc (leBytes 8 (w.arrive k).nat)
              .ok (s1.pushLs x h [.s (regOf d) { val := if w.phase then 1 else 0, tag := .clean }] [loc] false none)) s

/-- The predicate write of a timeout form: all ones on success, zero when the budget ran out. -/
def tmoWrite (tmo : Option (BitVec 3)) (ok : Bool) : List Wr :=
  match tmo with
  | some k => [.k k.toNat fullMask (allBits ok)]
  | none => []

/-- Completes the blocking instruction of the warp in a slot with register writes. -/
def State.finishWait (s : State) (c j : Nat) (ws : List Wr) : State :=
  match s.warpAt c j with
  | none => s
  | some w => s.setWarpAt c j ((w.complete (s.core c).cycle w.order ws).unblock (s.core c).cycle)

/-- A read of BARW or WAITM while waiting: the value, or the trap that ends the wait (R256). -/
def State.waitRead (s : State) (loc : Loc) (n : Nat) (ea : Int) : Except Trap DWord :=
  if s.locErr loc then .error (trapAt cFabric fullMask 0 (addrNat ea))
  else if s.locPoisoned loc n then .error (trapAt cPoison fullMask 0 (addrNat ea))
  else .ok (BitVec.ofNat 64 (leNat (s.locRead loc n)))

/-- The comparison of a WAITM (R268). -/
def WaitmState.holds (m : WaitmState) (v : DWord) : Bool :=
  let t : ITy := { width := if m.wide then 64 else 32, signed := m.sgn }
  icond m.cc (t.toInt v) (t.toInt m.c)

/-- Bytes that a WAITM reads. -/
def WaitmState.bytes (m : WaitmState) : Nat := if m.wide then 8 else 4

/-- The location of a wait's next read: an access to global memory is translated again (R185, R421). A translation that fails by
then gives the trap of check 4 of Table SY-5. DESIGN CHOICE, log 66. -/
def State.waitLoc (s : State) (c : Nat) (w : Warp) (loc : Loc) (ea : Int) : Except Trap Loc :=
  match loc with
  | .sram _ _ => .ok loc
  | .glob _ _ =>
    match s.probe c (s.asidOf w) ea.toNat .read with
    | .ok (pa, comp) => .ok (.glob pa comp)
    | .error f => .error (trapAt f.code fullMask f.detail (addrNat ea))

/-- A read of a WAITM that waits: the location and the value. -/
def State.waitmRead (s : State) (c : Nat) (w : Warp) (m : WaitmState) : Except Trap (Loc × DWord) :=
  match s.waitLoc c w m.loc m.ea with
  | .error t => .error t
  | .ok l =>
    match s.waitRead l m.bytes m.ea with
    | .error t => .error t
    | .ok v => .ok (l, v)

/-- BARW or WAITM of the warp in a slot reads its location again, and completes, traps or goes on waiting. -/
def State.reread (s : State) (c j : Nat) : State :=
  match s.warpAt c j with
  | none => s
  | some w =>
    match w.wait with
    | .barw loc ea _ p tmo =>
      match s.waitRead loc 8 ea with
      | .error t => s.trapWait c j t
      | .ok v => if v.getLsbD 32 ≠ p then s.finishWait c j (tmoWrite tmo true) else s
    | .waitm m =>
      match s.waitmRead c w m with
      | .error t => s.trapWait c j t
      | .ok (l, v) =>
        let s1 := (s.walkLoc c (s.asidOf w) l m.ea).locAccess (.core c) l m.bytes .read
        if m.holds v then s1.finishWait c j (sWriteW m.wide m.d v ++ tmoWrite m.tmo true)
        else s1.setWarpAt c j { w with wait := .waitm { m with loc := l, value := v, lastRead := (s.core c).cycle, seen := s.writes } }
    | _ => s

/-- Whether the line or the granule of a WAITM has been invalidated or written since its last read, or has no readable value
any more (R269). -/
def State.waitChanged (s : State) (c : Nat) (m : WaitmState) : Bool :=
  decide (m.seen < s.touched.get 0 (s.touchKey m.loc)) || s.locErr m.loc || s.locPoisoned m.loc m.bytes ||
  match m.loc with
  | .glob pa _ => s.l1At c (pa / 128) == .i
  | .sram _ _ => false

/-- Whether a wait reads its location again in core cycle t (R264, R269): BARW in every cycle; WAITM when its line or granule has
changed, or when 1024 cycles have passed since its last read. -/
def State.rereadDue (s : State) (c t j : Nat) : Bool :=
  match s.warpAt c j with
  | none => false
  | some w =>
    match w.wait with
    | .barw _ _ _ _ _ => true
    | .waitm m => decide (1024 ≤ t - m.lastRead) || s.waitChanged c m
    | _ => false

/-- BARW (R264). -/
def execBarw (h : Hdr) (l : Bool) (sp : SramSpace) (a p : Operand) (disp : BitVec 32) (tmo : Option KField) (s : State) :
    Host.Outcome State Fault Refusal :=
  issue h (syncForm (lenOf l) [(fSrc0, sSrc false a), (fSrc1, sSrc false p), (fSrc2, tmo.all kOk)]
      (fun m => [Rd.of a false m, Rd.of p false m]) false)
    (fun x eff s' =>
      let ea := x.ea (spOfSram sp) 8 false a none disp 0
      if eff ≠ fullMask then .error (trapAt cPartialMask eff)
      else
        match s'.syncLoc x.w eff (spOfSram sp) .read 8 ea with
        | .error t => .error t
        | .ok loc =>
          let wt := Wait.barw loc ea (sp == .cmem) (x.n32 p % 2 == 1) (tmo.map (·.idx))
          .ok ((s'.updWarp fun w => w.block wt x.w.pc h.set).reread s'.cur.1 s'.cur.2)) s

/-- WAITM (R268). -/
def execWaitm (h : Hdr) (sp : RwSpace) (sz : Size) (sgn : Bool) (_sc : Scope) (peer : Peer) (cc : ICond) (d a b : Operand)
    (disp : BitVec 32) (tmo : Option KField) (s : State) : Host.Outcome State Fault Refusal :=
  let wide := sz == .b64
  let sp := spOfRw sp
  issue h (syncForm 16 [(fDst, sDst wide d), (fSrc0, baseOk 0 sp true a), (fSrc1, sSrc wide b), (fSrc2, tmo.all kOk)]
      (fun m => [Rd.of a sp.wide m, Rd.of b wide m]) true)
    (fun x eff s' =>
      let ea := x.ea sp (sizeBytes sz) false a none disp 0
      if eff ≠ fullMask then .error (trapAt cPartialMask eff)
      else if !peerLegal peer (s'.gclassOf x.w) then .error (trapAt cIllegalWait eff 0 (addrNat ea))
      else
        match s'.syncLoc x.w eff sp .read (sizeBytes sz) ea with
        | .error t => .error t
        | .ok loc =>
          let m : WaitmState := { loc := loc, wide := wide, sgn := sgn, ea := ea, c := x.read (rdW wide) b 0, cc := cc
                                  peer := peer, d := regOf d, tmo := tmo.map (·.idx), lastRead := x.cycle, seen := s'.writes
                                  value := 0 }
          .ok ((s'.updWarp fun w => w.block (.waitm m) x.w.pc h.set).reread s'.cur.1 s'.cur.2)) s

/-- WAITM_REREAD (R269; R264 for BARW) for the warp in a slot. -/
def execWaitmReread (c j : Nat) (s : State) : Host.Outcome State Fault Refusal := .next (s.reread c j)

/-! ### Cluster and grid barriers -/

/-- CBAR (R266): the phase completes in the cycle in which the last live warp of the instance arrives. -/
def execCbar (h : Hdr) (b : Operand) (s : State) : Host.Outcome State Fault Refusal :=
  issue h (syncForm 8 [(fSrc0, sSrc false b)] (fun m => [Rd.of b false m]) false)
    (fun x eff s' =>
      if eff ≠ fullMask then .error (trapAt cPartialMask eff)
      else if ¬ x.n32 b < 4 then .error (trapAt cIllegalWait eff 2)
      else
        let s1 := s'.updWarp fun w => w.block (.cbar (x.n32 b)) x.w.pc h.set
        match s'.groupOf x.w with
        | none => .ok s1
        | some g =>
          let n := ((s'.launch g.launch).map (·.record.clSize)).getD 1
          .ok (s1.completeCbar g.launch (g.index / n) (x.n32 b))) s

/-- CBAR_PHASE_COMPLETE (R266) for a barrier of a cluster instance of a launch. -/
def execCbarPhaseComplete (lid inst : Nat) (b : BitVec 2) (s : State) : Host.Outcome State Fault Refusal :=
  .next (s.completeCbar lid inst b.toNat)

/-- GBAR (R267). -/
def execGbar (h : Hdr) (s : State) : Host.Outcome State Fault Refusal :=
  issue h (syncForm 8 [] (fun _ => []) false)
    (fun x eff s' =>
      if eff ≠ fullMask then .error (trapAt cPartialMask eff)
      else if s'.gclassOf x.w ≠ 0 then .error (trapAt cIllegalWait eff 1)
      else .ok (s'.updWarp fun w => w.block .gbar x.w.pc h.set)) s

/-- The grid barrier's phase completes when every live group has arrived (R267); the launch counts phases. A group that has no
place, because it is saved or starts again, is live and has not arrived. The dies of the groups send their arrivals to the
leader's (R9). -/
def State.gbarPhase (s : State) (lid : Nat) : State :=
  match s.launch lid with
  | none => s
  | some l =>
    let here := s.groups.filter fun p => p.2.launch == lid
    let gs := here.filter fun p => !p.2.slots.isEmpty
    let all := decide (l.record.gx * l.record.gy * l.record.gz ≤ here.length + l.retired.length + l.lost.length)
    if all && !gs.isEmpty && gs.all (fun p => p.2.gphase == l.gphase) && s.allWait (liveSlots gs) (fun w => w == .gbar) then
      let s1 := gs.foldl (fun t p => t.pass (dieOf (p.2.cores.headD 0)) (s.leader l)) s
      { s1 with launches := s1.launches.put lid { l with gphase := l.gphase + 1 } }
    else s

/-- Whether a phase of the grid barrier has completed whose completion has not reached a group. -/
def State.gbarDue (s : State) (gid : Nat) : Bool :=
  match s.group gid with
  | none => false
  | some g => (s.launch g.launch).any fun l => decide (g.gphase < l.gphase)

/-- The completion of a grid barrier reaches a group from the leader's die: its waiting warps complete. -/
def State.gbarArrive (s : State) (gid : Nat) : State :=
  match s.group gid with
  | none => s
  | some g =>
    match s.launch g.launch with
    | none => s
    | some l =>
      if g.gphase < l.gphase then
        ((s.pass (s.leader l) (dieOf (g.cores.headD 0))).setGroup gid { g with gphase := l.gphase }).unblockAll
          ((liveSlots [(gid, g)]).filter fun p => (s.warpAt p.1 p.2).any fun w => w.wait == .gbar)
      else s

/-- GBAR_COMPLETION (R267): the completion of a launch's grid barrier reaches a core. -/
def execGbarCompletion (lid c : Nat) (s : State) : Host.Outcome State Fault Refusal :=
  let s1 := s.gbarPhase lid
  .next (((s1.groups.filter fun p => p.2.launch == lid && p.2.cores.contains c).map (·.1)).foldl State.gbarArrive s1)

/-! ### The steep timer (R270 to R273) -/

/-- The waits that count cycles. -/
def Wait.counts : Wait → Bool
  | .none => false
  | .waitf _ _ => false
  | _ => true

/-- R273: a wait declared .LOWER while a lower group of its grid is saved. -/
def State.frozen (s : State) (w : Warp) : Bool :=
  let lower := match w.wait with
    | .waitm m => m.peer == .lower
    | .ldfe l => l.peer == .lower
    | _ => false
  lower && match s.groupOf w, s.launchOf w with
    | some g, some l => l.saved.any fun p => decide (p.1 < g.index)
    | _, _ => false

/-- The steep budget of a warp. -/
def State.budget (s : State) (w : Warp) : Nat := ((s.launchOf w).map (·.record.steep)).getD 0

/-- The class code of a blocking wait (R252, R257, R407). -/
def Wait.peer : Wait → Nat
  | .barw _ _ cmem _ _ => if cmem then 1 else 0
  | .cbar _ => 1
  | .gbar => 3
  | .waitm m => peerCode m.peer
  | .ldfe l => peerCode l.peer
  | _ => 0

/-- XADDR of a steep-timer trap (R257). -/
def Wait.ea : Wait → Nat
  | .barw _ ea _ _ _ => addrNat ea
  | .waitm m => addrNat m.ea
  | .ldfe l => addrNat (l.eas.getD (lowestLane l.pending) 0)
  | _ => 0

/-- Completes a wait whose condition is met. -/
def State.tryWait (s : State) (c j : Nat) : State :=
  match s.warpAt c j with
  | none => s
  | some w =>
    match w.wait with
    | .bar b => s.completeBar w.gid b
    | .cbar b =>
      match s.groupOf w with
      | some g => s.completeCbar g.launch (g.index / ((s.launch g.launch).map (·.record.clSize)).getD 1) b
      | none => s
    | .gbar => s.gbarArrive w.gid
    | .barw _ _ _ _ _ => s.reread c j
    | .waitm _ => s.reread c j
    | .ldfe _ => s.ldfeServe c j
    | .regx _ _ => s.regxCommit c j
    | _ => s

end Sys2Proof.Machine
end

