-- ==== Sys2Proof/Machine/Copy.lean ====
section
/-! DEFINITION. The copy engine (spec/10_copy_engine.md): shape descriptors, the checks of Table CE-5, requests, their
elements, granule settings, completion and faults. -/

namespace Sys2Proof.Machine

/-! ### Shapes (Table CE-4) -/

/-- A shape: element size, extents and strides. -/
structure Shape where
  es : Nat
  e0 : Nat
  e1 : Nat
  e2 : Nat
  s1 : Int
  s2 : Int
  d1 : Int
  d2 : Int
  deriving DecidableEq, Repr

/-- A descriptor from its eight registers, or none when it is malformed (R289); `rows` for CPYG and CPYS. -/
def Shape.ofRegs (r : Nat → Word) (rows : Bool) : Option Shape :=
  let c := (r 0).toNat
  let dims := c / 4 % 4
  let es := 2 ^ (c % 4)
  let e0 := (r 1).toNat
  let e1 := (r 2).toNat
  let e2 := (r 3).toNat
  let sh : Shape := { es := es, e0 := e0, e1 := e1, e2 := e2, s1 := (r 4).toInt, s2 := (r 5).toInt
                      d1 := (r 6).toInt, d2 := (r 7).toInt }
  let ext := decide (1 ≤ e0 ∧ e0 ≤ 2 ^ 24 ∧ 1 ≤ e1 ∧ e1 ≤ 65536 ∧ 1 ≤ e2 ∧ e2 ≤ 65536)
  let unused := (1 ≤ dims || (e1 == 1 && sh.s1 == 0 && sh.d1 == 0)) && (2 ≤ dims || (e2 == 1 && sh.s2 == 0 && sh.d2 == 0))
  if c / 16 = 0 ∧ dims ≠ 3 ∧ ext ∧ unused ∧ e0 * e1 * e2 * es ≤ 2 ^ 32 ∧ (rows → dims ≠ 0) then some sh else none

/-- The number of elements. -/
def Shape.count (sh : Shape) : Nat := sh.e0 * sh.e1 * sh.e2

/-- R290: the source and destination addresses of element `e`; `idx` gives the rows of CPYG and CPYS. -/
def Shape.addrs (sh : Shape) (kind : CopyKind) (idx : Nat → Int) (sbase dbase : Int) (e : Nat) : Int × Int :=
  let i0 := e % sh.e0
  let i1 := e / sh.e0 % sh.e1
  let i2 := e / sh.e0 / sh.e1
  let sr : Int := if kind = .gather then idx i1 else i1
  let dr : Int := if kind = .scatter then idx i1 else i1
  (sbase + i0 * sh.es + sr * sh.s1 + i2 * sh.s2, dbase + i0 * sh.es + dr * sh.d1 + i2 * sh.d2)

/-! ### Issue (R291) -/

def strmCode : Stream → Nat
  | .sa => 0
  | .sb => 1

/-- A trap of a copy instruction: ORIGIN 4, UNIT the stream, XMASK the element. -/
def copyTrap (strm : Stream) (code : BitVec 6) (addr : Int) (e : Nat) (detail : Nat) (wr : Bool) : Trap :=
  { code := code, xaddr := BitVec.ofNat 64 (addrNat addr), xmask := BitVec.ofNat 32 e, origin := 4
    unit := BitVec.ofNat 8 (strmCode strm), detail := BitVec.ofNat 8 detail, wr := wr }

/-- What a copy word asks for, its operands read. -/
structure CopyCmd where
  strm : Stream
  kind : CopyKind
  ssp : Sp
  dsp : Sp
  fe : Bool
  sbase : Int
  dbase : Int
  shape : Option Shape
  ix : Nat
  ranks : List Nat
  opOk : Bool
  ep : Word
  deriving DecidableEq, Repr

/-- One checked access of a copy request. -/
structure CopyChk where
  e : Nat
  ea : Int
  wr : Bool
  res : Except LsFail Loc

/-- The index words of CPYG and CPYS: position, address, and the word's location where its range check passes. -/
def State.copyIndex (s : State) (w : Warp) (cmd : CopyCmd) (sh : Shape) : List (Nat × Int × Except LsFail Loc) :=
  if cmd.kind = .gather ∨ cmd.kind = .scatter then
    (List.range sh.e1).map fun i =>
      let a : Nat := cmd.ix + 4 * i
      let r : Except LsFail Loc :=
        match s.lsCheck w .gmem .read 1 a, s.lsCheck w .gmem .read 1 (a + 3) with
        | .ok l, .ok _ => .ok l
        | _, _ => .error { order := 3, code := cAddressRange, detail := 0 }
      (i, (a : Int), r)
  else []

/-- The value of an index word: the stored bytes, of a poisoned one too, whose trap comes after the range checks (Table CE-5). DESIGN
CHOICE, log 68. -/
def State.indexWord (s : State) (l : Loc) : Int := (BitVec.ofNat 32 (leNat (s.locRead l 4))).toInt

/-- The destination address of an element in rank `r` of CPYB: an offset outside the rank fails its range check. -/
def State.bcastChk (s : State) (w : Warp) (n r : Nat) (da : Int) : Except LsFail Loc :=
  if 0 ≤ da ∧ da < 2 ^ 19 then s.lsCheck w .cmem .write n (r * 2 ^ 19 + da)
  else .error { order := 3, code := cAddressRange, detail := 0 }

/-- Every element of a request with the locations of its local sides, in walk order (for CPYB, rank by rank). XADDR of an element
that CPYB cannot write holds its .CMEM address, rank · 2^19 + da. DESIGN CHOICE, log 68. -/
def State.copyWalk (s : State) (w : Warp) (cmd : CopyCmd) (sh : Shape) (idx : Nat → Int) :
    List (Nat × Int × Int × Option (Except LsFail Loc) × Option (Except LsFail Loc)) :=
  let one (r : Option Nat) (e : Nat) :=
    let p := sh.addrs cmd.kind idx cmd.sbase cmd.dbase e
    let src := if cmd.kind = .fetch then none else some (s.lsCheck w cmd.ssp .read sh.es p.1)
    let dst := if cmd.kind = .send then none else some (match r with
      | some k => s.bcastChk w sh.es k p.2
      | none => s.lsCheck w cmd.dsp .write sh.es p.2)
    let da : Int := match r with
      | some k => k * 2 ^ 19 + p.2
      | none => p.2
    (e, p.1, da, src, dst)
  let es := List.range sh.count
  if cmd.kind = .bcast then cmd.ranks.flatMap fun r => es.map (one (some r)) else es.map (one none)

/-- The accesses of a walk, source before destination within an element. DESIGN CHOICE, log 68. -/
def walkChecks (ws : List (Nat × Int × Int × Option (Except LsFail Loc) × Option (Except LsFail Loc))) : List CopyChk :=
  ws.flatMap fun p =>
    (match p.2.2.2.1 with
      | some r => [{ e := p.1, ea := p.2.1, wr := false, res := r }]
      | none => []) ++
    match p.2.2.2.2 with
      | some r => [{ e := p.1, ea := p.2.2.1, wr := true, res := r }]
      | none => []

/-- The first access of a walk that fails a check of the given number. -/
def firstOrder (strm : Stream) (k : Nat) (cs : List CopyChk) : Option Trap :=
  match cs with
  | [] => none
  | c :: rest =>
    match c.res with
    | .error f => if f.order = k then some (copyTrap strm f.code c.ea c.e f.detail c.wr) else firstOrder strm k rest
    | .ok _ => firstOrder strm k rest

/-- Check 4 of Table CE-5: the first misaligned value, in the order of R291; a CPYX checks its local side. -/
def copyAlign (cmd : CopyCmd) (sh : Shape) : Option Trap :=
  let src := cmd.kind ≠ .fetch
  let dst := cmd.kind ≠ .send
  let vs : List (Int × Nat × Bool × Bool) :=
    if cmd.kind = .cpyz then [(cmd.sbase, 512, false, true), (cmd.dbase, 16, true, true)]
    else [(cmd.sbase, sh.es, false, src), (cmd.dbase, sh.es, true, dst), (sh.s1, sh.es, false, src),
          (sh.s2, sh.es, false, src), (sh.d1, sh.es, true, dst), (sh.d2, sh.es, true, dst),
          ((cmd.ix : Int), 4, false, decide (cmd.kind = .gather ∨ cmd.kind = .scatter))]
  match vs.find? fun v => v.2.2.2 && v.1 % (v.2.1 : Int) != 0 with
  | none => none
  | some v => some (copyTrap cmd.strm cMisaligned v.1 0 0 v.2.2.1)

/-- Checks 2 to 8 of Table CE-5: the elements of the request, or the trap of the first failing check. Within check 3 a CPYB offset
comes first, with the plain offset in XADDR, and an index word before an element. DESIGN CHOICE, log 68. -/
def State.copyCheck (s : State) (w : Warp) (cmd : CopyCmd) : Except Trap (Shape × List CopyElem) :=
  match cmd.shape with
  | none => .error (copyTrap cmd.strm cCopy 0 0 1 false)
  | some sh =>
    if !cmd.opOk then .error (copyTrap cmd.strm cCopy 0 0 1 false)
    else
      let ixs := s.copyIndex w cmd sh
      let ixChecks : List CopyChk := ixs.map fun p => { e := p.1, ea := p.2.1, wr := false, res := p.2.2 }
      let word (i : Nat) : Int :=
        match (ixs.find? fun p => p.1 == i).bind fun p => p.2.2.toOption with
        | some l => s.indexWord l
        | none => 0
      let ws := s.copyWalk w cmd sh word
      let cs := walkChecks ws
      let bcastOff : Option Trap := if cmd.kind = .bcast ∧ ¬ cmd.dbase < 2 ^ 19 then
        some (copyTrap cmd.strm cAddressRange cmd.dbase 0 0 true) else none
      let poisoned : Option Trap := (ixs.find? fun p => p.2.2.toOption.any fun l => s.locPoisoned l 4).map
        fun p => copyTrap cmd.strm cPoison p.2.1 p.1 0 false
      let fails := [bcastOff, firstOrder cmd.strm 3 ixChecks, firstOrder cmd.strm 3 cs, copyAlign cmd sh, poisoned,
        firstOrder cmd.strm 5 cs, firstOrder cmd.strm 6 cs, firstOrder cmd.strm 7 cs]
      match fails.filterMap id with
      | t :: _ => .error t
      | [] => .ok (sh, ws.map fun p =>
          { e := p.1, sa := p.2.1, da := p.2.2.1, src := p.2.2.2.1.bind fun r => r.toOption
            dst := p.2.2.2.2.bind fun r => r.toOption })

/-- The granules of group memory that a request writes, each once, in walk order. -/
def granuleStarts (es : Nat) (xs : List CopyElem) : List Loc :=
  (xs.filterMap fun x => x.dst.bind fun l =>
    match l with
    | .sram g off => some ((List.range ((off + es - 1) / 16 + 1 - off / 16)).map fun i => Loc.sram g (16 * (off / 16 + i)))
    | .glob _ _ => none).flatten.eraseDups

/-- The translations that a core's accesses to some virtual addresses use, each by its first address and its size. -/
def State.translOf (s : State) (c asid : Nat) (vas : List Nat) : List (Nat × Nat) :=
  (vas.filterMap fun va => (s.xlate c asid va).toOption.map fun t => (va / t.size * t.size, t.size)).eraseDups

/-- The addresses of global memory that a request reaches. -/
def CopyCmd.addrs (cmd : CopyCmd) (xs : List CopyElem) : List Nat :=
  xs.flatMap fun x =>
    (if cmd.ssp = .glob && x.src.isSome then [x.sa.toNat] else []) ++
    (if cmd.dsp = .glob && x.dst.isSome then [x.da.toNat] else [])

/-- Whether a fault is a pending fault of a stream. -/
def streamFault (strm : Stream) (t : Trap) : Bool := t.origin == 4 && t.unit.toNat == strmCode strm && t.code == cCopy

/-- DETAIL bit 7 of the pending faults of a stream: later requests were abandoned. -/
def Warp.markFault (w : Warp) (p : Trap → Bool) : Warp :=
  { w with faults := w.faults.map fun t => if p t then { t with detail := t.detail ||| 0x80 } else t }

/-- Whether an earlier request of the warp in the stream has ended in error and its fault is not delivered (R304). -/
def Core.streamFailed (c : Core) (w : Warp) (strm : Stream) : Bool :=
  w.faults.any (streamFault strm) ||
  c.copy.any fun r => r.strm == strm && r.gid == w.gid && r.wid == w.wid && r.ended.isSome

/-- The course of a copy word: checks, then one request in its stream (R284). -/
def copyWord (h : Hdr) (cs : Checks) (rs : LaneMask → List Rd) (mk : Ctx → CopyCmd) (s : State) :
    Host.Outcome State Fault Refusal :=
  issue h { len := 16, checks := fun _ => cs, reads := rs, spatialOk := false }
    (fun x eff s' =>
      if eff ≠ fullMask then .error (trapAt cPartialMask eff)
      else
        let cmd := mk x
        match s'.copyCheck x.w cmd with
        | .error t => .error t
        | .ok (sh, xs) =>
          let c := s'.curCore
          let bad := c.streamFailed x.w cmd.strm
          let r : CopyReq :=
            { lid := ((s'.groupOf x.w).map (·.launch)).getD 0, gid := x.w.gid, wid := x.w.wid, asid := s'.asidOf x.w
              strm := cmd.strm, kind := cmd.kind, flag := h.set, es := sh.es, ep := cmd.ep
              elems := if bad then [] else xs
              grans := if bad || !cmd.fe then [] else granuleStarts sh.es xs
              transl := s'.translOf s'.cur.1 (s'.asidOf x.w) (cmd.addrs xs), waiting := none, ended := none, abandoned := bad
              stale := [] }
          let mark (q : CopyReq) : CopyReq :=
            if bad && q.strm == cmd.strm && q.gid == x.w.gid && q.wid == x.w.wid then
              { q with ended := q.ended.map fun t => { t with detail := t.detail ||| 0x80 } } else q
          let s0 := s'.walkedAll s'.cur.1 (s'.asidOf x.w) (r.transl.map fun t => (t.1 : Int))
          let s1 := s0.setCurCore { c with copy := c.copy.map mark ++ [r] }
          .ok (if bad then s1.updWarp fun w => w.markFault (streamFault cmd.strm) else s1)) s

/-- A base operand in its space (R286). -/
def copyBase (sp : Sp) (o : Operand) : Bool := baseOk 0 sp true o

/-- The value of a base operand. -/
def Ctx.base (x : Ctx) (sp : Sp) (o : Operand) : Int := (x.read (if sp.wide then .i64 else .i32) o 0).toNat

/-- The descriptor in eight scalar registers. -/
def Ctx.shape (x : Ctx) (ds : Operand) (rows : Bool) : Option Shape :=
  Shape.ofRegs (fun i => (x.w.sreg (regOf ds + i)).val) rows

/-- The reads of a copy word. -/
def copyReads (ssp dsp : Sp) (d a : Operand) (ds : Option Operand) (c : Option Operand) (m : LaneMask) : List Rd :=
  [Rd.of d dsp.wide m, Rd.of a ssp.wide m] ++
  (match ds with
    | some o => [{ o := o, n := 8, lanes := m }]
    | none => []) ++
  match c with
    | some o => [Rd.of o false m]
    | none => []

/-- CPY (R293). -/
def execCpy (h : Hdr) (strm : Stream) (dsp ssp : RwSpace) (fe : Bool) (_sc : Scope) (d a ds : Operand) (s : State) :
    Host.Outcome State Fault Refusal :=
  let dp := spOfRw dsp
  let sp := spOfRw ssp
  copyWord h [(fDst, copyBase dp d), (fSrc0, copyBase sp a), (fSrc1, blockReg ds)] (copyReads sp dp d a (some ds) none)
    (fun x => { strm := strm, kind := .cpy, ssp := sp, dsp := dp, fe := fe, sbase := x.base sp a, dbase := x.base dp d
                shape := x.shape ds false, ix := 0, ranks := [], opOk := true, ep := 0 }) s

/-- CPYZ (R294): the result of a CPY of 64·nblk elements of 8 bytes. -/
def execCpyz (h : Hdr) (strm : Stream) (dsp _ssp : RwSpace) (fe : Bool) (_sc : Scope) (d a : Operand) (nblk : BitVec 32)
    (s : State) : Host.Outcome State Fault Refusal :=
  let dp := spOfRw dsp
  copyWord h [(fDst, copyBase dp d), (fSrc0, copyBase .glob a)] (copyReads .glob dp d a none none)
    (fun x => { strm := strm, kind := .cpyz, ssp := .glob, dsp := dp, fe := fe, sbase := x.base .glob a, dbase := x.base dp d
                shape := some { es := 8, e0 := 64 * nblk.toNat, e1 := 1, e2 := 1, s1 := 0, s2 := 0, d1 := 0, d2 := 0 }
                ix := 0, ranks := [], opOk := decide (1 ≤ nblk.toNat ∧ nblk.toNat ≤ 1024), ep := 0 }) s

/-- CPYG (R295). -/
def execCpyg (h : Hdr) (strm : Stream) (dsp _ssp : RwSpace) (fe : Bool) (_sc : Scope) (d a ds ix : Operand) (s : State) :
    Host.Outcome State Fault Refusal :=
  let dp := spOfRw dsp
  copyWord h [(fDst, copyBase dp d), (fSrc0, copyBase .glob a), (fSrc1, blockReg ds), (fSrc2, sSrc false ix)]
    (copyReads .glob dp d a (some ds) (some ix))
    (fun x => { strm := strm, kind := .gather, ssp := .glob, dsp := dp, fe := fe, sbase := x.base .glob a
                dbase := x.base dp d, shape := x.shape ds true, ix := x.n32 ix, ranks := [], opOk := true, ep := 0 }) s

/-- CPYS (R296). -/
def execCpys (h : Hdr) (strm : Stream) (_dsp ssp : RwSpace) (fe : Bool) (_sc : Scope) (d a ds ix : Operand) (s : State) :
    Host.Outcome State Fault Refusal :=
  let sp := spOfRw ssp
  copyWord h [(fDst, copyBase .glob d), (fSrc0, copyBase sp a), (fSrc1, blockReg ds), (fSrc2, sSrc false ix)]
    (copyReads sp .glob d a (some ds) (some ix))
    (fun x => { strm := strm, kind := .scatter, ssp := sp, dsp := .glob, fe := fe, sbase := x.base sp a
                dbase := x.base .glob d, shape := x.shape ds true, ix := x.n32 ix, ranks := [], opOk := true, ep := 0 }) s

/-- CPYB (R297): one walk for each rank of the mask, in increasing rank. -/
def execCpyb (h : Hdr) (strm : Stream) (_dsp ssp : RwSpace) (fe : Bool) (_sc : Scope) (d a ds mk : Operand) (s : State) :
    Host.Outcome State Fault Refusal :=
  let sp := spOfRw ssp
  copyWord h [(fDst, copyBase .cmem d), (fSrc0, copyBase sp a), (fSrc1, blockReg ds), (fSrc2, sSrc false mk)]
    (copyReads sp .cmem d a (some ds) (some mk))
    (fun x =>
      let m := x.n32 mk
      { strm := strm, kind := .bcast, ssp := sp, dsp := .cmem, fe := fe, sbase := x.base sp a, dbase := x.base .cmem d
        shape := x.shape ds false, ix := 0, ranks := (List.range 4).filter fun r => m / 2 ^ r % 2 == 1
        opOk := decide (m ≠ 0 ∧ m < 16), ep := 0 }) s

/-- R298: an endpoint is well formed. -/
def epOk (ep : Word) : Bool := ep &&& 0xFFFF00E0#32 == 0#32 && decide (ep.toNat % 32 < 18)

def epPort (ep : Word) : Nat := ep.toNat % 32
def epWin (ep : Word) : Nat := ep.toNat / 256 % 256

/-- The course of CPYX. -/
def cpyxWord (h : Hdr) (kind : CopyKind) (strm : Stream) (d a ds ep : Operand) (s : State) :
    Host.Outcome State Fault Refusal :=
  copyWord h [(fDst, copyBase .glob d), (fSrc0, copyBase .glob a), (fSrc1, blockReg ds), (fSrc2, sSrc false ep)]
    (copyReads .glob .glob d a (some ds) (some ep))
    (fun x =>
      let e := (x.read .i32 ep 0).setWidth 32
      { strm := strm, kind := kind, ssp := .glob, dsp := .glob, fe := false, sbase := x.base .glob a
        dbase := x.base .glob d, shape := x.shape ds false, ix := 0, ranks := [], opOk := epOk e, ep := e }) s

/-- CPYX.SEND (R298). -/
def execCpyxSend (h : Hdr) (strm : Stream) (_dsp _ssp : RwSpace) (_fe : Bool) (_sc : Scope) (d a ds ep : Operand)
    (s : State) : Host.Outcome State Fault Refusal := cpyxWord h .send strm d a ds ep s

/-- CPYX.FETCH (R298). -/
def execCpyxFetch (h : Hdr) (strm : Stream) (_dsp _ssp : RwSpace) (_fe : Bool) (_sc : Scope) (d a ds ep : Operand)
    (s : State) : Host.Outcome State Fault Refusal := cpyxWord h .fetch strm d a ds ep s

/-! ### The requests run (R290, R299 to R304) -/

/-- Splits a core's requests at the oldest of a stream: those before it, the request, those after it. -/
def headOf (strm : Stream) (rs : List CopyReq) : Option (List CopyReq × CopyReq × List CopyReq) :=
  match rs with
  | [] => none
  | r :: rest => if r.strm = strm then some ([], r, rest) else (headOf strm rest).map fun p => (r :: p.1, p.2)

/-- Replaces the oldest request of a stream. -/
def State.setHead (s : State) (c : Nat) (strm : Stream) (f : CopyReq → CopyReq) : State :=
  match headOf strm (s.core c).copy with
  | none => s
  | some (a, r, b) => s.setCore c { s.core c with copy := a ++ f r :: b }

/-- A request of the same warp and stream that has not ended is abandoned (R304). -/
def CopyReq.abandon (r : CopyReq) (by_ : CopyReq) : CopyReq :=
  if r.strm = by_.strm ∧ r.gid = by_.gid ∧ r.wid = by_.wid then { r with elems := [], grans := [], abandoned := true } else r

/-- The oldest request of a stream ends in error at its next element: its later elements are not performed, and every
later request of its warp in the stream is abandoned (R303, R304). -/
def State.copyFail (s : State) (c : Nat) (strm : Stream) (detail : Nat) (addr : Int) (wr : Bool) : State :=
  match headOf strm (s.core c).copy with
  | none => s
  | some (a, r, b) =>
    let later := b.any fun q => q.strm == strm && q.gid == r.gid && q.wid == r.wid
    let e := (r.elems.head?.map (·.e)).getD 0
    let t := copyTrap strm cCopy addr e (detail + if later then 128 else 0) wr
    s.setCore c { s.core c with
      copy := a ++ { r with elems := [], grans := [], waiting := none, ended := some t } :: b.map fun q => q.abandon r }

/-- Writes an element's bytes at its destination: poison gives zeros and a poisoned destination (R302). -/
def State.copyPut (s : State) (c : Nat) (l : Loc) (n : Nat) (g : Got) : State :=
  let p : Party := .die (dieOf c)
  if g.tag = .poison then (s.locStore p l (leBytes n 0)).locPoison l else s.locStore p l (leBytes n g.val)

/-- Before a CPYZ reads a block, the block's home has every dirty copy of its lines written back and merged; shared copies stay
(R312). A line in a transaction is waited for (R442). -/
def State.blockRead (s : State) (d pa : Nat) : State :=
  let lines := (List.range 4).map (· + pa / 512 * 4)
  let h := homeOf (pa / 512 * 4)
  if lines.all fun k => (s.line k).idle then
    (lines.foldl (fun t k => t.homeServes k d .blk) (s.passOn d h 0)).passOn h d 3
  else s.stall

/-- The copy engine of a core reads its source: a CPYZ asks the home for each block of device HBM, every other read is made through
the L2 (R294, R312). -/
def State.copySource (s : State) (c : Nat) (r : CopyReq) (x : CopyElem) (l : Loc) : State :=
  match decide (r.kind = .cpyz), l with
  | true, .glob pa _ =>
    if 2 ^ 41 ≤ pa then s.locAccess (.die (dieOf c)) l r.es .read else if x.e % 64 = 0 then s.blockRead (dieOf c) pa else s
  | _, _ => s.locAccess (.die (dieOf c)) l r.es .read

def State.port (s : State) (p : Nat) : Port := s.ports.get Port.initial p

def State.setPort (s : State) (p : Nat) (x : Port) : State := { s with ports := s.ports.set Port.initial p x }

/-- The tag that names an element of a stream of a core on a port: the flit's number and the stream. -/
def State.linkTag (s : State) (c : Nat) (strm : Stream) (p : Nat) : Nat := 1024 * (s.port p).nextTx + 2 * c + strmCode strm

/-- Sends a message on a port; it stays until the peer acknowledges it (R461). -/
def State.sendFlit (s : State) (p : Nat) (m : GMsg) : State :=
  let x := s.port p
  s.setPort p { x with nextTx := x.nextTx + 1, tx := x.tx ++ [{ seq := x.nextTx, sent := s.hub, msg := m }] }

/-- One element of the oldest request of a stream. WR of a fault with DETAIL 0x10 is that of the local access, whose address XADDR
holds (Table CE-6). DESIGN CHOICE, log 67. -/
def State.copyElement (s : State) (c : Nat) (strm : Stream) : State :=
  match headOf strm (s.core c).copy with
  | none => s
  | some (_, r, _) =>
    match r.elems with
    | [] => s
    | x :: rest =>
      if r.waiting.isSome then s
      else
        match x.src, x.dst with
        | some a, some b =>
          let g := s.lsRead 0 r.es a
          if g.tag = .fabric then s.copyFail c strm 8 x.sa false
          else if s.locErr b then s.copyFail c strm 8 x.da true
          else ((s.copySource c r x a).copyPut c b r.es g).setHead c strm fun q => { q with elems := rest }
        | some a, none =>
          let g := s.lsRead 0 r.es a
          if g.tag = .fabric then s.copyFail c strm 8 x.sa false
          else if (s.port (epPort r.ep)).st ≠ .up then s.copyFail c strm 0x10 x.sa false
          else
            let t := s.linkTag c strm (epPort r.ep)
            let m := GMsg.write t (epWin r.ep) (addrNat x.da) (leBytes r.es g.val) (g.tag == .poison)
            (((s.copySource c r x a).pass (dieOf c) 4).sendFlit (epPort r.ep) m).setHead c strm fun q => { q with waiting := some t }
        | none, some _ =>
          if (s.port (epPort r.ep)).st ≠ .up then s.copyFail c strm 0x10 x.da true
          else
            let t := s.linkTag c strm (epPort r.ep)
            let m := GMsg.read t (epWin r.ep) (addrNat x.sa) r.es
            ((s.pass (dieOf c) 4).sendFlit (epPort r.ep) m).setHead c strm fun q => { q with waiting := some t }
        | none, none => s.setHead c strm fun q => { q with elems := rest }

/-- COPY_ELEMENT (R290) of the oldest request of a stream of a core. -/
def execCopyElement (c : Nat) (strm : Stream) (s : State) : Host.Outcome State Fault Refusal := .next (s.copyElement c strm)

/-- An answer of a peer, which the hub die passes on, to the oldest request of a stream (R298, R462). -/
def State.copyAnswer (s0 : State) (tag : Nat) (m : GMsg) : State :=
  let c := tag % 1024 / 2
  let s := s0.pass 4 (dieOf c)
  let strm : Stream := if tag % 2 = 0 then .sa else .sb
  match headOf strm (s.core c).copy with
  | none => s
  | some (_, r, _) =>
    match decide (r.waiting = some tag), r.elems with
    | true, x :: rest =>
      let advance (q : CopyReq) : CopyReq := { q with elems := rest, waiting := none }
      match m with
      | .done _ => if r.kind = .send then s.setHead c strm advance else s
      | .data _ bs p =>
        match x.dst with
        | some l =>
          if s.locErr l then s.copyFail c strm 8 x.da true
          else (s.copyPut c l r.es { lane := 0, tag := if p then .poison else .clean, val := leNat bs }).setHead c strm advance
        | none => s
      | .refused _ => s.copyFail c strm 0x11 (if r.kind = .send then x.da else x.sa) (r.kind == .send)
      | .memErr _ => s.copyFail c strm 0x12 (if r.kind = .send then x.da else x.sa) (r.kind == .send)
      | _ => s
    | _, _ => s

/-- Whether every write of a request to a granule is performed. -/
def granuleDone (es : Nat) (xs : List CopyElem) (g : Loc) : Bool :=
  xs.all fun x =>
    match x.dst, g with
    | some (.sram a off), .sram b o => !(a == b && decide (o < off + es) && decide (off < o + 16))
    | _, _ => true

/-- COPY_GRANULE_FULL (R300): the n-th granule that the oldest request of a stream has still to set. -/
def execCopyGranuleFull (c : Nat) (strm : Stream) (n : Nat) (s : State) : Host.Outcome State Fault Refusal :=
  match headOf strm (s.core c).copy with
  | none => .next s
  | some (_, r, _) =>
    match takeAt n r.grans with
    | none => .next s
    | some (g, rest) =>
      if granuleDone r.es r.elems g then .next ((s.setFull g true).setHead c strm fun q => { q with grans := rest })
      else .next s

/-- Whether some warp of a core has a pending fault of a stream (R305: at most one). -/
def Core.streamPending (c : Core) (strm : Stream) : Bool := c.warps.any fun p => p.2.faults.any (streamFault strm)

/-- Completes the oldest request of a stream. -/
def State.copyComplete (s : State) (c : Nat) (strm : Stream) : State :=
  match headOf strm (s.core c).copy with
  | none => s
  | some (a, r, b) =>
    if r.elems.isEmpty && r.grans.isEmpty && r.waiting.isNone && !(r.ended.isSome && (s.core c).streamPending strm) then
      let s1 := s.setCore c { s.core c with copy := a ++ b }
      let s2 := s1.completeOf r.gid r.wid 0 [] r.flag
      match r.ended with
      | some t => s2.pendFault r.lid r.gid r.wid t
      | none => s2
    else s

/-- COPY_REQUEST_COMPLETION (R299) of the oldest request of a stream of a core. -/
def execCopyRequestCompletion (c : Nat) (strm : Stream) (s : State) : Host.Outcome State Fault Refusal :=
  .next (s.copyComplete c strm)

/-! ### Merges (R310) -/

/-- BLOCK_MERGE (R310): an L2 line of device HBM is written back. -/
def execBlockMerge (line : BitVec 34) (s : State) : Host.Outcome State Fault Refusal := .next (s.mergeLine line.toNat)

end Sys2Proof.Machine
end

