-- ==== Sys2Proof/Machine/Matrix.lean ====
section
/-! DEFINITION. The matrix engine (spec/11_matrix_engine.md): slots and control blocks, the checks of Table MX-6,
requests, and what each request does at the planes and the accumulator port. The requests of the fast-weight unit
stand in the same list of a core, in arrival order. -/

namespace Sys2Proof.Machine

/-! ### Slots (R313 to R316, R346) -/

/-- Accumulator columns of a culture's row, in units of 64 (R346). -/
def Cult.cols (k : Cult) : Nat := (16 * k.dk16 + 63) / 64

/-- n_s: the regions of a slot (R346). -/
def Cult.regions (k : Cult) : Nat := (k.cols * (16 * k.dv16) + 63) / 64

/-- R313: the launch record names a culture slot. -/
def State.matrixGroup (s : State) (gid : Nat) : Bool :=
  (((s.group gid).bind fun g => s.launch g.launch).map fun l => !l.record.cults.isEmpty).getD false

/-- The ownership table of a core. -/
def Core.ownAt (c : Core) (i : Nat) : Own := c.own.get Own.free i

/-- Changes the entries that satisfy a condition. -/
def Core.mapOwn (c : Core) (p : Own → Bool) (f : Own → Own) : Core :=
  { c with own := (List.range 16).foldl (fun m i =>
      let o := c.ownAt i
      if p o then m.set Own.free i (f o) else m) c.own }

/-- Orders regions by a part number. -/
def byPart (part : Nat → Nat) (is : List Nat) : List Nat :=
  (List.range 16).filterMap fun k => is.find? fun i => part i == k

/-- The regions whose entries satisfy a condition, in order of PART. -/
def Core.regionsOf (c : Core) (p : Own → Bool) : List Nat :=
  byPart (fun i => (c.ownAt i).part) ((List.range 16).filter fun i => p (c.ownAt i))

/-- The part of a group's slot that a region holds or is reserved for. -/
def Own.slotPart (o : Own) (gid slot : Nat) : Option Nat :=
  match o.resv with
  | some (g, k, p) => if g = gid ∧ k = slot then some p else none
  | none => if o.gid = some gid ∧ o.slot = slot then some o.part else none

/-- The regions of a slot of a group, in order. -/
def Core.slotRegions (c : Core) (gid slot : Nat) : List Nat :=
  byPart (fun i => ((c.ownAt i).slotPart gid slot).getD 16)
    ((List.range 16).filter fun i => ((c.ownAt i).slotPart gid slot).isSome)

/-- The physical accumulator row of row `r` of a slot (R314). -/
def physRow (regs : List Nat) (r : Nat) : Nat := 64 * regs.getD (r / 64) 0 + r % 64

def Core.accAt (c : Core) (row col : Nat) : Nat := (c.acc.get 0 (64 * row + col)).toNat

def Core.setAcc (c : Core) (row col v : Nat) : Core :=
  { c with acc := c.acc.set 0 (64 * row + col) (BitVec.ofNat 32 v) }

/-! ### Control blocks (R326) -/

/-- The fields that an instruction uses (Table MX-6a). -/
structure CbUse where
  rows : Bool := false
  kv : Bool := false
  rowA : Bool := false
  rowB : Bool := false
  aux : Bool := false
  scl : Bool := false
  lohi : Bool := false
  cmask : Bool := false

/-- D(w): the depth of a plane at a width (R318). -/
def planeDepth (w : Nat) : Nat := 2048 / w

def mtyWidth : MTy → Nat
  | .bf16 => 16
  | .f16 => 16
  | .e4m3 => 8
  | .e5m2 => 8

def fmtOfM : MTy → Fmt
  | .bf16 => .bf16
  | .f16 => .f16
  | .e4m3 => .e4m3
  | .e5m2 => .e5m2

def gsize : QGroup → Nat
  | .g32 => 32
  | .g64 => 64
  | .g128 => 128

def qwidth : QTy → Nat
  | .q8 => 8
  | .q4 => 4

/-- Table MX-6a. -/
def MxOp.use : MxOp → CbUse
  | .wldB _ => { kv := true }
  | .wldQ _ _ => { kv := true, aux := true }
  | .flip => {}
  | .mms _ _ _ _ => { rows := true, kv := true, rowA := true, cmask := true }
  | .mmsq _ _ _ => { rows := true, kv := true, rowA := true, aux := true, cmask := true }
  | .aclr => { rows := true, rowA := true, cmask := true }
  | .ald _ => { rows := true, rowA := true, cmask := true }
  | .ast _ => { rows := true, rowA := true, cmask := true }
  | .adrn act _ bias _ _ _ =>
    { rows := true, rowA := true, aux := bias, scl := true, lohi := act == .clamp, cmask := true }
  | .amov => { rows := true, rowA := true, rowB := true, cmask := true }
  | .smx => { rows := true, rowA := true, rowB := true, scl := true, cmask := true }
  | .smxrInit => { rows := true, rowA := true }
  | .smxrNorm => { rows := true, rowA := true, rowB := true, cmask := true }
  | .smxrRd => { rows := true, rowA := true }
  | .smxrWr => { rows := true, rowA := true }

/-- The width at which an instruction reads or writes a plane. -/
def MxOp.width : MxOp → Nat
  | .wldB w => w
  | .wldQ w _ => w
  | .mms ta _ _ _ => mtyWidth ta
  | .mmsq w _ _ => w
  | _ => 16

/-- The forms on vector registers. -/
def MxOp.vreg : MxOp → Bool
  | .mms _ _ _ r => r
  | .ald r => r
  | .adrn _ _ _ _ _ r => r
  | _ => false

/-- The forms with a memory operand. -/
def MxOp.mem : MxOp → Bool
  | .wldB _ => true
  | .wldQ _ _ => true
  | .flip => false
  | .mms _ _ _ r => !r
  | .mmsq _ _ _ => true
  | .aclr => false
  | .ald r => !r
  | .ast _ => true
  | .adrn _ _ _ _ _ r => !r
  | .amov => false
  | .smx => true
  | .smxrInit => false
  | .smxrNorm => false
  | .smxrRd => true
  | .smxrWr => true

/-- A row address is well formed (Table MX-1). -/
def rowOk (r : Nat) : Bool := decide (r < 1024) && r % 16 == 0

/-- R326: the block in eight registers is well formed for an instruction. -/
def cbOk (o : MxOp) (r : Nat → Word) : Bool :=
  let u := o.use
  let c := (r 0).toNat
  let mt := c % 32
  let mv := c / 32 % 512
  let kv := c / 2 ^ 14 % 1024
  let lo := (r 5).toNat % 65536 * 65536
  let hi := (r 5).toNat / 65536 * 65536
  c / 2 ^ 24 == 0 &&
  (if u.rows then decide (mt ≤ (if o.vreg then 1 else 15)) && decide (1 ≤ mv ∧ mv ≤ 16 * (mt + 1)) else mt == 0 && mv == 0) &&
  (if u.kv then decide (1 ≤ kv ∧ kv ≤ planeDepth o.width) else kv == 0) &&
  (if u.rowA then rowOk (r 1).toNat else r 1 == 0) && (if u.rowB then rowOk (r 2).toNat else r 2 == 0) &&
  (u.aux || r 3 == 0) && (u.scl || r 4 == 0) &&
  (if u.lohi then condEx .le (f32Ex lo) (f32Ex hi) else r 5 == 0) &&
  (u.cmask || (r 6 == 0 && r 7 == 0))

/-- The operands of a request, but for its regions, registers and locations. -/
def mxArgs (r : Nat → Word) (base pitch : Nat) : MxArgs :=
  let c := (r 0).toNat
  { m := 16 * (c % 32 + 1), mv := c / 32 % 512, kv := c / 2 ^ 14 % 1024, rowA := (r 1).toNat, rowB := (r 2).toNat
    regsA := [], regsB := [], aux := (r 3).toNat, scl := (r 4).toNat, lo := (r 5).toNat % 65536 * 65536
    hi := (r 5).toNat / 65536 * 65536, cmask := r 7 ++ r 6, base := base, pitch := pitch, src := [], dst := 0, locs := [] }

/-- The active columns of a tile. -/
def MxArgs.cols (a : MxArgs) : List Nat := (List.range 64).filter fun j => a.cmask.getLsbD j

def drainBytes : DrainTy → Nat
  | .f32 => 4
  | .f16 => 2
  | .bf16 => 2
  | .e4m3 => 1
  | .e5m2 => 1

/-! ### Memory operands (R327) -/

/-- One element that a request reads or writes in memory: its indices, its address, its bytes, and whether it is
written. -/
structure MxElem where
  i : Nat
  j : Nat
  addr : Nat
  n : Nat
  wr : Bool
  deriving DecidableEq, Repr

/-- The elements of codes of `w` bits in row `i`, depths below `kv`, with the row's metadata at `meta_`. -/
def codeRow (w g kv i row meta_ : Nat) : List MxElem :=
  ((List.range kv).map fun k => { i := i, j := k, addr := row + k * w / 8, n := 1, wr := false }) ++
  (List.range ((kv + g - 1) / g)).flatMap fun q =>
    [{ i := i, j := q, addr := meta_ + 2 * q, n := 2, wr := false },
     { i := i, j := q, addr := meta_ + 32 + q * w / 8, n := 1, wr := false }]

/-- The tile of active rows and columns at a pitch, `n` bytes an element. -/
def MxArgs.tile (a : MxArgs) (n : Nat) (wr : Bool) : List MxElem :=
  (List.range a.mv).flatMap fun i => a.cols.map fun j => { i := i, j := j, addr := a.base + i * a.pitch + n * j, n := n, wr := wr }

/-- Every element in memory that a request reads or writes, in order of i and then j. -/
def MxOp.elems (o : MxOp) (a : MxArgs) : List MxElem :=
  if !o.mem then
    match o with
    | .adrn _ _ true _ _ _ => (List.range a.mv).flatMap fun i => a.cols.map fun j => { i := i, j := j, addr := a.aux + 4 * j, n := 4, wr := false }
    | _ => []
  else
    match o with
    | .wldB w => (List.range a.kv).flatMap fun k => (List.range 64).map fun j =>
        { i := k, j := j, addr := a.base + k * a.pitch + j * (w / 8), n := w / 8, wr := false }
    | .wldQ w g => (List.range 64).flatMap fun j => codeRow w g a.kv j (a.base + j * a.pitch) (a.aux + 64 * j)
    | .mms ta _ _ _ => (List.range a.mv).flatMap fun i => (List.range a.kv).map fun k =>
        { i := i, j := k, addr := a.base + i * a.pitch + k * (mtyWidth ta / 8), n := mtyWidth ta / 8, wr := false }
    | .mmsq w g _ => (List.range a.mv).flatMap fun i => codeRow w g a.kv i (a.base + i * a.pitch) (a.aux + 64 * i)
    | .ald _ => a.tile 4 false
    | .ast _ => a.tile 4 true
    | .adrn _ t bias _ _ _ => (a.tile (drainBytes t) true).flatMap fun e =>
        if bias then [e, { e with addr := a.aux + 4 * e.j, n := 4, wr := false }] else [e]
    | .smx => (List.range a.mv).flatMap fun i => (List.range 64).map fun j =>
        { i := i, j := j, addr := a.base + i * a.pitch + 2 * j, n := 2, wr := true }
    | .smxrRd => (List.range a.mv).flatMap fun i => (List.range 2).map fun j =>
        { i := i, j := j, addr := a.base + 8 * i + 4 * j, n := 4, wr := true }
    | .smxrWr => (List.range a.mv).flatMap fun i => (List.range 2).map fun j =>
        { i := i, j := j, addr := a.base + 8 * i + 4 * j, n := 4, wr := false }
    | _ => []

/-! ### Issue checks (Table MX-6) -/

/-- What a matrix word asks for, its operands read. -/
structure MxCmd where
  op : MxOp
  cb : Option Nat
  base : Nat
  pitch : Nat
  reg : Option Nat
  hasPitch : Bool
  deriving DecidableEq, Repr

def cmdArgs (w : Warp) (cmd : MxCmd) : MxArgs :=
  match cmd.cb with
  | some b => mxArgs (fun i => (w.sreg (b + i)).val) cmd.base cmd.pitch
  | none => mxArgs (fun _ => 0) cmd.base cmd.pitch

/-- A fast-weight request of a group on a slot that has not taken effect. -/
def ArrReq.onSlot (r : ArrReq) (gid slot : Nat) : Option FwOp :=
  match r.op with
  | .fw o a => if r.gid = gid ∧ a.slot = slot ∧ !r.performed then some o else none
  | .mx _ _ => none

/-- The fast-weight requests on a slot of a group that have not taken effect, in arrival order, each with its warp. -/
def State.slotQueue (s : State) (g : Group) (gid slot : Nat) : List (Nat × FwOp) :=
  (s.core (g.cores.headD 0)).arr.filterMap fun r => (r.onSlot gid slot).map fun o => (r.wid, o)

/-- Whether a request gives its warp the slot's binding. -/
def FwOp.gives : FwOp → Bool
  | .bind => true
  | .bindSw _ => true
  | _ => false

/-- The warp that holds a slot's binding, and those to which a request on its way gives it (R315, R352). DEDUCED, log 36. -/
def State.binders (s : State) (g : Group) (gid slot : Nat) : List Nat :=
  (g.binds.find? slot).toList ++ ((s.slotQueue g gid slot).filter fun q => q.2.gives).map (·.1)

/-- Whether a region is held for a group, in the state owned or pinned (R315). -/
def Own.heldFor (o : Own) (gid : Nat) : Bool := (o.st == .owned || o.st == .pinned) && o.gid == some gid

/-- Check 4 of Table MX-6 on a row address (R315): the slot's regions, or DETAIL of the trap. -/
def State.slotReach (s : State) (w : Warp) (slot : Nat) : Except Nat (List Nat) :=
  match s.group w.gid with
  | none => .error 1
  | some g =>
    let k := s.core (g.cores.headD 0)
    let regs := k.slotRegions w.gid slot
    if regs.isEmpty || !(regs.all fun i => (k.ownAt i).heldFor w.gid) then .error 1
    else if (s.binders g w.gid slot).any (· != w.wid) then .error 2
    else .ok regs

/-- Checks 4 and 5 on the row addresses that an instruction uses. -/
def State.mxRows (s : State) (w : Warp) (eff : LaneMask) (o : MxOp) (a : MxArgs) : Except Trap (List Nat × List Nat) :=
  let used := (if o.use.rowA then [a.rowA] else []) ++ (if o.use.rowB then [a.rowB] else [])
  let reach := used.map fun r => (r, s.slotReach w (r / 256))
  let regs (r : Nat) : List Nat := ((s.slotReach w (r / 256)).toOption).getD []
  let bad := reach.filterMap fun p =>
    match p.2 with
    | .error d => some (trapAt cCulture eff d p.1)
    | .ok _ => none
  let high := used.filter fun r => decide (64 * (regs r).length < r % 256 + a.m)
  match bad, high with
  | t :: _, _ => .error t
  | [], r :: _ => .error (trapAt cAddressRange eff 0 r)
  | [], [] => .ok (if o.use.rowA then regs a.rowA else [], if o.use.rowB then regs a.rowB else [])

def elemMask (i j : Nat) : LaneMask := BitVec.ofNat 32 (64 * i + j)

/-- Checks 8 to 10 on the elements of an AST.GLOB: their locations, or the first failing check's trap. -/
def State.mxPages (s : State) (w : Warp) (es : List MxElem) : Except Trap (List (Nat × Nat × Loc)) :=
  let rs := es.map fun e => (e, s.lsCheck w .glob .write 4 e.addr)
  let fails (k : Nat) : List Trap := rs.filterMap fun p =>
    match p.2 with
    | .error f => if f.order = k then some (trapAt f.code (elemMask p.1.i p.1.j) f.detail p.1.addr true) else none
    | .ok _ => none
  match fails 5 ++ fails 6 ++ fails 7 with
  | t :: _ => .error t
  | [] => .ok (rs.filterMap fun p => p.2.toOption.map fun l => (p.1.i, p.1.j, l))

/-- The source registers' values of a vector form, register by register. -/
def Warp.regWords (w : Warp) (b n : Nat) : List Word :=
  (List.range n).flatMap fun i => (List.range 32).map fun l => (w.lane (b + i) l).val

/-- Checks 1 to 10 of Table MX-6 (R328): the request's operands, or the trap. -/
def State.mxCheck (s : State) (w : Warp) (eff : LaneMask) (cmd : MxCmd) : Except Trap MxArgs :=
  let o := cmd.op
  let a := cmdArgs w cmd
  let size := ((s.launchOf w).map (·.record.gmem)).getD 0
  let es := o.elems a
  let glob := o == .ast true
  let align := if glob then 4 else 16
  if eff ≠ fullMask then .error (trapAt cPartialMask eff)
  else if !s.matrixGroup w.gid then .error (trapAt cCulture eff 3)
  else if !(cmd.cb.all fun b => cbOk o fun i => (w.sreg (b + i)).val) then .error (trapAt cIllegalOperand eff 2)
  else if !(cmd.reg.all fun b => decide (b + 2 * a.m ≤ w.alloc)) then
    .error (trapAt cIllegalOperand eff (match o with
      | .adrn _ _ _ _ _ _ => 0
      | _ => 1))
  else
    match s.mxRows w eff o a with
    | .error t => .error t
    | .ok (ra, rb) =>
      let out (e : MxElem) : Bool := decide ((if glob then 2 ^ 57 else size) < e.addr + e.n)
      match es.find? out with
      | some e => .error (trapAt cAddressRange (elemMask e.i e.j) 0 e.addr e.wr)
      | none =>
        let vals := (if o.mem then [a.base] else []) ++ (if cmd.hasPitch then [a.pitch] else []) ++
          (if o.use.aux then [a.aux] else [])
        match vals.find? fun v => v % align != 0 with
        | some v => .error (trapAt cMisaligned eff 0 v)
        | none =>
          let a1 := { a with regsA := ra, regsB := rb, dst := cmd.reg.getD 0
                             src := match o with
                               | .adrn _ _ _ _ _ _ => []
                               | _ => (cmd.reg.map fun b => w.regWords b (2 * a.m)).getD [] }
          if glob then
            match s.mxPages w es with
            | .error t => .error t
            | .ok ls => .ok { a1 with locs := ls }
          else .ok a1

/-! ### Requests (R321, R329, R304) -/

def ArrOp.isFw : ArrOp → Bool
  | .mx _ _ => false
  | .fw _ _ => true

def ArrReq.isFw (r : ArrReq) : Bool := r.op.isFw

def ArrReq.ofWarp (r : ArrReq) (gid wid : Nat) : Bool := r.gid == gid && r.wid == wid

/-- Whether a fault is a pending fault of a warp's requests in the matrix engine (ORIGIN 5) or the fast-weight unit
(ORIGIN 6). -/
def arrFault (fw : Bool) (t : Trap) : Bool := t.origin == (if fw then 6 else 5) && (t.code == cPoison || t.code == cFabric)

/-- The addresses of global memory whose translations a request holds until it completes (R327, R366). -/
def ArrOp.addrs : ArrOp → List Nat
  | .mx _ a => a.locs.map fun p => a.base + p.1 * a.pitch + 4 * p.2.1
  | .fw _ a => a.pages.map fun p => 4096 * p.1

/-- Places a request in a core's list; behind a request of its warp that ended in error it is abandoned (R304). -/
def State.pushArr (s : State) (w : Warp) (h : Hdr) (op : ArrOp) : State :=
  let c := s.curCore
  let fw := op.isFw
  let mine (r : ArrReq) : Bool := r.isFw == fw && r.ofWarp w.gid w.wid
  let bad := w.faults.any (arrFault fw) || c.arr.any fun r => mine r && r.fault.isSome
  let r : ArrReq := { lid := ((s.groupOf w).map (·.launch)).getD 0, gid := w.gid, wid := w.wid, ord := w.order + 1, asid := s.asidOf w
                      flag := h.set, op := op, accepted := false, stage := .start, performed := bad, abandoned := bad
                      writes := [], fault := none, transl := s.translOf s.cur.1 (s.asidOf w) op.addrs, stale := [] }
  (s.walkedAll s.cur.1 r.asid (r.transl.map fun t => (t.1 : Int))).setCurCore { c with arr := c.arr ++ [r] }

/-- The course of a matrix word: row 6, the poison check, the checks of Table MX-6, one request. `regs` counts the
source registers that the poison check covers. -/
def matrixWord (h : Hdr) (len : Nat) (checks : Nat → Checks) (reads : Ctx → LaneMask → List Rd) (mk : Ctx → MxCmd)
    (s : State) : Host.Outcome State Fault Refusal :=
  issue h { len := len, checks := checks, spatialOk := false
            reads := fun m => match s.ctx with
              | some x => reads x m
              | none => [] }
    (fun x eff s' =>
      let cmd := mk x
      match s'.mxCheck x.w eff cmd with
      | .error t => .error t
      | .ok a => .ok (s'.pushArr x.w h (.mx cmd.op a))) s

/-- An even vector register within the allocation (R324). -/
def evenV (alloc : Nat) (o : Operand) : Bool :=
  match o with
  | .v r => decide (r.toNat < alloc) && r.toNat % 2 == 0
  | _ => false

/-- The reads of a control block. -/
def cbReads (cb : Operand) (m : LaneMask) : List Rd := [{ o := cb, n := 8, lanes := m }]

/-- The tile height that the control block names. -/
def Ctx.tileRows (x : Ctx) (cb : Operand) : Nat := 16 * ((x.w.sreg (regOf cb)).val.toNat % 32 + 1)

/-- A form whose only operand is its control block. -/
def matrixCb (h : Hdr) (o : MxOp) (cb : Operand) (s : State) : Host.Outcome State Fault Refusal :=
  matrixWord h 16 (fun _ => [(fSrc1, blockReg cb)]) (fun _ m => cbReads cb m)
    (fun _ => { op := o, cb := some (regOf cb), base := 0, pitch := 0, reg := none, hasPitch := false }) s

/-- A form with a memory base. -/
def matrixMem (h : Hdr) (o : MxOp) (wide : Bool) (a cb : Operand) (pitch : Option Word) (s : State) :
    Host.Outcome State Fault Refusal :=
  let aOk := sSrc wide a && (match a with
    | .special _ => !wide
    | _ => true)
  matrixWord h 16 (fun _ => [(fSrc0, aOk), (fSrc1, blockReg cb)]) (fun _ m => Rd.of a wide m :: cbReads cb m)
    (fun x => { op := o, cb := some (regOf cb), base := (x.read (if wide then .i64 else .i32) a 0).toNat
                pitch := (pitch.getD 0).toNat, reg := none, hasPitch := pitch.isSome }) s

/-- A form with a vector source. -/
def matrixVec (h : Hdr) (o : MxOp) (v cb : Operand) (s : State) : Host.Outcome State Fault Refusal :=
  matrixWord h 16 (fun A => [(fSrc0, evenV A v), (fSrc1, blockReg cb)])
    (fun x m => { o := v, n := 2 * x.tileRows cb, lanes := if m = 0 then 0 else fullMask } :: cbReads cb m)
    (fun _ => { op := o, cb := some (regOf cb), base := 0, pitch := 0, reg := some (regOf v), hasPitch := false }) s

/-- WLD (R330, R331). -/
def execWld (h : Hdr) (w : WldForm) (a cb : Operand) (pitch : BitVec 32) (s : State) : Host.Outcome State Fault Refusal :=
  matrixMem h (match w with
    | .b16 => .wldB 16
    | .b8 => .wldB 8
    | .q8 g => .wldQ 8 (gsize g)
    | .q4 g => .wldQ 4 (gsize g)) false a cb (some pitch) s

/-- WFLIP (R332). -/
def execWflip (h : Hdr) (s : State) : Host.Outcome State Fault Refusal :=
  matrixWord h 8 (fun _ => []) (fun _ _ => [])
    (fun _ => { op := .flip, cb := none, base := 0, pitch := 0, reg := none, hasPitch := false }) s

/-- The plane type that BTY names beside ta (Table MX-4). -/
def planeTy (ta : MTy) (bty : Bool) : MTy :=
  match ta with
  | .bf16 => if bty then .f16 else .bf16
  | .f16 => if bty then .f16 else .bf16
  | .e4m3 => if bty then .e5m2 else .e4m3
  | .e5m2 => if bty then .e5m2 else .e4m3

/-- MMS (R333). -/
def execMms (h : Hdr) (ta : MTy) (tb zi : Bool) (m : MatOpd) (cb : Operand) (s : State) :
    Host.Outcome State Fault Refusal :=
  match m with
  | .mem a pitch => matrixMem h (.mms ta (planeTy ta tb) zi false) false a cb (some pitch) s
  | .regs v => matrixVec h (.mms ta (planeTy ta tb) zi true) v cb s

/-- MMSQ (R335). -/
def execMmsq (h : Hdr) (q : QTy) (g : QGroup) (zi : Bool) (a cb : Operand) (pitch : BitVec 32) (s : State) :
    Host.Outcome State Fault Refusal := matrixMem h (.mmsq (qwidth q) (gsize g) zi) false a cb (some pitch) s

/-- ACLR (R336). -/
def execAclr (h : Hdr) (cb : Operand) (s : State) : Host.Outcome State Fault Refusal := matrixCb h .aclr cb s

/-- ALD (R337). -/
def execAld (h : Hdr) (m : MatOpd) (cb : Operand) (s : State) : Host.Outcome State Fault Refusal :=
  match m with
  | .mem a pitch => matrixMem h (.ald false) false a cb (some pitch) s
  | .regs v => matrixVec h (.ald true) v cb s

/-- AST (R338). -/
def execAst (h : Hdr) (sp : AstSpace) (a cb : Operand) (pitch : BitVec 32) (s : State) :
    Host.Outcome State Fault Refusal := matrixMem h (.ast (sp == .glob)) (sp == .glob) a cb (some pitch) s

/-- ADRN (R340). -/
def execAdrn (h : Hdr) (act : ActFn) (t : DrainTy) (bias sat clr : Bool) (m : MatOpd) (cb : Operand) (s : State) :
    Host.Outcome State Fault Refusal :=
  match m with
  | .mem a pitch => matrixMem h (.adrn act t bias sat clr false) false a cb (some pitch) s
  | .regs v =>
    matrixWord h 16 (fun A => [(fDst, evenV A v), (fSrc1, blockReg cb)]) (fun _ m => cbReads cb m)
      (fun _ => { op := .adrn act t bias sat clr true, cb := some (regOf cb), base := 0, pitch := 0
                  reg := some (regOf v), hasPitch := false }) s

/-- AMOV (R339). -/
def execAmov (h : Hdr) (cb : Operand) (s : State) : Host.Outcome State Fault Refusal := matrixCb h .amov cb s

/-- SMX (R342). -/
def execSmx (h : Hdr) (a cb : Operand) (pitch : BitVec 32) (s : State) : Host.Outcome State Fault Refusal :=
  matrixMem h .smx false a cb (some pitch) s

/-- SMXR.INIT (R343). -/
def execSmxrInit (h : Hdr) (cb : Operand) (s : State) : Host.Outcome State Fault Refusal := matrixCb h .smxrInit cb s

/-- SMXR.NORM (R343). -/
def execSmxrNorm (h : Hdr) (cb : Operand) (s : State) : Host.Outcome State Fault Refusal := matrixCb h .smxrNorm cb s

/-- SMXR.RD (R343). -/
def execSmxrRd (h : Hdr) (a cb : Operand) (s : State) : Host.Outcome State Fault Refusal :=
  matrixMem h .smxrRd false a cb none s

/-- SMXR.WR (R343). -/
def execSmxrWr (h : Hdr) (a cb : Operand) (s : State) : Host.Outcome State Fault Refusal :=
  matrixMem h .smxrWr false a cb none s

/-! ### Planes (R318 to R320, R330 to R332) -/

/-- The element of `w` bits at depth `k` of column `j` (R318). -/
def Plane.elem (p : Plane) (w k j : Nat) : Nat :=
  (p.cells.get 0 (64 * (k * w / 16) + j)).toNat / 2 ^ (k * w % 16) % 2 ^ w

/-- A plane from its elements of `w` bits. -/
def planeCells (w : Nat) (f : Nat → Nat → Nat) : SMap (BitVec 16) :=
  (List.range 128).flatMap fun c => (List.range 64).filterMap fun j =>
    let v := BitVec.ofNat 16 ((List.range (16 / w)).foldl (fun a t => a + f (16 / w * c + t) j % 2 ^ w * 2 ^ (w * t)) 0)
    if v = 0 then none else some (64 * c + j, v)

/-- A metadata table from its entries. -/
def planeTable (f : Nat → Nat → Nat) : SMap Word :=
  (List.range 64).flatMap fun j => (List.range 16).filterMap fun g =>
    let v := BitVec.ofNat 32 (f j g)
    if v = 0 then none else some (16 * j + g, v)

/-- A `w`-bit code as a signed integer. -/
def signedCode (w v : Nat) : Int := if v % 2 ^ w < 2 ^ (w - 1) then (v % 2 ^ w : Nat) else (v % 2 ^ w : Nat) - (2 ^ w : Nat)

/-- Bytes of a group's memory as a number. -/
def State.gm (s : State) (gid off n : Nat) : Nat := leNat (s.locRead (.sram gid off) n)

/-- Code `k` of a packed array at an offset (R50). -/
def State.code (s : State) (gid w off k : Nat) : Nat := s.gm gid (off + k * w / 8) 1 / 2 ^ (k * w % 8) % 2 ^ w

/-- The shadow plane that a WLD loads. -/
def State.wldPlane (s : State) (gid : Nat) (o : MxOp) (a : MxArgs) : Plane :=
  match o with
  | .wldB w =>
    { cells := planeCells w fun k j => if k < a.kv then s.gm gid (a.base + k * a.pitch + j * (w / 8)) (w / 8) else 0
      poison := [], table := [] }
  | .wldQ w g =>
    let n := (a.kv + g - 1) / g
    { cells := planeCells w fun k j => if k < a.kv then s.code gid w (a.base + j * a.pitch) k else 0
      poison := []
      table := planeTable fun j q => if q < n then
        s.gm gid (a.aux + 64 * j + 2 * q) 2 +
          65536 * (signedCode w (s.code gid w (a.aux + 64 * j + 32) q) % 256).toNat else 0 }
  | _ => Plane.zero

/-! ### Products and drains -/

/-- The left operand's element of MMS at row `i` and depth `k` (R327). -/
def State.leftElem (s : State) (gid : Nat) (ta : MTy) (regs : Bool) (a : MxArgs) (i k : Nat) : Nat :=
  let n := mtyWidth ta / 8
  let o := k * n
  if regs then
    (a.src.getD (32 * (2 * i + o / 128) + o % 128 / 4) 0).toNat / 2 ^ (8 * (o % 4)) % 2 ^ (8 * n)
  else s.gm gid (a.base + i * a.pitch + o) n

/-- One element of MMS (R333): a list of 16-deep steps over exact values. -/
def mmsElem (kv acc : Nat) (x y : Nat → Ex) : Nat :=
  (List.range ((kv + 15) / 16)).foldl (fun v q =>
    accStep v ((List.range 16).map fun t =>
      let k := 16 * q + t
      if k < kv then (x k, y k) else (Ex.ofInt 0, Ex.ofInt 0))) acc

/-- `acc_add` of R335. -/
def accAdd (x : Nat) (t : Ex) : Nat := round32 (sumEx .rne [f32Ex x, t])

/-- One element of MMSQ (R335): codes and zero points as integers, scales as exact values. -/
def mmsqElem (g kv acc : Nat) (ca cb : Nat → Int) (za zb : Nat → Int) (sa sb : Nat → Ex) : Nat :=
  (List.range ((kv + g - 1) / g)).foldl (fun v q =>
    let ds := (List.range g).foldl (fun d t =>
      let k := q * g + t
      if k < kv then d + (ca k - za q) * (cb k - zb q) else d) (0 : Int)
    accAdd v (((sa q).mul (sb q)).mul (Ex.ofInt ds))) acc

/-- R341. -/
def activate (act : ActFn) (lo hi x : Nat) : Nat :=
  match act with
  | .none => x
  | .relu =>
    match f32Ex x with
    | .nan => nan32
    | e => if e.isNeg || e.isZero then 0 else x
  | .gelu =>
    let u := mulF32 (mulF32 x x) x
    let t := mulF32 (fmaF32 0x3D372713 u x) 0x3F4C422A
    let h := mulF32 0x3F000000 x
    fmaF32 h (tanhAlg t) h
  | .silu => mulF32 x (rcpAlg (addF32 (exp2Alg (mulF32 x (negF32 constD1))) one32))
  | .clamp => minMaxEnc .f32 false (minMaxEnc .f32 true x lo) hi

/-- R340: an accumulator element drained. -/
def drain (act : ActFn) (t : DrainTy) (sat : Bool) (a : MxArgs) (bias : Option Nat) (v : Nat) : Nat :=
  let x := mulF32 v a.scl
  let y := match bias with
    | some b => addF32 x b
    | none => x
  let z := activate act a.lo a.hi y
  match t with
  | .f32 => z
  | .f16 => round (f32Ex z) .f16 .rne sat
  | .bf16 => round (f32Ex z) .bf16 .rne sat
  | .e4m3 => round (f32Ex z) .e4m3 .rne sat
  | .e5m2 => round (f32Ex z) .e5m2 .rne sat

/-- The tile of active rows and columns, in order. -/
def MxArgs.active (a : MxArgs) : List (Nat × Nat) := (List.range a.mv).flatMap fun i => a.cols.map fun j => (i, j)

def MxArgs.pa (a : MxArgs) (i : Nat) : Nat := physRow a.regsA (a.rowA % 256 + i)
def MxArgs.pb (a : MxArgs) (i : Nat) : Nat := physRow a.regsB (a.rowB % 256 + i)

/-- Writes a list of accumulator elements of the ROWA rows. -/
def Core.putTile (c : Core) (a : MxArgs) (xs : List ((Nat × Nat) × Nat)) : Core :=
  xs.foldl (fun q p => q.setAcc (a.pa p.1.1) p.1.2 p.2) c

/-- A row written whole and not read loses its poison (R329). -/
def Core.cleanRows (c : Core) (a : MxArgs) : Core :=
  if a.cols.length = 64 then
    { c with accPoison := (List.range a.mv).foldl (fun p i => p.remove (a.pa i)) c.accPoison } else c

/-! ### One row of SMX (R342) -/

/-- What SMX computes for a row: the new m and l, alpha, and the 64 values p as BF16 encodings. -/
structure SmxRow where
  m : Nat
  l : Nat
  alpha : Nat
  p : List Nat
  deriving DecidableEq, Repr

def negInf32 : Nat := 0xFF800000

def smxRow (a : MxArgs) (mo lo : Nat) (score : Nat → Nat) : SmxRow :=
  let sp (j : Nat) : Nat := mulF32 (score j) a.scl
  let mn := a.cols.foldl (fun m j => minMaxEnc .f32 true m (sp j)) mo
  let none_ := mn == negInf32
  let alpha := if none_ then one32 else exp2Alg (addF32 mo (negF32 mn))
  let p := (List.range 64).map fun j =>
    if none_ || !a.cmask.getLsbD j then 0 else round (f32Ex (exp2Alg (addF32 (sp j) (negF32 mn)))) .bf16 .rne false
  let t := round32 (sumEx .rne (Ex.ofInt 0 :: a.cols.map fun j => Fmt.bf16.toEx (p.getD j 0)))
  { m := mn, l := fmaF32 lo alpha t, alpha := alpha, p := p }

/-! ### Poison among a request's inputs (R329) -/

/-- The first group-memory element that a request reads in a poisoned granule. -/
def State.mxMemPoison (s : State) (gid : Nat) (o : MxOp) (a : MxArgs) : Option MxElem :=
  (o.elems a).find? fun e => !e.wr && s.locPoisoned (.sram gid e.addr) e.n

/-- The accumulator elements that a request reads: tile position, row address of the row's operand, physical row. -/
def MxOp.accReads (o : MxOp) (a : MxArgs) : List ((Nat × Nat) × Nat × Nat) :=
  let rowsA := a.active.map fun p => (p, a.rowA + p.1, a.pa p.1)
  let rowsB := a.active.map fun p => (p, a.rowB + p.1, a.pb p.1)
  let allA := (List.range a.mv).map fun i => ((i, 0), a.rowA + i, a.pa i)
  match o with
  | .mms _ _ zi _ => if zi then [] else rowsA
  | .mmsq _ _ zi => if zi then [] else rowsA
  | .ast _ => rowsA
  | .adrn _ _ _ _ _ _ => rowsA
  | .amov => rowsB
  | .smx => rowsB ++ allA
  | .smxrNorm => rowsA
  | _ => []

/-- The side registers that a request reads. -/
def MxOp.sideReads (o : MxOp) (a : MxArgs) : List ((Nat × Nat) × Nat × Nat) :=
  let sideA := (List.range a.mv).map fun i => ((i, 0), a.rowA + i, a.pa i)
  let sideB := (List.range a.mv).map fun i => ((i, 0), a.rowB + i, a.pb i)
  match o with
  | .smx => sideB
  | .smxrNorm => if a.cols.isEmpty then [] else sideB
  | .smxrRd => sideA
  | _ => []

/-- The plane elements that a request reads, as tile column and plane cell. -/
def MxOp.planeReads (o : MxOp) (a : MxArgs) : List ((Nat × Nat) × Nat) :=
  let cells (w : Nat) : List ((Nat × Nat) × Nat) :=
    a.cols.flatMap fun j => (List.range a.kv).map fun k => ((0, j), 64 * (k * w / 16) + j)
  match o with
  | .mms ta _ _ _ => cells (mtyWidth ta)
  | .mmsq w _ _ => cells w
  | _ => []

/-- A pending fault of the matrix engine. -/
def mxFault (code : BitVec 6) (i j detail addr : Nat) (wr : Bool) : Trap :=
  { code := code, xaddr := BitVec.ofNat 64 addr, xmask := elemMask i j, origin := 5, unit := 0
    detail := BitVec.ofNat 8 detail, wr := wr }

/-- The pending fault of a request that meets poison among its inputs: group memory, accumulator rows, the plane. DEDUCED, log 35. -/
def State.mxPoison (s : State) (c gid : Nat) (o : MxOp) (a : MxArgs) : Option Trap :=
  let k := s.core c
  match s.mxMemPoison gid o a with
  | some e => some (mxFault cPoison e.i e.j 0 e.addr false)
  | none =>
    match ((o.accReads a).find? fun p => k.accPoison.has p.2.2).orElse fun _ =>
        (o.sideReads a).find? fun p => k.sidePoison.has p.2.2 with
    | some p => some (mxFault cPoison p.1.1 p.1.2 1 p.2.1 false)
    | none =>
      match (o.planeReads a).find? fun p => k.active.poison.has p.2 with
      | some p => some (mxFault cPoison p.1.1 p.1.2 2 0 false)
      | none => none

/-! ### The effect of a request -/

/-- Writes elements of group memory in order. -/
def State.gmWrites (s : State) (gid : Nat) (xs : List (Nat × Nat × Nat)) : State :=
  xs.foldl (fun q p => q.locWrite (.sram gid p.1) (leBytes p.2.1 p.2.2)) s

/-- The writes of an ADRN to vector registers: lanes of active elements (R327). -/
def drainWrites (a : MxArgs) (out : Nat → Nat → Nat) : List Wr :=
  (List.range a.mv).flatMap fun i => (List.range 2).filterMap fun h =>
    let m := maskOf fun l => a.cmask.getLsbD (32 * h + l)
    if m = 0 then none
    else some (.v (a.dst + 2 * i + h) m (tabVal fun l => BitVec.ofNat 32 (out i (32 * h + l))))

/-- What a request that meets no poison does on a core: the state, its register writes, and the pending fault of an
AST.GLOB that meets an error reply. SMXR.INIT and SMXR.WR clear the poison of the side registers that they write, and an ADRN reads
every bias word first. DEDUCED, log 35. -/
def State.mxEffect (s : State) (c gid : Nat) (o : MxOp) (a : MxArgs) : State × List Wr × Option Trap :=
  let k := s.core c
  let quiet (x : Core) : State × List Wr × Option Trap := (s.setCore c x, [], none)
  let accA (i j : Nat) : Nat := k.accAt (a.pa i) j
  match o with
  | .wldB _ => quiet { k with shadow := s.wldPlane gid o a }
  | .wldQ _ _ => quiet { k with shadow := s.wldPlane gid o a }
  | .flip => quiet { k with active := k.shadow, shadow := k.active }
  | .mms ta tb zi regs =>
    let w := mtyWidth ta
    let y (j kk : Nat) : Ex := (fmtOfM tb).toEx (k.active.elem w kk j)
    let k1 := k.putTile a (a.active.map fun p =>
      (p, mmsElem a.kv (if zi then 0 else accA p.1 p.2) (fun d => (fmtOfM ta).toEx (s.leftElem gid ta regs a p.1 d)) (y p.2)))
    quiet (if zi then k1.cleanRows a else k1)
  | .mmsq w g zi =>
    let meta_ (i : Nat) : Nat := a.aux + 64 * i
    let k1 := k.putTile a (a.active.map fun p =>
      (p, mmsqElem g a.kv (if zi then 0 else accA p.1 p.2)
        (fun d => signedCode w (s.code gid w (a.base + p.1 * a.pitch) d)) (fun d => signedCode w (k.active.elem w d p.2))
        (fun q => signedCode w (s.code gid w (meta_ p.1 + 32) q))
        (fun q => signedCode 8 ((k.active.table.get 0 (16 * p.2 + q)).toNat / 65536))
        (fun q => Fmt.f16.toEx (s.gm gid (meta_ p.1 + 2 * q) 2))
        (fun q => Fmt.f16.toEx ((k.active.table.get 0 (16 * p.2 + q)).toNat % 65536))))
    quiet (if zi then k1.cleanRows a else k1)
  | .aclr => quiet ((k.putTile a (a.active.map fun p => (p, 0))).cleanRows a)
  | .ald regs =>
    let v (i j : Nat) : Nat :=
      if regs then (a.src.getD (32 * (2 * i + j / 32) + j % 32) 0).toNat else s.gm gid (a.base + i * a.pitch + 4 * j) 4
    quiet ((k.putTile a (a.active.map fun p => (p, v p.1 p.2))).cleanRows a)
  | .ast glob =>
    if glob then
      let bad := a.locs.filter fun p => s.locErr p.2.2
      let s1 := a.locs.foldl (fun q p => if s.locErr p.2.2 then q else q.locStore (.die (dieOf c)) p.2.2 (leBytes 4 (accA p.1 p.2.1))) s
      (s1, [], match bad with
        | [] => none
        | p :: _ => some (mxFault cFabric p.1 p.2.1 3 (a.base + p.1 * a.pitch + 4 * p.2.1) true))
    else
      (s.gmWrites gid (a.active.map fun p => (a.base + p.1 * a.pitch + 4 * p.2, 4, accA p.1 p.2)), [], none)
  | .adrn act t bias sat clr regs =>
    let out (i j : Nat) : Nat :=
      drain act t sat a (if bias then some (s.gm gid (a.aux + 4 * j) 4) else none) (accA i j)
    let s1 := if clr then s.setCore c (k.putTile a (a.active.map fun p => (p, 0))) else s
    if regs then (s1, drainWrites a out, none)
    else
      let n := drainBytes t
      (s1.gmWrites gid (a.active.map fun p => (a.base + p.1 * a.pitch + n * p.2, n, out p.1 p.2)), [], none)
  | .amov => quiet (k.putTile a (a.active.map fun p => (p, k.accAt (a.pb p.1) p.2)))
  | .smx =>
    let rows := (List.range a.mv).map fun i =>
      (i, smxRow a (k.sideM.get 0 (a.pb i)).toNat (k.sideL.get 0 (a.pb i)).toNat fun j => k.accAt (a.pb i) j)
    let k1 := rows.foldl (fun q p =>
      { q with sideM := q.sideM.set 0 (a.pb p.1) (BitVec.ofNat 32 p.2.m)
               sideL := q.sideL.set 0 (a.pb p.1) (BitVec.ofNat 32 p.2.l) }) k
    let k2 := k1.putTile a (rows.flatMap fun p => (List.range 64).map fun j => ((p.1, j), mulF32 (accA p.1 j) p.2.alpha))
    ((s.setCore c k2).gmWrites gid (rows.flatMap fun p => (List.range 64).map fun j =>
      (a.base + p.1 * a.pitch + 2 * j, 2, p.2.p.getD j 0)), [], none)
  | .smxrInit =>
    quiet ((List.range a.mv).foldl (fun q i =>
      { q with sideM := q.sideM.set 0 (a.pa i) (BitVec.ofNat 32 negInf32), sideL := q.sideL.set 0 (a.pa i) 0
               sidePoison := q.sidePoison.remove (a.pa i) }) k)
  | .smxrNorm => quiet (k.putTile a (a.active.map fun p =>
      (p, mulF32 (accA p.1 p.2) (rcpAlg (k.sideL.get 0 (a.pb p.1)).toNat))))
  | .smxrRd =>
    (s.gmWrites gid ((List.range a.mv).flatMap fun i =>
      [(a.base + 8 * i, 4, (k.sideM.get 0 (a.pa i)).toNat), (a.base + 8 * i + 4, 4, (k.sideL.get 0 (a.pa i)).toNat)]), [], none)
  | .smxrWr =>
    quiet ((List.range a.mv).foldl (fun q i =>
      { q with sideM := q.sideM.set 0 (a.pa i) (BitVec.ofNat 32 (s.gm gid (a.base + 8 * i) 4))
               sideL := q.sideL.set 0 (a.pa i) (BitVec.ofNat 32 (s.gm gid (a.base + 8 * i + 4) 4))
               sidePoison := q.sidePoison.remove (a.pa i) }) k)

/-- A matrix request takes effect whole; one that meets poison changes nothing (R329). -/
def State.mxPerform (s : State) (c gid : Nat) (o : MxOp) (a : MxArgs) : State × List Wr × Option Trap :=
  match s.mxPoison c gid o a with
  | some t => (s, [], some t)
  | none => s.mxEffect c gid o a

/-! ### The requests run (R16, R17, R32, R320, R368) -/

/-- The accumulator regions that a request names. -/
def ArrOp.regions : ArrOp → List Nat
  | .mx _ a => a.regsA ++ a.regsB
  | .fw _ a => a.regs

/-- The requests that reach a plane. -/
def ArrOp.plane : ArrOp → Bool
  | .mx (.wldB _) _ => true
  | .mx (.wldQ _ _) _ => true
  | .mx .flip _ => true
  | .mx (.mms _ _ _ _) _ => true
  | .mx (.mmsq _ _ _) _ => true
  | _ => false

/-- Whether a request releases or rebinds its regions (R315). -/
def ArrOp.moves : ArrOp → Bool
  | .mx _ _ => false
  | .fw o _ =>
    match o with
    | .bind => true
    | .bindSw _ => true
    | .rel _ => true
    | _ => false

/-- Whether a request waits for an earlier one that has not taken effect: one of its warp in its engine or with a common
region, one of its engine with a common region, one that keeps a region which it would release or rebind (R315), or one at
the planes when it reaches them too. -/
def ArrReq.waitsFor (r q : ArrReq) : Bool :=
  let common := r.op.regions.any fun i => q.op.regions.contains i
  let sameWarp := q.ofWarp r.gid r.wid
  let sameEng := q.isFw == r.isFw
  !q.performed && ((sameEng && sameWarp) || (sameEng && common) || (sameWarp && common) || (r.op.moves && common) ||
    (q.op.plane && r.op.plane))

/-- Replaces the n-th element of a list. -/
def setAt {α : Type} (n : Nat) (x : α) (xs : List α) : List α :=
  match n, xs with
  | _, [] => []
  | 0, _ :: rest => x :: rest
  | k + 1, y :: rest => y :: setAt k x rest

def State.setArr (s : State) (c n : Nat) (r : ArrReq) : State :=
  s.setCore c { s.core c with arr := setAt n r (s.core c).arr }

/-- The n-th request of a core has taken effect: with an error, every later request of its warp in its engine that has
not taken effect is abandoned (R304, R329, R378). -/
def State.arrDone (s : State) (c n : Nat) (writes : List Wr) (fault : Option Trap) : State :=
  match takeAt n (s.core c).arr with
  | none => s
  | some (r, rest) =>
    let later := rest.drop n
    let mine (q : ArrReq) : Bool := q.isFw == r.isFw && q.ofWarp r.gid r.wid
    let stop (q : ArrReq) : ArrReq :=
      if fault.isSome && mine q && !q.performed then { q with performed := true, abandoned := true } else q
    s.setCore c { s.core c with arr := (s.core c).arr.take n ++ { r with performed := true, writes := writes, fault := fault } :: later.map stop }

/-- Whether an array cycle begins with the present cycle of a core: on every second one, and at once on the cores of a
die. Which of the two is the model's choice. DESIGN CHOICE, log 60. -/
def Core.boundary (k : Core) : Bool := (k.cycle + k.phase) % 2 == 0

/-- ARRAY_REQUEST_ACCEPT (R32): the n-th request of a core is accepted at an array-cycle boundary. A core's cycle that is a
boundary does not end before every request that has arrived is accepted (State.coreCycle). -/
def execArrayRequestAccept (c n : Nat) (s : State) : Host.Outcome State Fault Refusal :=
  match (s.core c).arr[n]? with
  | none => .next s
  | some r => if (s.core c).boundary then .next (s.setArr c n { r with accepted := true }) else .next s

/-- Whether the n-th request of a core may take effect. -/
def Core.arrReady (c : Core) (n : Nat) : Option ArrReq :=
  match c.arr[n]? with
  | none => none
  | some r => if r.accepted && !r.performed && !((c.arr.take n).any fun q => r.waitsFor q) then some r else none

/-- Completes the n-th request of a core: its register writes land, its flag falls, and its fault becomes pending
(R321, R329, R367, R378). -/
def State.arrComplete (s : State) (c n : Nat) (fw : Bool) : State :=
  match takeAt n (s.core c).arr with
  | none => s
  | some (r, rest) =>
    let behind := r.abandoned && (rest.take n).any fun q => q.isFw == r.isFw && q.ofWarp r.gid r.wid
    if r.performed && r.isFw == fw && !behind then
      let s1 := s.setCore c { s.core c with arr := rest }
      let s2 := s1.completeOf r.gid r.wid r.ord r.writes r.flag
      match r.fault with
      | some t => s2.pendFault r.lid r.gid r.wid t
      | none => s2
    else s

/-- MATRIX_REQUEST_COMPLETION (R321). -/
def execMatrixRequestCompletion (c n : Nat) (s : State) : Host.Outcome State Fault Refusal :=
  .next (s.arrComplete c n false)

end Sys2Proof.Machine
end

