-- ==== Sys2Proof/Machine/FastWeight.lean ====
section
/-! DEFINITION. The fast-weight unit and cultures (spec/12_fast_weight_unit.md): records and their CRC, spills and
fills, the checks of Table FW-9, the requests, and the accumulator port that both engines share. -/

namespace Sys2Proof.Machine

/-! ### CRC-32C (R360) -/

/-- One bit of the reflected CRC. -/
def crcBit (n x : Nat) : Nat :=
  match n with
  | 0 => x
  | k + 1 => crcBit k (if x % 2 = 1 then (x / 2) ^^^ 0x82F63B78 else x / 2)

/-- CRC-32C of a list of bytes. -/
def crc32c (bs : List Byte) : Nat := (bs.foldl (fun c b => crcBit 8 (c ^^^ b.toNat)) 0xFFFFFFFF) ^^^ 0xFFFFFFFF

/-! ### Culture records (R358, R359) -/

/-- The address of a handle's record (Table FW-4). -/
def recordVa (sp : Space) (handle : Nat) : Nat := sp.cspb + 0x11000 * (handle % 65536)

/-- The size of a record's header and data. -/
def recordSize (dv dk : Nat) : Nat := 64 + 4 * dv * dk

/-- The header without its CRC (Table FW-5). -/
def headerBytes (dv dk handle asid : Nat) : List Byte :=
  leBytes 4 0x46574331 ++ leBytes 2 1 ++ leBytes 1 (dv / 16) ++ leBytes 1 (dk / 16) ++ leBytes 4 handle ++
  leBytes 2 asid ++ List.replicate 46 0

/-- A translation of a virtual address for an access of a unit: the physical address and the compressed attribute. -/
abbrev Tr := Nat → Except GFault (Nat × Bool)

/-- The translations that a request holds. -/
def heldTr (pages : List (Nat × Nat × Bool)) : Tr := fun va =>
  match pages.find? fun p => p.1 == va / 4096 with
  | some p => .ok (p.2.1 + va % 4096, p.2.2)
  | none => .error .translation

/-- The translations that a unit of a core finds at the moment of the access. -/
def State.liveTr (s : State) (c asid : Nat) (acc : Access) : Tr := fun va =>
  if va < 2 ^ 57 then s.probe c asid va acc else .error .translation

/-! ### Where a culture lies (R346) -/

/-- Accumulator columns of a culture row, in units of 64. -/
def colUnits (dk : Nat) : Nat := (dk + 63) / 64

/-- Slot row and column of element (i, j). -/
def cultRow (dk i j : Nat) : Nat := colUnits dk * i + j / 64

/-- An element of a culture. -/
def Core.cult (c : Core) (regs : List Nat) (dk i j : Nat) : Nat := c.accAt (physRow regs (cultRow dk i j)) (j % 64)

def Core.setCult (c : Core) (regs : List Nat) (dk i j v : Nat) : Core := c.setAcc (physRow regs (cultRow dk i j)) (j % 64) v

/-- The slot rows that hold a culture. -/
def cultRows (dv dk : Nat) : List Nat := List.range (colUnits dk * dv)

/-- The slot rows that hold row i of a culture: one, or two where dk is above 64. -/
def rowsOfCult (dk i : Nat) : List Nat := (List.range (colUnits dk)).map (· + colUnits dk * i)

/-- Whether row i of a culture is poisoned: some row of the accumulator that holds a part of it is. -/
def Core.cultBad (c : Core) (regs : List Nat) (dk i : Nat) : Bool :=
  (rowsOfCult dk i).any fun r => c.accPoison.has (physRow regs r)

/-- Poisons row i of a culture whole. -/
def Core.spoilCult (c : Core) (regs : List Nat) (dk i : Nat) : Core :=
  { c with accPoison := (rowsOfCult dk i).foldl (fun p r => p.add (physRow regs r)) c.accPoison }

/-- The element indices of a culture, row by row. -/
def cultIdx (dv dk : Nat) : List (Nat × Nat) := (List.range dv).flatMap fun i => (List.range dk).map fun j => (i, j)

/-! ### Spill and fill (R361, R362) -/

/-- A core's fast-weight unit writes 64 bytes at a virtual address and, if asked, poisons their sector. -/
def State.putSector (s : State) (c : Nat) (tr : Tr) (va : Nat) (bs : List Byte) (poison : Bool) : Except Unit State :=
  match tr va with
  | .error _ => .error ()
  | .ok (pa, comp) =>
    if s.errReply pa then .error ()
    else
      let s1 := s.store (.die (dieOf c)) pa bs comp
      .ok (if poison then s1.setSec (pa / 64) true else s1)

/-- The 64-byte sectors of a culture's data: offset, bytes as written, and whether its row is poisoned. -/
def Core.cultSectors (c : Core) (regs : List Nat) (dv dk : Nat) : List (Nat × List Byte × Bool) :=
  (List.range dv).flatMap fun i => (List.range (dk / 16)).map fun k =>
    let bad := c.cultBad regs dk i
    (64 + 4 * (dk * i + 16 * k),
     if bad then List.replicate 64 0 else (List.range 16).flatMap fun t => leBytes 4 (c.cult regs dk i (16 * k + t)), bad)

/-- A spill (R361): the data, then the header. With an error reply the other sectors are written and the record stays
unpublished; the answer names the address that failed. -/
def State.spill (s : State) (c : Nat) (tr : Tr) (va : Nat) (regs : List Nat) (dv dk handle asid : Nat) : State × Option Nat :=
  let secs := (s.core c).cultSectors regs dv dk
  let r := secs.foldl (fun (p : State × Option Nat) q =>
    match p.1.putSector c tr (va + q.1) q.2.1 q.2.2 with
    | .ok s' => (s', p.2)
    | .error _ => (p.1, p.2.orElse fun _ => some (va + q.1))) (s, none)
  match r.2 with
  | some _ => r
  | none =>
    let hd := headerBytes dv dk handle asid
    match r.1.putSector c tr va (hd ++ leBytes 4 (crc32c (hd ++ secs.flatMap fun q => q.2.1))) false with
    | .ok s' => (s', none)
    | .error _ => (r.1, some va)

/-- Reads 64 bytes at a virtual address: none when the read meets poison, a fault or an error reply. -/
def State.getSector (s : State) (tr : Tr) (va : Nat) : Option (List Byte) :=
  match tr va with
  | .error _ => none
  | .ok (pa, _) => if s.errReply pa || s.memPoisoned pa 64 then none else some (s.memRead pa 64)

/-- What a fill finds (R362). -/
inductive FillResult where
  | empty
  | pass (sectors : List (Option (List Byte)))
  | fail
  deriving DecidableEq, Repr

/-- Reads and checks a record. -/
def State.readRecord (s : State) (tr : Tr) (va dv dk handle asid : Nat) : FillResult :=
  match s.getSector tr va with
  | none => .fail
  | some hd =>
    if hd.all (· == 0) then .empty
    else
      let secs := (List.range (dv * dk / 16)).map fun k => s.getSector tr (va + 64 + 64 * k)
      let want := headerBytes dv dk handle asid
      let data := secs.flatMap fun x => x.getD (List.replicate 64 0)
      if hd.take 60 = want ∧ leNat (hd.drop 60) = crc32c (want ++ data) then .pass secs else .fail

/-- Applies a fill to a core's regions. `scratch` says that scratch elements become +0. -/
def Core.applyFill (c : Core) (regs : List Nat) (dv dk : Nat) (scratch : Bool) (r : FillResult) : Core :=
  let c0 := if scratch then
      { c with acc := c.acc.filter fun p => !regs.contains (p.1 / 4096)
               accPoison := c.accPoison.filter fun row => !regs.contains (row / 64) }
    else c
  let rows := (cultRows dv dk).map (physRow regs)
  let clean (x : Core) : Core := { x with accPoison := x.accPoison.filter fun row => !rows.contains row }
  match r with
  | .fail => { c0 with accPoison := rows.foldl NSet.add c0.accPoison }
  | .empty => clean ((cultIdx dv dk).foldl (fun q p => q.setCult regs dk p.1 p.2 0) c0)
  | .pass secs =>
    ((List.range dv).flatMap fun i => (List.range (dk / 16)).map fun k => (i, k)).foldl (fun q p =>
      match secs.getD (dk / 16 * p.1 + p.2) none with
      | some bs => (List.range 16).foldl (fun x t => x.setCult regs dk p.1 (16 * p.2 + t) (leNat ((bs.drop (4 * t)).take 4))) q
      | none => q.spoilCult regs dk p.1) (clean c0)

/-- The elements of a slot's regions that hold no culture element become +0, and a row without culture elements loses its
poison (R354). -/
def Core.clearScratch (c : Core) (regs : List Nat) (dv dk : Nat) : Core :=
  let slotRow (row : Nat) : Option Nat := (regs.findIdx? fun i => i == row / 64).map fun i => 64 * i + row % 64
  let scratch (row col : Nat) : Bool := (slotRow row).any fun r =>
    decide (colUnits dk * dv ≤ r) || decide (dk ≤ 64 * (r % colUnits dk) + col)
  { c with acc := c.acc.filter fun p => !scratch (p.1 / 64) (p.1 % 64)
           accPoison := c.accPoison.filter fun row => !(slotRow row).any fun r => decide (colUnits dk * dv ≤ r) }

/-- The reads of [va, va + n) by a party, 64 bytes at a time, as the caches meet them. -/
def State.readThrough (s : State) (p : Party) (tr : Tr) (va n : Nat) : State :=
  (List.range ((n + 63) / 64)).foldl (fun t k =>
    match tr (va + 64 * k) with
    | .ok (pa, _) => t.access p pa 64 .read
    | .error _ => t) s

/-- The 4 KiB pages of a range. -/
def pagesIn (va n : Nat) : List Nat := (List.range ((va + n - 1) / 4096 + 1 - va / 4096)).map (· + va / 4096)

/-- The walks of the pages of a range (R185). -/
def State.walkedPages (s : State) (c asid va n : Nat) : State :=
  s.walkedAll c asid ((pagesIn va n).map fun p => ((max va (4096 * p) : Nat) : Int))

/-- A fill of a slot's regions; a record that fails its checks is recorded in the event log. Answers FERR. -/
def State.fill (s : State) (c : Nat) (tr : Tr) (va : Nat) (regs : List Nat) (dv dk handle asid : Nat) (scratch : Bool) :
    State × Bool :=
  let r := s.readRecord tr va dv dk handle asid
  let s0 := s.readThrough (.die (dieOf c)) tr va (recordSize dv dk)
  let s1 := s0.setCore c ((s0.core c).applyFill regs dv dk scratch r)
  if r = .fail then (s1.logDie 5 (dieOf c) c (BitVec.ofNat 64 handle), true) else (s1, false)

/-! ### The directory (R349 to R351) -/

/-- Sets the entries of a list of regions. -/
def Core.setRegions (c : Core) (regs : List Nat) (f : Own → Own) : Core :=
  { c with own := regs.foldl (fun m i => m.set Own.free i (f (c.ownAt i))) c.own }

/-- A region freed; one that is reserved stays so, and keeps its retention attribute for a CBIND.SW (R370). -/
def Own.release (o : Own) : Own := { Own.free with resv := o.resv, pin := o.resv.isSome && o.pin }

/-- The resident copy of a handle: its core and regions (R351). -/
def State.residentCopy (s : State) (asid handle : Nat) : Option (Nat × List Nat) :=
  (List.range 512).findSome? fun c =>
    let k := s.core c
    let rs := k.regionsOf fun o => decide (o.st ≠ .free ∧ o.asid = asid ∧ o.handle = handle)
    if rs.isEmpty then none else some (c, rs)

/-- The regions of the culture that a region of a core holds. -/
def Core.sameCulture (c : Core) (i : Nat) : List Nat :=
  let o := c.ownAt i
  c.regionsOf fun q => decide (q.st = o.st ∧ q.asid = o.asid ∧ q.handle = o.handle)

/-- Whether a CBIND.SW on its way takes a handle for a slot of a group (R351). -/
def ArrReq.takes (r : ArrReq) (asid handle : Nat) : Option (Nat × Nat) :=
  match r.op with
  | .fw (.bindSw h) a => if h = handle ∧ r.asid = asid ∧ !r.performed then some (r.gid, a.slot) else none
  | _ => none

/-- Whether a group of the address space other than `gid` holds a handle, resident or saved, or takes it with a CBIND.SW on
its way, or another slot of `gid` does (R349, R351, check 7 of Table FW-9). -/
def State.handleHeld (s : State) (asid gid slot handle : Nat) : Bool :=
  (s.cores.any fun p => p.2.arr.any fun r => (r.takes asid handle).any fun q => q != (gid, slot)) ||
  (s.groups.any fun p => ((s.launch p.2.launch).any fun l => l.asid == asid) &&
    p.2.handles.any fun q => q.2 == handle && (p.1 != gid || q.1 != slot)) ||
  s.launches.any fun p => p.2.asid == asid && p.2.saved.any fun q => q.2.handles.any fun k => k.2 == handle

/-! ### Issue (R364 to R367) -/

/-- A trap of a fast-weight instruction (R366). -/
def fwTrap (code : BitVec 6) (eff : LaneMask) (detail addr : Nat) (wr : Bool := false) : Trap :=
  { trapAt code eff detail addr wr with origin := 6 }

/-- What a fast-weight word asks for. -/
structure FwCmd where
  op : FwOp
  slot : Nat
  cb : Option Nat
  deriving DecidableEq, Repr

/-- R365. -/
def fwBlockOk (op : FwOp) (r : Nat → Word) : Bool :=
  let c := (r 0).toNat
  let raddr := (r 7 ++ r 6).toNat
  c / 256 == 0 && c / 4 % 4 == 0 && r 5 == 0 &&
  (r 1).toNat % 16 == 0 && (r 2).toNat % 16 == 0 && (r 4).toNat % 65536 % 16 == 0 && (r 4).toNat / 65536 % 16 == 0 &&
  (match op with
    | .delta rec => (r 3).toNat % 8 == 0 && (if rec then raddr % 64 == 0 && decide (raddr < 2 ^ 57) else raddr == 0)
    | _ => r 3 == 0 && raddr == 0)

/-- The operands of a fast-weight request; a block gives its fields (Table FW-8). -/
def fwArgs (slot dv dk : Nat) (regs : List Nat) (r : Nat → Word) : FwArgs :=
  { slot := slot, regs := regs, dv := dv, dk := dk, nt := (r 0).toNat / 16 % 16 + 1, koff := (r 1).toNat
    voff := (r 2).toNat, goff := (r 3).toNat, kp := (r 4).toNat % 65536, vp := (r 4).toNat / 65536
    raddr := (r 7 ++ r 6).toNat, pages := [] }

/-- The group-memory elements of a request: offset, bytes, written. -/
def FwArgs.elems (a : FwArgs) (op : FwOp) : List (Nat × Nat × Bool) :=
  (List.range a.nt).flatMap fun t =>
    let ks := (List.range a.dk).map fun j => (a.koff + t * a.kp + 2 * j, 2, false)
    match op with
    | .delta _ => [(a.goff + 8 * t, 4, false), (a.goff + 8 * t + 4, 4, false)] ++ ks ++
        (List.range a.dv).map fun i => (a.voff + t * a.vp + 2 * i, 2, false)
    | .dqry => ks ++ (List.range a.dv).map fun i => (a.voff + t * a.vp + 4 * i, 4, true)
    | _ => []

/-- Bytes of a token record (R373). -/
def tokenBytes (dv : Nat) : Nat := 64 + 4 * dv

/-- The size of what a spill of the resident copy of a handle writes, by the copy's own shape. -/
def State.copySize (s : State) (asid handle : Nat) : Nat :=
  match s.residentCopy asid handle with
  | some (d, rs) => let o := (s.core d).ownAt (rs.headD 0); recordSize (16 * o.dv16) (16 * o.dk16)
  | none => 0

/-- The records of memory that a request writes or reads: address and size. A CBIND.SW also writes the resident copy of its new
handle, of `copy` bytes, before it reads the record (R370). -/
def FwCmd.records (cmd : FwCmd) (sp : Space) (a : FwArgs) (cur : Nat) (copy : Nat → Nat) : List (Nat × Nat) :=
  let rec_ (h : Nat) : Nat × Nat := (recordVa sp h, recordSize a.dv a.dk)
  match cmd.op with
  | .delta true => [(a.raddr, a.nt * tokenBytes a.dv)]
  | .spill => [rec_ cur]
  | .fill => [rec_ cur]
  | .bindSw h => if h = cur then [] else [rec_ cur, (recordVa sp h, max (recordSize a.dv a.dk) (copy h))]
  | _ => []

/-- Check 8 of Table FW-9 on the records: the translations found, or the trap. -/
def State.fwPages (s : State) (asid : Nat) (eff : LaneMask) (rs : List (Nat × Nat)) :
    Except Trap (List (Nat × Nat × Bool)) :=
  match rs.find? fun r => decide (2 ^ 57 < r.1 + r.2) with
  | some r => .error (fwTrap cAddressRange eff 0 (max r.1 (2 ^ 57)) true)
  | none =>
    let ps := rs.flatMap fun r => (pagesIn r.1 r.2).map fun p => (p, max r.1 (4096 * p), s.probe s.cur.1 asid (4096 * p) .write)
    let fails (ok : GFault → Bool) : List Trap := ps.filterMap fun p =>
      match p.2.2 with
      | .error f => if ok f then some (fwTrap f.code eff f.detail p.2.1 true) else none
      | .ok _ => none
    match fails (fun f => f == .translation || f == .walkPoison || f == .walkError) ++ fails (fun f => f == .protection) ++
        fails (fun f => f == .fabric || f == .poison) with
    | t :: _ => .error t
    | [] => .ok (ps.filterMap fun p => p.2.2.toOption.map fun q => (p.1, q.1, q.2))

/-- Whether an instruction asks for the binding of the issuing warp (check 6 of Table FW-9). -/
def FwOp.needsBinding : FwOp → Bool
  | .delta _ => true
  | .dqry => true
  | .spill => true
  | .fill => true
  | .rel _ => true
  | _ => false

def FwOp.isStat : FwOp → Bool
  | .stat _ _ => true
  | _ => false

/-- Whether a warp holds a slot's binding once its own requests on their way have taken effect (R368). DEDUCED, log 36. -/
def State.bindsAfter (s : State) (g : Group) (gid slot wid : Nat) : Bool :=
  ((s.slotQueue g gid slot).filter fun q => q.1 == wid).foldl (fun b q =>
    match q.2 with
    | .bind => true
    | .bindSw _ => true
    | .rel _ => false
    | _ => b) (g.binds.find? slot == some wid)

/-- The handle that a slot has for a warp: that of the last CBIND.SW of its own on its way, or the slot's. -/
def State.handleAfter (s : State) (g : Group) (gid slot wid : Nat) : Nat :=
  ((s.slotQueue g gid slot).filter fun q => q.1 == wid).foldl (fun b q =>
    match q.2 with
    | .bindSw h => h
    | _ => b) (g.handles.get 0 slot)

/-- The checks of Table FW-9: the request's operands, or the trap. -/
def State.fwCheck (s : State) (w : Warp) (eff : LaneMask) (cmd : FwCmd) : Except Trap FwArgs :=
  let r (i : Nat) : Word := match cmd.cb with
    | some b => (w.sreg (b + i)).val
    | none => 0
  if eff ≠ fullMask then .error (fwTrap cPartialMask eff 0 0)
  else if !s.matrixGroup w.gid then .error (fwTrap cCulture eff 3 0)
  else if cmd.cb.isSome && !fwBlockOk cmd.op r then .error (fwTrap cIllegalOperand eff 2 0)
  else
    match s.groupOf w, s.launchOf w, s.spaceOf w with
    | some g, some l, some sp =>
      match l.record.cults.find? cmd.slot with
      | none => .error (fwTrap cCulture eff 1 cmd.slot)
      | some k =>
        let regs := (s.core (g.cores.headD 0)).slotRegions w.gid cmd.slot
        let cur := s.handleAfter g w.gid cmd.slot w.wid
        let swaps := (s.slotQueue g w.gid cmd.slot).any fun q => match q.2 with
          | .bindSw _ => true
          | _ => false
        if regs.isEmpty || !(swaps || regs.all fun i => ((s.core (g.cores.headD 0)).ownAt i).heldFor w.gid) then
          .error (fwTrap cCulture eff 1 cmd.slot)
        else if !cmd.op.isStat && (s.binders g w.gid cmd.slot).any (· != w.wid) then .error (fwTrap cCulture eff 2 cur)
        else if cmd.op.needsBinding && !s.bindsAfter g w.gid cmd.slot w.wid then .error (fwTrap cCulture eff 4 cur)
        else
          let bad : Option Trap := match cmd.op with
            | .bindSw h =>
              if h = 0 then some (fwTrap cCulture eff 6 h)
              else if s.handleHeld l.asid w.gid cmd.slot h then some (fwTrap cCulture eff 5 h) else none
            | _ => none
          match bad with
          | some t => .error t
          | none =>
            let a := fwArgs cmd.slot (16 * k.dv16) (16 * k.dk16) regs r
            match (a.elems cmd.op).find? fun e => decide (l.record.gmem < e.1 + e.2.1) with
            | some e => .error (fwTrap cAddressRange eff 0 e.1 e.2.2)
            | none =>
              match s.fwPages l.asid eff (cmd.records sp a cur (s.copySize l.asid)) with
              | .error t => .error t
              | .ok ps => .ok { a with pages := ps }
    | _, _, _ => .error (fwTrap cCulture eff 3 0)

/-- The course of a fast-weight word. -/
def fwWord (h : Hdr) (checks : Checks) (reads : LaneMask → List Rd) (mk : Ctx → FwCmd) (s : State) :
    Host.Outcome State Fault Refusal :=
  issue h { len := 8, checks := fun _ => checks, reads := reads, spatialOk := false }
    (fun x eff s' =>
      let cmd := mk x
      match s'.fwCheck x.w eff cmd with
      | .error t => .error t
      | .ok a => .ok (s'.pushArr x.w h (.fw cmd.op a))) s

/-- A form with a slot operand alone. -/
def fwSlot (h : Hdr) (op : FwOp) (cs : Operand) (s : State) : Host.Outcome State Fault Refusal :=
  fwWord h [(fSrc0, sSrc false cs)] (fun m => [Rd.of cs false m]) (fun x => { op := op, slot := x.n32 cs, cb := none }) s

/-- CBIND (R370). -/
def execCbind (h : Hdr) (cs : Operand) (s : State) : Host.Outcome State Fault Refusal := fwSlot h .bind cs s

/-- CBIND.SW (R370). -/
def execCbindSw (h : Hdr) (cs hd : Operand) (s : State) : Host.Outcome State Fault Refusal :=
  fwWord h [(fSrc0, sSrc false cs), (fSrc1, sSrc false hd)] (fun m => [Rd.of cs false m, Rd.of hd false m])
    (fun x => { op := .bindSw (x.n32 hd), slot := x.n32 cs, cb := none }) s

/-- CREL (R371). -/
def execCrel (h : Hdr) (cs : Operand) (s : State) : Host.Outcome State Fault Refusal := fwSlot h (.rel none) cs s

/-- CREL.PIN (R371). -/
def execCrelPin (h : Hdr) (cs : Operand) (s : State) : Host.Outcome State Fault Refusal :=
  fwSlot h (.rel (some true)) cs s

/-- CREL.UNPIN (R371). -/
def execCrelUnpin (h : Hdr) (cs : Operand) (s : State) : Host.Outcome State Fault Refusal :=
  fwSlot h (.rel (some false)) cs s

/-- A form with a control block, whose SLOT field names the slot. -/
def fwBlock (h : Hdr) (op : FwOp) (cb : Operand) (s : State) : Host.Outcome State Fault Refusal :=
  fwWord h [(fSrc1, blockReg cb)] (cbReads cb)
    (fun x => { op := op, slot := (x.w.sreg (regOf cb)).val.toNat % 4, cb := some (regOf cb) }) s

/-- DELTA (R372). -/
def execDelta (h : Hdr) (rec : Bool) (cb : Operand) (s : State) : Host.Outcome State Fault Refusal :=
  fwBlock h (.delta rec) cb s

/-- DQRY (R374). -/
def execDqry (h : Hdr) (cb : Operand) (s : State) : Host.Outcome State Fault Refusal := fwBlock h .dqry cb s

/-- CSPILL (R375). -/
def execCspill (h : Hdr) (cs : Operand) (s : State) : Host.Outcome State Fault Refusal := fwSlot h .spill cs s

/-- CFILL (R376). -/
def execCfill (h : Hdr) (cs : Operand) (s : State) : Host.Outcome State Fault Refusal := fwSlot h .fill cs s

/-- The course of CSTAT. -/
def fwStat (h : Hdr) (hd : Bool) (d cs : Operand) (s : State) : Host.Outcome State Fault Refusal :=
  fwWord h [(fDst, sDst false d), (fSrc0, sSrc false cs)] (fun m => [Rd.of cs false m])
    (fun x => { op := .stat (regOf d) hd, slot := x.n32 cs, cb := none }) s

/-- CSTAT (R377). -/
def execCstat (h : Hdr) (d cs : Operand) (s : State) : Host.Outcome State Fault Refusal := fwStat h false d cs s

/-- CSTAT.H (R377). -/
def execCstatH (h : Hdr) (d cs : Operand) (s : State) : Host.Outcome State Fault Refusal := fwStat h true d cs s

/-! ### DELTA and DQRY (R372 to R374) -/

/-- The dot product of a culture row with a vector, in steps of 16 (R52). -/
def Core.cultDot (c : Core) (regs : List Nat) (dk i : Nat) (x : List Ex) : Nat :=
  (List.range (dk / 16)).foldl (fun p q =>
    accStep p ((List.range 16).map fun t => (f32Ex (c.cult regs dk i (16 * q + t)), x.getD (16 * q + t) (Ex.ofInt 0)))) 0

/-- BF16 elements of group memory as exact values. -/
def State.gmBf16 (s : State) (gid off n : Nat) : List Ex := (List.range n).map fun j => Fmt.bf16.toEx (s.gm gid (off + 2 * j) 2)

/-- One token of DELTA: the core after it, with the errors e. -/
def Core.deltaToken (c : Core) (regs : List Nat) (dv dk al be : Nat) (k v : List Ex) : Core × List Nat :=
  let es := (List.range dv).map fun i =>
    round32 (sumEx .rne [(f32Ex (negF32 al)).mul (f32Ex (c.cultDot regs dk i k)), v.getD i (Ex.ofInt 0)])
  let c' := (cultIdx dv dk).foldl (fun q p =>
    let b := mulF32 be (es.getD p.1 0)
    q.setCult regs dk p.1 p.2 (accStep 0
      ((f32Ex al, f32Ex (c.cult regs dk p.1 p.2)) :: (f32Ex b, k.getD p.2 (Ex.ofInt 0)) :: List.replicate 14 (Ex.ofInt 0, Ex.ofInt 0)))) c
  (c', es)

/-- The words of a token record (R373). -/
def tokenWords (al be : Nat) (es : List Nat) : List Nat := al :: be :: List.replicate 14 0 ++ es

/-- A core's fast-weight unit writes words at a virtual address; those that meet an error reply are not performed, and the first
is answered. -/
def State.putWords (s : State) (c : Nat) (tr : Tr) (va : Nat) (ws : List Nat) : State × Option Nat :=
  (List.range ws.length).foldl (fun (p : State × Option Nat) i =>
    match tr (va + 4 * i) with
    | .error _ => p
    | .ok (pa, comp) =>
      if p.1.errReply pa then (p.1, p.2.orElse fun _ => some (va + 4 * i))
      else (p.1.store (.die (dieOf c)) pa (leBytes 4 (ws.getD i 0)) comp, p.2)) (s, none)

/-- The tokens of DELTA in order, from token `t`; `n` remain. -/
def State.deltaTokens (s : State) (c gid : Nat) (a : FwArgs) (rec : Bool) (t n : Nat) : State × Option Nat :=
  match n with
  | 0 => (s, none)
  | m + 1 =>
    let al := s.gm gid (a.goff + 8 * t) 4
    let be := s.gm gid (a.goff + 8 * t + 4) 4
    let r := (s.core c).deltaToken a.regs a.dv a.dk al be (s.gmBf16 gid (a.koff + t * a.kp) a.dk)
      (s.gmBf16 gid (a.voff + t * a.vp) a.dv)
    let s1 := s.setCore c r.1
    let p := if rec then s1.putWords c (heldTr a.pages) (a.raddr + t * tokenBytes a.dv) (tokenWords al be r.2) else (s1, none)
    let q := p.1.deltaTokens c gid a rec (t + 1) m
    (q.1, p.2.orElse fun _ => q.2)

/-- The queries of DQRY. -/
def State.dqryTokens (s : State) (c gid : Nat) (a : FwArgs) : State :=
  (List.range a.nt).foldl (fun st t =>
    let q := st.gmBf16 gid (a.koff + t * a.kp) a.dk
    st.gmWrites gid ((List.range a.dv).map fun i => (a.voff + t * a.vp + 4 * i, 4, (st.core c).cultDot a.regs a.dk i q))) s

/-- A pending fault of the fast-weight unit (R378). -/
def fwFault (code : BitVec 6) (detail addr : Nat) (wr : Bool) : Trap :=
  { code := code, xaddr := BitVec.ofNat 64 addr, xmask := fullMask, origin := 6, unit := 0
    detail := BitVec.ofNat 8 detail, wr := wr }

/-- The first poisoned input of DELTA or DQRY: group memory, then culture rows. -/
def State.fwPoison (s : State) (c gid : Nat) (op : FwOp) (a : FwArgs) : Option Trap :=
  match (a.elems op).find? fun e => !e.2.2 && s.locPoisoned (.sram gid e.1) e.2.1 with
  | some e => some (fwFault cPoison 0 e.1 false)
  | none =>
    ((cultRows a.dv a.dk).find? fun r => (s.core c).accPoison.has (physRow a.regs r)).map fun r =>
      fwFault cPoison 1 (256 * a.slot + r) false

/-- The status word of Table FW-10. -/
def Core.cultStatus (c : Core) (a : FwArgs) : Word :=
  let o := c.ownAt (a.regs.headD 0)
  let pois := (cultRows a.dv a.dk).any fun r => c.accPoison.has (physRow a.regs r)
  BitVec.ofNat 32 ((if o.bound then 2 ^ 31 + o.bwarp * 2 ^ 26 else 0) + (if o.pin then 2 ^ 25 else 0) +
    (if o.ferr then 2 ^ 24 else 0) + (if pois then 2 ^ 23 else 0) + a.regs.length * 2 ^ 16 + a.dv / 16 * 256 + a.dk / 16)

/-! ### The accumulator port (R17) -/

/-- The binding of a slot changes: in its group and in the entries of its regions (R352). -/
def State.bindSlot (s : State) (c gid slot : Nat) (regs : List Nat) (wid : Option Nat) : State :=
  let s1 := s.setCore c ((s.core c).setRegions regs fun o => { o with bound := wid.isSome, bwarp := wid.getD 0 })
  match s1.group gid with
  | none => s1
  | some g =>
    s1.setGroup gid { g with binds := match wid with
      | some w => g.binds.put slot w
      | none => g.binds.del slot }

/-- The warp of a request, if it has not retired: a binding does not outlive its warp (R352). -/
def State.liveWarp (s : State) (r : ArrReq) : Option Nat := if (s.slotOf r.gid r.wid).isSome then some r.wid else none

/-- Step of a CBIND.SW that changes cultures (R370). The old culture starts to spill, unless its record's writes meet an error
reply: then it stays where it is, and the request ends in its fault (R378). Once it is published, the new handle's resident
copy, if it is pinned, starts to spill under the same condition; once there is none, the fill begins. DESIGN CHOICE, log 37. -/
def State.swapStep (s : State) (c n : Nat) (r : ArrReq) (h : Nat) (a : FwArgs) : State :=
  match r.stage with
  | .start =>
    let o := (s.core c).ownAt (a.regs.headD 0)
    if o.handle = h then (s.bindSlot c r.gid a.slot a.regs (s.liveWarp r)).arrDone c n [] none
    else
      let va := ((s.space r.asid).map fun sp => recordVa sp o.handle).getD 0
      let p := s.spill c (heldTr a.pages) va a.regs a.dv a.dk o.handle r.asid
      match p.2 with
      | some bad => p.1.arrDone c n [] (some (fwFault cFabric 3 bad true))
      | none =>
        let x := (s.core c).setRegions a.regs fun o => { o with st := .spilling, resv := some (r.gid, a.slot, o.part) }
        (s.setCore c x).setArr c n { r with stage := .spillOld }
  | .spillOld => s
  | .spillNew =>
    match s.residentCopy r.asid h with
    | some (d, rs) =>
      let o := (s.core d).ownAt (rs.headD 0)
      if o.st ≠ .pinned then s
      else
        let p := s.spill d (heldTr a.pages) (((s.space r.asid).map fun sp => recordVa sp h).getD 0) rs (16 * o.dv16) (16 * o.dk16) h r.asid
        match p.2 with
        | some bad => p.1.arrDone c n [] (some (fwFault cFabric 3 bad true))
        | none => (s.setCore d ((s.core d).setRegions rs fun o => { o with st := .spilling })).setArr c n { r with stage := .spillCopy }
    | none =>
      let x := (s.core c).setRegions a.regs fun o =>
        { Own.free with st := .filling, pin := o.pin, slot := a.slot, part := ((o.resv.map (·.2.2)).getD 0), asid := r.asid
                        handle := h, gid := some r.gid, lid := r.lid, dv16 := a.dv / 16, dk16 := a.dk / 16 }
      (s.setCore c x).setArr c n { r with stage := .fill }
  | .spillCopy => s
  | .fill => s

/-- A fast-weight request at the port. -/
def State.fwPerform (s : State) (c n : Nat) (r : ArrReq) (op : FwOp) (a : FwArgs) : State :=
  let k := s.core c
  let rec_ : Nat := ((s.space r.asid).map fun sp => recordVa sp (k.ownAt (a.regs.headD 0)).handle).getD 0
  match op with
  | .bind =>
    (if (s.liveWarp r).isSome then s.bindSlot c r.gid a.slot a.regs (some r.wid) else s).arrDone c n [] none
  | .bindSw h => s.swapStep c n r h a
  | .rel pin =>
    ((s.setCore c (k.setRegions a.regs fun o => { o with pin := pin.getD o.pin })).bindSlot c r.gid a.slot a.regs none).arrDone c n [] none
  | .delta rec =>
    match s.fwPoison c r.gid op a with
    | some t => s.arrDone c n [] (some t)
    | none =>
      let p := s.deltaTokens c r.gid a rec 0 a.nt
      p.1.arrDone c n [] (p.2.map fun va => fwFault cFabric 3 va true)
  | .dqry =>
    match s.fwPoison c r.gid op a with
    | some t => s.arrDone c n [] (some t)
    | none => (s.dqryTokens c r.gid a).arrDone c n [] none
  | .spill =>
    let p := s.spill c (heldTr a.pages) rec_ a.regs a.dv a.dk (k.ownAt (a.regs.headD 0)).handle r.asid
    p.1.arrDone c n [] (p.2.map fun va => fwFault cFabric 3 va true)
  | .fill =>
    let p := s.fill c (heldTr a.pages) rec_ a.regs a.dv a.dk (k.ownAt (a.regs.headD 0)).handle r.asid false
    (p.1.setCore c ((p.1.core c).setRegions a.regs fun o => { o with ferr := p.2 })).arrDone c n [] none
  | .stat d hd =>
    let v : Word := if hd then BitVec.ofNat 32 (k.ownAt (a.regs.headD 0)).handle else k.cultStatus a
    s.arrDone c n [.s d { val := v, tag := .clean }] none

/-- ACCUMULATOR_PORT_ACCESS (R17, R320): the n-th request of a core takes effect, if no request that it waits for is
still to do so. -/
def execAccumulatorPortAccess (c n : Nat) (s : State) : Host.Outcome State Fault Refusal :=
  match (s.core c).arrReady n with
  | none => .next s
  | some r =>
    match r.op with
    | .mx o a =>
      let p := s.mxPerform c r.gid o a
      .next (p.1.arrDone c n p.2.1 p.2.2)
    | .fw o a => .next (s.fwPerform c n r o a)

/-- FW_REQUEST_COMPLETION (R367). -/
def execFwRequestCompletion (c n : Nat) (s : State) : Host.Outcome State Fault Refusal := .next (s.arrComplete c n true)

/-! ### Spills and fills of regions (R350, R354 to R357, R370) -/

/-- The CBIND.SW at a stage whose slot takes in a region. -/
def Core.swapAt (c : Core) (i : Nat) (st : SwStage) : Option (Nat × ArrReq × FwArgs) :=
  (List.range c.arr.length).findSome? fun n =>
    match c.arr[n]? with
    | some r =>
      match r.op with
      | .fw (.bindSw _) a => if r.stage = st ∧ a.regs.contains i ∧ !r.performed then some (n, r, a) else none
      | _ => none
    | none => none

/-- The CBIND.SW that spills the pinned copy of a handle, wherever that is: its core, its place and its operands. -/
def State.copySpiller (s : State) (asid handle : Nat) : Option (Nat × Nat × ArrReq × FwArgs) :=
  s.cores.findSome? fun q => (List.range q.2.arr.length).findSome? fun n =>
    match q.2.arr[n]? with
    | some r =>
      match r.op with
      | .fw (.bindSw h) a => if h = handle ∧ r.asid = asid ∧ r.stage = .spillCopy ∧ !r.performed then some (q.1, n, r, a) else none
      | _ => none
    | none => none

/-- CULTURE_SPILL (R361): the culture in a region of a core in the spilling state is written to its record, and its
regions become free. An error of a departure or an eviction loses the contents (R378), and so does one of a CBIND.SW that comes
after its writes were found to succeed, which also leaves a pending fault. DESIGN CHOICE, log 37. -/
def State.cultureSpill (s : State) (c i : Nat) : State :=
  let k := s.core c
  let o := k.ownAt i
  if o.st ≠ .spilling then s
  else
    let regs := k.sameCulture i
    let dv := 16 * o.dv16
    let dk := 16 * o.dk16
    let va := ((s.space o.asid).map fun sp => recordVa sp o.handle).getD 0
    match k.swapAt i .spillOld with
    | some (n, r, a) =>
      let p := s.spill c (heldTr a.pages) va regs dv dk o.handle o.asid
      match p.2 with
      | none =>
        (p.1.setCore c ((p.1.core c).setRegions regs Own.release)).setArr c n { r with stage := .spillNew }
      | some bad =>
        (p.1.setCore c ((p.1.core c).setRegions regs Own.release)).arrDone c n [] (some (fwFault cFabric 3 bad true))
    | none =>
      match s.copySpiller o.asid o.handle with
      | some (d, n, r, a) =>
        let p := s.spill c (heldTr a.pages) va regs dv dk o.handle o.asid
        let s1 := p.1.setCore c ((p.1.core c).setRegions regs Own.release)
        match p.2 with
        | none => s1.setArr d n { r with stage := .spillNew }
        | some bad => s1.arrDone d n [] (some (fwFault cFabric 3 bad true))
      | none =>
        let p := (s.walkedPages c o.asid va (recordSize dv dk)).spill c (s.liveTr c o.asid .write) va regs dv dk o.handle o.asid
        let s1 := p.1.setCore c ((p.1.core c).setRegions regs Own.release)
        if p.2.isSome then s1.logDie 6 (dieOf c) c (BitVec.ofNat 64 o.handle) else s1

/-- CULTURE_SPILL (R361) for a region of a core. -/
def execCultureSpill (c : Nat) (i : BitVec 4) (s : State) : Host.Outcome State Fault Refusal := .next (s.cultureSpill c i.toNat)

/-- The handle of a slot becomes that of the culture that a CBIND.SW has filled into it (R370). -/
def State.setHandle (s : State) (gid slot handle : Nat) : State :=
  match s.group gid with
  | some g => s.setGroup gid { g with handles := g.handles.put slot handle }
  | none => s

/-- CULTURE_FILL (R362): the regions of a culture in the filling state are loaded and become owned, and FERR tells whether the
fill failed its checks; the scratch elements become +0 (R354, R370). -/
def State.cultureFill (s : State) (c i : Nat) : State :=
  let k := s.core c
  let o := k.ownAt i
  if o.st ≠ .filling then s
  else
    let regs := k.sameCulture i
    let va := ((s.space o.asid).map fun sp => recordVa sp o.handle).getD 0
    let swap := k.swapAt i .fill
    let tr := match swap with
      | some (_, _, a) => heldTr a.pages
      | none => s.liveTr c o.asid .read
    let s0 := if swap.isSome then s else s.walkedPages c o.asid va (recordSize (16 * o.dv16) (16 * o.dk16))
    let p := s0.fill c tr va regs (16 * o.dv16) (16 * o.dk16) o.handle o.asid true
    let s1 := p.1.setCore c ((p.1.core c).setRegions regs fun x => { x with st := .owned, ferr := p.2, resv := none })
    match swap with
    | some (n, r, a) => ((s1.bindSlot c r.gid a.slot regs (s1.liveWarp r)).setHandle r.gid a.slot o.handle).arrDone c n [] none
    | none => s1

/-- CULTURE_FILL (R362) for a region of a core. -/
def execCultureFill (c : Nat) (i : BitVec 4) (s : State) : Host.Outcome State Fault Refusal := .next (s.cultureFill c i.toNat)

/-- CULTURE_EVICTION (R353, R356): a pinned culture in a region that a placement has reserved starts to spill. -/
def execCultureEviction (c : Nat) (i : BitVec 4) (s : State) : Host.Outcome State Fault Refusal :=
  let k := s.core c
  let o := k.ownAt i.toNat
  let regs := k.sameCulture i.toNat
  if o.st = .pinned ∧ regs.any (fun j => (k.ownAt j).resv.isSome) then
    .next (s.setCore c (k.setRegions regs fun x => { x with st := .spilling }))
  else .next s

/-! ### Departure (R355, R357) -/

/-- Whether every matrix and fast-weight request of a group on a core has completed. -/
def Core.arrIdle (c : Core) (gid : Nat) : Bool := c.arr.all fun r => r.gid != gid

/-- The cultures of a group leave its core: pinned ones stay, the others start to spill. -/
def State.depart (s : State) (c gid : Nat) : State :=
  let mine (o : Own) : Bool := o.gid == some gid && o.st == .owned
  if (List.range 16).any fun i => mine ((s.core c).ownAt i) then
    let t := s.tick
    t.2.setCore c ((t.2.core c).mapOwn mine fun o =>
      if o.pin then { o with st := .pinned, gid := none, bound := false, bwarp := 0, since := t.1 }
      else { o with st := .spilling, gid := none, bound := false, bwarp := 0 })
  else s

/-- An entry without its reservation for a group. -/
def Own.unreserve (o : Own) (gid : Nat) : Own :=
  match o.resv with
  | some (g, _, _) => if g = gid then (if o.st = .free then Own.free else { o with resv := none }) else o
  | none => o

/-- A forced reset zeroes and frees the regions of a group (R357). -/
def Core.freeRegions (c : Core) (gid : Nat) : Core :=
  let regs := (List.range 16).filter fun i => (c.ownAt i).gid == some gid
  { c with own := (List.range 16).foldl (fun m i =>
             let o := (c.ownAt i).unreserve gid
             m.set Own.free i (if regs.contains i then o.release else o)) c.own
           acc := c.acc.filter fun p => !regs.contains (p.1 / 4096)
           accPoison := c.accPoison.filter fun row => !regs.contains (row / 64) }

end Sys2Proof.Machine
end

