-- ==== Sys2Proof/Machine/Spatial.lean ====
section
/-! DEFINITION. The spatial fabric (spec/13_spatial_fabric.md): configuration images (R98 to R103), the six spatial
instructions, node firings, edge generators and their faults. -/

namespace Sys2Proof.Machine

/-! ### Rectangles (Table EN-2) -/

def Rect.width : Rect → Nat
  | .s11 => 1
  | .s21 => 2
  | .s12 => 1
  | .s22 => 2

def Rect.height : Rect → Nat
  | .s11 => 1
  | .s21 => 1
  | .s12 => 2
  | .s22 => 2

def rectCores (r : Rect) : Nat := Rect.width r * Rect.height r

def rectCode : Rect → Nat
  | .s11 => 0
  | .s21 => 1
  | .s12 => 2
  | .s22 => 3

/-! ### Configuration images (R98 to R103, R390) -/

/-- The `n` bytes at an offset of an image as a number. -/
def field (bs : List Byte) (off n : Nat) : Nat := leNat ((bs.drop off).take n)

/-- R98, R103: the header of an image for a rectangle. -/
def headerOk (r : Rect) (h : List Byte) : Bool :=
  let n := field h 8 2
  let q := field h 10 2
  let sh := field h 12 1
  field h 0 4 == 0x47464E43 && field h 4 2 == 1 && field h 6 1 == Rect.width r && field h 7 1 == Rect.height r &&
  decide (1 ≤ n ∧ n ≤ 128 * rectCores r) && decide (1 ≤ q ∧ q ≤ 1023) && decide (sh ≤ 8 * rectCores r) &&
  field h 13 3 == 0 && field h 20 44 == 0 &&
  field h 16 4 == 64 + 16 * n + (4 * q + 15) / 16 * 16 + 48 * sh

def queueField (x : Nat) : Option Nat := if x = 0x3FF then none else some x

/-- Node record `w1 : w0` (Table EC-14). -/
def nodeOf (w0 w1 : Nat) : Node :=
  { op := w0 / 2 ^ 59 % 32, ty := w0 / 2 ^ 55 % 16, fn := w0 / 2 ^ 51 % 16, kin := w0 / 2 ^ 50 % 2 == 1
    in0 := queueField (w0 / 2 ^ 40 % 1024), in1 := queueField (w0 / 2 ^ 30 % 1024), in2 := queueField (w0 / 2 ^ 20 % 1024)
    out0 := queueField (w0 / 2 ^ 10 % 1024), out1 := queueField (w0 % 1024)
    const := BitVec.ofNat 32 (w1 / 2 ^ 32), param := BitVec.ofNat 32 w1 }

/-- How an operator uses a field: it must name a queue, may, or must not. -/
inductive Use where
  | need | may | no
  deriving DecidableEq, Repr

/-- What Table EC-16 gives an operator: types, FUNC values for a type, the three inputs, the two outputs, and whether
KIN, CONST and PARAM have a meaning. -/
structure OpSpec where
  types : List Nat
  fn : Nat → Nat → Bool
  ins : Use × Use × Use
  outs : Use × Use
  kin : Bool
  const : Bool
  param : Bool

def isFloatTy (t : Nat) : Bool := decide (2 ≤ t ∧ t ≤ 6)

/-- Table EC-16 and the notes of R390; none for a reserved code. -/
def opSpec (op : Nat) : Option OpSpec :=
  let num := [0, 1, 2, 3, 4]
  let bits := [0, 1, 7]
  let any_ := [0, 1, 2, 3, 4, 5, 6, 7]
  let f0 : Nat → Nat → Bool := fun _ f => f == 0
  let arith : Nat → Nat → Bool := fun t f => if isFloatTy t then decide (f < 4) else f == 0 || f == 4
  let two : Use × Use × Use := (.need, .need, .no)
  let three : Use × Use × Use := (.need, .need, .need)
  let one : Use × Use × Use := (.need, .no, .no)
  let o : Use × Use := (.need, .may)
  let both : Use × Use := (.need, .need)
  match op with
  | 0x00 => some ⟨[0], f0, (.no, .no, .no), (.no, .no), false, false, false⟩
  | 0x01 => some ⟨[0, 1, 2, 3, 4, 7], arith, two, o, true, false, false⟩
  | 0x02 => some ⟨[0, 1, 2, 3, 4, 7], arith, two, o, true, false, false⟩
  | 0x03 => some ⟨[0, 1, 2, 3, 4, 7], arith, two, o, true, false, false⟩
  | 0x04 => some ⟨[2, 3, 4], fun _ f => decide (f < 4), three, o, true, false, false⟩
  | 0x05 => some ⟨num, f0, two, o, true, false, false⟩
  | 0x06 => some ⟨num, f0, two, o, true, false, false⟩
  | 0x07 => some ⟨bits, fun _ f => decide (f < 4), two, o, true, false, false⟩
  | 0x08 => some ⟨bits, fun _ f => decide (f < 3), two, o, true, false, false⟩
  | 0x09 => some ⟨num, fun _ f => decide (f < 6), two, o, true, false, false⟩
  | 0x0A => some ⟨any_, f0, three, o, false, false, false⟩
  | 0x0B => some ⟨any_, f0, one, o, false, false, true⟩
  | 0x0C => some ⟨[2], f0, two, o, false, false, true⟩
  | 0x0D => some ⟨[2], fun _ f => decide (f < 7), one, o, false, false, false⟩
  | 0x0E => some ⟨any_, f0, two, both, false, false, false⟩
  | 0x0F => some ⟨any_, f0, three, o, false, false, false⟩
  | 0x10 => some ⟨any_, f0, three, o, false, false, false⟩
  | 0x11 => some ⟨any_, f0, two, o, false, false, false⟩
  | 0x12 => some ⟨num, fun _ f => decide (f < 8 ∧ f % 4 < 3), one, o, false, true, false⟩
  | 0x13 => some ⟨[0, 1], f0, one, o, false, true, true⟩
  | 0x14 => some ⟨[7], f0, one, o, false, true, true⟩
  | 0x15 => some ⟨any_, f0, (.may, .no, .no), o, false, false, false⟩
  | 0x16 => some ⟨any_, f0, (.need, .may, .no), (.no, .no), false, false, false⟩
  | 0x17 => some ⟨any_, f0, one, both, false, false, false⟩
  | _ => none

def Use.ok (u : Use) (nq : Nat) (f : Option Nat) : Bool :=
  match u, f with
  | .need, some q => decide (q < nq)
  | .need, none => false
  | .may, some q => decide (q < nq)
  | .may, none => true
  | .no, x => x.isNone

/-- R99, R100, R390: a node record is well formed. -/
def nodeOk (nq : Nat) (n : Node) : Bool :=
  match opSpec n.op with
  | none => false
  | some o =>
    let p := n.param.toNat
    o.types.contains n.ty && o.fn n.ty n.fn && (!n.kin || o.kin) &&
    o.ins.1.ok nq n.in0 && (if n.kin then n.in1.isNone else o.ins.2.1.ok nq n.in1) && o.ins.2.2.ok nq n.in2 &&
    o.outs.1.ok nq n.out0 && o.outs.2.ok nq n.out1 &&
    (o.const || n.kin || n.const == 0) && (o.param || n.param == 0) &&
    (n.op != 0x0B || (decide (p < 128) && decide (p % 16 < 8))) &&
    (n.op != 0x0C || (decide (p < 128) && p / 32 % 2 == 0 && decide (3 ≤ p % 16 ∧ p % 16 ≤ 6)))

def Node.ins (n : Node) : List Nat := [n.in0, n.in1, n.in2].filterMap id
def Node.outs (n : Node) : List Nat := [n.out0, n.out1].filterMap id

/-- A shape record (Table EC-17) as a generator of a rectangle. -/
structure ShapeRec where
  node : Nat
  genr : Nat
  ok : Bool
  gen : Gen
  deriving DecidableEq, Repr

def shapeOf (b : List Byte) : ShapeRec :=
  let w := field b 8 8
  let dims := w / 2 ^ 42 % 4
  let es := w / 2 ^ 40 % 4
  let node := w / 2 ^ 47 % 512
  let ext := (List.range 4).map fun d => field b (16 + 8 * d) 4
  let str := (List.range 4).map fun d => BitVec.ofNat 32 (field b (20 + 8 * d) 4)
  { node := node, genr := w / 2 ^ 44 % 8
    ok := decide (field b 0 8 < 2 ^ 57) && w / 2 ^ 56 == 0 && w % 2 ^ 39 == 0 && decide (es < 2) &&
      (List.range 4).all fun d => if d ≤ dims then decide (1 ≤ ext.getD d 0) else ext.getD d 0 == 0 && str.getD d 0 == 0
    gen := { node := node, rank := node / 128, sink := w / 2 ^ 39 % 2 == 1, esize := if es = 0 then 2 else 4, dims := dims
             cbase := field b 0 8, base := field b 0 8, ext := ext, stride := str, pos := 0, active := false
             pwait := false, ready := false, fault := none, taken := false, fifo := [] } }

/-- The parts of an image whose header is well formed. -/
structure Image where
  nodes : List Node
  queues : List Nat
  padding : Bool
  shapes : List ShapeRec

def imageOf (bs : List Byte) : Image :=
  let n := field bs 8 2
  let q := field bs 10 2
  let qo := 64 + 16 * n
  let so := qo + (4 * q + 15) / 16 * 16
  { nodes := (List.range n).map fun i => nodeOf (field bs (64 + 16 * i) 8) (field bs (72 + 16 * i) 8)
    queues := (List.range q).map fun j => field bs (qo + 4 * j) 4
    padding := ((bs.drop (qo + 4 * q)).take (so - qo - 4 * q)).all (· == 0)
    shapes := (List.range (field bs 12 1)).map fun k => shapeOf ((bs.drop (so + 48 * k)).take 48) }

/-- A shape record agrees with its node and with the records before it (R102, R103): of two records that name one node or one
generator, the later one offends. DESIGN CHOICE, log 62. -/
def shapeFits (im : Image) (k : Nat) (r : ShapeRec) : Bool :=
  let before := im.shapes.take k
  let nd := im.nodes[r.node]?
  r.ok && (nd.any fun n => n.op == (if r.gen.sink then 0x16 else 0x15)) &&
  !(before.any fun x => x.node == r.node || (x.genr == r.genr && x.gen.rank == r.gen.rank))

/-- The offset of the first offending part of an image whose header is well formed (R103), and which part offends is the model's
choice where R98 to R102 leave it open: a GEN or SINK node that no shape record names offends itself; a queue that no field or
more than one names (R101) offends at its descriptor; padding that is not zero offends where it begins. DESIGN CHOICE, log 62. -/
def imageBad (bs : List Byte) : Option Nat :=
  let im := imageOf bs
  let nq := im.queues.length
  let qo := 64 + 16 * im.nodes.length
  let so := qo + (4 * nq + 15) / 16 * 16
  let ins := im.nodes.flatMap Node.ins
  let outs := im.nodes.flatMap Node.outs
  let badNode := (List.range im.nodes.length).find? fun i =>
    match im.nodes[i]? with
    | some n => !nodeOk nq n || ((n.op == 0x15 || n.op == 0x16) && !(im.shapes.any fun r => r.node == i))
    | none => false
  let badQueue := (List.range nq).find? fun j =>
    let d := im.queues.getD j 0
    !(decide (1 ≤ d ∧ d ≤ 15) && (ins.filter (· == j)).length == 1 && (outs.filter (· == j)).length == 1)
  let badShape := (List.range im.shapes.length).find? fun k =>
    match im.shapes[k]? with
    | some r => !shapeFits im k r
    | none => false
  (badNode.map fun i => 64 + 16 * i).orElse fun _ =>
    (badQueue.map fun j => qo + 4 * j).orElse fun _ =>
      (if im.padding then none else some (qo + 4 * nq)).orElse fun _ => badShape.map fun k => so + 48 * k

/-! ### The configuration in force -/

/-- The float format of a type code. -/
def fmtOfTy (t : Nat) : Option Fmt :=
  match t with
  | 2 => some .f32
  | 3 => some .f16
  | 4 => some .bf16
  | 5 => some .e4m3
  | 6 => some .e5m2
  | _ => none

/-- A payload as an encoding of its type. -/
def enc (t : Nat) (v : Word) : Nat :=
  match fmtOfTy t with
  | some f => v.toNat % 2 ^ f.width
  | none => v.toNat

/-- A payload at the width of a type: the bits above a 16-bit or 8-bit one are zero (R99). -/
def typed (t : Nat) (v : Word) : Word := BitVec.ofNat 32 (enc t v)

/-- R391: the state of a node at the commit. ACC holds CONST at the width of its TYPE (R99). -/
def Node.initial (n : Node) : NodeSt := if n.op = 0x12 then { NodeSt.initial with s0 := typed n.ty n.const } else NodeSt.initial

/-- The fabric that a well-formed image sets up (R401, map). -/
def fabricOf (r : Rect) (image : DWord) (bs : List Byte) : Fabric :=
  let im := imageOf bs
  { shape := r, image := image, bytes := bs, nodes := im.nodes, depth := im.queues.map (· + 1), queues := []
    nst := (im.nodes.zip (List.range im.nodes.length)).foldl (fun m p => m.set NodeSt.initial p.2 p.1.initial) []
    gens := im.shapes.foldl (fun m x => m.put (8 * x.gen.rank + x.genr) x.gen) []
    ovf := false, handling := none }

def Fabric.queue (f : Fabric) (q : Nat) : List Tok := f.queues.get [] q

def Fabric.setQueue (f : Fabric) (q : Nat) (ts : List Tok) : Fabric := { f with queues := f.queues.set [] q ts }

def Fabric.node (f : Fabric) (i : Nat) : NodeSt := f.nst.get NodeSt.initial i

def Fabric.setNode (f : Fabric) (i : Nat) (x : NodeSt) : Fabric := { f with nst := f.nst.set NodeSt.initial i x }

/-- The generator of a GEN or SINK node. -/
def Fabric.genOf (f : Fabric) (i : Nat) : Option (Nat × Gen) := List.find? (fun p : Nat × Gen => p.2.node == i) f.gens

def Fabric.setGen (f : Fabric) (k : Nat) (g : Gen) : Fabric := { f with gens := f.gens.put k g }

/-- Free slots of a queue (R385). -/
def Fabric.room (f : Fabric) (q : Nat) : Nat := f.depth.getD q 0 - (f.queue q).length

/-- R406. -/
def Gen.idle (g : Gen) : Bool := !g.active && !g.pwait && !g.ready && g.fifo.isEmpty && g.fault.isNone

def Fabric.empty (f : Fabric) : Bool := f.queues.isEmpty && f.gens.all fun p => p.2.idle

/-- The quadrant, over the rectangle, that holds the consumer of a queue (R385): 4·rank + quadrant. -/
def consumerQuad (nodes : List Node) (q : Nat) : Nat :=
  let i := ((List.range nodes.length).find? fun i => (nodes[i]?).any fun n => n.ins.contains q).getD 0
  4 * (i / 128) + i % 128 / 32

/-- The first quadrant whose free register rows fall short of its queues (R385). -/
def State.shortQuad (s : State) (cores : List Nat) (nodes : List Node) (depth : List Nat) : Option Nat :=
  (List.range (4 * cores.length)).find? fun k =>
    let t := ((List.range depth.length).filter fun q => consumerQuad nodes q == k).foldl (fun a q => a + depth.getD q 0) 0
    let used := ((s.core (cores.getD (k / 4) 0)).warps.filter fun p => quadOf p.1 == k % 4).foldl
      (fun a p => a + p.2.rows.foldl (fun b r => b + r.2) 0) 0
    decide (1024 - used < (t + 31) / 32)

/-! ### Issue (R398 to R400) -/

/-- A configuration-error trap. -/
def spTrap (eff : LaneMask) (detail addr : Nat) : Trap := trapAt cConfig eff detail addr

/-- The course of a spatial word: checks 1 to 3, then the rest. -/
def spatialWord (h : Hdr) (l : Bool) (cs : Checks) (rs : LaneMask → List Rd) (enter : Bool)
    (body : Ctx → LaneMask → State → Except Trap State) (s : State) : Host.Outcome State Fault Refusal :=
  issue h { len := lenOf l, checks := fun _ => cs, reads := rs, spatialOk := true, zeroSteep := true }
    (fun x eff s' =>
      if eff ≠ fullMask then .error (trapAt cPartialMask eff)
      else if enter && x.w.wid ≠ 0 then .error (spTrap eff 1 0)
      else if !enter && !(s.spatial && x.w.wid = 0) then .error (spTrap eff 2 0)
      else body x eff s') s

/-- Check 5 of Table SF-5 (R399): the generator that a selector names. -/
def State.selGen (s : State) (w : Warp) (eff : LaneMask) (gsel : Nat) (ext : Bool) : Except Trap (Fabric × Nat × Gen) :=
  match s.fabrics.find? w.gid with
  | none => .error (spTrap eff 2 0)
  | some f =>
    match f.gens.find? (gsel % 32) with
    | none => .error (spTrap eff 5 gsel)
    | some g =>
      if gsel / 1024 = 0 ∧ gsel / 32 % 8 = 0 ∧ gsel % 32 / 8 < rectCores f.shape ∧
          (if ext then gsel / 256 % 4 ≤ g.dims else gsel / 256 % 4 = 0) then .ok (f, gsel % 32, g)
      else .error (spTrap eff 5 gsel)

def State.setFabric (s : State) (gid : Nat) (f : Fabric) : State := { s with fabrics := s.fabrics.put gid f }

/-- Places a command in a generator's FIFO; the word completes at once (R405). -/
def spCommand (h : Hdr) (l : Bool) (gs : Operand) (cs : Checks) (rs : LaneMask → List Rd) (ext : Bool)
    (cmd : Ctx → Nat → Except Nat GCmd) (s : State) : Host.Outcome State Fault Refusal :=
  spatialWord h l ((fSrc0, sSrc false gs) :: cs) (fun m => Rd.of gs false m :: rs m) false
    (fun x eff s' =>
      match s'.selGen x.w eff (x.n32 gs) ext with
      | .error t => .error t
      | .ok (f, k, g) =>
        match cmd x (x.n32 gs / 256 % 4) with
        | .error v => .error (spTrap eff 6 v)
        | .ok c => .ok ((s'.setFabric x.w.gid (f.setGen k { g with fifo := g.fifo ++ [c] })).updWarp fun w => w.decFlag h.set)) s

/-- SPSTREAM (R405). -/
def execSpstream (h : Hdr) (l : Bool) (gs : Operand) (n : Src) (s : State) : Host.Outcome State Fault Refusal :=
  spCommand h l gs [(fSrc1, sSrc1 false n)] (Rd.src n false) false
    (fun x _ => let v := x.n32Src n; if 1 ≤ v ∧ v ≤ 65535 then .ok (.stream v) else .error v) s

/-- SPPARAM.BASE (R405). -/
def execSpparamBase (h : Hdr) (l : Bool) (gs : Operand) (b : Src) (s : State) : Host.Outcome State Fault Refusal :=
  let ok := match b with
    | .op (.special _) => false
    | b => sSrc1 true b
  spCommand h l gs [(fSrc1, ok)] (Rd.src b true) false
    (fun x _ => let v := (x.readSrc .i64 b 0).toNat; if v < 2 ^ 57 then .ok (.base v) else .error v) s

/-- SPPARAM.EXT (R405). -/
def execSpparamExt (h : Hdr) (l : Bool) (gs : Operand) (n : Src) (s : State) : Host.Outcome State Fault Refusal :=
  spCommand h l gs [(fSrc1, sSrc1 false n)] (Rd.src n false) true
    (fun x d => let v := x.n32Src n; if 1 ≤ v then .ok (.ext d v) else .error v) s

/-- SPENTER (R401): the other warps park, and the switch begins; SPENTER_COMMIT ends it. -/
def execSpenter (h : Hdr) (shape : Rect) (a : Operand) (s : State) : Host.Outcome State Fault Refusal :=
  let ok := match a with
    | .special _ => false
    | a => sSrc true a
  spatialWord h false [(fSrc0, ok)] (fun m => [Rd.of a true m]) true
    (fun x eff s' =>
      match s'.groupOf x.w, s'.launchOf x.w with
      | some g, some la =>
        if la.record.rect ≠ some shape then .error (spTrap eff 4 0)
        else
          let c := g.cores.headD 0
          let s1 := g.slots.foldl (fun q p =>
            if p.1 = 0 then q
            else
              let q1 := (q.rollbackAt c p.2).flushAt c p.2
              match q1.warpAt c p.2 with
              | some w => q1.setWarpAt c p.2 { w with parked := true }
              | none => q1) s'
          .ok ((((s1.setModes g.cores .switching).flushAt s.cur.1 s.cur.2)).updWarp fun w =>
            w.block (.spenter shape (x.read .i64 a 0)) x.w.pc h.set)
      | _, _ => .error (spTrap eff 4 0)) s

/-- SPLEAVE (R404). -/
def execSpleave (h : Hdr) (s : State) : Host.Outcome State Fault Refusal :=
  spatialWord h false [] (fun _ => []) false
    (fun x _ s' =>
      let cores := ((s'.groupOf x.w).map (·.cores)).getD []
      .ok ((s'.setModes cores .switching).updWarp fun w => w.block .spleave x.w.pc h.set)) s

/-- SPDRAIN (R406). -/
def execSpdrain (h : Hdr) (s : State) : Host.Outcome State Fault Refusal :=
  spatialWord h false [] (fun _ => []) false (fun x _ s' => .ok (s'.updWarp fun w => w.block .spdrain x.w.pc h.set)) s

/-- The rectangle status word (Table SF-7). -/
def Fabric.status (f : Fabric) : Word :=
  let nact := (f.gens.filter fun p => p.2.active).length
  BitVec.ofNat 32 ((if f.empty then 2 ^ 31 else 0) + (if f.gens.any fun p => p.2.fault.isSome then 2 ^ 30 else 0) +
    (if f.ovf then 2 ^ 29 else 0) + rectCode f.shape * 2 ^ 24 + nact * 2 ^ 16 + f.queues.length)

/-- Rounds granted and not ended. -/
def Gen.credit (g : Gen) : Nat :=
  (if g.active then 1 else 0) + g.fifo.foldl (fun a c => match c with
    | .stream n => a + n
    | _ => a) 0

/-- The generator status word (Table SF-8). -/
def Gen.status (g : Gen) : Word :=
  BitVec.ofNat 32 ((if g.active then 2 ^ 31 else 0) + (if g.fault.isSome then 2 ^ 30 else 0) +
    (if g.pwait then 2 ^ 29 else 0) + g.credit % 2 ^ 24)

/-- Writes the destination of a SPSTAT, which completes at once (R408). -/
def State.spResult (s : State) (h : Hdr) (d : Operand) (v : Word) : State :=
  s.updWarp fun w => (w.complete s.curCore.cycle w.order [.s (regOf d) { val := v, tag := .clean }]).decFlag h.set

/-- SPSTAT.RECT (R408). -/
def execSpstatRect (h : Hdr) (d : Operand) (s : State) : Host.Outcome State Fault Refusal :=
  spatialWord h false [(fDst, sDst false d)] (fun _ => []) false
    (fun x _ s' => .ok (s'.spResult h d (((s'.fabrics.find? x.w.gid).map Fabric.status).getD 0))) s

/-- The course of SPSTAT.GEN and SPSTAT.POS. -/
def spstatGen (h : Hdr) (d gs : Operand) (v : Gen → Word) (s : State) : Host.Outcome State Fault Refusal :=
  spatialWord h false [(fDst, sDst false d), (fSrc0, sSrc false gs)] (fun m => [Rd.of gs false m]) false
    (fun x eff s' =>
      match s'.selGen x.w eff (x.n32 gs) false with
      | .error t => .error t
      | .ok (_, _, g) => .ok (s'.spResult h d (v g))) s

/-- SPSTAT.GEN (R408). -/
def execSpstatGen (h : Hdr) (d gs : Operand) (s : State) : Host.Outcome State Fault Refusal := spstatGen h d gs Gen.status s

/-- SPSTAT.POS (R408). -/
def execSpstatPos (h : Hdr) (d gs : Operand) (s : State) : Host.Outcome State Fault Refusal :=
  spstatGen h d gs (fun g => if g.active then BitVec.ofNat 32 g.pos else 0) s

/-! ### The switch (R401 to R404) -/

/-- Reads bytes at a virtual address sector by sector; an error names the byte. -/
def State.readRange (s : State) (c asid va n fuel : Nat) : Except (GFault × Nat) (List Byte) :=
  match fuel with
  | 0 => .ok []
  | k + 1 =>
    if n = 0 then .ok []
    else
      let m := min n (64 - va % 64)
      match (if va < 2 ^ 57 then s.vread c asid va m else .error .translation) with
      | .error f => .error (f, va)
      | .ok bs =>
        match s.readRange c asid (va + m) (n - m) k with
        | .error e => .error e
        | .ok rest => .ok (bs ++ rest)

/-- A fault of an image read as a trap (Table SF-6). -/
def imageFault (p : GFault × Nat) : Trap :=
  if p.2 < 2 ^ 57 then trapAt p.1.code fullMask p.1.detail p.2 else trapAt cAddressRange fullMask 0 p.2

/-- Loads an image, its header first and then LENGTH bytes, and checks it (R401): its bytes, or the trap. -/
def State.loadImage (s : State) (c asid : Nat) (r : Rect) (image : Nat) : Except Trap (List Byte) :=
  match s.readRange c asid image 64 3 with
  | .error f => .error (imageFault f)
  | .ok hd =>
    let n := field hd 16 4 - 64
    match s.readRange c asid (image + 64) n (n / 64 + 3) with
    | .error f => .error (imageFault f)
    | .ok rest =>
      if image % 64 ≠ 0 ∨ !headerOk r hd then .error (spTrap fullMask 0x10 image)
      else
        match imageBad (hd ++ rest) with
        | some off => .error (spTrap fullMask 0x10 (image + off))
        | none => .ok (hd ++ rest)

/-- Load, map and start of the SPENTER in progress on a group's warp 0: the commit, or the rollback with its trap. DEDUCED, log 38. -/
def State.spCommit (s : State) (c j : Nat) : State :=
  match s.warpAt c j with
  | none => s
  | some w =>
    match w.wait, s.group w.gid with
    | .spenter r image, some g =>
      let old := s.fabrics.find? w.gid
      if old.any fun f => !f.empty then s
      else
        match s.loadImage c (s.asidOf w) r image.toNat with
        | .error t => s.trapWait c j t
        | .ok bs =>
          let f := fabricOf r image bs
          match s.shortQuad g.cores f.nodes f.depth with
          | some q => s.trapWait c j (trapAt cConfig (BitVec.ofNat 32 q) 0x11 image.toNat)
          | none =>
            let s1 := (s.walkedPages c (s.asidOf w) image.toNat bs.length).readThrough (.core c) (s.liveTr c (s.asidOf w) .read) image.toNat bs.length
            (((s1.setFabric w.gid f).setModes g.cores .spatial).unblockAt c j)
    | _, _ => s

/-- SPENTER_COMMIT (R401 to R403) for the warp in a slot. -/
def execSpenterCommit (c j : Nat) (s : State) : Host.Outcome State Fault Refusal := .next (s.spCommit c j)

/-- Whether the rectangle of a group is empty. -/
def State.rectEmpty (s : State) (gid : Nat) : Bool := (s.fabrics.find? gid).all Fabric.empty

/-- SPLEAVE_COMMIT (R404) for the warp in a slot. -/
def State.spLeave (s : State) (c j : Nat) : State :=
  match s.warpAt c j with
  | none => s
  | some w =>
    match w.wait, s.group w.gid with
    | .spleave, some g =>
      if s.rectEmpty w.gid then
        ((({ s with fabrics := s.fabrics.del w.gid }).setModes g.cores .simt).unpark g).unblockAt c j
      else s
    | _, _ => s

def execSpleaveCommit (c j : Nat) (s : State) : Host.Outcome State Fault Refusal := .next (s.spLeave c j)

/-- SPDRAIN_COMPLETE (R406) for the warp in a slot. -/
def State.spDrained (s : State) (c j : Nat) : State :=
  match s.warpAt c j with
  | none => s
  | some w =>
    match w.wait with
    | .spdrain => if s.rectEmpty w.gid then s.unblockAt c j else s
    | _ => s

def execSpdrainComplete (c j : Nat) (s : State) : Host.Outcome State Fault Refusal := .next (s.spDrained c j)

/-! ### Node operators (Table SF-3) -/

/-- The integer type of a type code; .B32 acts as .N32. -/
def intOfTy (t : Nat) : ITy := { width := 32, signed := t == 0 }

def cvtOfTy (t : Nat) : CvtTy :=
  match t with
  | 0 => .i32
  | 2 => .f32
  | 3 => .f16
  | 4 => .bf16
  | 5 => .e4m3
  | 6 => .e5m2
  | _ => .n32

def rmOf (c : Nat) : RM :=
  match c % 4 with
  | 0 => .rne
  | 1 => .rz
  | 2 => .ru
  | _ => .rd

/-- Whether a control payload is nonzero, read as its type (Table SF-3). DEDUCED, log 39. -/
def nonzero (t : Nat) (v : Word) : Bool :=
  match fmtOfTy t with
  | some f => !(f.toEx (enc t v)).isZero
  | none => v != 0

/-- a + b, a − b or a × b by `op`. -/
def arithOp (n : Node) (a b : Word) (fl : RM → Ex → Ex → Ex) (it : Int → Int → Int) : Word :=
  match fmtOfTy n.ty with
  | some f => BitVec.ofNat 32 (round (fl (rmOf n.fn) (f.toEx (enc n.ty a)) (f.toEx (enc n.ty b))) f (rmOf n.fn) false)
  | none =>
    let t := intOfTy n.ty
    (t.result (n.fn / 4 == 1) (it (t.toInt (a.setWidth 64)) (t.toInt (b.setWidth 64)))).setWidth 32

def minMaxOp (ty : Nat) (mx : Bool) (a b : Word) : Word :=
  match fmtOfTy ty with
  | some f => BitVec.ofNat 32 (minMaxEnc f mx (enc ty a) (enc ty b))
  | none =>
    let t := intOfTy ty
    let lt := decide (t.toInt (a.setWidth 64) < t.toInt (b.setWidth 64))
    if lt == mx then b else a

def condOf (c : Nat) : Cond :=
  match c with
  | 0 => .eq
  | 1 => .ne
  | 2 => .lt
  | 3 => .le
  | 4 => .gt
  | _ => .ge

def icondOf (c : Nat) : ICond :=
  match c with
  | 0 => .eq
  | 1 => .ne
  | 2 => .lt
  | 3 => .le
  | 4 => .gt
  | _ => .ge

def sfnOf (c x : Nat) : Nat :=
  match c with
  | 0 => exp2Alg x
  | 1 => log2Alg x
  | 2 => rcpAlg x
  | 3 => rsqrtAlg x
  | 4 => sinAlg x
  | 5 => cosAlg x
  | _ => tanhAlg x

/-- The value that an operator without state computes from its inputs. -/
def Node.value (n : Node) (a b c : Word) : Word :=
  match n.op with
  | 0x01 => arithOp n a b (fun rm x y => sumEx rm [x, y]) (· + ·)
  | 0x02 => arithOp n a b (fun rm x y => sumEx rm [x, y.negate]) (· - ·)
  | 0x03 => arithOp n a b (fun _ x y => x.mul y) (· * ·)
  | 0x04 =>
    match fmtOfTy n.ty with
    | some f =>
      let x (v : Word) : Ex := f.toEx (enc n.ty v)
      BitVec.ofNat 32 (round (sumEx (rmOf n.fn) [(x a).mul (x b), x c]) f (rmOf n.fn) false)
    | none => 0
  | 0x05 => minMaxOp n.ty false a b
  | 0x06 => minMaxOp n.ty true a b
  | 0x07 =>
    match n.fn with
    | 0 => a &&& b
    | 1 => a ||| b
    | 2 => a ^^^ b
    | _ => a &&& ~~~b
  | 0x08 =>
    match n.fn with
    | 0 => a <<< (b.toNat % 32)
    | 1 => a >>> (b.toNat % 32)
    | _ => a.sshiftRight (b.toNat % 32)
  | 0x09 =>
    let r := match fmtOfTy n.ty with
      | some f => condEx (condOf n.fn) (f.toEx (enc n.ty a)) (f.toEx (enc n.ty b))
      | none =>
        let t := intOfTy n.ty
        icond (icondOf n.fn) (t.toInt (a.setWidth 64)) (t.toInt (b.setWidth 64))
    if r then 1 else 0
  | 0x0A => if nonzero n.ty a then b else c
  | 0x0B =>
    let p := n.param.toNat
    (cvtValue (rmOf (p / 16)) (p / 64 == 1) (cvtOfTy n.ty) (cvtOfTy (p % 16)) (BitVec.ofNat 64 (enc n.ty a))).setWidth 32
  | 0x0C =>
    let p := n.param.toNat
    let rb := if p / 16 % 2 = 1 then b.toNat / 65536 else b.toNat % 65536
    match fmtOfTy (p % 16) with
    | some f => BitVec.ofNat 32 (roundSr (f32Ex a.toNat) f rb (p / 64 == 1))
    | none => 0
  | 0x0D => BitVec.ofNat 32 (sfnOf n.fn a.toNat)
  | 0x0F => if nonzero n.ty a then b else c
  | _ => a

/-! ### Firings (R386 to R390) -/

/-- The head of an input: a token, or CONST where KIN is set on input 1. -/
def Fabric.input (f : Fabric) (n : Node) (k : Nat) : Option Tok :=
  let q := match k with
    | 0 => n.in0
    | 1 => n.in1
    | _ => n.in2
  if k = 1 && n.kin then some { k := .value, v := n.const } else q.bind fun x => (f.queue x).head?

/-- A control token is nonzero: a value that is not zero, or a poisoned one (R389). -/
def Tok.isTrue (n : Node) (t : Tok) : Bool :=
  match t.k with
  | .poison => true
  | .value => nonzero n.ty t.v
  | _ => false

/-- The inputs that a node's next firing reads (Table SF-3). -/
def Fabric.firingSet (f : Fabric) (i : Nat) (n : Node) : List Nat :=
  let x := f.node i
  match n.op with
  | 0x04 => [0, 1, 2]
  | 0x0A => [0, 1, 2]
  | 0x0F => [0, 1, 2]
  | 0x0B => [0]
  | 0x0D => [0]
  | 0x10 => if x.on then (if (f.input n 1).any (Tok.isTrue n) then [1, 2] else [1]) else [0]
  | 0x11 => if x.on then [1] else [0]
  | 0x12 => [0]
  | 0x13 => if x.s1 = 0 then [0] else []
  | 0x14 => [0]
  | 0x16 => [0]
  | 0x17 => [0]
  | _ => [0, 1]

/-- Removes the heads of a node's inputs. -/
def Fabric.consume (f : Fabric) (n : Node) (ks : List Nat) : Fabric :=
  ks.foldl (fun q k =>
    let x := match k with
      | 0 => n.in0
      | 1 => n.in1
      | _ => n.in2
    if k = 1 && n.kin then q else
    match x with
    | some j => q.setQueue j ((q.queue j).drop 1)
    | none => q) f

/-- Writes a token to a queue field. -/
def Fabric.put (f : Fabric) (o : Option Nat) (t : Tok) : Fabric :=
  match o with
  | some q => f.setQueue q (f.queue q ++ [t])
  | none => f

/-- Writes one token to every output. -/
def Fabric.emit (f : Fabric) (n : Node) (t : Tok) : Fabric := (f.put n.out0 t).put n.out1 t

/-- Every output of a node has `k` free slots. -/
def Fabric.roomFor (f : Fabric) (n : Node) (k : Nat) : Bool := n.outs.all fun q => decide (k ≤ f.room q)

/-- A value token, poisoned if asked. -/
def valueTok (poison : Bool) (v : Word) : Tok := if poison then { k := .poison, v := 0 } else { k := .value, v := v }

def cancelTok : Tok := { k := .cancel, v := 0 }
def eoiTok : Tok := { k := .eoi, v := 0 }

/-- The accumulation of ACC. -/
def accOp (n : Node) (acc a : Word) : Word :=
  match n.fn % 4 with
  | 0 => arithOp { n with fn := 0 } acc a (fun rm x y => sumEx rm [x, y]) (· + ·)
  | 1 => minMaxOp n.ty false acc a
  | _ => minMaxOp n.ty true acc a

/-- The operators whose firings leave state. -/
def keepsState (op : Nat) : Bool := op == 0x10 || op == 0x11 || op == 0x12 || op == 0x13 || op == 0x14

/-- The effect of a firing of node `i`, its firing set consumed, on tokens `a`, `b`, `c` of inputs 0 to 2, their payloads read at
the width of the node's TYPE. `p` says that
the set holds a poisoned value, `x` is the node's state with its poison mark. -/
def Fabric.fireValue (f : Fabric) (groupId i : Nat) (n : Node) (x : NodeSt) (p : Bool) (a b c : Tok) : Fabric :=
  let pz := p || x.poison
  match n.op with
  | 0x0E =>
    if a.isTrue n then (f.put n.out0 (valueTok p b.v)).put n.out1 cancelTok
    else (f.put n.out0 cancelTok).put n.out1 (valueTok p b.v)
  | 0x0F =>
    let t := if a.isTrue n then b else c
    f.emit n (if t.k = .cancel then cancelTok else valueTok p t.v)
  | 0x10 =>
    if !x.on then (f.setNode i { x with on := true }).emit n (valueTok pz a.v)
    else if b.isTrue n then (f.setNode i x).emit n (valueTok pz c.v)
    else f.setNode i { x with on := false }
  | 0x11 =>
    if !x.on then f.setNode i { x with on := true, s0 := a.v, held := a.k }
    else (f.setNode i x).emit n (if x.held = .cancel then cancelTok else valueTok (pz || x.held == .poison) (typed n.ty x.s0))
  | 0x12 =>
    let v := accOp n x.s0 a.v
    let f1 := f.setNode i { x with s0 := v }
    if n.fn / 4 = 1 then f1.emit n (valueTok pz v) else f1
  | 0x13 =>
    if x.s1 = 0 then f.setNode i { x with s0 := n.const, s1 := n.param }
    else (f.setNode i { x with s0 := x.s0 + 1, s1 := x.s1 - 1 }).emit n (valueTok pz x.s0)
  | 0x14 =>
    let ctr : BitVec 128 := BitVec.ofNat 32 groupId ++ (BitVec.ofNat 32 i ++ (x.inv ++ x.fire))
    let r := (rngBlock (n.const ++ n.param) ctr).extractLsb' 0 32
    (f.setNode i { x with fire := x.fire + 1 }).emit n (valueTok pz r)
  | 0x17 => f.emit n (valueTok p a.v)
  | _ => f.emit n (valueTok p (n.value a.v b.v c.v))

/-- A cancelled firing (R388), its firing set consumed. -/
def Fabric.fireCancel (f : Fabric) (i : Nat) (n : Node) (a : Tok) : Fabric :=
  let x := f.node i
  if n.op = 0x12 ∧ n.fn / 4 = 0 then f
  else if n.op = 0x11 ∧ !x.on then f.setNode i { x with on := true, held := a.k, s0 := 0 }
  else f.emit n cancelTok

/-- One firing of a node other than a GEN or a SINK, if it may fire (R386). It reads each payload at the width of its TYPE, one that
a node of a wider type has emitted too, so that what it passes on has zero high bits (R99). DESIGN CHOICE, log 69. -/
def Fabric.fire (f : Fabric) (groupId i : Nat) (n : Node) : Option Fabric :=
  let ks := f.firingSet i n
  let ts := ks.map fun k => f.input n k
  let blocked := ts.any fun t => match t with
    | none => true
    | some t => t.k == .eoi
  if blocked || !f.roomFor n 1 then none
  else
    let get (k : Nat) : Tok :=
      let t := (if ks.contains k then f.input n k else none).getD { k := .value, v := 0 }
      { t with v := typed n.ty t.v }
    let a := get 0
    let b := get 1
    let c := get 2
    let has (k : TokenKind) : Bool := ks.any fun i => (get i).k == k
    let f1 := f.consume n ks
    let cancelled := if n.op = 0x0F then a.k == .cancel || (if a.isTrue n then b else c).k == .cancel else has .cancel
    if cancelled then some (f1.fireCancel i n a)
    else
      let p := has .poison
      let x := f.node i
      some (f1.fireValue groupId i n { x with poison := x.poison || (p && keepsState n.op) } p a b c)

/-- The input queues whose end-of-invocation markers an EOI firing takes (R387). -/
def Node.eoiInputs (n : Node) : List Nat :=
  match n.op with
  | 0x15 => []
  | 0x16 => [n.in0].filterMap id
  | _ => n.ins

/-- An EOI firing of a node, if it may make one (R387). -/
def Fabric.fireEoi (f : Fabric) (i : Nat) (n : Node) : Option Fabric :=
  let qs := n.eoiInputs
  let x := f.node i
  let reduce := n.op == 0x12 && n.fn / 4 == 0
  if qs.isEmpty || !(qs.all fun q => (f.queue q).head?.any fun t => t.k == .eoi) || !f.roomFor n (if reduce then 2 else 1) ||
      (n.op == 0x13 && x.s1 != 0) then none
  else
    let f1 := qs.foldl (fun g q => g.setQueue q ((g.queue q).drop 1)) f
    let f2 := if reduce then f1.emit n (valueTok x.poison (typed n.ty x.s0)) else f1
    some ((f2.emit n eoiTok).setNode i { n.initial with inv := x.inv + 1 })

/-! ### Edge generators (R393 to R395, R409) -/

/-- The elements of a round. -/
def Gen.total (g : Gen) : Nat := (List.range (g.dims + 1)).foldl (fun a d => a * g.ext.getD d 1) 1

/-- The address of element `e`. -/
def Gen.addr (g : Gen) (e : Nat) : Int :=
  let e0 := g.ext.getD 0 1
  let e1 := if 1 ≤ g.dims then g.ext.getD 1 1 else 1
  let e2 := if 2 ≤ g.dims then g.ext.getD 2 1 else 1
  let st (d : Nat) : Int := if d ≤ g.dims then (g.stride.getD d 0).toInt else 0
  (g.base : Int) + (e % e0 : Nat) * st 0 + (e / e0 % e1 : Nat) * st 1 + (e / e0 / e1 % e2 : Nat) * st 2 +
    (e / e0 / e1 / e2 : Nat) * st 3

/-- A fault that a generator holds (Table SF-9). -/
def genFault (idx : Nat) (code : BitVec 6) (addr mask detail : Nat) (wr : Bool) : Trap :=
  { code := code, xaddr := BitVec.ofNat 64 addr, xmask := BitVec.ofNat 32 mask, origin := 7, unit := BitVec.ofNat 8 idx
    detail := BitVec.ofNat 8 detail, wr := wr }

/-- Checks 3 to 7 of Table LS-6 on the next element of a generator of a core. -/
def State.genProbe (s : State) (c asid idx : Nat) (g : Gen) : Except Trap (Nat × Bool) :=
  let a := g.addr g.pos
  let bad (code : BitVec 6) (d : Nat) : Trap := genFault idx code (addrNat a) g.pos d g.sink
  if ¬ (0 ≤ a ∧ a < 2 ^ 57) then .error (bad cAddressRange 0)
  else if a % g.esize ≠ 0 then .error (bad cMisaligned 0)
  else
    match s.probe c asid a.toNat (if g.sink then .write else .read) with
    | .error f => .error (bad f.code f.detail)
    | .ok (pa, comp) => if s.errReply pa then .error (bad cFabric 0) else .ok (pa, comp)

/-- The end of a round: a stream command whose count is used up leaves the FIFO (R394). -/
def Gen.endRound (g : Gen) : Gen :=
  { g with active := false, pos := 0
           fifo := match g.fifo with
             | .stream 0 :: rest => rest
             | xs => xs }

/-- The core and address space of a group's generator. -/
def State.genPlace (s : State) (gid : Nat) (g : Gen) : Nat × Nat :=
  match s.group gid with
  | some x => (x.cores.getD g.rank 0, ((s.launch x.launch).map (·.asid)).getD 0)
  | none => (0, 0)

/-- A generator stops with a fault, which the control thread takes at a word of a later cycle (R409, R410). -/
def State.failGen (s : State) (gid : Nat) (f : Fabric) (k : Nat) (g : Gen) : State :=
  let s1 := s.setFabric gid (f.setGen k g)
  match s1.slotOf gid 0 with
  | none => s1
  | some (c, j) =>
    match s1.warpAt c j with
    | some w => s1.setWarpAt c j { w with notBefore := max w.notBefore ((s1.core c).cycle + 1) }
    | none => s1

/-- A SINK takes the value, cancel or poisoned token at its input (R393, R389). -/
def State.sinkFire (s : State) (gid : Nat) (f : Fabric) (n : Node) (k : Nat) (g : Gen) (t : Tok) : State :=
  let f1 := f.consume n [0]
  let past := decide (g.total ≤ g.pos)
  match t.k with
  | .eoi => s
  | .cancel => s.setFabric gid (if past then f1 else f1.setGen k { g with pos := g.pos + 1 })
  | kind =>
    if past then s.setFabric gid { f1 with ovf := true }
    else
      let p := s.genPlace gid g
      match s.genProbe p.1 p.2 k g with
      | .error e => s.failGen gid f k { g with fault := some e, taken := false }
      | .ok (pa, comp) =>
        let bs := if kind = .poison then List.replicate g.esize 0 else leBytes g.esize t.v.toNat
        let s1 := (s.walkedAll p.1 p.2 [g.addr g.pos]).store (.core p.1) pa bs comp
        let s2 := if kind = .poison then s1.setSec (pa / 64) true else s1
        s2.setFabric gid (f1.setGen k { g with pos := g.pos + 1 })

/-- The linear index of a group in its grid. -/
def State.groupIndex (s : State) (gid : Nat) : Nat := ((s.group gid).map (·.index)).getD 0

/-- NODE_FIRING (R386) of a node of a group's rectangle. -/
def State.nodeFire (s : State) (gid i : Nat) : State :=
  match s.fabrics.find? gid with
  | none => s
  | some f =>
    match f.nodes[i]? with
    | none => s
    | some n =>
      if n.op = 0x00 ∨ n.op = 0x15 then s
      else if n.op = 0x16 then
        match f.genOf i, f.input n 0 with
        | some (k, g), some t => if g.active && g.fault.isNone then s.sinkFire gid f n k g t else s
        | _, _ => s
      else
        match f.fire (s.groupIndex gid) i n with
        | some f' => s.setFabric gid f'
        | none => s

def execNodeFiring (gid i : Nat) (s : State) : Host.Outcome State Fault Refusal := .next (s.nodeFire gid i)

/-- EOI_FIRING (R387) of a node; the EOI of a SINK ends its round, and one with no round active takes none. -/
def State.eoiFire (s : State) (gid i : Nat) : State :=
  match s.fabrics.find? gid with
  | none => s
  | some f =>
    match f.nodes[i]? with
    | none => s
    | some n =>
      if n.op = 0x16 then
        match f.genOf i, f.fireEoi i n with
        | some (k, g), some f' => if g.active && g.fault.isNone then s.setFabric gid (f'.setGen k g.endRound) else s
        | _, _ => s
      else
        match f.fireEoi i n with
        | some f' => s.setFabric gid f'
        | none => s

def execEoiFiring (gid i : Nat) (s : State) : Host.Outcome State Fault Refusal := .next (s.eoiFire gid i)

/-- Applies the base and extent commands at the head of a FIFO (R394). -/
def Gen.applyCmds (g : Gen) (cs : List GCmd) : Gen :=
  match cs with
  | .base b :: rest => { g with cbase := b, base := b, fifo := rest }.applyCmds rest
  | .ext d n :: rest => { g with ext := g.ext.set d n, fifo := rest }.applyCmds rest
  | _ => g

/-- A round starts. -/
def Gen.start (g : Gen) : Gen :=
  match g.fifo with
  | .stream n :: rest => { g with active := true, pwait := false, ready := false, pos := 0, fifo := .stream (n - 1) :: rest }
  | _ => g

/-- Applies a parameter token (R395): the generator, or its fault. -/
def Gen.param (g : Gen) (idx : Nat) (t : Tok) : Gen :=
  let v := t.v.toNat % 2 ^ 29
  let sel := t.v.toNat / 2 ^ 29
  let bad (code : BitVec 6) (addr d : Nat) : Gen :=
    { g with ready := true, pwait := false, fault := some (genFault idx code addr 0 d false), taken := false }
  match t.k with
  | .cancel => g.start
  | .poison => bad cPoison 0 0x21
  | _ =>
    if sel < 4 then
      if 1 ≤ v ∧ sel ≤ g.dims then ({ g with ext := g.ext.set sel v } : Gen).start else bad cConfig t.v.toNat 0x20
    else if sel = 4 then ({ g with base := g.cbase + v } : Gen).start
    else bad cConfig t.v.toNat 0x20

/-- The parameter port of a generator's node. -/
def Node.port (n : Node) : Option Nat := if n.op = 0x16 then n.in1 else n.in0

/-- What a generator does between rounds: it applies its commands and, given a stream command, takes a parameter token
and starts a round. A marker at its parameter port is taken and ignored. -/
def State.roundStart (s : State) (gid k : Nat) : State :=
  match s.fabrics.find? gid with
  | none => s
  | some f =>
    match f.gens.find? k with
    | none => s
    | some g0 =>
      if g0.active || g0.fault.isSome then s
      else
        let g := g0.applyCmds g0.fifo
        let port := (f.nodes[g0.node]?).bind Node.port
        let done (x : Gen) : State := s.setFabric gid (f.setGen k x)
        match port with
        | none => done g.start
        | some q =>
          match f.queue q, g.fifo with
          | t :: rest, cs =>
            if t.k = .eoi then s.setFabric gid ((f.setQueue q rest).setGen k g)
            else
              match cs with
              | .stream _ :: _ =>
                if g.ready then done g.start
                else
                  let x := g.param k t
                  if x.fault.isSome then s.failGen gid (f.setQueue q rest) k x
                  else s.setFabric gid ((f.setQueue q rest).setGen k x)
              | _ => done g
          | [], .stream _ :: _ => done (if g.ready then g.start else { g with pwait := true })
          | [], _ => done g

/-- GENERATOR_ROUND_START (R394) of a generator of a group's rectangle. -/
def execGeneratorRoundStart (gid k : Nat) (s : State) : Host.Outcome State Fault Refusal := .next (s.roundStart gid k)

/-- A GEN reads its next element, or writes the end of its round (R393). -/
def State.genRead (s : State) (gid k : Nat) : State :=
  match s.fabrics.find? gid with
  | none => s
  | some f =>
    match f.gens.find? k with
    | none => s
    | some g =>
      match f.nodes[g.node]? with
      | none => s
      | some n =>
        if g.sink || !g.active || g.fault.isSome || !f.roomFor n 1 then s
        else if g.total ≤ g.pos then s.setFabric gid ((f.emit n eoiTok).setGen k g.endRound)
        else
          let p := s.genPlace gid g
          match s.genProbe p.1 p.2 k g with
          | .error e => s.failGen gid f k { g with fault := some e, taken := false }
          | .ok (pa, _) =>
            let t := valueTok (s.memPoisoned pa g.esize) (BitVec.ofNat 32 (leNat (s.memRead pa g.esize)))
            ((s.walkedAll p.1 p.2 [g.addr g.pos]).access (.core p.1) pa g.esize .read).setFabric gid ((f.emit n t).setGen k { g with pos := g.pos + 1 })

/-- GEN_ELEMENT_READ (R393) of a generator of a group's rectangle. -/
def execGenElementRead (gid k : Nat) (s : State) : Host.Outcome State Fault Refusal := .next (s.genRead gid k)

/-- The first generator whose fault is still to be delivered. -/
def Fabric.pending (f : Fabric) : Option (Nat × Gen) :=
  List.find? (fun p : Nat × Gen => p.2.fault.isSome && !p.2.taken) f.gens

/-- Whether the control thread takes a generator fault where it stands: at its next word, or at a spatial wait. -/
def Warp.genFaultDue (w : Warp) : Bool :=
  !w.hstate && !w.halted && w.trapWait.isNone && match w.wait with
    | .none => true
    | .spenter _ _ => true
    | .spleave => true
    | .spdrain => true
    | _ => false

/-- GENERATOR_FAULT_DELIVERY (R410) to the control thread in a slot. -/
def State.deliverGenFault (s : State) (c j : Nat) : State :=
  match s.warpAt c j with
  | none => s
  | some w =>
    match s.fabrics.find? w.gid with
    | none => s
    | some f =>
      match f.pending with
      | none => s
      | some (k, g) =>
        if w.wid = 0 && w.genFaultDue then
          let s1 := s.setFabric w.gid { f.setGen k { g with taken := true } with handling := some k }
          let t := g.fault.getD (genFault k cConfig 0 0 0 false)
          match w.wait with
          | .none => s1.takeTrapAt c j (w.pc.setWidth 64) t
          | _ => s1.trapWait c j t
        else s

/-! ### The steep timer's expiry (R271, R407) -/

/-- The budget of a wait has run out and its condition is not met (R271). -/
def State.steepOut (s : State) (c j : Nat) : State :=
  match s.warpAt c j with
  | none => s
  | some w =>
    let trap := s.trapWait c j (trapAt cSteep fullMask w.wait.peer w.wait.ea)
    match w.wait with
    | .ldfe l => if l.tmo.isSome then s.finishWait c j l.writes else trap
    | .barw _ _ _ _ tmo => if tmo.isSome then s.finishWait c j (tmoWrite tmo false) else trap
    | .waitm m =>
      if m.tmo.isSome then s.finishWait c j (sWriteW m.wide m.d m.value ++ tmoWrite m.tmo false) else trap
    | _ => trap

/-- Completes a wait whose condition is met, the spatial ones among them (R271, R407). -/
def State.tryAnyWait (s : State) (c j : Nat) : State :=
  match Option.map Warp.wait (s.warpAt c j) with
  | some (.spenter _ _) => s.spCommit c j
  | some .spleave => s.spLeave c j
  | some .spdrain => s.spDrained c j
  | some .gbar =>
    match (s.warpAt c j).bind s.groupOf with
    | some g => (s.gbarPhase g.launch).tryWait c j
    | none => s
  | _ => s.tryWait c j

/-- STEEP_TIMER_EXPIRY (R271) for the warp in a slot. -/
def State.steepExpire (s : State) (c j : Nat) : State :=
  match s.warpAt c j with
  | none => s
  | some w =>
    if w.wait.counts ∧ s.budget w ≤ w.steep.toNat then
      let s1 := s.tryAnyWait c j
      match s1.warpAt c j with
      | some w1 => if w1.wait.counts ∧ s1.budget w1 ≤ w1.steep.toNat then s1.steepOut c j else s1
      | none => s1
    else s

def execSteepTimerExpiry (c j : Nat) (s : State) : Host.Outcome State Fault Refusal := .next (s.steepExpire c j)

end Sys2Proof.Machine
end

