-- ==== Sys2Proof/Machine/Place.lean ====
section
/-! DEFINITION. Placement: the footprint of a group on a core (R23 to R25, R274, R353, R380), first fit (R275, R276),
the start of a placed group (R249, R317, R354, R426), and its retirement (R160, R355). -/

namespace Sys2Proof.Machine

/-! ### Register rows and warp slots (R23, R24) -/

/-- The rows [lo, hi) of a range that is free of the used ranges, as free ranges in rising order. -/
def freeRanges (lo hi : Nat) (used : List (Nat × Nat)) (fuel : Nat) : List (Nat × Nat) :=
  match fuel with
  | 0 => []
  | k + 1 =>
    if hi ≤ lo then []
    else
      match used.find? fun u => decide (u.1 ≤ lo ∧ lo < u.1 + u.2) with
      | some u => freeRanges (u.1 + u.2) hi used k
      | none =>
        let stop := used.foldl (fun m u => if lo < u.1 ∧ u.1 < m then u.1 else m) hi
        (lo, stop - lo) :: freeRanges stop hi used k

/-- The groups that hold a place on a core without warps. -/
def State.reserved (s : State) (c : Nat) : List (Nat × Group) :=
  s.groups.filter fun p => p.2.run == .placed && !p.2.resumed && p.2.cores.headD 512 == c

/-- The warp slots of a core in use or reserved. -/
def State.usedSlots (s : State) (c : Nat) : List Nat :=
  (s.core c).warps.map (·.1) ++ (s.reserved c).flatMap fun p => p.2.slots.map (·.2)

/-- The register rows of a quadrant in use or reserved, as ranges. -/
def State.usedRows (s : State) (c q : Nat) : List (Nat × Nat) :=
  ((s.core c).warps.filter fun p => quadOf p.1 == q).flatMap (fun p => p.2.rows) ++
  (s.reserved c).flatMap fun p => p.2.rows.filterMap fun r =>
    (p.2.slots.find? r.1).bind fun j => if quadOf j = q then some r.2 else none

/-- The base quadrant: the one with the most free slots, the lowest-numbered among equals (R23). -/
def baseQuad (used : List Nat) : Nat :=
  let free (q : Nat) : Nat := 16 - (used.filter fun j => quadOf j == q).length
  [1, 2, 3].foldl (fun b q => if free b < free q then q else b) 0

/-- Places warps, given with their allocations, in the quadrants of R23: slots and rows, warp by warp. A warp takes the
lowest-numbered free slot of its quadrant, and the warps that share a quadrant take their rows in increasing order: both are the
model's choice. DESIGN CHOICE, log 61. -/
def placeWarps (b : Nat) (ws : List (Nat × Nat)) (used : List Nat) (rows : Nat → List (Nat × Nat)) :
    Option (List (Nat × Nat × Nat × Nat)) :=
  match ws with
  | [] => some []
  | (w, a) :: rest =>
    let q := (b + w) % 4
    let slot := (List.range 16).find? fun i => !used.contains (16 * q + i)
    let range := ((freeRanges 0 1024 (rows q) 200).reverse).find? fun r => decide (a ≤ r.2)
    match slot, range with
    | some i, some r =>
      let row := r.1 + r.2 - a
      (placeWarps b rest ((16 * q + i) :: used) fun k => if k = q then (row, a) :: rows k else rows k).map fun xs =>
        (w, 16 * q + i, row, a) :: xs
    | _, _ => none

/-- How many groups of a launch an empty core holds by its slots and rows (R25). -/
def groupsPerCore (ws : List (Nat × Nat)) (fuel : Nat) (used : List Nat) (rows : Nat → List (Nat × Nat)) : Nat :=
  match fuel with
  | 0 => 0
  | k + 1 =>
    match placeWarps (baseQuad used) ws used rows with
    | none => 0
    | some xs => 1 + groupsPerCore ws k (xs.map (·.2.1) ++ used) fun q =>
        (xs.filter fun x => quadOf x.2.1 == q).map (fun x => (x.2.2.1, x.2.2.2)) ++ rows q

/-- The warps of a group of a launch with their declared allocations. -/
def LaunchRec.warpList (r : LaunchRec) : List (Nat × Nat) := (List.range r.warps).map fun w => (w, r.regs)

/-- The partition that a core takes for a launch (R25). -/
def LaunchRec.partition (r : LaunchRec) : Nat :=
  let n := if r.rect.isSome then 1 else groupsPerCore r.warpList 64 [] fun _ => []
  min (512 * 1024) (65536 * ((n * r.gmem + 65535) / 65536))

/-! ### The footprint on a core -/

/-- The groups that hold a core. -/
def State.groupsOn (s : State) (c : Nat) : List (Nat × Group) := s.groups.filter fun p => p.2.cores.contains c

/-- Where a group's accumulator regions come from: its own pinned copies, or free regions. -/
structure RegionPlan where
  keep : List (Nat × List Nat)
  take : List (Nat × List Nat)
  evict : List Nat
  deriving DecidableEq, Repr

/-- The handle of a slot of a group: its launch's, or the one that it held when it was saved. -/
def slotHandle (l : Launch) (idx slot : Nat) : Nat :=
  match l.saved.find? idx with
  | some g => g.handles.get 0 slot
  | none => (((l.record.cults.find? slot).map (·.handle)).getD 0 + idx) % 2 ^ 32

/-- The pinned regions of a core that an eviction may take: those whose culture no group holds, then those whose owner is
saved, least recently pinned first (R353). -/
def State.evictable (s : State) (c : Nat) : List Nat :=
  let k := s.core c
  let pinned := (List.range 16).filter fun i => (k.ownAt i).st == .pinned && (k.ownAt i).resv.isNone
  let held (i : Nat) : Bool := s.launches.any fun p => p.2.asid == (k.ownAt i).asid &&
    p.2.saved.any fun q => q.2.handles.any fun h => h.2 == (k.ownAt i).handle
  let order (xs : List Nat) : List Nat := sortBy (fun i j => decide ((k.ownAt i).since ≤ (k.ownAt j).since)) xs
  order (pinned.filter fun i => !held i) ++ order (pinned.filter held)

/-- Chooses the regions of a matrix group's slots on a core. -/
def State.planRegions (s : State) (c : Nat) (l : Launch) (idx : Nat) (evict : Bool) : Option RegionPlan :=
  let k := s.core c
  let slots := l.record.cults.map fun p => (p.1, p.2.regions, slotHandle l idx p.1)
  let copy (h : Nat) : List Nat := k.regionsOf fun o => o.st == .pinned && o.asid == l.asid && o.handle == h && o.resv.isNone
  let keep := slots.filterMap fun p => if (copy p.2.2).length = p.2.1 then some (p.1, copy p.2.2) else none
  let kept := keep.flatMap (·.2)
  let free := (List.range 16).filter fun i => (k.ownAt i).st == .free && (k.ownAt i).resv.isNone
  let own := slots.flatMap fun p => if (copy p.2.2).length = p.2.1 then [] else copy p.2.2
  let more := if evict then (s.evictable c).filter fun i => !kept.contains i && !own.contains i else []
  let need := slots.filter fun p => !(keep.any fun q => q.1 == p.1)
  let pool := free ++ own ++ more
  let total := need.foldl (fun a p => a + p.2.1) 0
  if pool.length < total then none
  else
    let take := (need.foldl (fun (a : List (Nat × List Nat) × List Nat) p =>
      (a.1 ++ [(p.1, a.2.take p.2.1)], a.2.drop p.2.1)) ([], pool)).1
    some { keep := keep, take := take, evict := (take.flatMap (·.2)).filter fun i => (k.ownAt i).st == .pinned }

/-- The lowest range of a partition that holds a group's memory (R25). -/
def State.findMem (s : State) (c : Nat) (l : Launch) : Option (Nat × Nat) :=
  let gs := s.groupsOn c
  let part := if gs.isEmpty then l.record.partition else (s.core c).part
  let used := gs.map fun p => (p.2.gbase, ((s.launch p.2.launch).map (·.record.gmem)).getD 0)
  if l.record.gmem = 0 then some (part, 0)
  else ((freeRanges 0 part (used.filter fun u => u.2 != 0) 200).find? fun r => decide (l.record.gmem ≤ r.2)).map fun r => (part, r.1)

/-- A place for a group on a core (R24). -/
structure Place where
  warps : List (Nat × Nat × Nat × Nat)
  part : Nat
  gbase : Nat
  regions : RegionPlan
  deriving DecidableEq, Repr

/-- The translation of a virtual address for the hub's front end (R420), with a descriptor's values: it holds no translations of its
own. DESIGN CHOICE, log 44. -/
def State.hubXlate (s : State) (space : Option Space) (va : Nat) (acc : Access) : Except GFault (Nat × Bool) :=
  match space with
  | none => .error .translation
  | some sp =>
    if 2 ^ 57 ≤ va then .error .translation
    else
      match s.walk sp va with
      | .error .notPresent => .error .translation
      | .error .poisonWalk => .error .walkPoison
      | .error .errorWalk => .error .walkError
      | .ok t => if t.allows acc then .ok (t.pa va, t.comp) else .error .protection

/-- The page walk of an access of the front end, as the caches meet it (R420). -/
def State.hubWalked (s : State) (space : Option Space) (va : Nat) : State :=
  match space with
  | none => s
  | some sp => if 2 ^ 57 ≤ va then s else (s.walkPath sp.ptroot va 4).foldl (fun t pa => t.access .hub pa 8 .read) s

/-- An access of the front end: its translation, and no error reply (R457). -/
def State.hubProbe (s : State) (space : Option Space) (va : Nat) (acc : Access) : Except GFault (Nat × Bool) :=
  match s.hubXlate space va acc with
  | .error f => .error f
  | .ok p => if s.errReply p.1 then .error .fabric else .ok p

/-- The address of a save record (R245). -/
def saveVa (sp : Space) (i : Nat) : Nat := sp.csab + sp.csas * i

/-- What a save record says of a warp: none when it had retired, else its allocation, or the one known when the record
cannot be read. -/
def State.savedWarp (s : State) (asid base wid : Nat) (known : Option Nat) : Option (Nat × Nat) :=
  let va := base + 256 + 512 * wid
  match s.hubProbe (s.space asid) va .read with
  | .error _ => known.map fun a => (wid, a)
  | .ok (pa, _) =>
    let a := s.memNat (pa + 28) 4
    if s.memPoisoned pa 32 then known.map fun a => (wid, a)
    else if s.memNat (pa + 13) 1 / 16 % 2 = 1 then none
    else if 8 ≤ a ∧ a ≤ 256 then some (wid, a) else known.map fun a => (wid, a)

/-- The warps of a group that need a place, with their allocations: for a saved group those that its record shows as not
retired (R246). -/
def State.warpsOf (s : State) (l : Launch) (idx : Nat) : List (Nat × Nat) :=
  match l.saved.find? idx, s.space l.asid with
  | some g, some sp =>
    (List.range l.record.warps).filterMap fun w => s.savedWarp l.asid (saveVa sp g.rec_) w (g.allocs.find? w)
  | some g, none => g.allocs
  | none, _ => l.record.warpList

/-- Whether a core may take groups: on a die that takes work, released, not fenced, in SIMT mode, with no rectangle on
it and, for a request in progress that concerns the address space, none. -/
def State.coreOpen (s : State) (c : Nat) (asid : Nat) : Bool :=
  let k := s.core c
  let die := s.dies.get DieSt.initial (dieOf c)
  k.released && !k.fenced && !s.fenced.has (dieOf c) && die.mode == .running && k.cmode == .simt &&
  !((s.groupsOn c).any fun p => ((s.launch p.2.launch).any fun l => l.record.rect.isSome)) &&
  !(k.pre.any fun p => p.asid.all fun a => a == asid)

/-- Whether a group of a launch fits on a core, and where. -/
def State.fitCore (s : State) (c : Nat) (l : Launch) (idx : Nat) (evict : Bool) : Option Place :=
  let matrix := !l.record.cults.isEmpty
  if !s.coreOpen c l.asid || (l.record.rect.isSome && !(s.groupsOn c).isEmpty) then none
  else if matrix && (s.groupsOn c).any (fun p => s.matrixGroup p.1) then none
  else
    match placeWarps (baseQuad (s.usedSlots c)) (s.warpsOf l idx) (s.usedSlots c) (s.usedRows c), s.findMem c l,
        s.planRegions c l idx evict with
    | some ws, some m, some r => some { warps := ws, part := m.1, gbase := m.2, regions := r }
    | _, _, _ => none

/-- Whether every core of a rectangle is open and holds no group. -/
def State.setOpen (s : State) (cs : List Nat) (l : Launch) : Bool :=
  l.record.rect.isNone || cs.all fun c => s.coreOpen c l.asid && (s.groupsOn c).isEmpty

/-- Reserves a place: the group holds it, its regions are reserved, and the partition is set, for which the core's L1 data cache
gives up the lines that no longer have room (R14, R25). -/
def State.reserve (s : State) (lid : Nat) (l : Launch) (idx : Nat) (cores : List Nat) (p : Place) : State :=
  let t := s.tick
  let gid := t.1
  let c := cores.headD 0
  let k := t.2.core c
  let mark (slot : Nat) (xs : List Nat) (m : SMap Own) : SMap Own :=
    ((xs.zip (List.range xs.length)).foldl (fun q r =>
      q.set Own.free r.1 { (SMap.get Own.free q r.1) with resv := some (gid, slot, r.2) }) m)
  let own := (p.regions.keep ++ p.regions.take).foldl (fun m x => mark x.1 x.2 m) k.own
  let g : Group :=
    { launch := lid, index := idx, cores := cores, gbase := p.gbase
      slots := p.warps.foldl (fun m w => m.put w.1 w.2.1) [], retired := [], bars := [], run := .placed, binds := []
      handles := l.record.cults.foldl (fun m x => m.put x.1 (slotHandle l idx x.1)) []
      rows := p.warps.foldl (fun m w => m.put w.1 (w.2.2.1, w.2.2.2)) [], resumed := false, kept := []
      gphase := l.gphase }
  ((t.2.setCore c { k with own := own, part := p.part }).l1Evict c none).setGroup gid g

/-! ### First fit (R275 to R277, R353, R380) -/

/-- The cores of a die set in increasing order. -/
def coresOf (dies : NSet) : List Nat := dies.flatMap fun d => (List.range 128).map (· + 128 * d)

/-- The position sets of a rectangle shape (Table EN-2). -/
def rectSets : Rect → List (List Nat)
  | .s11 => [[0], [1], [2], [3]]
  | .s21 => [[0, 1], [2, 3]]
  | .s12 => [[0, 2], [1, 3]]
  | .s22 => [[0, 1, 2, 3]]

/-- The sets of cores on which first fit tries a group, in order: the rectangles of its shape, or each core. -/
def coreSets (l : Launch) (dies : NSet) : List (List Nat) :=
  match l.record.rect with
  | some r => dies.flatMap fun d => (List.range 32).flatMap fun k => (rectSets r).map fun ps => ps.map (· + 128 * d + 4 * k)
  | none => (coresOf dies).map ([·])

/-- The first set of cores that takes a group, with or without eviction. -/
def State.firstSet (s : State) (sets : List (List Nat)) (l : Launch) (idx : Nat) (evict : Bool) : Option (List Nat × Place) :=
  sets.findSome? fun cs => if s.setOpen cs l then (s.fitCore (cs.headD 0) l idx evict).map fun p => (cs, p) else none

/-- Whether a core holds a pinned copy of the culture of a group's slot. -/
def State.pinnedOn (s : State) (c : Nat) (l : Launch) (idx slot : Nat) : Bool :=
  (List.range 16).any fun i =>
    let o := (s.core c).ownAt i
    o.st == .pinned && o.asid == l.asid && o.handle == slotHandle l idx slot

/-- The sets whose first core holds a pinned copy of one of a group's cultures, in slot order (R353). -/
def State.pinnedSets (s : State) (sets : List (List Nat)) (l : Launch) (idx : Nat) : List (List Nat) :=
  l.record.cults.flatMap fun p => sets.filter fun cs => s.pinnedOn (cs.headD 512) l idx p.1

/-- Whether another group holds one of a group's handles, or takes it with a CBIND.SW on its way (R351, R353). -/
def State.handlesBusy (s : State) (l : Launch) (idx : Nat) : Bool :=
  l.record.cults.any fun p =>
    let h := slotHandle l idx p.1
    (s.cores.any fun q => q.2.arr.any fun r => (r.takes l.asid h).isSome) ||
    (s.groups.any fun q => ((s.launch q.2.launch).any fun x => x.asid == l.asid) && q.2.handles.any fun k => k.2 == h) ||
    s.launches.any fun q => q.2.asid == l.asid && q.2.saved.any fun g =>
      !(q.2.id == l.id && g.1 == idx) && g.2.handles.any fun k => k.2 == h

/-- Places one group of a launch without clusters. -/
def State.placeOne (s : State) (lid : Nat) (l : Launch) (dies : NSet) (idx : Nat) : Option State :=
  let sets := coreSets l dies
  if s.handlesBusy l idx then none
  else
    ((s.firstSet (s.pinnedSets sets l idx) l idx false).orElse fun _ =>
      (s.firstSet sets l idx false).orElse fun _ =>
        if l.record.cults.isEmpty then none else s.firstSet sets l idx true).map fun q => s.reserve lid l idx q.1 q.2

/-- Places the ranks of a cluster instance in order on cores of hardware cluster k, in increasing position from `p` on. -/
def State.placeRanks (s : State) (lid : Nat) (l : Launch) (k : Nat) (evict : Bool) (idxs : List Nat) (p : Nat) : Option State :=
  match idxs with
  | [] => some s
  | i :: rest =>
    match (List.range 4).find? fun q => decide (p ≤ q) && (s.fitCore (4 * k + q) l i evict).isSome with
    | none => none
    | some q => (s.fitCore (4 * k + q) l i evict).bind fun x => (s.reserve lid l i [4 * k + q] x).placeRanks lid l k evict rest (q + 1)

/-- Places the groups of a cluster instance on distinct cores of one hardware cluster, ranks in increasing position: on one
that holds a pinned copy of one of their cultures, else by first fit, else with evictions (R275, R353). -/
def State.placeInstance (s : State) (lid : Nat) (l : Launch) (dies : NSet) (idxs : List Nat) : Option State :=
  if idxs.any fun i => s.handlesBusy l i then none
  else
    let all := dies.flatMap fun d => (List.range 32).map (· + 32 * d)
    let pinned := idxs.flatMap fun i => l.record.cults.flatMap fun x =>
      all.filter fun k => (List.range 4).any fun p => s.pinnedOn (4 * k + p) l i x.1
    let on (ks : List Nat) (evict : Bool) : Option State := ks.findSome? fun k => s.placeRanks lid l k evict idxs 0
    (on pinned false).orElse fun _ => (on all false).orElse fun _ => if l.record.cults.isEmpty then none else on all true

/-- The unit of a launch that starts at a linear index: a group, or a cluster instance. -/
def State.placeUnit (s : State) (lid : Nat) (l : Launch) (dies : NSet) (idx : Nat) : Option State :=
  let n := l.record.clSize
  if n ≤ 1 then s.placeOne lid l dies idx else s.placeInstance lid l dies ((List.range n).map (· + idx / n * n))

/-- The number of groups of a grid (R20). -/
def LaunchRec.count (r : LaunchRec) : Nat := r.gx * r.gy * r.gz

/-- Places every unit of a list. -/
def State.placeAll (s : State) (lid : Nat) (l : Launch) (dies : NSet) (idxs : List Nat) : Option State :=
  idxs.foldl (fun (a : Option State) i => a.bind fun q => q.placeUnit lid l dies i) (some s)

/-- The first linear indices of the units of a grid from an index. -/
def unitStarts (n total : Nat) : List Nat := (List.range (total / n)).map (· * n)

/-! ### The start of a group (R113, R162, R249, R317, R354, R426) -/

/-- A warp at its allocation (R113). -/
def Warp.start (gid wid : Nat) (r : LaunchRec) (row : Nat × Nat) (cycle : Nat) : Warp :=
  { wid := wid, gid := gid, pc := r.code, act := fullMask, depth := 0, ntok := 0, held := [], alloc := r.regs, rows := [row]
    v := [], s := [], k := [], order := 0, pend := [], settled := [], flags := [], mode := 0, probef := false, steep := 0, notBefore := cycle
    wait := .none, waitPc := 0, waitSet := none, parked := false, halted := false, xpc := 0
    xcause := 0, xaddr := 0, xmask := 0, xinfo := 0, hstate := false, rdCause := false, rdAddr := false, dmark := 0
    entry := { wa := 0, s94 := RegVal.zero, s95 := RegVal.zero, act := 0, depth := 0, mode := 0 }, trapWait := none
    faults := [] }

/-- What the context engine clears before a group starts on a core (R249, Table TC-13). A group that holds a place and has not
started holds nothing that is kept; one whose warps were restored keeps its memory and the side registers of the regions
reserved for it (R345). SRAM outside the partition keeps what it holds, though the core's last address space changes: a larger
partition of that space shows it. DESIGN CHOICE, log 70. -/
def State.clearFor (s : State) (c gid asid base size : Nat) : State :=
  let k := s.core c
  let others := (s.groupsOn c).filter fun p => p.1 != gid && (p.2.run != .placed || p.2.resumed)
  let kept (a : Nat) : Bool := others.any fun p =>
    decide (p.2.gbase ≤ a ∧ a < p.2.gbase + ((s.launch p.2.launch).map (·.record.gmem)).getD 0)
  let asids := others.filterMap fun p => (s.launch p.2.launch).map (·.asid)
  let mine (g : Nat) : Bool := decide (base ≤ 16 * g ∧ 16 * g < base + size)
  if k.lastAsid = some asid ∨ k.lastAsid = none then
    s.setCore c { k with full := k.full.filter fun g => !mine g, lastAsid := some asid }
  else
    let freeReg (i : Nat) : Bool := (k.ownAt i).st == .free
    let freeSide (i : Nat) : Bool := freeReg i && !(k.ownAt i).resv.any fun r => others.any fun p => p.1 == r.1 && p.2.resumed
    let noMatrix := !(others.any fun p => s.matrixGroup p.1)
    s.setCore c { k with
      sram := k.sram.filter fun p => decide (k.part ≤ p.1) || kept p.1
      sramPoison := k.sramPoison.filter fun g => decide (k.part ≤ 16 * g) || kept (16 * g)
      full := k.full.filter fun g => !mine g && (decide (k.part ≤ 16 * g) || kept (16 * g))
      acc := k.acc.filter fun p => !freeReg (p.1 / 4096)
      accPoison := k.accPoison.filter fun r => !freeReg (r / 64)
      sideM := k.sideM.filter fun p => !freeSide (p.1 / 64), sideL := k.sideL.filter fun p => !freeSide (p.1 / 64)
      sidePoison := k.sidePoison.filter fun r => !freeSide (r / 64)
      active := if noMatrix then Plane.zero else k.active, shadow := if noMatrix then Plane.zero else k.shadow
      tlb := k.tlb.filter fun e => e.asid == asid || asids.contains e.asid
      lastAsid := some asid }

/-- The same for every core of a group's place. -/
def State.clearCores (s : State) (gid : Nat) (g : Group) (asid size : Nat) : State :=
  (g.cores.drop 1).foldl (fun a k => a.clearFor k gid asid 0 0) (s.clearFor (g.cores.headD 0) gid asid g.gbase size)

/-- The matrix state of a starting group: planes zero, side registers −∞ and +0 (R317). -/
def Core.initMatrix (k : Core) (gid : Nat) (slots : List Nat) : Core :=
  let rows := (slots.flatMap fun t => k.slotRegions gid t).flatMap fun r => (List.range 64).map (· + 64 * r)
  { k with active := Plane.zero, shadow := Plane.zero
           sideM := rows.foldl (fun m r => m.set 0 r (BitVec.ofNat 32 negInf32)) k.sideM
           sideL := rows.foldl (fun m r => m.set 0 r 0) k.sideL
           sidePoison := k.sidePoison.filter fun r => !rows.contains r }

/-- The regions reserved for a group on a core: a region, its slot and part. -/
def Core.reservedFor (k : Core) (gid : Nat) : List (Nat × Nat × Nat) :=
  (List.range 16).filterMap fun i =>
    match (k.ownAt i).resv with
    | some (g, t, p) => if g = gid then some (i, t, p) else none
    | none => none

/-- One step of one culture of a placed group. -/
def State.prepareSlot (s : State) (c gid : Nat) (g : Group) (l : Launch) (t : Nat) (k : Cult) : State :=
  let core : Core := s.core c
  let partOf (o : Own) : Nat := (o.resv.map fun x => x.2.2).getD 0
  let regs : List Nat := byPart (fun i => partOf (core.ownAt i)) (((core.reservedFor gid).filter fun x => x.2.1 == t).map fun x => x.1)
  let h : Nat := g.handles.get 0 t
  let copy : List Nat := core.regionsOf fun o => o.st == .pinned && o.asid == l.asid && o.handle == h
  let kept (o : Own) : Bool × Bool := (g.kept.find? t).getD (k.pin, o.ferr)
  if regs.isEmpty then s
  else if copy = regs then
    s.setCore c ((core.clearScratch regs (16 * k.dv16) (16 * k.dk16)).setRegions regs fun o =>
      { o with st := .owned, pin := (kept o).1, ferr := (kept o).2, gid := some gid, lid := g.launch, slot := t, part := partOf o, resv := none })
  else
    let s1 : State := match s.residentCopy l.asid h with
      | some (d, rs) =>
        s.setCore d ((s.core d).setRegions rs fun o => if o.st = OwnState.pinned then { o with st := .spilling } else o)
      | none =>
        if regs.all fun i => (core.ownAt i).st == OwnState.free then
          s.setCore c (core.setRegions regs fun o =>
            { Own.free with st := .filling, pin := (kept Own.free).1, slot := t, part := partOf o, asid := l.asid
                            handle := h, gid := some gid, lid := g.launch, dv16 := k.dv16, dk16 := k.dk16 })
        else s
    let core1 := s1.core c
    s1.setCore c (core1.setRegions ((regs.filter fun i => (core1.ownAt i).st == OwnState.pinned).flatMap core1.sameCulture)
      fun o => { o with st := .spilling })

/-- One step of the cultures of a placed group (R353, R354): a copy of one of its handles elsewhere, or in other regions,
and the pinned cultures in its regions start to spill; a copy that is in its regions becomes the group's; free regions
start to fill. Nothing is left to do when every region is the group's. -/
def State.prepare (s : State) (gid : Nat) (g : Group) (l : Launch) : State :=
  let c := g.cores.headD 0
  l.record.cults.foldl (fun a p => a.prepareSlot c gid g l p.1 p.2) s

/-- Whether every culture of a group is in its regions and owned. -/
def State.culturesReady (s : State) (gid : Nat) (g : Group) (l : Launch) : Bool :=
  let k := s.core (g.cores.headD 0)
  l.record.cults.all fun p =>
    let rs := k.slotRegions gid p.1
    rs.length == p.2.regions && rs.all fun i => (k.ownAt i).st == .owned && (k.ownAt i).gid == some gid

/-- Changes a launch. -/
def State.updLaunch (s : State) (lid : Nat) (f : Launch → Launch) : State :=
  match s.launch lid with
  | some l => { s with launches := s.launches.put lid (f l) }
  | none => s

/-- Whether nothing keeps a group that holds a place from starting: its address space is neither halted nor held (R247, R429),
no pre-emption request that concerns it is in progress on its cores (R243), and no group of its parallel launch is saved,
unless it is one that comes back itself (R283). -/
def State.startOpen (s : State) (g : Group) (l : Launch) : Bool :=
  !((s.space l.asid).any fun sp => s.haltReason sp != 0) && !s.heldAsids.has l.asid &&
  !(g.cores.any fun c => (s.core c).pre.any fun p => p.asid.all fun a => a == l.asid) &&
  (l.record.gclass != 1 || g.resumed || l.started.has g.index || l.saved.isEmpty)

/-- Whether every group below a linear index has started, retired or been lost. -/
def Launch.begun (l : Launch) (i : Nat) : Bool := (List.range i).all fun k => l.started.has k || l.retired.has k || l.lost.has k

/-- Whether a group is next in its grid: in order of linear index (R277, R278), but a group that has started before waits for
none. -/
def State.inOrder (s : State) (g : Group) (l : Launch) : Bool :=
  l.started.has g.index ||
  if l.record.gclass = 2 then
    s.groups.all fun p => !(p.2.launch == g.launch && p.2.run == .placed && p.2.index < g.index &&
      dieOf (p.2.cores.headD 0) == dieOf (g.cores.headD 0))
  else l.begun g.index

/-- Whether a group that holds a place may start. -/
def State.mayStart (s : State) (g : Group) (l : Launch) : Bool := s.startOpen g l && s.inOrder g l

/-- IFLUSH for a launch with FRESH on a core where it has not yet been done for it (R426). -/
def State.freshen (s : State) (lid c : Nat) (l : Launch) : State :=
  if l.record.fresh && !l.freshDone.has c then
    (s.dropCode c l.asid fun va => !(decide (l.record.code.toNat ≤ va) && decide (va < l.record.code.toNat + l.record.codesz))).updLaunch
      lid fun x => { x with freshDone := x.freshDone.add c }
  else s

/-- What passes between the dies when a group starts: the hub dispatches it over the die's link, and hears of its start; in a grid
with an order the leader hears from the hub what has started, and tells the die (R9, R10, R431). -/
def State.toldStart (s : State) (g : Group) (l : Launch) : State :=
  let d := dieOf (g.cores.headD 0)
  let s1 := s.exchange 4 d
  if l.record.gclass = 2 then s1 else (s1.pass 4 (s.leader l)).pass (s.leader l) d

/-- Starts a group that holds its place: its warps are allocated, or its restored warps run. -/
def State.startGroup (s : State) (gid : Nat) (g : Group) (l : Launch) : State :=
  let c := g.cores.headD 0
  let s1 := (s.toldStart g l).freshen g.launch c l
  let bind (s : State) : State := g.binds.foldl (fun a p =>
    a.setCore c ((a.core c).setRegions ((a.core c).slotRegions gid p.1) fun o => { o with bound := true, bwarp := p.2 })) s
  if g.resumed then
    ((bind s1).setGroup gid { g with run := .running }).updLaunch g.launch fun x => { x with started := x.started.add g.index }
  else
    let s2 := s1.clearCores gid g l.asid l.record.gmem
    let s3 := if l.record.cults.isEmpty then s2 else s2.setCore c ((s2.core c).initMatrix gid (l.record.cults.map (·.1)))
    let s4 := g.slots.foldl (fun a p =>
      a.setWarpAt c p.2 (Warp.start gid p.1 l.record (g.rows.get (0, 0) p.1) (a.core c).cycle)) s3
    (s4.setGroup gid { g with run := .running, rows := [], gphase := l.gphase }).updLaunch g.launch fun x =>
      { x with started := x.started.add g.index, again := x.again.remove g.index }

/-- The groups that start together with a group: its cluster instance (R276); for a resumed member of a gang, the
restored members (R281). -/
def State.peers (s : State) (g : Group) (l : Launch) : List (Nat × Group) :=
  s.groups.filter fun p => p.2.launch == g.launch && p.2.run == .placed &&
    (p.2.index / l.record.clSize == g.index / l.record.clSize || (g.resumed && p.2.resumed && l.record.gclass == 0))

/-- Whether every group that starts with a group holds its place: every index of its cluster instance, or of its resumed gang,
but those that have retired or are lost (R276, R281). -/
def allPlaced (g : Group) (l : Launch) (ps : List (Nat × Group)) : Bool :=
  let n := l.record.clSize
  let with_ := if g.resumed && l.record.gclass == 0 then l.started else (List.range n).map (· + g.index / n * n)
  with_.all fun i => l.retired.has i || l.lost.has i || ps.any fun p => p.2.index == i

/-- GROUP_DISPATCH (R275, R276, R354) for a group that holds a place: its cultures are brought in, and once those of every
group that starts with it are, they start. -/
def State.dispatchGroup (s : State) (gid : Nat) : State :=
  match s.group gid with
  | none => s
  | some g =>
    match s.launch g.launch with
    | none => s
    | some l =>
      if g.run ≠ .placed then s
      else
        let s1 := s.prepare gid g l
        let ps := s1.peers g l
        if s1.mayStart g l && allPlaced g l ps && ps.all fun p => s1.startOpen p.2 l && s1.culturesReady p.1 p.2 l then
          ps.foldl (fun a p => match a.launch g.launch with
            | some l' => a.startGroup p.1 p.2 l'
            | none => a) s1
        else s1

def execGroupDispatch (gid : Nat) (s : State) : Host.Outcome State Fault Refusal := .next (s.dispatchGroup gid)

/-! ### Departure and retirement (R160, R355) -/

/-- Whether a location lies in a group's memory. -/
def Loc.inGroup (gid : Nat) : Loc → Bool
  | .sram g _ => g == gid
  | .glob _ _ => false

/-- Whether another group has an access to a group's memory outstanding (R160). -/
def State.accessed (s : State) (gid : Nat) : Bool :=
  s.cores.any fun p =>
    p.2.ls.any (fun o => o.refs.contains gid) ||
    p.2.copy.any (fun r => r.gid != gid && (r.elems.any (fun x => x.src.any (Loc.inGroup gid) || x.dst.any (Loc.inGroup gid)) ||
      r.grans.any (Loc.inGroup gid))) ||
    p.2.warps.any fun q => q.2.gid != gid && match q.2.wait with
      | .barw l _ _ _ _ => l.inGroup gid
      | .waitm m => m.loc.inGroup gid
      | .ldfe l => l.locs.any (Loc.inGroup gid)
      | _ => false

/-- Whether every request of a group in its core's engines has completed. -/
def Core.idleFor (k : Core) (gid : Nat) : Bool :=
  k.arr.all (fun r => r.gid != gid) && k.copy.all (fun r => r.gid != gid)

/-- GROUP_DEPARTURE (R355): the cultures of a group whose warps have all retired leave its core. -/
def execGroupDeparture (gid : Nat) (s : State) : Host.Outcome State Fault Refusal :=
  match s.group gid with
  | none => .next s
  | some g =>
    let c := g.cores.headD 0
    if g.run = .running ∧ g.slots.isEmpty ∧ (s.core c).arrIdle gid then .next (s.depart c gid) else .next s

/-- The entries of a core without their reservations for a group. -/
def Core.unreserve (k : Core) (gid : Nat) : Core :=
  { k with own := (List.range 16).foldl (fun m i => m.set Own.free i ((k.ownAt i).unreserve gid)) k.own }

/-- A group gives up its place; requests no longer concern it, and the partition of a core without groups is released (R25). -/
def State.vacate (s : State) (gid : Nat) (g : Group) : State :=
  let s1 := { s with groups := s.groups.del gid, fabrics := s.fabrics.del gid }
  g.cores.foldl (fun a c =>
    let k := (a.core c).unreserve gid
    let k1 := { k with cmode := .simt, pre := (k.pre.map fun p => { p with gids := p.gids.filter (· != gid) }).filter fun p => !p.gids.isEmpty }
    a.setCore c (if (a.groupsOn c).isEmpty then { k1 with part := 0 } else k1)) s1

/-- GROUP_RETIRE (R160, R221): a group without live warps, whose requests have completed, whose cultures have left and
whose memory no other group accesses, retires, which its die reports to the hub (R431). -/
def State.retireGroup (s : State) (gid : Nat) : State :=
  match s.group gid with
  | none => s
  | some g =>
    let c := g.cores.headD 0
    let owns := (List.range 16).any fun i => ((s.core c).ownAt i).gid == some gid
    let clustered := ((s.launch g.launch).map (·.record.clSize)).getD 1 != 1
    if g.run = .running ∧ g.slots.isEmpty ∧ (s.core c).idleFor gid ∧ !owns ∧ !(clustered && s.accessed gid) then
      ((s.pass (dieOf c) 4).vacate gid g).updLaunch g.launch fun l => { l with retired := l.retired.add g.index }
    else s

def execGroupRetire (gid : Nat) (s : State) : Host.Outcome State Fault Refusal := .next (s.retireGroup gid)

end Sys2Proof.Machine
end

