-- ==== Sys2Proof/Machine/Rank.lean ====
section
/-! DEFINITION. Ranking and admission (R277 to R283, R427, R428): gangs, the units of work that a die's dispatcher may
take, their order, and the bound on bypasses. -/

namespace Sys2Proof.Machine

/-! ### Launches and gangs -/

/-- R247, R429: an address space whose halt record names a reason, or that is held, starts and resumes nothing. -/
def State.barred (s : State) (asid : Nat) : Bool :=
  s.heldAsids.has asid || (s.space asid).any fun sp => s.haltReason sp != 0

/-- The indices of a launch's gang that holds a linear index (R279): the whole of a concurrent grid, a cluster instance,
or the group alone. -/
def LaunchRec.gang (r : LaunchRec) (idx i : Nat) : Bool := r.gclass == 0 || i / r.clSize == idx / r.clSize

/-- The resident members of a group's gang. -/
def State.gangOf (s : State) (g : Group) : List (Nat × Group) :=
  match s.launch g.launch with
  | none => []
  | some l => s.groups.filter fun p => p.2.launch == g.launch && l.record.gang g.index p.2.index

/-- R279: a gang has several members by its kind. -/
def LaunchRec.isGang (r : LaunchRec) : Bool := r.gclass == 0 || r.clSize != 1

/-! ### Units of work -/

/-- A unit of work: linear indices of a launch that are placed together. `saved` marks saved and re-dispatched work,
`ready` a unit that this die may take now, rather than one that another die leads or that awaits a grant. -/
structure WorkUnit where
  lid : Nat
  idxs : List Nat
  saved : Bool
  ready : Bool
  deriving DecidableEq, Repr

/-- The indices of a launch's saved work: saved groups and those to start again. -/
def Launch.waiting (l : Launch) : NSet := (l.saved.map (·.1)).foldl NSet.add l.again

/-- The saved units of a launch that hold no place, in order of their first index (R281, R283): every waiting member of a gang
together, once none of it is resident. -/
def State.savedUnits (s : State) (lid : Nat) (l : Launch) : List (List Nat) :=
  l.waiting.filterMap fun i =>
    let members := l.waiting.filter fun k => l.record.gang i k
    let resident := s.groups.any fun p => p.2.launch == lid && l.record.gang i p.2.index
    if members.headD i = i && !resident then some members else none

/-- The live grant of a die whose indices come next: the lowest with indices left (R278, R431). -/
def Launch.grantOf (l : Launch) (d : Nat) : Option Grant :=
  (sortBy (fun a b => decide (a.lo ≤ b.lo)) (l.grants.filter fun g => g.die == d && g.live && decide (g.lo < g.hi))).head?

/-- Indices that no grant holds. -/
def Launch.ungranted (l : Launch) : Bool := !l.back.isEmpty || decide (l.next < l.record.count)

/-- The next unit of a pending launch on a die (R427); none while a group of a parallel launch is saved (R283). A die takes a unit
of a parallel launch once every index below it has started, as it starts it then (R278, R431). -/
def State.freshUnit (s : State) (lid : Nat) (l : Launch) (d : Nat) : Option WorkUnit :=
  if l.unadmit || l.killed || s.barred l.asid || !(s.liveDies l).has d then none
  else if l.record.gclass = 0 then
    if l.next = 0 then some { lid := lid, idxs := List.range l.record.count, saved := false, ready := s.leader l == d } else none
  else if l.record.gclass = 1 && !l.waiting.isEmpty then none
  else
    match l.grantOf d with
    | some g =>
      if l.record.gclass = 1 && !l.begun g.lo then none
      else some { lid := lid, idxs := (List.range l.record.clSize).map (· + g.lo), saved := false, ready := true }
    | none =>
      if l.ungranted then
        some { lid := lid, idxs := (List.range l.record.clSize).map (· + ((l.back.map (·.1)).headD l.next)), saved := false, ready := false }
      else none

/-- Every unit that a die may take or wait for. -/
def State.units (s : State) (d : Nat) : List WorkUnit :=
  s.launches.flatMap fun p =>
    let l := p.2
    let open_ := !l.killed && !s.barred l.asid && (s.liveDies l).has d
    (if open_ then (s.savedUnits p.1 l).map fun xs =>
        { lid := p.1, idxs := xs, saved := true, ready := l.record.gclass != 0 || s.leader l == d } else []) ++
    (s.freshUnit p.1 l d).toList

/-! ### Order (R283, R427) -/

/-- Rank of a unit: priority, kind, age, queue, index; a smaller key is taken earlier. -/
def State.rankKey (s : State) (u : WorkUnit) : List Nat :=
  match s.launch u.lid with
  | none => []
  | some l =>
    let kind := if !u.saved then 1 else if l.record.gclass = 2 then 2 else 0
    [7 - l.prio, kind, l.readAt, l.queue, u.idxs.headD 0]

/-- The lexical order of keys. -/
def keyLe : List Nat → List Nat → Bool
  | [], _ => true
  | _ :: _, [] => false
  | a :: as, b :: bs => decide (a < b) || (a == b && keyLe as bs)

def State.ranked (s : State) (d : Nat) : List WorkUnit :=
  sortBy (fun a b => keyLe (s.rankKey a) (s.rankKey b)) (s.units d)

/-! ### Taking a unit -/

/-- The members of a list of indices that share a cluster instance with a given one. -/
def sameInstance (n : Nat) (idxs : List Nat) (i : Nat) : List Nat := idxs.filter fun k => k / n == i / n

/-- Places the indices of a unit: each cluster instance on one cluster, each other group on its own. -/
def State.placeSet (s : State) (lid : Nat) (l : Launch) (dies : NSet) (idxs : List Nat) : Option State :=
  let n := l.record.clSize
  if n ≤ 1 then idxs.foldl (fun (a : Option State) i => a.bind fun q => q.placeOne lid l dies i) (some s)
  else
    (idxs.filter fun i => (sameInstance n idxs i).headD i == i).foldl (fun (a : Option State) i =>
      a.bind fun q => q.placeInstance lid l dies (sameInstance n idxs i)) (some s)

/-- Places a unit on a die; a concurrent grid goes to the whole die set (R277, R281). -/
def State.placeWork (s : State) (d : Nat) (u : WorkUnit) : Option State :=
  match s.launch u.lid with
  | none => none
  | some l => s.placeSet u.lid l (if l.record.gclass = 0 then s.liveDies l else [d]) u.idxs

/-- How often a launch has been bypassed on a die. -/
def State.bypassCount (s : State) (d lid : Nat) : Nat := SMap.get 0 (s.bypass.get [] d) lid

/-- Sets how often a launch has been bypassed on a die. -/
def State.setBypass (s : State) (d lid n : Nat) : State := { s with bypass := s.bypass.set [] d (SMap.set 0 (s.bypass.get [] d) lid n) }

/-- The pending launch that R428 calls L on a die: the highest-ranked one whose next unit does not fit. -/
def State.blockedOn (s : State) (d : Nat) : Option (WorkUnit × Launch) :=
  (s.ranked d).findSome? fun u =>
    if u.saved then none
    else if (s.placeWork d u).isSome then none else (s.launch u.lid).map fun l => (u, l)

/-- The launch that a unit bypasses on a die: the one blocked there, if it ranks above the unit (R428). -/
def State.bypassed (s : State) (d : Nat) (u : WorkUnit) : Option Nat :=
  match s.blockedOn d with
  | some (v, _) => if v.lid != u.lid && !keyLe (s.rankKey u) (s.rankKey v) then some v.lid else none
  | none => none

/-- A pending launch (R427): one that has not yet started all its groups. -/
def Launch.pending (l : Launch) : Bool := !l.unadmit && !l.killed && !l.begun l.record.count

/-- Whether a unit may not be taken on a die: it ranks below a pending launch that has been bypassed eight times there, whether or
not that one can take a unit itself at the moment (R428). -/
def State.passedOver (s : State) (d : Nat) (u : WorkUnit) : Bool :=
  (s.bypass.get [] d).any fun q => decide (8 ≤ q.2) && q.1 != u.lid && (s.launch q.1).any Launch.pending &&
    !keyLe (s.rankKey u) (s.rankKey { lid := q.1, idxs := [], saved := false, ready := true })

/-- The dies on which a unit takes its places. -/
def State.placedOn (s t : State) : List Nat :=
  ((t.groups.filter fun p => (s.group p.1).isNone).map fun p => dieOf (p.2.cores.headD 0)).eraseDups

/-- What a die takes next: the unit, the machine with it placed, and the dies that it is placed on. -/
structure Picked where
  unit : WorkUnit
  after : State
  dies : List Nat

/-- The first unit in rank order that fits and is not passed over on a die that it takes. A launch whose unit does not fit takes
no further unit in the pass (R427). -/
def State.pickFrom (s : State) (d : Nat) (us : List WorkUnit) (fuel : Nat) : Option Picked :=
  match fuel, us with
  | 0, _ => none
  | _, [] => none
  | k + 1, u :: rest =>
    match s.placeWork d u with
    | some t =>
      if !u.ready then none
      else if (d :: s.placedOn t).any fun e => s.passedOver e u then s.pickFrom d (rest.filter fun v => v.lid != u.lid) k
      else some { unit := u, after := t, dies := s.placedOn t }
    | none => s.pickFrom d (rest.filter fun v => v.lid != u.lid) k

def State.pick (s : State) (d : Nat) : Option Picked := s.pickFrom d (s.ranked d) (s.ranked d).length

/-- The bypass counts of a die after it takes a unit (R428): the unit's own launch has placed one there. -/
def State.countOn (s t : State) (u : WorkUnit) (e : Nat) : State :=
  let t1 := t.setBypass e u.lid 0
  match s.bypassed e u with
  | some b => t1.setBypass e b (s.bypassCount e b + 1)
  | none => t1

/-- The bypass counts of the dies on which a unit has been placed; `s` is the machine before. -/
def State.countBypass (t s : State) (p : Picked) : State := p.dies.foldl (fun a e => s.countOn a p.unit e) t

/-- Whether a launch ranks above another (R427). -/
def State.launchAbove (s : State) (a b : Nat) : Bool :=
  let key (lid : Nat) : List Nat := s.rankKey { lid := lid, idxs := [], saved := false, ready := true }
  !keyLe (key b) (key a)

/-- A pass of a die's dispatcher: the launch that is blocked there takes the place of every one that ranks below it, whose counts
return to zero (R428). -/
def State.noteBlocked (s : State) (d : Nat) : State :=
  match s.blockedOn d with
  | none => s
  | some (v, _) => { s with bypass := s.bypass.set [] d ((s.bypass.get [] d).filter fun q => (s.launch q.1).isSome && !s.launchAbove v.lid q.1) }

/-! ### Launches that can never be placed (R423, R478) -/

/-- The machine with its dies empty, for R423. -/
def State.emptied (s : State) : State :=
  { s with groups := [], launches := [], dies := []
           cores := (List.range 512).map fun c => (c, { Core.initial with released := true, fenced := (s.core c).fenced }) }

/-- A launch that can never be placed (R423). -/
def State.unadmittable (s : State) (lid : Nat) (l : Launch) : Bool :=
  let e := { s.emptied with launches := [(lid, l)] }
  let dies := s.liveDies l
  if dies.isEmpty then false
  else if l.record.gclass = 0 then (e.placeSet lid l dies (List.range l.record.count)).isNone
  else !(dies.any fun d => (e.placeSet lid l [d] (List.range l.record.clSize)).isSome)

/-- Completes a launch that can never be placed, or leaves it pending. -/
def State.judge (s : State) (lid : Nat) : State :=
  match s.launch lid with
  | none => s
  | some l => if s.unadmittable lid l then s.updLaunch lid fun x => { x with unadmit := true } else s

/-- Whether requests made on a launch's behalf are in progress, retirement spills among them. -/
def State.busyFor (s : State) (lid : Nat) : Bool :=
  s.groups.any (fun p => p.2.launch == lid) ||
  s.cores.any fun p =>
    p.2.ls.any (fun o => o.lid == lid) || p.2.copy.any (fun r => r.lid == lid) || p.2.arr.any (fun r => r.lid == lid) ||
    (List.range 16).any fun i => (p.2.ownAt i).lid == lid && (p.2.ownAt i).st == OwnState.spilling

/-- Whether a launch has run nothing of itself, and no group of it holds a place. -/
def State.untouched (s : State) (lid : Nat) (l : Launch) : Bool :=
  !s.groups.any (fun p => p.2.launch == lid) && l.started.isEmpty && l.retired.isEmpty && l.lost.isEmpty && l.again.isEmpty && l.saved.isEmpty

/-- A pending launch that no longer fits the package's empty dies is unadmittable from then on (R423, R478). -/
def State.rejudge (s : State) : State :=
  s.launches.foldl (fun t p => if s.untouched p.1 p.2 then t.judge p.1 else t) s

end Sys2Proof.Machine
end

