-- ==== Sys2Proof/Machine/Context.lean ====
section
/-! DEFINITION. The context engine: pre-emption requests and their steps (R243, R279, R280, R429), the save of a group
(R244, R245, R344, R363, R411) and the forced context reset (R248, R345, R357, R413). -/

namespace Sys2Proof.Machine

/-! ### Pre-emption requests (R243, R279) -/

/-- The groups on a core that a request for an address space, or for all of them, concerns. -/
def State.concerned (s : State) (c : Nat) (asid : Option Nat) : List (Nat × Group) :=
  (s.groupsOn c).filter fun p => asid.all fun a => (s.launch p.2.launch).any fun l => l.asid == a

/-- The smallest DEADLINE among the launches of some groups. -/
def State.drainBudget (s : State) (gs : List (Nat × Group)) : Nat :=
  (gs.filterMap fun p => (s.launch p.2.launch).map (·.record.deadline)).foldl min (2 ^ 32)

/-- Whether some core of a group's gang has entered the save step for it. -/
def State.gangSaving (s : State) (gid : Nat) : Bool :=
  match s.group gid with
  | none => false
  | some g => (s.gangOf g).any fun p => p.2.cores.any fun c => (s.core c).pre.any fun r => r.step == .save && r.gids.contains p.1

/-- A request reaches one core; `arb` is the die whose arbiter sent it, if one. -/
def State.requestCore (s : State) (c : Nat) (asid : Option Nat) (gs : List (Nat × Group)) (zero : Bool) (arb : Option Nat) : State :=
  if gs.isEmpty then s
  else
    let k := s.core c
    let r : PreReq := { asid := asid, gids := gs.map (·.1), budget := if zero then 0 else s.drainBudget gs, step := .drain
                        since := k.cycle, told := gs.any (fun p => s.gangSaving p.1), arb := arb }
    s.setCore c { k with pre := k.pre ++ [r] }

/-! ### The save step begins (R244, R279, R282) -/

/-- The warps of a group on its core, with their slots. -/
def State.warpsOn (s : State) (gid : Nat) (g : Group) : List (Nat × Warp) :=
  (s.core (g.cores.headD 0)).warps.filter fun p => p.2.gid == gid

/-- Every warp of a group stops at a word boundary: barrier phases that are complete complete, and the other blocking
instructions are rolled back. A group whose warps have all retired is left to retire (R160). -/
def State.stopGroup (s : State) (gid : Nat) : State :=
  match s.group gid with
  | none => s
  | some g =>
    if g.run = .placed ∨ g.slots.isEmpty then s
    else
      let c := g.cores.headD 0
      let met (s : State) (j : Nat) : State :=
        match s.warpAt c j with
        | some w =>
          match w.wait with
          | .bar _ => s.tryWait c j
          | .cbar _ => s.tryWait c j
          | .gbar => (s.gbarPhase g.launch).tryWait c j
          | _ => s
        | none => s
      let js := (s.warpsOn gid g).map (·.1)
      let s1 := js.foldl met s
      let s2 := js.foldl (fun a j => a.rollbackAt c j) s1
      match s2.group gid with
      | some g' => s2.setGroup gid { g' with run := .stopped, bars := [] }
      | none => s2

/-- The cores that hold members of some groups' gangs learn from a core that it has entered its save step for them (R279). -/
def State.tellGangs (s0 : State) (c : Nat) (gids : List Nat) : State :=
  let mates := gids.flatMap fun g => ((s0.group g).map fun x => (s0.gangOf x).map (·.1)).getD []
  let s := s0.passTo (dieOf c) (mates.flatMap fun g => ((s0.group g).map (·.cores)).getD [])
  { s with cores := s.cores.map fun p =>
      (p.1, { p.2 with pre := p.2.pre.map fun r => if r.gids.any mates.contains then { r with told := true } else r }) }

/-- The n-th request of a core enters its save step. -/
def State.beginSave (s : State) (c n : Nat) : State :=
  let k := s.core c
  match k.pre[n]? with
  | none => s
  | some r =>
    let s1 := s.setCore c { k with pre := k.pre.set n { r with step := .save, since := k.cycle } }
    r.gids.foldl (fun a g => a.stopGroup g) (s1.tellGangs c r.gids)

/-! ### Requests reach their cores -/

/-- The requests of a core whose drain budget is zero skip the drain step (R243). -/
def State.skipDrains (s : State) (c : Nat) : State :=
  (List.range (s.core c).pre.length).foldl (fun t n =>
    if (t.core c).pre[n]?.any fun r => r.step == .drain && r.budget == 0 then t.beginSave c n else t) s

/-- A request on some cores, from the hub or from the arbiter of a die: it extends, for the gangs of the groups concerned, to
every core that holds a member. One with a budget of zero begins with the save step. -/
def State.request (s : State) (cores : List Nat) (asid : Option Nat) (zero : Bool) (arb : Option Nat := none) : State :=
  let gs := cores.flatMap fun c => s.concerned c asid
  let mates := gs.flatMap fun p => s.gangOf p.2
  let others := (List.range 512).filter fun c => !cores.contains c && mates.any fun p => p.2.cores.contains c
  let s1 := cores.foldl (fun a c => a.requestCore c asid (s.concerned c asid) zero arb) (s.passTo (arb.getD 4) cores)
  let s2 := others.foldl (fun a c =>
    let ms := (s.groupsOn c).filter fun p => mates.any fun q => q.1 == p.1
    a.requestCore c (ms.head?.bind fun p => (s.launch p.2.launch).map (·.asid)) ms zero arb)
    (s1.passTo (((cores.head?).map dieOf).getD 4) others)
  (cores ++ others).foldl State.skipDrains s2

/-- The cores of a die that the arbiter may name for a priority, least resident priority first (R429). -/
def State.victims (s : State) (d prio : Nat) : List Nat :=
  let top (c : Nat) : Nat := (s.groupsOn c).foldl (fun m p => max m (((s.launch p.2.launch).map (·.prio)).getD 0)) 0
  let cs := (coresOf [d]).filter fun c => !(s.groupsOn c).isEmpty && decide (top c < prio)
  sortBy (fun a b => decide (top a ≤ top b)) cs

/-- The machine without the groups of some cores and without its warps there, for asking what would fit. -/
def State.without (s : State) (cores : List Nat) : State :=
  let gone := s.groups.filter fun p => p.2.cores.any cores.contains
  let s1 := { s with groups := s.groups.filter fun p => !p.2.cores.any cores.contains }
  cores.foldl (fun a c =>
    let k := a.core c
    a.setCore c { k with warps := [], cmode := .simt, pre := []
                         own := k.own.filter fun p => !(gone.any fun g => p.2.gid == some g.1 || p.2.resv.any fun r => r.1 == g.1) }) s1

/-- The shortest prefix of a list of cores whose groups' absence makes a unit fit. -/
def State.enough (s : State) (d : Nat) (u : WorkUnit) (cs : List Nat) (n fuel : Nat) : Option (List Nat) :=
  match fuel with
  | 0 => none
  | k + 1 => if ((s.without (cs.take n)).placeWork d u).isSome then some (cs.take n) else s.enough d u cs (n + 1) k

/-- The request that the arbiter of a die makes for the launch L of R428: none while one that it has sent is outstanding. -/
def State.arbitrate (s : State) (d : Nat) : State :=
  if s.cores.any fun p => p.2.pre.any fun r => r.arb == some d then s
  else
    match s.blockedOn d with
    | none => s
    | some (u, l) =>
      if !l.preempt then s
      else
        let cs := s.victims d l.prio
        match s.enough d u cs 1 cs.length with
        | some xs => s.request xs none false (some d)
        | none => s

/-- PREEMPTION_REQUEST (R243, R429): the arbiter of a die makes room for the launch that is blocked there. -/
def execPreemptionRequest (d : BitVec 2) (s : State) : Host.Outcome State Fault Refusal := .next (s.arbitrate d.toNat)

/-! ### The drain step ends (R243, R279) -/

/-- Whether the drain step of a core's request has run out: its budget has, or the core has learnt that another core of a gang has
entered the save step (R279). -/
def State.drainOut (s : State) (c : Nat) (r : PreReq) : Bool :=
  r.step == .drain && (decide (r.budget ≤ (s.core c).cycle - r.since) || r.told)

/-- Every drain step of a core that has run out ends. -/
def State.endDrains (s : State) (c : Nat) : State :=
  (List.range (s.core c).pre.length).foldl (fun t n => if (t.core c).pre[n]?.any (t.drainOut c) then t.beginSave c n else t) s

/-- DRAIN_BUDGET_EXPIRY (R243, R279): the drain step of a core's n-th request ends when its budget has run out, or when the
core has learnt that another core of a gang has entered the save step. -/
def execDrainBudgetExpiry (c n : Nat) (s : State) : Host.Outcome State Fault Refusal :=
  let k := s.core c
  match k.pre[n]? with
  | none => .next s
  | some r =>
    if s.drainOut c r then .next (s.beginSave c n) else .next s

/-! ### Forced context reset (R248, R280, R345, R357, R413) -/

/-- Sets a save record free. -/
def State.freeRecord (s : State) (asid i : Nat) : State :=
  match s.space asid with
  | none => s
  | some sp =>
    match s.hubProbe (s.space asid) (saveVa sp i + 4) .write with
    | .ok (pa, comp) => (s.hubWalked (s.space asid) (saveVa sp i + 4)).store .hub pa [0] comp
    | .error _ => s

/-- A group that is lost with its die starts again if its launch says so; any other counts as not retired (R432). -/
def Launch.lose (l : Launch) (idx : Nat) (restart : Bool) : Launch :=
  if restart then { l with again := l.again.add idx, saved := l.saved.del idx }
  else { l with lost := l.lost.add idx, saved := l.saved.del idx, again := l.again.remove idx }

/-- A resident group is reset: its warps, its requests and its regions are gone, and it is counted. What Table TC-13 names is
cleared when a group of another address space comes (R249). DEDUCED, log 77. -/
def State.resetGroup (s : State) (gid : Nat) (restart : Bool) : State :=
  match s.group gid with
  | none => s
  | some g =>
    let c := g.cores.headD 0
    let k := s.core c
    let regs := (List.range 16).filter fun i => (k.ownAt i).gid == some gid || (k.ownAt i).resv.any fun r => r.1 == gid
    let k1 := { k with
      warps := k.warps.filter fun p => p.2.gid != gid
      ls := k.ls.filter fun o => o.gid != gid, alu := k.alu.filter fun o => o.gid != gid
      copy := k.copy.filter fun r => r.gid != gid, arr := k.arr.filter fun r => r.gid != gid }
    let k2 := if s.matrixGroup gid then
        { k1 with active := Plane.zero, shadow := Plane.zero
                  sideM := k1.sideM.filter fun p => !regs.contains (p.1 / 64)
                  sideL := k1.sideL.filter fun p => !regs.contains (p.1 / 64)
                  sidePoison := k1.sidePoison.filter fun r => !regs.contains (r / 64) }
      else k1
    ((s.setCore c (k2.freeRegions gid)).vacate gid g).updLaunch g.launch fun l => l.lose g.index restart

/-- The saved groups of a launch's gang that holds an index are given up, and their records set free. -/
def State.resetSaved (s : State) (lid idx : Nat) (restart : Bool) : State :=
  match s.launch lid with
  | none => s
  | some l =>
    (l.saved.filter fun p => l.record.gang idx p.1).foldl (fun a p =>
      (a.freeRecord l.asid p.2.rec_).updLaunch lid fun x => x.lose p.1 restart) s

/-- The dies of some cores report to the hub (R9). -/
def State.reportFrom (s : State) (cores : List Nat) : State := (cores.map dieOf).eraseDups.foldl (fun a d => a.pass d 4) s

/-- A forced context reset of a group, and of every member of its gang (R280). The core of the group tells the others, and their
dies report the groups to the launch engine (R9, R248). -/
def State.resetGang (s : State) (gid : Nat) : State :=
  match s.group gid with
  | none => s
  | some g =>
    match s.launch g.launch with
    | none => s
    | some l =>
      if l.record.isGang then
        let cores := (s.gangOf g).flatMap fun p => p.2.cores
        let s0 := (s.passTo (dieOf (g.cores.headD 0)) cores).reportFrom cores
        let s1 := (s.gangOf g).foldl (fun a p => a.resetGroup p.1 false) s0
        (s1.resetSaved g.launch g.index false).updLaunch g.launch fun x =>
          (x.again.filter fun i => x.record.gang g.index i).foldl (fun y i => y.lose i false) x
      else (s.reportFrom g.cores).resetGroup gid false

/-! ### The save record (R245, Tables TC-10 to TC-14) -/

/-- Bytes to write at an offset of a record; `poison` marks what is written as poisoned. -/
structure Piece where
  off : Nat
  bytes : List Byte
  poison : Bool
  deriving DecidableEq, Repr

def align64 (n : Nat) : Nat := (n + 63) / 64 * 64

/-- The 32 bits of a mask on which a function holds, as four bytes. -/
def maskBytes (f : Nat → Bool) : List Byte := leBytes 4 (maskOf f).toNat

/-- The set bits of a list of members below `n`, as bytes. -/
def bitBytes (n : Nat) (members : List Nat) : List Byte :=
  (List.range (n / 8)).map fun m =>
    BitVec.ofNat 8 ((List.range 8).foldl (fun a k => if members.contains (8 * m + k) then a + 2 ^ k else a) 0)

/-- The vector registers of a warp: values, poison masks, fabric masks. -/
def Warp.vecBytes (w : Warp) : List Byte :=
  (List.range w.alloc).flatMap fun i => (List.range 32).flatMap fun l => leBytes 4 (w.lane i l).val.toNat

def Warp.vecMarks (w : Warp) (t : Tag) : List Byte :=
  (List.range w.alloc).flatMap fun i => maskBytes fun l => (w.lane i l).tag == t

/-- Twelve bytes of scalar tags. -/
def Warp.sMarks (w : Warp) (t : Tag) : List Byte := bitBytes 96 ((List.range 96).filter fun i => (w.sreg i).tag == t)

/-- Table TC-12. dmark means nothing outside handler state, where a handler's tokens may have been popped since: the record of a
warp there holds 0, which R246 accepts. DESIGN CHOICE, log 73. -/
def Warp.recordBytes (w : Warp) : List Byte :=
  let b (x : Bool) (k : Nat) : Nat := if x then 2 ^ k else 0
  leBytes 8 w.pc.toNat ++ leBytes 4 w.act.toNat ++ leBytes 1 w.depth.toNat ++
  leBytes 1 (b w.hstate 0 + b w.rdCause 1 + b w.rdAddr 2 + b w.halted 3) ++ leBytes 2 w.ntok ++ leBytes 4 w.mode.toNat ++
  leBytes 4 (if w.probef then 1 else 0) ++ leBytes 4 w.steep.toNat ++ leBytes 4 w.alloc ++
  (List.range 12).flatMap (fun f => leBytes 1 (w.flag f)) ++ leBytes 2 (if w.hstate then w.dmark else 0) ++ leBytes 2 0 ++
  leBytes 8 w.xpc.toNat ++ leBytes 8 w.xaddr.toNat ++ leBytes 4 w.xcause.toNat ++ leBytes 4 w.xmask.toNat ++
  leBytes 4 w.xinfo.toNat ++ w.sMarks .poison ++ (List.range 7).flatMap (fun i => leBytes 4 (w.kreg (i + 1)).toNat) ++
  List.replicate 12 0 ++ (List.range 96).flatMap fun i => leBytes 4 (w.sreg i).val.toNat

/-- The record of a warp that retired before the save. -/
def retiredBytes (alloc : Nat) : List Byte :=
  List.replicate 13 0 ++ [0x10] ++ List.replicate 14 0 ++ leBytes 4 alloc ++ List.replicate 480 0

/-- Table TC-14 after the trap area. -/
def Warp.heldBytes (w : Warp) : List Byte :=
  (if w.hstate then
    leBytes 8 w.entry.wa.toNat ++ leBytes 4 w.entry.s94.val.toNat ++ leBytes 4 w.entry.s95.val.toNat ++
    leBytes 4 w.entry.act.toNat ++ leBytes 1 w.entry.depth.toNat ++ leBytes 1 w.entry.mode.toNat ++ leBytes 2 0
  else List.replicate 24 0) ++ w.sMarks .fabric ++ List.replicate 28 0

/-- The sizes of the sections of a record: W, A0, G and the spatial state. -/
structure RecShape where
  w : Nat
  a : Nat
  g : Nat
  sp : Nat
  deriving DecidableEq, Repr

/-- The offset of each section, in the order of Table TC-10, and the record's size last. -/
def RecShape.offsets (r : RecShape) : List Nat :=
  let sizes := [256, 512 * r.w, 4096 * r.w, 128 * r.w * r.a, 4 * r.w * r.a, 4 * r.w * r.a, r.g, r.g / 128, r.g / 128,
    1088 * r.w, r.sp]
  (sizes.foldl (fun (p : Nat × List Nat) n => (align64 p.1 + n, p.2 ++ [align64 p.1])) (0, [])).2 ++
    [(sizes.foldl (fun a n => align64 a + n) 0)]

def RecShape.at_ (r : RecShape) (i : Nat) : Nat := r.offsets.getD i 0

/-! ### The spatial state (R411, Tables SF-10 and SF-11) -/

/-- The fault kind that a saved generator holds: the row of Table SF-9, from 1, and 4 for a fault of R481. DEDUCED, log 40. -/
def spFaultKind (t : Trap) : Nat := if t.detail = 0x20 then 2 else if t.detail = 0x21 then 3 else if t.detail = 0x10 then 4 else 1

def NodeSt.bytes (x : NodeSt) : List Byte :=
  let held : Nat := match x.held with
    | .value => 0
    | .eoi => 1
    | .cancel => 2
    | .poison => 3
  leBytes 4 x.s0.toNat ++ leBytes 4 x.s1.toNat ++ leBytes 4 x.inv.toNat ++ leBytes 4 x.fire.toNat ++
  leBytes 4 ((if x.poison then 1 else 0) + (if x.on then 2 else 0) + 4 * held) ++ List.replicate 12 0

def TokenKind.code : TokenKind → Nat
  | .value => 0
  | .eoi => 1
  | .cancel => 2
  | .poison => 3

def queueBytes (ts : List Tok) : List Byte :=
  leBytes 1 ts.length ++ List.replicate 3 0 ++ leBytes 4 (ts.foldr (fun t a => t.k.code + 4 * a) 0) ++
  ts.flatMap (fun t => leBytes 4 t.v.toNat) ++ List.replicate (4 * (16 - ts.length) + 8) 0

def GCmd.bytes : GCmd → List Byte
  | .stream n => [1, 0] ++ List.replicate 6 0 ++ leBytes 8 n
  | .base b => [2, 0] ++ List.replicate 6 0 ++ leBytes 8 b
  | .ext d n => [3, BitVec.ofNat 8 d] ++ List.replicate 6 0 ++ leBytes 8 n

def Gen.bytes (g : Gen) : List Byte :=
  let fl : Nat := (if g.active then 1 else 0) + (if g.pwait then 4 else 0) + match g.fault with
    | some t => 2 + 2 ^ 8 * spFaultKind t + 2 ^ 16 * t.code.toNat
    | none => 0
  leBytes 8 g.cbase ++ leBytes 8 g.base ++ (List.range 4).flatMap (fun d => leBytes 4 (g.ext.getD d 0)) ++
  (List.range 4).flatMap (fun d => leBytes 4 (g.stride.getD d 0).toNat) ++ leBytes 4 g.pos ++ leBytes 4 fl ++
  List.replicate 8 0 ++ g.fifo.flatMap GCmd.bytes ++ List.replicate (16 * (4 - g.fifo.length)) 0

/-- The parts of the spatial state: offsets of image, nodes, queues and generators, and its size. -/
def spParts (len n q rank : Nat) : Nat × Nat × Nat × Nat :=
  let nodes := align64 (64 + len)
  let queues := align64 (nodes + 32 * n)
  let gens := align64 (queues + 80 * q)
  (nodes, queues, gens, gens + 128 * 8 * rank)

/-- The spatial state of a fabric as pieces from an offset. -/
def Fabric.pieces (f : Fabric) (off : Nat) : List Piece :=
  let n := f.nodes.length
  let q := f.depth.length
  let p := spParts f.bytes.length n q (rectCores f.shape)
  let hd := leBytes 4 0x46535053 ++ leBytes 2 1 ++ leBytes 1 (Rect.width f.shape) ++ leBytes 1 (Rect.height f.shape) ++
    leBytes 4 f.bytes.length ++ leBytes 2 n ++ leBytes 2 q ++ leBytes 1 (field f.bytes 12 1) ++ List.replicate 3 0 ++
    leBytes 4 f.status.toNat ++ leBytes 8 f.image.toNat ++ List.replicate 32 0
  [ { off := off, bytes := hd, poison := false }, { off := off + 64, bytes := f.bytes, poison := false },
    { off := off + p.1, bytes := (List.range n).flatMap fun i => (f.node i).bytes, poison := false },
    { off := off + p.2.1, bytes := (List.range q).flatMap fun i => queueBytes (f.queue i), poison := false },
    { off := off + p.2.2.1, poison := false
      bytes := (List.range (8 * rectCores f.shape)).flatMap fun i =>
        match f.gens.find? i with
        | some g => g.bytes
        | none => List.replicate 128 0 } ]

/-- A generator that has taken its parameter token and holds no fault starts its round before the save; one that stands at a
fault starts it only once that has been handled (R409, R410). -/
def Fabric.settle (f : Fabric) : Fabric :=
  { f with gens := f.gens.map fun p => (p.1, if p.2.ready && p.2.fault.isNone then p.2.start else p.2) }

def Fabric.size (f : Fabric) : Nat := (spParts f.bytes.length f.nodes.length f.depth.length (rectCores f.shape)).2.2.2

/-! ### Reading and writing records -/

/-- Bytes at a virtual address with, for each, whether it is poisoned; or the address that fails. -/
def State.recRead (s : State) (tr : Tr) (va n : Nat) : Except Nat (List (Byte × Bool)) :=
  (List.range ((va % 64 + n + 63) / 64)).foldl (fun (a : Except Nat (List (Byte × Bool))) i =>
    match a with
    | .error e => .error e
    | .ok bs =>
      let from_ := if i = 0 then va else va / 64 * 64 + 64 * i
      let len := min (va + n) (va / 64 * 64 + 64 * i + 64) - from_
      match tr from_ with
      | .error _ => .error from_
      | .ok (pa, _) =>
        if s.errReply pa then .error from_
        else .ok (bs ++ (s.memRead pa len).map fun b => (b, s.secPoisoned (pa / 64)))) (.ok [])

/-- The context engine of a core's die writes a piece at a virtual address, sector by sector. -/
def State.recWrite (s : State) (c : Nat) (tr : Tr) (base : Nat) (p : Piece) : Except Nat State :=
  let va := base + p.off
  let n := p.bytes.length
  (List.range ((va % 64 + n + 63) / 64)).foldl (fun (a : Except Nat State) i =>
    match a with
    | .error e => .error e
    | .ok st =>
      let from_ := if i = 0 then va else va / 64 * 64 + 64 * i
      let len := min (va + n) (va / 64 * 64 + 64 * i + 64) - from_
      match st.putSector c tr from_ ((p.bytes.drop (from_ - va)).take len) p.poison with
      | .error _ => .error from_
      | .ok st' => .ok st') (.ok s)

/-- Writes pieces in order. -/
def State.recWriteAll (s : State) (c : Nat) (tr : Tr) (base : Nat) (ps : List Piece) : Except Nat State :=
  ps.foldl (fun (a : Except Nat State) p => match a with
    | .error e => .error e
    | .ok st => st.recWrite c tr base p) (.ok s)

/-- Bytes read as pieces, one for each 64 bytes, with their poison. -/
def readPieces (off : Nat) (bs : List (Byte × Bool)) : List Piece :=
  (List.range ((bs.length + 63) / 64)).map fun i =>
    let x := (bs.drop (64 * i)).take 64
    { off := off + 64 * i, bytes := x.map (·.1), poison := x.any (·.2) }

/-- The token stack of a warp (R210): spilled tokens as their positions hold them, then those that the unit holds. -/
def State.tokenPieces (s : State) (tr : Tr) (sp : Space) (c j : Nat) (w : Warp) (off : Nat) : Except Nat (List Piece) :=
  let n := w.ntok - w.held.length
  match s.recRead tr (spillArea sp c j) (16 * n) with
  | .error e => .error e
  | .ok bs =>
    .ok (readPieces off bs ++ (w.held.reverse).zipIdx.map fun x =>
      { off := off + 16 * (n + x.2), bytes := leBytes 16 x.1.nat, poison := x.1.poison })

/-- The trap area of a warp in handler state. -/
def State.trapPieces (s : State) (tr : Tr) (sp : Space) (c j : Nat) (w : Warp) (off : Nat) : Except Nat (List Piece) :=
  if w.hstate then
    match s.recRead tr (trapArea sp c j) 1024 with
    | .error e => .error e
    | .ok bs => .ok (readPieces off bs)
  else .ok [{ off := off, bytes := List.replicate 1024 0, poison := false }]

/-- The pieces of one warp: its record, stack, registers, marks and extension; `vo` counts the vector registers of the
warps before it. -/
def State.warpPieces (s : State) (tr : Tr) (sp : Space) (c : Nat) (r : RecShape) (wid vo : Nat) (x : Nat × Warp) :
    Except Nat (List Piece) :=
  let w := x.2
  match s.tokenPieces tr sp c x.1 w (r.at_ 2 + 4096 * wid), s.trapPieces tr sp c x.1 w (r.at_ 9 + 1088 * wid) with
  | .ok ts, .ok es =>
    .ok ([{ off := r.at_ 1 + 512 * wid, bytes := w.recordBytes, poison := false },
      { off := r.at_ 3 + 128 * vo, bytes := w.vecBytes, poison := false },
      { off := r.at_ 4 + 4 * vo, bytes := w.vecMarks .poison, poison := false },
      { off := r.at_ 5 + 4 * vo, bytes := w.vecMarks .fabric, poison := false },
      { off := r.at_ 9 + 1088 * wid + 1024, bytes := w.heldBytes, poison := false }] ++ ts ++ es)
  | .error e, _ => .error e
  | _, .error e => .error e

/-- The pieces of a retired warp. -/
def retiredPieces (r : RecShape) (wid vo alloc : Nat) : List Piece :=
  [{ off := r.at_ 1 + 512 * wid, bytes := retiredBytes alloc, poison := false },
   { off := r.at_ 2 + 4096 * wid, bytes := List.replicate 4096 0, poison := false },
   { off := r.at_ 3 + 128 * vo, bytes := List.replicate (128 * alloc) 0, poison := false },
   { off := r.at_ 4 + 4 * vo, bytes := List.replicate (4 * alloc) 0, poison := false },
   { off := r.at_ 5 + 4 * vo, bytes := List.replicate (4 * alloc) 0, poison := false },
   { off := r.at_ 9 + 1088 * wid, bytes := List.replicate 1088 0, poison := false }]

/-- Every warp of a group in WARPID order. -/
def State.allWarpPieces (s : State) (tr : Tr) (sp : Space) (c gid : Nat) (g : Group) (r : RecShape) (n wid vo : Nat) :
    Except Nat (List Piece) :=
  match n with
  | 0 => .ok []
  | k + 1 =>
    let warp := List.find? (fun p : Nat × Warp => p.2.wid == wid) (s.warpsOn gid g)
    let here := match warp with
      | some x => s.warpPieces tr sp c r wid vo x
      | none => .ok (retiredPieces r wid vo (g.retired.get 0 wid))
    let used := match warp with
      | some x => x.2.alloc
      | none => g.retired.get 0 wid
    match here, s.allWarpPieces tr sp c gid g r k (wid + 1) (vo + used) with
    | .ok a, .ok b => .ok (a ++ b)
    | .error e, _ => .error e
    | _, .error e => .error e

/-- The group memory with its full-empty bits and its poison. -/
def Core.memPieces (k : Core) (base : Nat) (r : RecShape) : List Piece :=
  [{ off := r.at_ 6, bytes := bytesAt k.sram base r.g, poison := false },
   { off := r.at_ 7, bytes := bitBytes (r.g / 16) (k.full.slice (base / 16) (r.g / 16)), poison := false },
   { off := r.at_ 8, bytes := bitBytes (r.g / 16) (k.sramPoison.slice (base / 16) (r.g / 16)), poison := false }]

/-- Table TC-11, from byte 5 on. -/
def State.headerPieces (s : State) (gid c : Nat) (g : Group) (l : Launch) (r : RecShape) : List Byte :=
  let slots := s.warpsOn gid g
  leBytes 1 r.w ++ leBytes 2 r.a ++ leBytes 4 r.g ++ leBytes 4 g.index ++ leBytes 8 l.id.toNat ++ leBytes 2 c ++
  leBytes 2 0 ++ leBytes 4 r.sp ++ (List.range 4).flatMap (fun t => leBytes 4 (g.handles.get 0 t)) ++
  (List.range 32).flatMap (fun w =>
    leBytes 1 (((List.find? (fun p : Nat × Warp => p.2.wid == w) slots).map (·.1)).getD 0)) ++ List.replicate 176 0

/-- The cells of a plane as 256 sectors, and its table as 64. -/
def Plane.pieces (p : Plane) (off toff : Nat) : List Piece :=
  ((List.range 256).map fun k =>
    { off := off + 64 * k, poison := (List.range 32).any fun i => p.poison.has (32 * k + i)
      bytes := (List.range 32).flatMap fun i => leBytes 2 (p.cells.get 0 (32 * k + i)).toNat }) ++
  [{ off := toff, poison := false, bytes := (List.range 1024).flatMap fun i => leBytes 4 (p.table.get 0 i).toNat }]

/-- The matrix record of a group (Tables MX-7, FW-6). -/
def Core.matrixPieces (k : Core) (gid : Nat) (g : Group) (l : Launch) : List Piece :=
  let side : List Piece := (List.range 4).flatMap fun t =>
    let regs := k.slotRegions gid t
    (List.range 32).map fun i =>
      let rows := (List.range 8).map fun q => 8 * i + q
      let on (r : Nat) : Bool := decide (r < 64 * regs.length)
      { off := 0xA000 + 2048 * t + 64 * i, poison := rows.any fun r => on r && k.sidePoison.has (physRow regs r)
        bytes := rows.flatMap fun r =>
          if on r then leBytes 4 (k.sideM.get 0 (physRow regs r)).toNat ++ leBytes 4 (k.sideL.get 0 (physRow regs r)).toNat
          else List.replicate 8 0 }
  let slots := (List.range 4).flatMap fun t =>
    match l.record.cults.find? t with
    | none => List.replicate 16 0
    | some q =>
      let o := k.ownAt ((k.slotRegions gid t).headD 0)
      let mine := o.gid == some gid
      let kept := (g.kept.find? t).getD (q.pin, false)
      let pin := if mine then o.pin else kept.1
      let ferr := if mine then o.ferr else kept.2
      let bound : Option Nat := g.binds.find? t
      leBytes 4 (g.handles.get 0 t) ++ leBytes 1 q.dv16 ++ leBytes 1 q.dk16 ++
      leBytes 1 ((if pin then 1 else 0) + (if bound.isSome then 2 else 0) + (if ferr then 4 else 0)) ++
      leBytes 1 (bound.getD 0) ++ List.replicate 8 0
  k.active.pieces 0 0x8000 ++ k.shadow.pieces 0x4000 0x9000 ++ side ++
    [{ off := 0xC000, bytes := slots ++ List.replicate 16320 0, poison := false }]

/-- The address of the matrix record of save record i (Table FW-4). -/
def matrixVa (sp : Space) (i : Nat) : Nat := sp.cspb + 0x110000000 + 0x10000 * i

/-- The first free save record (R245). -/
def State.freeSave (s : State) (tr : Tr) (sp : Space) (i fuel : Nat) : Option Nat :=
  match fuel with
  | 0 => none
  | k + 1 =>
    let isFree := match tr (saveVa sp i + 4) with
      | .error _ => false
      | .ok (pa, _) => !s.errReply pa && !s.secPoisoned (pa / 64) && s.memByte pa == 0
    if isFree then some i else s.freeSave tr sp (i + 1) k

/-- The context engine of a core's die reads a range of an address space, as the caches meet it, walks included. -/
def State.rangeRead (s : State) (tr : Tr) (c asid va n : Nat) : State :=
  if n = 0 then s else (s.walkedPages c asid va n).readThrough (.die (dieOf c)) tr va n

/-- The context engine's reads of the spilled tokens and the trap areas of a group's warps, and the walks of its writes. -/
def State.areasRead (s : State) (tr : Tr) (sp : Space) (c gid asid : Nat) (g : Group) : State :=
  (s.warpsOn gid g).foldl (fun a p =>
    let a1 := a.rangeRead tr c asid (spillArea sp c p.1) (16 * (p.2.ntok - p.2.held.length))
    if p.2.hstate then a1.rangeRead tr c asid (trapArea sp c p.1) 1024 else a1) s

/-- Writes a group's record: the matrix record, every section, and STATE last. DEDUCED, log 42. With none the save has failed, and
what it had written is discarded. DESIGN CHOICE, log 76. -/
def State.writeRecord (s : State) (gid : Nat) (g : Group) (l : Launch) (sp : Space) : Option (State × Nat) :=
  let c := g.cores.headD 0
  let tr := s.liveTr c l.asid .write
  let fab := (s.fabrics.find? gid).map Fabric.settle
  let r : RecShape := { w := l.record.warps, a := l.record.regs, g := l.record.gmem, sp := (fab.map Fabric.size).getD 0 }
  if sp.csas < r.at_ 11 then none
  else
    match s.freeSave (s.liveTr c l.asid .read) sp 0 sp.csan with
    | none => none
    | some i =>
      match s.allWarpPieces (s.liveTr c l.asid .read) sp c gid g r l.record.warps 0 0 with
      | .error _ => none
      | .ok ws =>
        let s0 := (s.areasRead tr sp c gid l.asid g).walkedPages c l.asid (saveVa sp i) (r.at_ 11)
        let mx := if s.matrixGroup gid then
            (s0.walkedPages c l.asid (matrixVa sp i) 0x10000).recWriteAll c tr (matrixVa sp i) ((s.core c).matrixPieces gid g l)
          else .ok s0
        match mx with
        | .error _ => none
        | .ok s1 =>
          let spat := match fab with
            | some f => f.pieces (r.at_ 10)
            | none => []
          let hd : Piece := { off := 5, bytes := s.headerPieces gid c g l r, poison := false }
          let magic : Piece := { off := 0, bytes := leBytes 4 0x58534341, poison := false }
          let st : Nat := if (s.warpsOn gid g).any fun p => p.2.halted then 2 else 1
          let state : Piece := { off := 4, bytes := leBytes 1 st, poison := false }
          match s1.recWriteAll c tr (saveVa sp i) (ws ++ (s.core c).memPieces g.gbase r ++ spat ++ [magic, hd, state]) with
          | .error _ => none
          | .ok s2 => some (s2, i)

/-! ### GROUP_SAVE (R244) -/

/-- The cores' requests that have a group in their save step. -/
def State.saving (s : State) (gid : Nat) (g : Group) : Bool :=
  g.cores.any fun c => (s.core c).pre.any fun r => r.step == .save && r.gids.contains gid

/-- Whether the save budget of a group's address space has run out in the save step of a core's request (R243). -/
def State.saveOut (s : State) (c : Nat) (r : PreReq) (gid : Nat) : Bool :=
  r.step == .save && r.gids.contains gid &&
    (((s.group gid).bind fun g => s.launch g.launch).bind fun l => s.space l.asid).any fun sp =>
      decide (sp.saveb ≤ (s.core c).cycle - r.since)

/-- The groups of a core's requests whose save budgets have run out. -/
def State.lateSaves (s : State) (c : Nat) : List Nat := (s.core c).pre.flatMap fun r => r.gids.filter (s.saveOut c r)

/-- Whether the save budget of a group has run out on a core of it. -/
def State.saveLate (s : State) (gid : Nat) (g : Group) : Bool := g.cores.any fun c => (s.lateSaves c).contains gid

/-- Whether every access, request and fill of a group has completed and no trap of a warp waits. -/
def State.quiet (s : State) (gid : Nat) (g : Group) : Bool :=
  let k := s.core (g.cores.headD 0)
  k.idleFor gid && (List.range 16).all (fun i => !((k.ownAt i).gid == some gid && (k.ownAt i).st == OwnState.filling)) &&
  k.ls.all (fun o => o.gid != gid) && k.alu.all (fun o => o.gid != gid) &&
  (s.warpsOn gid g).all fun p => p.2.trapWait.isNone

/-- Pending faults are delivered at the save boundary (R305, R344, R410). -/
def State.boundaryFaults (s : State) (gid : Nat) (g : Group) : State :=
  let c := g.cores.headD 0
  (s.warpsOn gid g).foldl (fun a p =>
    let a1 := a.flushAt c p.1
    let a2 := match a1.warpAt c p.1 with
      | some w => a1.setWarpAt c p.1 w.wakeWaitf
      | none => a1
    (a2.deliverFault c p.1).deliverGenFault c p.1) s

/-- The groups that give up their places with a placed group that has not started: the unstarted units of its launch on its die
from its own on, so that the order of R278 stands; all of a concurrent grid of which none has started; of a group that is to
start again its cluster instance. -/
def State.unstarted (s : State) (g : Group) (l : Launch) : List (Nat × Group) :=
  let n := l.record.clSize
  s.groups.filter fun p => p.2.launch == g.launch && p.2.run == .placed && !p.2.resumed &&
    if l.record.gclass = 0 then l.started.isEmpty || p.2.index == g.index
    else if l.again.has g.index then p.2.index / n == g.index / n
    else !l.again.has p.2.index && dieOf (p.2.cores.headD 0) == dieOf (g.cores.headD 0) && decide (g.index / n ≤ p.2.index / n)

/-- The launch after an unstarted group has given up its place on a die: its unit is the next to be placed there again, a
concurrent grid is pending again, and what waits for its gang's resumption goes on waiting. -/
def Launch.putBack (l : Launch) (d idx : Nat) : Launch :=
  let n := l.record.clSize
  if l.record.gclass = 0 then if l.started.isEmpty then { l with next := 0 } else { l with again := l.again.add idx }
  else if l.again.has idx ∨ idx % n ≠ 0 then l
  else { l with grants := l.grants ++ [{ die := d, lo := idx, hi := idx + n, live := true }] }

/-- A placed group that has not started gives up its place, with those that `unstarted` names, and is placed again later; a launch
that can no longer be placed is unadmittable (R423, R478). DESIGN CHOICE, log 71. -/
def State.unplace (s : State) (g : Group) (l : Launch) : State :=
  ((s.unstarted g l).foldl (fun a p =>
    let c := p.2.cores.headD 0
    (((a.pass (dieOf c) (a.leader l)).depart c p.1).vacate p.1 p.2).updLaunch g.launch fun x => x.putBack (dieOf c) p.2.index) s).rejudge

/-- The saved group leaves its core: its cultures are kept or spilled, its warps are gone, and its record is noted. -/
def State.leaveSaved (s : State) (gid : Nat) (g : Group) (i : Nat) : State :=
  let c := g.cores.headD 0
  let ws := s.warpsOn gid g
  let mine := (List.range 16).filter fun r => ((s.core c).ownAt r).gid == some gid
  let s1 := (s.pass (dieOf c) 4).depart c gid
  let k := (s1.core c).unreserve gid
  let k1 := { k with warps := k.warps.filter fun p => p.2.gid != gid }
  let s2 := mine.foldl (fun a r => a.cultureSpill c r) (s1.setCore c k1)
  let sv : SavedGroup :=
    { rec_ := i, allocs := ws.foldl (fun m p => m.put p.2.wid p.2.alloc) [], handles := g.handles
      faults := ws.foldl (fun m p => m.set [] p.2.wid p.2.faults) [] }
  (s2.vacate gid g).updLaunch g.launch fun l => { l with saved := l.saved.put g.index sv }

/-- GROUP_SAVE: once the group's gang has stopped and its requests have completed, its record is written and it leaves
its core; a save that fails, or whose budget has run out, resets the gang. -/
def State.saveGroup (s : State) (gid : Nat) : State :=
  match s.group gid with
  | none => s
  | some g =>
    match s.launch g.launch with
    | none => s
    | some l =>
      let clustered := l.record.clSize != 1
      if !s.saving gid g then s
      else if g.run = .placed ∧ !g.resumed then (if (s.unstarted g l).all fun p => s.quiet p.1 p.2 then s.unplace g l else s)
      else if s.saveLate gid g then s.resetGang gid
      else if (s.gangOf g).any (fun p => p.2.run == .running) || !s.quiet gid g || (clustered && s.accessed gid) then s
      else
        let s1 := s.boundaryFaults gid g
        match s1.group gid, s1.space l.asid with
        | some g1, some sp =>
          match s1.writeRecord gid g1 l sp with
          | some (s2, i) => s2.leaveSaved gid g1 i
          | none => s1.resetGang gid
        | _, _ => s1.resetGang gid

def execGroupSave (gid : Nat) (s : State) : Host.Outcome State Fault Refusal := .next (s.saveGroup gid)

/-- SAVE_BUDGET_EXPIRY (R243, R280): the groups of a core's n-th request whose address space's save budget has run out are
reset with their gangs. -/
def State.saveExpire (s : State) (c n : Nat) : State :=
  let k := s.core c
  match k.pre[n]? with
  | none => s
  | some r =>
    (r.gids.filter (s.saveOut c r)).foldl (fun a g => a.resetGang g) s

def execSaveBudgetExpiry (c n : Nat) (s : State) : Host.Outcome State Fault Refusal := .next (s.saveExpire c n)

/-- The budgets of a core's requests in a cycle of it: drain steps that have run out end, and groups that are not saved in time are
reset (R243). -/
def State.budgetCycle (s : State) (c : Nat) : State :=
  let s1 := s.endDrains c
  (s1.lateSaves c).foldl (fun a g => a.resetGang g) s1

end Sys2Proof.Machine
end

