-- ==== Sys2Proof/Machine/Resume.lean ====
section
/-! DEFINITION. The resumption of saved groups (R246, R247, R281, R283, R345, R363, R412): save records are read and
checked, and their groups restored in the places that first fit gives them. -/

namespace Sys2Proof.Machine

/-- Why a group is not resumed: its record fails the checks of R246; a fault or a poisoned byte, with its address and the
slot and pc that the halt record names; or its queues do not fit where it was placed (R412). -/
inductive RErr where
  | bad
  | fault (addr slot pc : Nat)
  | defer
  deriving DecidableEq, Repr

/-! ### Bytes of a record with their poison -/

abbrev PBytes := List (Byte × Bool)

def PBytes.num (bs : PBytes) (off n : Nat) : Nat := leNat (((bs.drop off).take n).map (·.1))

def PBytes.bytes (bs : PBytes) (off n : Nat) : List Byte := ((bs.drop off).take n).map (·.1)

/-- The offset of the first poisoned byte of a range. -/
def PBytes.bad (bs : PBytes) (off n : Nat) : Option Nat :=
  (((bs.drop off).take n).findIdx? fun p => p.2).map (· + off)

def PBytes.isBad (bs : PBytes) (off : Nat) : Bool := (bs.getD off (0, false)).2

/-- Bit k of a bit section from an offset. -/
def PBytes.bit (bs : PBytes) (off k : Nat) : Bool := PBytes.num bs (off + k / 8) 1 / 2 ^ (k % 8) % 2 == 1

/-- Bytes of a record that must not be poisoned. -/
def State.recCtl (s : State) (tr : Tr) (va n slot pc : Nat) : Except RErr PBytes :=
  match s.recRead tr va n with
  | .error a => .error (.fault a slot pc)
  | .ok bs =>
    match PBytes.bad bs 0 n with
    | some i => .error (.fault (va + i) slot pc)
    | none => .ok bs

/-- Bytes of a record whose poison is restored. -/
def State.recAny (s : State) (tr : Tr) (va n slot pc : Nat) : Except RErr PBytes :=
  match s.recRead tr va n with
  | .error a => .error (.fault a slot pc)
  | .ok bs => .ok bs

/-- Writes bytes with their poison. -/
def State.recPut (s : State) (c : Nat) (tr : Tr) (va : Nat) (bs : PBytes) (slot pc : Nat) : Except RErr State :=
  match s.recWriteAll c tr va (readPieces 0 bs) with
  | .error a => .error (.fault a slot pc)
  | .ok s' => .ok s'

/-! ### One warp -/

/-- Where a warp is restored: the core, the group, the new slot and rows if it has a place, the slot and core saved
from. -/
structure WarpPlace where
  core : Nat
  gid : Nat
  wid : Nat
  slot : Nat
  rows : Nat × Nat
  oldCore : Nat
  oldSlot : Nat
  parked : Bool
  placed : Bool
  asid : Nat
  faults : List Trap
  deriving DecidableEq, Repr

/-- A warp record holds only values in their ranges (R246). -/
def recordOk (b : PBytes) : Bool :=
  let f := PBytes.num b
  decide (f 13 1 < 32) && decide (f 14 2 ≤ 256) && decide (f 16 4 < 8) && decide (f 44 2 ≤ f 14 2) && f 46 2 == 0 &&
  (List.range 12).all (fun i => decide (f (32 + i) 1 ≤ 63)) && f 116 12 == 0 && decide (f 20 4 < 2) &&
  BitVec.ofNat 32 (f 64 4) &&& 0x7FFFFFC0#32 == 0 && BitVec.ofNat 32 (f 72 4) &&& 0x000F00FE#32 == 0

/-- The zero bytes of a warp extension are zero (Table TC-14). -/
def extOk (b : PBytes) : Bool :=
  let f := PBytes.num b
  decide (f 1045 1 < 8) && f 1046 2 == 0 && f 1060 28 == 0

/-- The allocation that a warp record names is one that a warp can hold. -/
def allocOk (a : Nat) : Bool := decide (8 ≤ a) && decide (a ≤ 256) && a % 8 == 0

/-- A lane's tag from its byte's poison, its marks and their poison. -/
def tagOf (badByte poison fabric badMark : Bool) : Tag :=
  if badByte || poison || badMark then .poison else if fabric then .fabric else .clean

/-- The vector registers of a warp from its parts of the three sections. -/
def restoreVec (a : Nat) (vs ps fs : PBytes) : SMap Lanes :=
  (List.range a).foldl (fun m i => m.set zeroLanes i (tab fun l =>
    let o := 128 * i + 4 * l
    { val := BitVec.ofNat 32 (PBytes.num vs o 4)
      tag := tagOf (PBytes.isBad vs o) (PBytes.bit ps (4 * i) l) (PBytes.bit fs (4 * i) l)
        (PBytes.isBad ps (4 * i) || PBytes.isBad fs (4 * i)) })) []

/-- The scalar registers. -/
def restoreScalars (b ext : PBytes) : SMap RegVal :=
  (List.range 96).foldl (fun m i => m.set RegVal.zero i
    { val := BitVec.ofNat 32 (PBytes.num b (128 + 4 * i) 4)
      tag := tagOf (PBytes.isBad b (128 + 4 * i)) (PBytes.bit b 76 i) (PBytes.bit ext 1048 i) false }) []

/-- The tokens that the unit holds after a restore, top first: the top sixteen (R210), the poisoned ones marked (R246). -/
def heldTokens (d : Nat) (ts : PBytes) : List Token :=
  (List.range (min d 16)).map fun k =>
    { Token.ofNat (PBytes.num ts (16 * (d - 1 - k)) 16) with poison := (PBytes.bad ts (16 * (d - 1 - k)) 16).isSome }

/-- The reserved bits of the tokens that the unit is to hold are zero, but in a poisoned one (R5, Table BR-3); a deeper token traps
when it is read back (R209). DESIGN CHOICE, log 75. -/
def heldOk (d : Nat) (ts : PBytes) : Bool :=
  (List.range (min d 16)).all fun k =>
    (PBytes.bad ts (16 * (d - 1 - k)) 16).isSome || PBytes.num ts (16 * (d - 1 - k) + 12) 4 == 0

/-- An address in the old trap area at the same offset of the new one. -/
def rebase (old new a : Nat) : Nat := if old ≤ a ∧ a < old + 1024 then new + (a - old) else a

/-- A restored warp from its record, tokens, registers and extension. Of the pc and the held wa the low 57 bits count. DESIGN CHOICE,
log 75. -/
def restoredWarp (p : WarpPlace) (sp : Space) (cycle : Nat) (b ts vs ps fs ext : PBytes) : Warp :=
  let f := PBytes.num b
  let fl := f 13 1
  let hs := fl % 2 == 1
  let ss := restoreScalars b ext
  let w : Warp :=
    { wid := p.wid, gid := p.gid, pc := BitVec.ofNat 57 (f 0 8), act := BitVec.ofNat 32 (f 8 4)
      depth := BitVec.ofNat 8 (f 12 1), ntok := f 14 2, held := heldTokens (f 14 2) ts, alloc := f 28 4, rows := [p.rows]
      v := restoreVec (f 28 4) vs ps fs, s := ss
      k := (List.range 7).foldl (fun m i => m.set 0 (i + 1) (BitVec.ofNat 32 (f (88 + 4 * i) 4))) [], order := 0, pend := []
      settled := []
      flags := (List.range 12).foldl (fun m i => m.set 0 i (f (32 + i) 1)) [], mode := BitVec.ofNat 3 (f 16 4)
      probef := f 20 4 == 1, steep := BitVec.ofNat 32 (f 24 4), notBefore := cycle, wait := .none, waitPc := 0
      waitSet := none, parked := p.parked, halted := false, xpc := BitVec.ofNat 64 (f 48 8)
      xcause := BitVec.ofNat 32 (f 64 4), xaddr := BitVec.ofNat 64 (f 56 8), xmask := BitVec.ofNat 32 (f 68 4)
      xinfo := BitVec.ofNat 32 (f 72 4), hstate := hs, rdCause := fl / 2 % 2 == 1, rdAddr := fl / 4 % 2 == 1
      dmark := f 44 2, entry :=
        { wa := BitVec.ofNat 57 (PBytes.num ext 1024 8)
          s94 := { val := BitVec.ofNat 32 (PBytes.num ext 1032 4), tag := .clean }
          s95 := { val := BitVec.ofNat 32 (PBytes.num ext 1036 4), tag := .clean }
          act := BitVec.ofNat 32 (PBytes.num ext 1040 4), depth := BitVec.ofNat 8 (PBytes.num ext 1044 1)
          mode := BitVec.ofNat 3 (PBytes.num ext 1045 1) }
      trapWait := none, faults := p.faults }
  if hs then
    let a := rebase (trapArea sp p.oldCore p.oldSlot) (trapArea sp p.core p.slot) (w.spair 94).toNat
    { w with s := (w.s.set RegVal.zero 94 { w.sreg 94 with val := BitVec.ofNat 32 a }).set RegVal.zero 95
               { w.sreg 95 with val := BitVec.ofNat 32 (a / 2 ^ 32) } }
  else w

/-- What a warp's record says first: whether it retired, its allocation and its pc. -/
structure WarpHead where
  rec_ : PBytes
  retired : Bool
  alloc : Nat
  pc : Nat

/-- The pc of a warp record, as the halt record of a failed resumption holds it: 0 when it cannot be read. -/
def State.recordPc (s : State) (tr : Tr) (va : Nat) : Nat :=
  match s.recRead tr va 8 with
  | .ok b => if (PBytes.bad b 0 8).isSome then 0 else PBytes.num b 0 8
  | .error _ => 0

def State.warpHead (s : State) (tr : Tr) (base : Nat) (r : RecShape) (wid slot : Nat) : Except RErr WarpHead :=
  let va := base + r.at_ 1 + 512 * wid
  let pc := s.recordPc tr va
  match s.recAny tr va 512 slot pc with
  | .error e => .error e
  | .ok b =>
    match PBytes.bad b 0 128 with
    | some i => .error (.fault (va + i) slot pc)
    | none =>
      let retired := PBytes.num b 13 1 / 16 % 2 == 1
      if recordOk b && (retired || allocOk (PBytes.num b 28 4)) then
        .ok { rec_ := b, retired := retired, alloc := PBytes.num b 28 4, pc := PBytes.num b 0 8 }
      else .error .bad

/-- Restores a warp that has not retired; `vo` counts the vector registers of the warps before it. -/
def State.restoreWarp (s : State) (rd wr : Tr) (base : Nat) (r : RecShape) (vo : Nat) (sp : Space) (p : WarpPlace)
    (h : WarpHead) : Except RErr State :=
  let d := PBytes.num h.rec_ 14 2
  let any_ (va n : Nat) : Except RErr PBytes := s.recAny rd (base + va) n p.slot h.pc
  match any_ (r.at_ 2 + 4096 * p.wid) (16 * d), any_ (r.at_ 3 + 128 * vo) (128 * h.alloc), any_ (r.at_ 4 + 4 * vo) (4 * h.alloc),
      any_ (r.at_ 5 + 4 * vo) (4 * h.alloc), any_ (r.at_ 9 + 1088 * p.wid) 1088 with
  | .ok ts, .ok vs, .ok ps, .ok fs, .ok ext =>
    match PBytes.bad ext 1024 64 with
    | some i => .error (.fault (base + r.at_ 9 + 1088 * p.wid + i) p.slot h.pc)
    | none =>
      if !extOk ext || !heldOk d ts then .error .bad
      else
        let w := restoredWarp p sp (s.core p.core).cycle h.rec_ ts vs ps fs ext
        let away := 16 * (d - w.held.length)
        let s0 := if away = 0 then s else s.walkedPages p.core p.asid (spillArea sp p.core p.slot) away
        match s0.recPut p.core wr (spillArea sp p.core p.slot) (ts.take away) p.slot h.pc with
        | .error e => .error e
        | .ok s1 =>
          let s2 := if w.hstate then (s1.walkedPages p.core p.asid (trapArea sp p.core p.slot) 1024).recPut p.core wr (trapArea sp p.core p.slot) (ext.take 1024) p.slot h.pc else .ok s1
          match s2 with
          | .error e => .error e
          | .ok s3 => .ok (s3.setWarpAt p.core p.slot w)
  | .error e, _, _, _, _ => .error e
  | _, .error e, _, _, _ => .error e
  | _, _, .error e, _, _ => .error e
  | _, _, _, .error e, _ => .error e
  | _, _, _, _, .error e => .error e

/-! ### Group memory, matrix state, spatial state -/

/-- Group memory, full-empty bits and poison. -/
def State.restoreMem (s : State) (rd : Tr) (base : Nat) (r : RecShape) (c gbase slot pc : Nat) : Except RErr State :=
  let n := r.g / 16
  match s.recAny rd (base + r.at_ 6) r.g slot pc, s.recCtl rd (base + r.at_ 7) (r.g / 128) slot pc,
      s.recAny rd (base + r.at_ 8) (r.g / 128) slot pc with
  | .ok ms, .ok fs, .ok ps =>
    let k := s.core c
    let g0 := gbase / 16
    let bad (i : Nat) : Bool := PBytes.isBad ms (16 * i) || PBytes.bit ps 0 i || PBytes.isBad ps (i / 8)
    .ok (s.setCore c { k with
      sram := putBytes k.sram gbase (ms.map (·.1))
      full := (List.range n).foldl (fun a i => a.assign (g0 + i) (PBytes.bit fs 0 i)) k.full
      sramPoison := (List.range n).foldl (fun a i => a.assign (g0 + i) (bad i)) k.sramPoison })
  | .error e, _, _ => .error e
  | _, .error e, _ => .error e
  | _, _, .error e => .error e

/-- A plane and its table from the matrix state block. -/
def planeOf (b : PBytes) (off toff : Nat) : Plane :=
  { cells := (List.range 8192).foldl (fun m i => m.set 0 i (BitVec.ofNat 16 (PBytes.num b (off + 2 * i) 2))) []
    poison := (List.range 8192).filter fun i => PBytes.isBad b (off + 2 * i)
    table := (List.range 1024).foldl (fun m i => m.set 0 i (BitVec.ofNat 32 (PBytes.num b (toff + 4 * i) 4))) [] }

/-- The planes and side registers of a core from the block (R345). -/
def Core.restoreMatrix (k : Core) (gid : Nat) (b : PBytes) : Core :=
  let rows := (List.range 4).flatMap fun t =>
    let regs := k.slotRegions gid t
    (List.range (64 * regs.length)).map fun r => (physRow regs r, 0xA000 + 2048 * t + 8 * r)
  { k with
    active := planeOf b 0 0x8000, shadow := planeOf b 0x4000 0x9000
    sideM := rows.foldl (fun m p => m.set 0 p.1 (BitVec.ofNat 32 (PBytes.num b p.2 4))) k.sideM
    sideL := rows.foldl (fun m p => m.set 0 p.1 (BitVec.ofNat 32 (PBytes.num b (p.2 + 4) 4))) k.sideL
    sidePoison := rows.foldl (fun m p => m.assign p.1 (PBytes.isBad b p.2)) k.sidePoison }

/-- The slot fields of a matrix record agree with CULT, the launch and the reserved bytes (R363). -/
def slotsOk (l : Launch) (cult : Nat → Nat) (b : PBytes) : Bool :=
  let f := PBytes.num b
  (List.range 4).all (fun t =>
    let o := 16 * t
    f o 4 == cult t && f (o + 8) 8 == 0 && decide (f (o + 6) 1 < 8) && match l.record.cults.find? t with
      | some q => f (o + 4) 1 == q.dv16 && f (o + 5) 1 == q.dk16 && f o 4 != 0
      | none => f o 4 == 0 && f (o + 4) 4 == 0) &&
  ((b.drop 64).all fun p => p.1 == 0)

/-- Restores the matrix state of a group. -/
def State.restoreMx (s : State) (rd : Tr) (va c gid : Nat) (l : Launch) (cult : Nat → Nat) (slot pc : Nat) :
    Except RErr State :=
  match s.recAny rd va 0xC000 slot pc, s.recCtl rd (va + 0xC000) 0x4000 slot pc with
  | .ok b, .ok q =>
    if !slotsOk l cult q then .error .bad
    else
      let s1 := s.setCore c ((s.core c).restoreMatrix gid b)
      match s1.group gid with
      | none => .ok s1
      | some g =>
        let used := l.record.cults.map (·.1)
        let fl (t : Nat) : Nat := PBytes.num q (16 * t + 6) 1
        .ok (s1.setGroup gid { g with
          handles := used.foldl (fun m t => m.put t (cult t)) []
          kept := used.foldl (fun m t => m.put t (fl t % 2 == 1, fl t / 4 % 2 == 1)) []
          binds := used.foldl (fun m t => if fl t / 2 % 2 = 1 then m.put t (PBytes.num q (16 * t + 7) 1) else m) [] })
  | .error e, _ => .error e
  | _, .error e => .error e

def TokenKind.ofCode (n : Nat) : TokenKind :=
  match n % 4 with
  | 0 => .value
  | 1 => .eoi
  | 2 => .cancel
  | _ => .poison

/-- A node state from its 32 bytes. -/
def nodeStOf (b : List Byte) : NodeSt :=
  let fl := field b 16 4
  { s0 := BitVec.ofNat 32 (field b 0 4), s1 := BitVec.ofNat 32 (field b 4 4), inv := BitVec.ofNat 32 (field b 8 4)
    fire := BitVec.ofNat 32 (field b 12 4), on := fl / 2 % 2 == 1, held := TokenKind.ofCode (fl / 4), poison := fl % 2 == 1 }

/-- The tokens of a queue from its 80 bytes. -/
def queueOf (b : List Byte) : List Tok :=
  (List.range (min 16 (field b 0 1))).map fun i =>
    { k := TokenKind.ofCode (field b 4 4 / 4 ^ i), v := BitVec.ofNat 32 (field b (8 + 4 * i) 4) }

def cmdOf (b : List Byte) : Option GCmd :=
  match field b 0 1 with
  | 1 => some (.stream (field b 8 8))
  | 2 => some (.base (field b 8 8))
  | 3 => some (.ext (field b 1 1) (field b 8 8))
  | _ => none

/-- A generator from its 128 bytes and the shape record that set it up; `x` is the payload of a parameter fault, which
the spatial state does not hold. DESIGN CHOICE, log 43. A generator that stands at such a fault has taken its token, and starts
its round without another (R410). -/
def genOf (g : Gen) (idx : Nat) (x : DWord) (b : List Byte) : Gen :=
  let fl := field b 52 4
  let g1 : Gen := { g with
    cbase := field b 0 8, base := field b 8 8, ext := (List.range 4).map fun d => field b (16 + 4 * d) 4
    stride := (List.range 4).map fun d => BitVec.ofNat 32 (field b (32 + 4 * d) 4), pos := field b 48 4
    active := fl % 2 == 1, pwait := fl / 4 % 2 == 1
    ready := fl % 4 == 2 && (fl / 2 ^ 8 % 16 == 2 || fl / 2 ^ 8 % 16 == 3)
    fifo := (List.range 4).filterMap fun i => cmdOf ((b.drop (64 + 16 * i)).take 16) }
  let code := BitVec.ofNat 6 (fl / 2 ^ 16)
  let fault : Trap := match fl / 2 ^ 8 % 16 with
    | 2 => { genFault idx code 0 0 0x20 false with xaddr := x }
    | 3 => genFault idx code 0 0 0x21 false
    | 4 => genFault idx code (addrNat (g1.addr g1.pos)) g1.pos 0x10 g1.sink
    | _ => genFault idx code (addrNat (g1.addr g1.pos)) g1.pos 0 g1.sink
  { g1 with fault := if fl / 2 % 2 = 1 then some fault else none, taken := false }

/-- What Tables SF-7, SF-10 and SF-11 give as zero or reserved is zero in a spatial state of `n` nodes, `q` queues and `rank` cores
(R5). -/
def spatialZero (len n q rank : Nat) (b : List Byte) : Bool :=
  let p := spParts len n q rank
  let z (o k : Nat) : Bool := field b o k == 0
  let st := field b 20 4
  z 17 3 && z 32 32 && st / 2 ^ 26 % 8 == 0 && st / 2 ^ 10 % 64 == 0 &&
  (List.range n).all (fun i => let o := p.1 + 32 * i; decide (field b (o + 16) 4 < 16) && z (o + 20) 12) &&
  (List.range q).all (fun i => let o := p.2.1 + 80 * i; z (o + 1) 3 && z (o + 72) 8) &&
  (List.range (8 * rank)).all fun i =>
    let o := p.2.2.1 + 128 * i
    let fl := field b (o + 52) 4
    z (o + 56) 8 && fl / 8 % 32 == 0 && fl / 2 ^ 12 % 16 == 0 && fl / 2 ^ 24 == 0 &&
      (List.range 4).all fun k => z (o + 64 + 16 * k + 2) 6

/-- The header of the spatial state agrees with the image and the launch (R412), and what is reserved is zero. -/
def spatialOk (r : Rect) (size : Nat) (b : List Byte) : Bool :=
  let len := field b 8 4
  let im := (b.drop 64).take len
  field b 0 4 == 0x46535053 && field b 4 2 == 1 && field b 6 1 == Rect.width r && field b 7 1 == Rect.height r &&
  headerOk r im && field im 16 4 == len && (imageBad im).isNone && field b 12 2 == field im 8 2 && field b 14 2 == field im 10 2 &&
  field b 16 1 == field im 12 1 && spatialZero len (field im 8 2) (field im 10 2) (rectCores r) b && (spParts len (field im 8 2) (field im 10 2) (rectCores r)).2.2.2 == size

/-- The generator whose fault the control thread's handler serves, as its trap registers name it (R410). -/
def servedGen (w : Option Warp) : Option Nat :=
  w.bind fun x => if x.hstate && x.xinfo.toNat / 2 ^ 28 == 7 then some (x.xinfo.toNat / 2 ^ 20 % 256) else none

/-- The fabric whose control thread serves the fault of a generator, as its trap registers name it (R410). -/
def Fabric.serve (f : Fabric) (served : Option Nat) : Fabric :=
  { f with handling := served
           gens := f.gens.map fun g => (g.1, if served = some g.1 then { g.2 with taken := g.2.fault.isSome } else g.2) }

/-- The fabric from a spatial state that passes the checks. -/
def fabricFrom (r : Rect) (x : DWord) (b : List Byte) : Fabric :=
  let len := field b 8 4
  let f := fabricOf r (BitVec.ofNat 64 (field b 24 8)) ((b.drop 64).take len)
  let n := f.nodes.length
  let q := f.depth.length
  let p := spParts len n q (rectCores r)
  let part (off size i : Nat) : List Byte := (b.drop (off + size * i)).take size
  { f with
    nst := (List.range n).foldl (fun m i => m.set NodeSt.initial i (nodeStOf (part p.1 32 i))) []
    queues := (List.range q).foldl (fun m i => m.set [] i (queueOf (part p.2.1 80 i))) []
    gens := f.gens.map fun g => (g.1, genOf g.2 g.1 x (part p.2.2.1 128 g.1))
    ovf := field b 20 4 / 2 ^ 29 % 2 == 1 }

/-- Restores the spatial state of a group, if its record has one, before the warps (R412): a failure there is outside every warp's
items, and no warp's record has been read. -/
def State.restoreSpatial (s : State) (rd : Tr) (va : Nat) (gid : Nat) (g : Group) (l : Launch) (size slot pc : Nat) :
    Except RErr State :=
  if size = 0 then .ok s
  else
    match s.recCtl rd va size slot pc, l.record.rect with
    | .error e, _ => .error e
    | .ok _, none => .error .bad
    | .ok q, some r =>
      let b := q.map (·.1)
      if !spatialOk r size b then .error .bad
      else
        let x := s.free
        let f := fabricFrom r x.1 b
        if (s.shortQuad g.cores f.nodes f.depth).isSome then .error .defer
        else .ok ((x.2.setFabric gid f).setModes g.cores .spatial)

/-- The restored control thread of a group in spatial mode serves the fault that its trap registers name. -/
def State.restoreServed (s : State) (gid : Nat) (g : Group) : State :=
  match s.fabrics.find? gid with
  | none => s
  | some f => s.setFabric gid (f.serve (servedGen ((g.slots.find? 0).bind fun j => s.warpAt (g.cores.headD 0) j)))

/-! ### A group -/

/-- The warps of a group from WARPID `wid` on; `vo` counts vector registers, and the answer gives the machine, the
registers counted and the warps that had retired, of which no other section is read. DESIGN CHOICE, log 75. -/
def State.restoreWarps (s : State) (rd wr : Tr) (base : Nat) (r : RecShape) (sp : Space) (place : Nat → WarpPlace)
    (n wid vo : Nat) : Except RErr (State × Nat × SMap Nat) :=
  match n with
  | 0 => .ok (s, vo, [])
  | k + 1 =>
    let p := place wid
    match s.warpHead rd base r wid p.slot with
    | .error e => .error e
    | .ok h =>
      let one := if h.retired then .ok s else if !p.placed then .error .bad else s.restoreWarp rd wr base r vo sp p h
      match one with
      | .error e => .error e
      | .ok s1 =>
        match s1.restoreWarps rd wr base r sp place k (wid + 1) (vo + h.alloc) with
        | .error e => .error e
        | .ok (s2, total, ret) => .ok (s2, total, if h.retired then ret.put wid h.alloc else ret)

/-- The reserved fields of a record's header are zero (R5, Table TC-11). -/
def headerZero (b : PBytes) : Bool := PBytes.num b 26 2 == 0 && PBytes.num b 80 176 == 0

/-- Restores a placed group from its save record (R246). A failure outside every warp's items names the slot that warp 0 takes, and
slot 0 where warp 0 had retired and takes none. DESIGN CHOICE, log 74. -/
def State.restoreGroup (s : State) (gid : Nat) (g : Group) (l : Launch) (sv : SavedGroup) : Except RErr State :=
  match s.space l.asid with
  | none => .error .bad
  | some sp =>
    let c := g.cores.headD 0
    let base := saveVa sp sv.rec_
    let slot0 := g.slots.get 0 0
    let cleared := s.clearCores gid g l.asid l.record.gmem
    let rd := cleared.liveTr c l.asid .read
    let wr := cleared.liveTr c l.asid .write
    match cleared.recCtl rd base 256 slot0 0 with
    | .error e => .error e
    | .ok hd =>
      let f := PBytes.num hd
      let r : RecShape := { w := f 5 1, a := f 6 2, g := f 8 4, sp := f 28 4 }
      if f 0 4 ≠ 0x58534341 ∨ (f 4 1 ≠ 1 ∧ f 4 1 ≠ 2) ∨ r.w ≠ l.record.warps ∨ r.a ≠ l.record.regs ∨ r.g ≠ l.record.gmem ∨
          !headerZero hd then
        .error .bad
      else
        let place (wid : Nat) : WarpPlace :=
          { core := c, gid := gid, wid := wid, slot := g.slots.get 0 wid, rows := g.rows.get (0, 0) wid, oldCore := f 24 2 % 512
            oldSlot := f (48 + wid) 1 % 64, parked := r.sp != 0 && wid != 0, placed := (g.slots.find? wid).isSome, asid := l.asid, faults := sv.faults.get [] wid }
        match (cleared.rangeRead rd c l.asid base (r.at_ 11)).restoreSpatial rd (base + r.at_ 10) gid g l r.sp slot0 0 with
        | .error e => .error e
        | .ok s0 =>
          match s0.restoreWarps rd wr base r sp place r.w 0 0 with
          | .error e => .error e
          | .ok (s1, total, ret) =>
            let pc0 := ((s1.warpAt c slot0).map fun w => if w.wid = 0 ∧ w.gid = gid then w.pc.toNat else 0).getD 0
            if total ≠ r.w * r.a then .error .bad
            else
              match s1.restoreMem rd base r c g.gbase slot0 pc0 with
              | .error e => .error e
              | .ok s2 =>
                let mx := if l.record.cults.isEmpty then .ok s2
                  else (s2.rangeRead rd c l.asid (matrixVa sp sv.rec_) 0x10000).restoreMx rd (matrixVa sp sv.rec_) c gid l (fun t => f (32 + 4 * t) 4) slot0 pc0
                match mx with
                | .error e => .error e
                | .ok s3 =>
                  let s4 := s3.restoreServed gid g
                  match s4.group gid with
                  | none => .error .bad
                  | some g' =>
                    .ok (s4.setGroup gid { g' with resumed := true, retired := ret, rows := [], gphase := l.gphase
                                                   slots := g'.slots.filter fun p => !(ret.any fun q => q.1 == p.1) })

/-- Restores the saved members of a unit that has been placed; those that start again keep their places. -/
def State.restoreAll (s : State) (lid : Nat) (l : Launch) (idxs : List Nat) : Except (RErr × Nat × Nat) State :=
  match idxs with
  | [] => .ok s
  | i :: rest =>
    match l.saved.find? i, s.groupIdx lid i with
    | some sv, some (gid, g) =>
      match s.restoreGroup gid g l sv with
      | .error e => .error (e, i, g.cores.headD 0)
      | .ok s1 => s1.restoreAll lid l rest
    | _, _ => s.restoreAll lid l rest

/-- The halt record of a failed resumption (R246). -/
def resumeHalt (c slot pc addr : Nat) : HaltInfo :=
  { reason := 6, slot := slot, core := c, code := 0, pc := pc, xcause := 0, xmask := 0, xaddr := addr, log := 0 }

/-- GROUP_RESUME: a die's dispatcher takes the saved unit that its order names (R283). -/
def State.resume (s0 : State) (d : Nat) : State :=
  let s := s0.noteBlocked d
  match s.pick d with
  | none => s
  | some p =>
    if !p.unit.saved then s
    else
      let lid := p.unit.lid
      match s.launch lid with
      | none => s
      | some l =>
        match p.after.restoreAll lid l p.unit.idxs with
        | .ok t =>
          let done := p.unit.idxs.foldl (fun (a : State) i => match l.saved.find? i with
            | some sv => (a.freeRecord l.asid sv.rec_).updLaunch lid fun x => { x with saved := x.saved.del i }
            | none => a) t
          done.countBypass s p
        | .error (.defer, _, _) => s
        | .error (.fault addr slot pc, _, c) => s.haltContext l.asid (resumeHalt c slot pc addr)
        | .error (.bad, i, _) =>
          if l.record.isGang then
            (s.resetSaved lid i false).updLaunch lid fun x =>
              (x.again.filter fun k => x.record.gang i k).foldl (fun y k => y.lose k false) x
          else
            match l.saved.find? i with
            | some sv => (s.freeRecord l.asid sv.rec_).updLaunch lid fun x => x.lose i false
            | none => s

def execGroupResume (d : BitVec 2) (s : State) : Host.Outcome State Fault Refusal := .next (s.resume d.toNat)

end Sys2Proof.Machine
end

