-- ==== Sys2Proof/Machine/Launch.lean ====
section
/-! DEFINITION. The launch engine (spec/14_launch_engine.md): command queues and their registers, address-space
descriptors, packets, launch records, admission, chunks, completion, and the requests that system software makes through
PREQ. -/

namespace Sys2Proof.Machine

/-! ### Descriptors (R226, R250, R358, R434) -/

/-- A descriptor is well formed: reserved fields zero and bases aligned (R226). One with a base at or above 2^57, with CSAS not a
multiple of 4096, with CSAN above 65536 or with SAVEB 0 is malformed too. DESIGN CHOICE, log 72. -/
def descOk (b : List Byte) : Bool :=
  let f := field b
  let base (o al : Nat) : Bool := f o 8 % al == 0 && decide (f o 8 < 2 ^ 57)
  decide (f 0 2 < 2 ^ 12) && f 2 6 == 0 && base 8 1024 && base 16 4096 && base 24 4096 && base 32 4096 &&
  f 40 4 % 4096 == 0 && decide (f 44 4 ≤ 65536) && decide (1 ≤ f 48 4) && f 52 4 == 0 && base 56 4096 &&
  f 64 8 % 4096 == 0 && decide (f 64 8 < 2 ^ 52) && f 72 24 == 0

/-- The fields of a descriptor. -/
def spaceOfDesc (pa : Nat) (b : List Byte) : Space :=
  let f := field b
  { desc := pa, tvtb := f 8 8, tsb := f 16 8, xsb := f 24 8, csab := f 32 8, csas := f 40 4, csan := f 44 4, saveb := f 48 4
    cspb := f 56 8, ptroot := f 64 8 }

/-- A physical read of the front end: none for poison, an error reply or an address without memory. -/
def State.hubRead (s : State) (pa n : Nat) : Option (List Byte) :=
  if !paExists pa || s.errReply pa || s.memPoisoned pa n then none else some (s.memRead pa n)

/-- Whether an ASID is in use by something other than queue q (R250). -/
def State.asidUsed (s : State) (a q : Nat) : Bool :=
  s.queues.any (fun p => p.1 != q && p.2.enable && p.2.asid == some a) ||
  s.groups.any (fun p => (s.launch p.2.launch).any fun l => l.asid == a) ||
  s.launches.any (fun p => p.2.asid == a && !p.2.saved.isEmpty) ||
  s.cores.any fun p => (List.range 16).any fun i => (p.2.ownAt i).st != OwnState.free && (p.2.ownAt i).asid == a

/-- The front end has every die forget the code and the translations of an ASID, over the dies' hub links (R9). -/
def State.forgetAsid (s0 : State) (a : Nat) : State :=
  let s := (List.range 4).foldl (fun t d => t.exchange 4 d) s0
  { s with l2tlb := s.l2tlb.filter fun p => p.2.asid != a
           cores := s.cores.map fun p => (p.1, { p.2 with
      icache := p.2.icache.filter fun e => e.asid != a, tlb := p.2.tlb.filter fun e => e.asid != a }) }

/-- Binds a queue to its descriptor, or halts it: ERR 5 for a read that fails, ERR 8 for a malformed descriptor or an
ASID in use under another one, ERR 2 for a bad LOG2SZ (R415). The front end then uses the values read for this queue; the cores
use for an address space those read when its ASID came into use, or at the latest RESUME of one of its queues. DEDUCED, log 45. -/
def State.bindQueue (s0 : State) (q : Nat) (resume : Bool) : State × Bool :=
  let x := s0.queue q
  let pa := x.desc.toNat * 128
  let s := s0.access .hub pa 96 .read
  let fail (err : Nat) : State × Bool := ((s.setQueue q { x with asid := none }).haltQueue q err 0 x.rp.toNat, false)
  match s.hubRead pa 96 with
  | none => fail 5
  | some b =>
    let a := field b 0 2 % 4096
    let used := s.asidUsed a q
    let sp := spaceOfDesc pa b
    if !descOk b || (used && (s.space a).any fun o => o.desc != pa) then fail 8
    else
      let s1 := if used then s else s.forgetAsid a
      let s2 := if used && !resume then s1 else { s1 with spaces := s1.spaces.put a sp }
      let s3 := s2.setQueue q { x with asid := some a, space := some sp }
      if x.log2sz.toNat < 12 ∨ 26 < x.log2sz.toNat then (s3.haltQueue q 2 0 x.rp.toNat, false) else (s3, true)

/-! ### Queue registers (R414 to R419) -/

/-- A register write takes effect once the device runs: in recovery BAR 0 holds the recovery mailbox alone (R476). -/
def State.bar0 (s t : State) : Host.Outcome State Fault Refusal := .next (if s.boot = .on then t else s)

/-- QCFG with its fields other than ENABLE. -/
def Queue.withCfg (x : Queue) (v : BitVec 32) : Queue :=
  { x with vec := v.extractLsb' 8 8, preempt := v.getLsbD 4, qprio := v.extractLsb' 0 3 }

/-- QCFG_ENABLE_SET (R415, R419): a write of QCFG that sets ENABLE, with the other fields as written. -/
def State.enableQueue (s : State) (q : Nat) (v : BitVec 32) : State :=
  let x := s.queue q
  if x.enable && !x.stopping then s
  else
    let x1 := { x.withCfg v with enable := true, stopping := false, st := .enabled, err := 0, errdet := 0, erroff := 0 }
    let p := (s.setQueue q x1).bindQueue q false
    if !p.2 then p.1
    else
      if ((p.1.queue q).asid.bind fun a => p.1.space a).any fun sp => p.1.haltReason sp != 0 then
        p.1.haltQueue q 7 0 x1.rp.toNat
      else p.1

def execQcfgEnableSet (q : BitVec 7) (v : BitVec 32) (s : State) : Host.Outcome State Fault Refusal :=
  s.bar0 (s.enableQueue q.toNat v)

/-- A queue stops after its packet in progress, whether or not it is halted: until then STATE is what it was (R419). -/
def State.disableQueue (s : State) (q : Nat) : State :=
  let x := s.queue q
  if !x.enable then s
  else
    let busy := x.work != .none
    s.setQueue q { x with enable := false, stopping := busy, st := if busy then x.st else .disabled }

/-- QCFG_ENABLE_CLEAR (R419): a write of QCFG with ENABLE clear. While ENABLE is 1 its other fields are ignored. -/
def execQcfgEnableClear (q : BitVec 7) (v : BitVec 32) (s : State) : Host.Outcome State Fault Refusal :=
  let x := s.queue q.toNat
  if x.enable then s.bar0 (s.disableQueue q.toNat) else s.bar0 (s.setQueue q.toNat (x.withCfg v))

/-- QWP_WRITE (R416, R419). -/
def execQwpWrite (q : BitVec 7) (v : BitVec 32) (s : State) : Host.Outcome State Fault Refusal :=
  let x := s.queue q.toNat
  let wp := v.extractLsb' 0 26
  if wp.toNat % 64 = 0 ∧ wp.toNat < 2 ^ x.log2sz.toNat then s.bar0 (s.setQueue q.toNat { x with wp := wp })
  else s.bar0 (s.haltQueue q.toNat 3 0 wp.toNat)

/-- No request holds a translation that an INVAL of a queue has removed and waits for. -/
def State.dropStale (s : State) (q : Nat) : State :=
  { s with cores := s.cores.map fun p => (p.1, { p.2 with
      copy := p.2.copy.map fun r => { r with stale := r.stale.remove q }
      arr := p.2.arr.map fun r => { r with stale := r.stale.remove q } }) }

/-- QCTL_RESET (R418): a LAUNCH in progress goes on; every other packet is discarded, an INVAL with what it waits for. DEDUCED,
log 45. -/
def execQctlReset (q : BitVec 7) (s : State) : Host.Outcome State Fault Refusal :=
  let x := s.queue q.toNat
  let work := match x.work with
    | .launch l => QWork.launch l
    | _ => QWork.none
  s.bar0 ((s.setQueue q.toNat { x with
    enable := false, stopping := false, st := .disabled, rp := 0, wp := 0, seq := 0, err := 0, errdet := 0, erroff := 0
    work := work }).dropStale q.toNat)

/-- QCTL_RESUME (R418): a queue halted with ERR 7 stays so until HALTREC.REASON is zero. -/
def execQctlResume (q : BitVec 7) (s : State) : Host.Outcome State Fault Refusal :=
  let x := s.queue q.toNat
  let held := x.err == 7 && (x.asid.bind fun a => s.space a).any fun sp => s.haltReason sp != 0
  if x.st ≠ .halted ∨ x.stopping ∨ held then s.bar0 s
  else s.bar0 ((s.setQueue q.toNat { x with st := .enabled }).bindQueue q.toNat true).1

/-- QSTAT_IRQ_CLEAR (R414). -/
def execQstatIrqClear (q : BitVec 7) (s : State) : Host.Outcome State Fault Refusal :=
  s.bar0 (s.setQueue q.toNat { s.queue q.toNat with irq := false })

/-! ### Packets (R416 to R421) -/

/-- The first offset whose condition does not hold; `cs` is in increasing order of offsets. -/
def firstBad (cs : List (Nat × Bool)) : Option Nat := (cs.find? fun p => !p.2).map (·.1)

/-- Bytes lo to hi are zero, each checked at its own offset. -/
def zeros (b : List Byte) (lo hi : Nat) : List (Nat × Bool) :=
  (List.range (hi + 1 - lo)).map fun i => (lo + i, b.getD (lo + i) 0 == 0)

/-- The checks of a packet's bytes (Tables LE-4 and LE-5). -/
def packetChecks (b : List Byte) : List (Nat × Bool) :=
  let f := field b
  (1, decide (f 1 1 < 2)) :: match f 0 1 with
    | 0 => zeros b 2 63
    | 1 => zeros b 2 7 ++ [(8, f 8 8 % 256 == 0 && decide (f 8 8 < 2 ^ 57))] ++ zeros b 16 63
    | 2 => [(2, decide (f 2 1 ≤ 5)), (3, f 3 1 == 2 || f 3 1 == 3), (8, f 8 8 % 2 ^ f 3 1 == 0 && decide (f 8 8 < 2 ^ 57)),
        (16, f 3 1 != 2 || decide (f 16 8 < 2 ^ 32))] ++ zeros b 24 63
    | 3 => [(2, decide (f 2 1 ≤ 1))] ++ zeros b 3 7 ++ [(8, f 8 8 % 8 == 0 && decide (f 8 8 < 2 ^ 57))] ++ zeros b 24 63
    | 4 => zeros b 2 7 ++ [(8, f 8 8 % 4096 == 0 && decide (f 8 8 < 2 ^ 57))] ++ zeros b 20 63
    | _ => [(2, decide (1 ≤ f 2 1 ∧ f 2 1 < 16))] ++ zeros b 3 7 ++ [(8, f 8 8 % 8 == 0 && decide (f 8 8 < 2 ^ 57)),
        (16, f 16 4 % 8 == 0 && decide (8 ≤ f 16 4) && decide (f 8 8 + f 16 4 ≤ 2 ^ 57))] ++ zeros b 20 63

/-- A packet at the head of a queue: its bytes, or the error and its byte. -/
inductive Head where
  | none
  | bad (err det : Nat)
  | packet (b : List Byte)
  deriving DecidableEq, Repr

/-- The packet that a queue begins: it is enabled and idle, its address space is not held, and RP and WP differ. -/
def State.headOf (s : State) (q : Nat) : Head :=
  let x := s.queue q
  let held := x.asid.any fun a => s.heldAsids.has a
  if !x.enable || x.st != .enabled || x.work != .none || x.rp == x.wp || held then .none
  else
    match s.hubRead (x.base.toNat * 4096 + x.rp.toNat) 64 with
    | none => .bad 5 0
    | some b =>
      if 6 ≤ field b 0 1 then .bad 1 0
      else
        match firstBad (packetChecks b) with
        | some o => .bad 2 o
        | none => .packet b

/-- RP moves past a packet that has passed its checks (R416). -/
def State.advance (s : State) (q : Nat) : State :=
  let x := s.queue q
  s.setQueue q { x with rp := BitVec.ofNat 26 ((x.rp.toNat + 64) % 2 ^ x.log2sz.toNat) }

/-- The packet in progress is over: it counts when it completed (R416). -/
def State.closePacket (s : State) (q : Nat) (completed : Bool) : State :=
  let x := s.queue q
  s.setQueue q { x with work := .none, seq := if completed then x.seq + 1 else x.seq }

/-- A queue whose ENABLE was cleared is disabled once its packet in progress has run to completion (R419). -/
def State.stopQueue (s : State) (q : Nat) : State :=
  let x := s.queue q
  s.setQueue q { x with stopping := false, st := if x.stopping then .disabled else x.st }

/-- The packet in progress ends under its own rules, its interrupt with it, and a queue that was to stop does (R419). -/
def State.endPacket (s : State) (q : Nat) (completed irq : Bool) : State :=
  let s1 := s.closePacket q completed
  (if irq then s1.raiseIrq q else s1).stopQueue q

/-- A packet that RP has moved past halts its queue (R416). -/
def State.failPacket (s : State) (q off err det : Nat) (completed : Bool := false) : State :=
  ((s.closePacket q completed).haltQueue q err det off).stopQueue q

def pktIrq (b : List Byte) : Bool := field b 1 1 == 1

/-- The front end reads the packet that a queue's head names from the ring, over the link of the ring's home die (R9, R10). -/
def State.ringRead (s : State) (q : Nat) : State :=
  s.access .hub ((s.queue q).base.toNat * 4096 + (s.queue q).rp.toNat) 64 .read

/-- Begins the packet of one opcode: a packet that fails its checks halts the queue, and one of another opcode is left to
its own event. -/
def State.packet (s : State) (q op : Nat) (run : State → List Byte → State) : State :=
  match s.headOf q with
  | .none => s
  | .bad err det => (s.ringRead q).haltQueue q err det (s.queue q).rp.toNat
  | .packet b => if field b 0 1 = op then run (s.ringRead q) b else s

def State.asidOfQueue (s : State) (q : Nat) : Nat := (s.queue q).asid.getD 0

/-- The descriptor's values that a queue's packets use (R415). -/
def State.spaceOfQueue (s : State) (q : Nat) : Option Space := (s.queue q).space

/-- A check of a packet's address fails before it runs (R416). -/
def State.refusePacket (s : State) (q err det : Nat) : State := s.haltQueue q err det (s.queue q).rp.toNat

/-- NOP_PACKET (R421). -/
def execNopPacket (q : BitVec 7) (s : State) : Host.Outcome State Fault Refusal :=
  .next (s.packet q.toNat 0 fun s b => (s.advance q.toNat).endPacket q.toNat true (pktIrq b))

/-- The comparison of a WAIT, unsigned (Table AL-2). -/
def waitHolds (cond v c : Nat) : Bool :=
  match cond with
  | 0 => v == c
  | 1 => v != c
  | 2 => decide (v < c)
  | 3 => decide (v ≤ c)
  | 4 => decide (c < v)
  | _ => decide (c ≤ v)

/-- A read of the location of the WAIT in progress: it completes, halts the queue or waits on. Each read translates the address
anew (R185, R268); a translation that fails ends the packet as a fault in reading its location does (Table LE-3). Once
1024·TIMEOUT hub cycles have passed it is too late (R421). DEDUCED, log 66. -/
def State.waitStep (s : State) (q : Nat) : State :=
  match (s.queue q).work with
  | .wait off va n cond value start _ timeout irq =>
    if timeout ≠ 0 ∧ 1024 * timeout < s.hub - start then s.failPacket q off 6 0
    else
    match s.hubXlate (s.spaceOfQueue q) va .read with
    | .error _ => (s.hubWalked (s.spaceOfQueue q) va).failPacket q off 5 8
    | .ok (pa, _) =>
      let s1 := (s.hubWalked (s.spaceOfQueue q) va).access .hub pa n .read
      if s1.errReply pa || s1.memPoisoned pa n then s1.failPacket q off 5 8
      else if waitHolds cond (s1.memNat pa n) value.toNat then s1.endPacket q true irq
      else s1.setQueue q { s1.queue q with work := .wait off va n cond value start s.hub timeout irq }
  | _ => s

/-- WAIT_PACKET (R421). -/
def execWaitPacket (q : BitVec 7) (s : State) : Host.Outcome State Fault Refusal :=
  .next (s.packet q.toNat 2 fun s b =>
    let x := s.queue q.toNat
    match s.hubXlate (s.spaceOfQueue q.toNat) (field b 8 8) .read with
    | .error _ => (s.hubWalked (s.spaceOfQueue q.toNat) (field b 8 8)).refusePacket q.toNat 5 8
    | .ok _ =>
      let s1 := s.advance q.toNat
      (s1.setQueue q.toNat { s1.queue q.toNat with
        work := .wait x.rp.toNat (field b 8 8) (2 ^ field b 3 1) (field b 2 1) (BitVec.ofNat 64 (field b 16 8)) s.hub s.hub (field b 4 4)
          (pktIrq b) }).waitStep q.toNat)

/-- WAIT_REREAD (R421). -/
def execWaitReread (q : BitVec 7) (s : State) : Host.Outcome State Fault Refusal := .next (s.waitStep q.toNat)

/-- The WAIT in progress halts its queue with ERR 6 once 1024·TIMEOUT hub cycles have passed (R421). -/
def State.waitExpire (s : State) (q : Nat) : State :=
  match (s.queue q).work with
  | .wait off _ _ _ _ start _ timeout _ => if timeout ≠ 0 ∧ 1024 * timeout ≤ s.hub - start then s.failPacket q off 6 0 else s
  | _ => s

/-- WAIT_TIMEOUT (R421): 1024·TIMEOUT hub cycles have passed. -/
def execWaitTimeout (q : BitVec 7) (s : State) : Host.Outcome State Fault Refusal := .next (s.waitExpire q.toNat)

/-- SIGNAL (R421). -/
def execSignal (q : BitVec 7) (s : State) : Host.Outcome State Fault Refusal :=
  .next (s.packet q.toNat 3 fun s b =>
    let add := field b 2 1 == 1
    let off := (s.queue q.toNat).rp.toNat
    let s0 := s.hubWalked (s.spaceOfQueue q.toNat) (field b 8 8)
    match s.hubXlate (s.spaceOfQueue q.toNat) (field b 8 8) (if add then .rmw else .write) with
    | .error _ => s0.refusePacket q.toNat 5 8
    | .ok (pa, comp) =>
      let s1 := s0.advance q.toNat
      if s1.errReply pa || (add && s1.memPoisoned pa 8) then s1.failPacket q.toNat off 5 8
      else
        let v := if add then s1.memNat pa 8 + field b 16 8 else field b 16 8
        (s1.store .hub pa (leBytes 8 v) comp).endPacket q.toNat true (pktIrq b))

/-! ### INVAL and IFLUSH (R421) -/

/-- Whether a translation overlaps the range of an INVAL: `n` pages from page `lo`, or all of them when `n` is 0. -/
def overlaps (lo n va size : Nat) : Bool := n == 0 || (decide (va < 4096 * (lo + n)) && decide (4096 * lo < va + size))

/-- Whether a request that holds a translation removed by a queue's INVAL is still in progress (R292, R421). -/
def State.staleLeft (s : State) (q : Nat) : Bool :=
  s.cores.any fun p => p.2.copy.any (fun r => r.stale.has q) || p.2.arr.any fun r => r.stale.has q

/-- Removes the translations of a range from every TLB of the package, and marks for a queue the requests that hold one. -/
def State.invalidate (s0 : State) (q asid lo n : Nat) : State :=
  let s := (List.range 4).foldl (fun a d => a.exchange 4 d) s0
  let gone (e : TlbEntry) : Bool := e.asid == asid && overlaps lo n e.va e.tr.size
  let holds (a : Nat) (ts : List (Nat × Nat)) : Bool := a == asid && ts.any fun t => overlaps lo n t.1 t.2
  { s with
    l2tlb := s.l2tlb.filter fun p => !gone p.2
    cores := s.cores.map fun p => (p.1, { p.2 with
      tlb := p.2.tlb.filter fun e => !gone e
      copy := p.2.copy.map fun r => if holds r.asid r.transl then { r with stale := r.stale.add q } else r
      arr := p.2.arr.map fun r => if holds r.asid r.transl then { r with stale := r.stale.add q } else r }) }

/-- INVAL (R421): begins the packet, or completes the one in progress once no request holds a removed translation. -/
def State.inval (s : State) (q : Nat) : State :=
  let finish (s : State) : State :=
    match (s.queue q).work with
    | .inval irq => if s.staleLeft q then s else s.endPacket q true irq
    | _ => s
  match (s.queue q).work with
  | .inval _ => finish s
  | _ => s.packet q 4 fun s b =>
    let s1 := (s.advance q).invalidate q (s.asidOfQueue q) (field b 8 8 / 4096) (field b 16 4)
    finish (s1.setQueue q { s1.queue q with work := .inval (pktIrq b) })

def execInval (q : BitVec 7) (s : State) : Host.Outcome State Fault Refusal := .next (s.inval q.toNat)

/-- IFLUSH (R421). -/
def execIflush (q : BitVec 7) (s : State) : Host.Outcome State Fault Refusal :=
  .next (s.packet q.toNat 5 fun s b =>
    let dies := (List.range 4).filter fun d => field b 2 1 / 2 ^ d % 2 == 1
    let keep (va : Nat) : Bool := !(decide (field b 8 8 ≤ va) && decide (va < field b 8 8 + field b 16 4))
    let s0 := dies.foldl (fun a d => a.exchange 4 d) (s.advance q.toNat)
    let s1 := (coresOf dies).foldl (fun a c => a.dropCode c (s.asidOfQueue q.toNat) keep) s0
    s1.endPacket q.toNat true (pktIrq b))

/-! ### Launch records (R422, R423) -/

/-- The culture entries that name a slot: slot, handle, PIN, DV16 and DK16. -/
def cultOf (b : List Byte) (t : Nat) : Cult :=
  let lo := field b (0x60 + 8 * t) 4
  { handle := field b (0x64 + 8 * t) 4, pin := lo / 2 ^ 16 % 2 == 1, dv16 := lo / 2 ^ 12 % 16 + 1, dk16 := lo / 2 ^ 8 % 16 + 1 }

/-- The ranges [h, h + n) and [k, k + n) meet modulo 2^32. -/
def handlesMeet (h k n : Nat) : Bool :=
  decide ((h + 2 ^ 32 - k) % 2 ^ 32 < n) || decide ((k + 2 ^ 32 - h) % 2 ^ 32 < n)

/-- The checks of a culture entry (R348), each at the first byte of the field that offends (R422): the reserved byte, DKM and DVM,
the reserved bits above PIN, and HANDLE, which comes last where a condition involves it. -/
def cultChecks (b : List Byte) (groups t : Nat) : List (Nat × Bool) :=
  let o := 0x60 + 8 * t
  let lo := field b o 4
  let h := field b (o + 4) 4
  let others := (List.range t).map fun k => field b (0x64 + 8 * k) 4
  [(o, lo % 256 == 0), (o + 1, decide (lo / 2 ^ 12 % 16 < 8) && decide (lo / 2 ^ 8 % 16 < 8)), (o + 2, decide (lo < 2 ^ 17)),
   (o + 4, (h != 0 || lo == 0) && (h == 0 || (decide (h + groups ≤ 2 ^ 32) && !(others.any fun k => k != 0 && handlesMeet h k groups))))]

/-- The checks of a launch record (Table LE-6), in order of offset. -/
def recordChecks (b : List Byte) : List (Nat × Bool) :=
  let f := field b
  let groups := f 0x10 4 * f 0x14 4 * f 0x18 4
  let cls := f 0x2C 1
  let n := cls / 4 % 4 + 1
  let shape := f 0x2E 1
  let fresh := f 0x30 1 / 2 % 2 == 1
  [(0x00, f 0 8 % 8 == 0 && decide (f 0 8 < 2 ^ 57)), (0x08, f 8 4 % 8 == 0 && decide (f 0 8 + f 8 4 ≤ 2 ^ 57))] ++
  zeros b 0x0C 0x0F ++
  [(0x10, f 0x10 4 != 0), (0x14, f 0x14 4 != 0), (0x18, f 0x18 4 != 0 && decide (groups < 2 ^ 32)),
   (0x1C, decide (1 ≤ f 0x1C 1 ∧ f 0x1C 1 ≤ 32))] ++ zeros b 0x1D 0x1D ++
  [(0x1E, f 0x1E 2 % 8 == 0 && decide (8 ≤ f 0x1E 2 ∧ f 0x1E 2 ≤ 256)),
   (0x20, f 0x20 4 % 1024 == 0 && decide (f 0x20 4 ≤ 524288)), (0x24, f 0x24 4 != 0),
   (0x2C, cls % 4 != 3 && decide (cls < 16) && groups % n == 0), (0x2D, decide (f 0x2D 1 < 8)),
   (0x2E, decide (shape < 8) && (if shape % 2 = 0 then shape == 0 else n == 1)),
   (0x2F, decide (1 ≤ f 0x2F 1 ∧ f 0x2F 1 < 16)), (0x30, decide (f 0x30 1 < 4) && !(fresh && f 8 4 == 0))] ++
  zeros b 0x31 0x3F ++
  [(0x40, f 0x40 8 != 0 && f 0x40 8 % 64 == 0 && decide (f 0x40 8 < 2 ^ 57)),
   (0x50, f 0x50 8 % 4 == 0 && decide (f 0x50 8 < 2 ^ 57)), (0x58, f 0x50 8 != 0 || f 0x58 4 == 0)] ++
  zeros b 0x5C 0x5F ++ (List.range 4).flatMap (cultChecks b groups) ++ zeros b 0x80 0xFF

def rectOfCode : Nat → Rect
  | 0 => .s11
  | 1 => .s21
  | 2 => .s12
  | _ => .s22

/-- The fields of a launch record (Table LE-6). -/
def recordOf (b : List Byte) : LaunchRec :=
  let f := field b
  { code := BitVec.ofNat 57 (f 0 8), codesz := f 8 4, gx := f 0x10 4, gy := f 0x14 4, gz := f 0x18 4, warps := f 0x1C 1
    regs := f 0x1E 2, gmem := f 0x20 4, steep := f 0x24 4, deadline := f 0x28 4, gclass := f 0x2C 1 % 4
    clSize := f 0x2C 1 / 4 % 4 + 1, prio := f 0x2D 1
    rect := if f 0x2E 1 % 2 = 1 then some (rectOfCode (f 0x2E 1 / 2 % 4)) else none, dies := f 0x2F 1
    restart := f 0x30 1 % 2 == 1, fresh := f 0x30 1 / 2 % 2 == 1, sigaddr := f 0x40 8, sigval := BitVec.ofNat 64 (f 0x48 8)
    listaddr := f 0x50 8, listcap := f 0x58 4
    cults := ((List.range 4).filter fun t => f (0x64 + 8 * t) 4 != 0).foldl (fun m t => m.put t (cultOf b t)) [] }

/-- The dies of a launch's die set, fenced or not. -/
def LaunchRec.dieSet (r : LaunchRec) : NSet := (List.range 4).filter fun d => r.dies / 2 ^ d % 2 == 1

/-- LAUNCH (R422, R423): reads and checks the record; the launch is pending from then on. -/
def execLaunch (q : BitVec 7) (s : State) : Host.Outcome State Fault Refusal :=
  .next (s.packet q.toNat 1 fun s b =>
    let x := s.queue q.toNat
    let asid := s.asidOfQueue q.toNat
    let s := s.hubWalked (s.spaceOfQueue q.toNat) (field b 8 8)
    match s.hubProbe (s.spaceOfQueue q.toNat) (field b 8 8) .read with
    | .error _ => s.refusePacket q.toNat 5 8
    | .ok (pa, _) =>
      let s := s.access .hub pa 256 .read
      if s.memPoisoned pa 256 then s.refusePacket q.toNat 5 8
      else
        let rb := s.memRead pa 256
        match firstBad (recordChecks rb) with
        | some o => s.refusePacket q.toNat 4 o
        | none =>
          let t := (s.advance q.toNat).tick
          let r := recordOf rb
          let l : Launch :=
            { id := BitVec.ofNat 64 (2 ^ 56 * q.toNat + x.seq.toNat), queue := q.toNat, asid := asid, space := x.space
              off := x.rp.toNat, record := r
              prio := min r.prio x.qprio.toNat, dies := r.dieSet.filter fun d => !s.fenced.has d && (s.dies.get DieSt.initial d).mode == .running
              readAt := s.hub
              preempt := x.preempt, irq := pktIrq b, constAt := s.writes, gphase := 0, fault := false, next := 0, grants := []
              back := [], started := [], retired := [], lost := [], again := [], saved := [], freshDone := []
              unadmit := false, killed := false }
          let s1 := t.2.setQueue q.toNat { t.2.queue q.toNat with work := .launch t.1 }
          ({ s1 with launches := s1.launches.put t.1 l }).judge t.1)

/-! ### Admission and chunks (R277, R427, R428, R431) -/

/-- A launch after a die has taken its next unit. -/
def Launch.took (l : Launch) (d : Nat) : Launch :=
  if l.record.gclass = 0 then { l with next := l.record.count }
  else
    let step (g : Grant) : Grant := if some g = l.grantOf d then { g with lo := g.lo + l.record.clSize } else g
    { l with grants := (l.grants.map step).filter fun g => decide (g.lo < g.hi) }

/-- LAUNCH_ADMISSION (R427): a die's dispatcher takes the pending unit that its order names. -/
def execLaunchAdmission (d : BitVec 2) (s : State) : Host.Outcome State Fault Refusal :=
  let s0 := s.noteBlocked d.toNat
  match s0.pick d.toNat with
  | none => .next s0
  | some p =>
    if p.unit.saved then .next s0
    else .next ((p.after.updLaunch p.unit.lid fun l => l.took d.toNat).countBypass s0 p)

/-- The next chunk that a leader grants: indices given back first, then from the counter (R431, R432). -/
def Launch.chunk (l : Launch) : Option (Nat × Nat × Launch) :=
  let n := l.record.clSize
  let most := n * (64 / n)
  match l.back with
  | (lo, hi) :: rest =>
    let e := min hi (lo + most)
    some (lo, e, { l with back := if e < hi then (e, hi) :: rest else rest })
  | [] =>
    if l.next < l.record.count then
      let e := min l.record.count (l.next + most)
      some (l.next, e, { l with next := e })
    else none

/-- Whether a die can take more of a launch: the unit that would come next fits there. -/
def State.canTake (s : State) (lid : Nat) (l : Launch) (d : Nat) : Bool :=
  (s.freshUnit lid l d).any fun u => (s.placeWork d u).isSome

/-- CHUNK_REQUEST (R431): a die that has no indices left of a launch, and can take more of it, asks the leader for them. -/
def execChunkRequest (lid : Nat) (d : BitVec 2) (s : State) : Host.Outcome State Fault Refusal :=
  match s.launch lid with
  | none => .next s
  | some l =>
    let busy := l.grants.any fun g => g.die == d.toNat
    if l.unadmit || l.killed || l.record.gclass == 0 || busy || !(s.liveDies l).has d.toNat || !s.canTake lid l d.toNat then .next s
    else
      match l.chunk with
      | none => .next s
      | some (lo, hi, l') =>
        .next ((s.exchange d.toNat (s.leader l)).updLaunch lid fun _ => { l' with grants := l'.grants ++ [{ die := d.toNat, lo := lo, hi := hi, live := false }] })

/-- GRANT_ACKNOWLEDGED (R431): the n-th grant of a launch takes effect, which the leader hears from every live die and from the
front end. -/
def execGrantAcknowledged (lid n : Nat) (s : State) : Host.Outcome State Fault Refusal :=
  match s.launch lid with
  | none => .next s
  | some l =>
    match l.grants[n]? with
    | some g =>
      if g.live then .next s
      else
        .next (((s.liveDies l ++ [4]).foldl (fun (a : State) d => a.exchange (s.leader l) d) s).updLaunch lid fun x =>
          { x with grants := x.grants.set n { g with live := true } })
    | none => .next s

/-! ### Completion (R424) -/

/-- The indices that did not retire. -/
def Launch.notRetired (l : Launch) : List Nat := (List.range l.record.count).filter fun i => !l.retired.has i

/-- Whether a launch is complete. -/
def State.launchDone (s : State) (lid : Nat) (l : Launch) : Bool :=
  let counted (i : Nat) : Bool := l.retired.has i || l.lost.has i
  l.unadmit || (!s.busyFor lid && l.saved.isEmpty && (l.killed || (l.again.isEmpty && (List.range l.record.count).all counted)))

/-- Writes of the front end at virtual addresses, in order; none when one meets a fault or an error reply. -/
def State.hubWrites (s : State) (space : Option Space) (ws : List (Nat × List Byte)) : State × Bool :=
  match ws with
  | [] => (s, true)
  | (va, bs) :: rest =>
    match s.hubProbe space va .write with
    | .error _ => (s.hubWalked space va, false)
    | .ok (pa, comp) => ((s.hubWalked space va).store .hub pa bs comp).hubWrites space rest

/-- The writes of a completion record (Table LE-7), SIGNAL last. -/
def Launch.completion (l : Launch) : List (Nat × List Byte) :=
  let miss := l.notRetired
  let nret := miss.length
  let status := (if nret ≠ 0 then 1 else 0) + (if l.unadmit then 2 else 0) + (if l.fault then 4 else 0) +
    (if l.record.listcap < nret then 8 else 0)
  let listed := miss.take l.record.listcap
  ((listed.zip (List.range listed.length)).map fun p => (l.record.listaddr + 4 * p.2, leBytes 4 p.1)) ++
  [(l.record.sigaddr, leBytes 4 status ++ leBytes 4 nret), (l.record.sigaddr + 8, leBytes 8 l.id.toNat),
   (l.record.sigaddr + 24, List.replicate 40 0), (l.record.sigaddr + 16, leBytes 8 l.record.sigval.toNat)]

/-- LAUNCH_COMPLETION (R424): the record is written with the descriptor's values that the LAUNCH packet used. -/
def execLaunchCompletion (lid : Nat) (s : State) : Host.Outcome State Fault Refusal :=
  match s.launch lid with
  | none => .next s
  | some l =>
    if !s.launchDone lid l then .next s
    else
      let w := s.hubWrites l.space l.completion
      let s1 := { w.1 with launches := w.1.launches.del lid }
      if w.2 then .next (s1.endPacket l.queue true l.irq) else .next (s1.failPacket l.queue l.off 9 0 true)

/-! ### Requests of system software (R429, R430) -/

/-- The cores that run groups of an address space, or the one named if it does. -/
def State.coresRunning (s : State) (asid core : Nat) (all : Bool) : List Nat :=
  (if all then List.range 512 else [core]).filter fun c => !(s.concerned c (some asid)).isEmpty

/-- PREQ_PREEMPT (R429): ACT 0b01 without KILL. -/
def execPreqPreempt (asid : BitVec 12) (all : Bool) (core : BitVec 9) (s : State) : Host.Outcome State Fault Refusal :=
  s.bar0 (s.request (s.coresRunning asid.toNat core.toNat all) (some asid.toNat) false)

/-- PREQ_PREEMPT_HOLD (R429): ACT 0b10. -/
def execPreqPreemptHold (asid : BitVec 12) (all : Bool) (core : BitVec 9) (s : State) : Host.Outcome State Fault Refusal :=
  let s1 := s.request (s.coresRunning asid.toNat core.toNat all) (some asid.toNat) false
  s.bar0 { s1 with heldAsids := s1.heldAsids.add asid.toNat }

/-- PREQ_RELEASE_HOLD (R429): ACT 0b11. -/
def execPreqReleaseHold (asid : BitVec 12) (s : State) : Host.Outcome State Fault Refusal :=
  s.bar0 { s with heldAsids := s.heldAsids.remove asid.toNat }

/-- Pinned cultures of an ASID are zeroed and freed (R430). -/
def Core.freePinned (k : Core) (asid : Nat) : Core :=
  let regs := (List.range 16).filter fun i => (k.ownAt i).st == OwnState.pinned && (k.ownAt i).asid == asid
  { k.setRegions regs Own.release with
      acc := k.acc.filter fun p => !regs.contains (p.1 / 4096)
      accPoison := k.accPoison.filter fun row => !regs.contains (row / 64) }

/-- PREQ_KILL (R430): the forced reset of an address space, which the hub sends to every die, and which every die reports. -/
def State.killAsid (s0 : State) (a : Nat) : State :=
  let s := (List.range 4).foldl (fun t d => t.exchange 4 d) s0
  let mine := (s.groups.filter fun p => (s.launch p.2.launch).any fun l => l.asid == a).map (·.1)
  let s1 := mine.foldl (fun t g => t.resetGroup g false) s
  let ls := (s1.launches.filter fun p => p.2.asid == a).map (·.1)
  let s2 := ls.foldl (fun t lid =>
    match t.launch lid with
    | some l => ((l.saved.foldl (fun u p => u.freeRecord a p.2.rec_) t).updLaunch lid fun x =>
        { x with saved := [], again := [], grants := [], back := [], killed := true })
    | none => t) s1
  let s3 := { s2 with cores := s2.cores.map (fun p => (p.1, p.2.freePinned a)), heldAsids := s2.heldAsids.remove a }
  (List.range 128).foldl (fun t q => if (t.queue q).asid = some a then t.disableQueue q else t) s3

def execPreqKill (asid : BitVec 12) (s : State) : Host.Outcome State Fault Refusal := s.bar0 (s.killAsid asid.toNat)

end Sys2Proof.Machine
end

