-- ==== Sys2Proof/Machine/Coherence.lean ====
section
/-! DEFINITION. The Syzer protocol between the dies (spec/15_package_fabric.md), message by message: the home's transactions
and the caching agents' answers. Agents 0 to 3 are the compute dies and 4 is the host. -/

namespace Sys2Proof.Machine

/-! ### The home's transactions (R442, R443, R445, Table PF-6) -/

/-- A host write performed at the home, where no copy is left: the sector's bytes and its poison mark go to memory. DESIGN
CHOICE, log 78. -/
def State.hostStore (s : State) (r : Req) : State :=
  match r with
  | .hostWr sec bs p => ((s.memWrite (64 * sec) (bs.take 64)).setSec sec p).mergeLine (sec / 2)
  | _ => s

/-- The cycle of a home's clock. -/
def State.homeClk (s : State) (line : Nat) : Nat := (s.die (homeOf line)).clk

/-- Puts a request into a home's queue: in order of arrival, and among requests of one home cycle in increasing die number,
the host last (R442). -/
def enqueue (q : Waiting) (qs : List Waiting) : List Waiting :=
  match qs with
  | [] => [q]
  | p :: rest => if p.at_ < q.at_ ∨ p.at_ = q.at_ ∧ p.a ≤ q.a then p :: enqueue q rest else q :: p :: rest

/-- The home sends a reply. A Blk asks for a block of four lines, which the home serves in turn; the one reply, about the first
line, comes after the last (R312, R439). DEDUCED, log 46. -/
def State.replies (s : State) (line : Nat) (t : Txn) (m : Msg) : State :=
  if t.req = .blk then
    if line % 4 = 3 then s.send (homeOf line) t.a (line / 4 * 4) m
    else
      let e := s.line (line + 1)
      s.setLine (line + 1) { e with queue := enqueue { a := t.a, req := .blk, at_ := s.homeClk line } e.queue }
  else s.send (homeOf line) t.a line m

/-- The home answers the requester: the transaction waits for the Ack, or ends at once for Atom, Blk and Flush. -/
def State.finishTxn (s : State) (line : Nat) (t : Txn) (alone : Bool) : State :=
  let e := s.line line
  let x := answer e t.a t.req t.dirty alone
  let e1 : LineSt := { x.1 with txn := if x.2.1.needsAck then some { t with phase := .ha, awaiting := [], wbWait := [], bi := [] } else none }
  let s1 := s.setLine line e1
  let s2 := if x.2.2 then s1.mergeLine line else s1
  (s2.hostStore t.req).replies line t x.2.1

/-- The home begins the first request that waits for a line, if it is the one named: in a cycle after that of its arrival, so
that every request which arrives with it has its place (R442). -/
def State.serve (s : State) (line a : Nat) (r : Req) : State :=
  let e := s.line line
  match e.txn, e.queue with
  | none, q :: rest =>
    if q.a = a ∧ q.req = r ∧ q.at_ < s.homeClk line then
      let sn := snoops e a r
      let t : Txn := { a := a, req := r, phase := .hs, awaiting := (sn.map (·.1)).foldl NSet.add [], wbWait := [], wbGot := []
                       bi := [], kept := false, dirty := false }
      let s1 := s.touchL2 line
      let e1 : LineSt := { e with queue := rest, recallBit := e.recallBit && a != 4, resv := (s1.line line).resv }
      if sn.isEmpty then (s1.setLine line e1).finishTxn line t true
      else sn.foldl (fun b p => b.send (homeOf line) p.1 line p.2) (s1.setLine line { e1 with txn := some t })
    else s
  | _, _ => s

/-- A transaction whose snoops are all answered, and whose write-backs have come, is answered. -/
def State.advanceTxn (s : State) (line : Nat) : State :=
  match (s.line line).txn with
  | none => s
  | some t => if t.phase ≠ .ha ∧ t.awaiting = [] ∧ t.wbWait = [] then s.finishTxn line t false else s

/-- An agent's answer to a snoop reaches the home. -/
def State.answered (s : State) (line b : Nat) (m : Msg) : State :=
  let e := s.line line
  match e.txn with
  | none => s
  | some t =>
    if !t.awaiting.has b then s
    else
      let t1 := { t with awaiting := t.awaiting.remove b }
      match m with
      | .rspI => (s.setLine line { e.clear b with txn := some t1 }).advanceTxn line
      | .rspS => (s.setLine line { e with txn := some t1 }).advanceTxn line
      | .snpD =>
        let e1 := if snoopKind t.req e.recallBit b = .snpI then e.clear b else e
        (s.setLine line { e1 with txn := some { t1 with dirty := true } }).advanceTxn line
      | .rspWbP =>
        if t.wbGot.has b then
          ((s.setLine line { e.clear b with txn := some { t1 with wbGot := t.wbGot.remove b } }).send (homeOf line) b line .wbAck).advanceTxn line
        else s.setLine line { e with txn := some { t1 with wbWait := t1.wbWait.add b, phase := .hd } }
      | _ => s

/-- A write-back reaches the home (R445): it is written to memory, and acknowledged at once unless a snoop of the agent is
outstanding. -/
def State.writeBack (s : State) (line b : Nat) : State :=
  let e := s.line line
  let h := homeOf line
  match e.txn with
  | some t =>
    if t.wbWait.has b then
      (((s.mergeLine line).setLine line { e.clear b with txn := some { t with wbWait := t.wbWait.remove b } }).send h b line .wbAck).advanceTxn line
    else if t.awaiting.has b then
      (s.mergeLine line).setLine line { e with txn := some { t with wbGot := t.wbGot.add b } }
    else if (e.dir == .x || e.dir == .o) && e.owner == b then ((s.mergeLine line).setLine line (e.clear b)).send h b line .wbAck
    else s.send h b line .wbAck
  | none =>
    if (e.dir == .x || e.dir == .o) && e.owner == b then ((s.mergeLine line).setLine line (e.clear b)).send h b line .wbAck
    else s.send h b line .wbAck

/-! ### Requests -/

/-- The state of an agent that sends a request (R444); none where it sends none. An agent in S or E that reads has dropped its
clean copy before (R443). -/
def AgentSt.asks (x : AgentSt) (r : Req) : Option AgentSt :=
  match r, x with
  | .rdS, .i => some .is
  | .rdX, .i => some .ix
  | .upg, .s => some .sx
  | .upg, .o => some .sx
  | .rdS, .s => some .is
  | .rdS, .e => some .is
  | .rdX, .s => some .ix
  | .rdX, .e => some .ix
  | .rdS, _ => none
  | .rdX, _ => none
  | .upg, _ => none
  | _, .is => none
  | _, .ix => none
  | _, .sx => none
  | _, .xw => none
  | _, y => some y

/-- Whether a request of an agent for a line is on its way, waits, or is served. -/
def State.asked (s : State) (line a : Nat) (r : Req) : Bool :=
  let e := s.line line
  let f : FMsg := { line := line, msg := .req r }
  let ch := s.chan a (homeOf line) 0
  ch.slots.contains f || ch.wait.contains f || (e.queue.any fun q => q.a == a && q.req == r) || e.txn.any fun t => t.a == a && t.req == r

/-- One request of an agent for a line goes on: the agent sends it, the home takes it, or the home serves it. A fenced home
takes none but serves those that it has taken, and a fenced die sends none (R459). -/
def State.ask (s : State) (line a : Nat) (r : Req) : State :=
  let h := homeOf line
  if 4 < a then s
  else if s.asked line a r then
    match if s.fenced.has h then none else s.deliver a h line (.req r) with
    | some s1 =>
      let e := s1.line line
      s1.setLine line { e with queue := enqueue { a := a, req := r, at_ := s1.homeClk line } e.queue }
    | none => s.serve line a r
  else if s.fenced.has a ∨ s.fenced.has h then s
  else
    match ((s.line line).agent a).asks r with
    | some x =>
      let s1 := if x = .is ∨ x = .ix then s.l1Drop a line else s
      (s1.setAgent line a x).send a h line (.req r)
    | none => s

/-- RDS (R443). -/
def execRds (line : BitVec 34) (a : BitVec 2) (s : State) : Host.Outcome State Fault Refusal := .next (s.ask line.toNat a.toNat .rdS)

/-- RDX (R443). -/
def execRdx (line : BitVec 34) (a : BitVec 2) (s : State) : Host.Outcome State Fault Refusal := .next (s.ask line.toNat a.toNat .rdX)

/-- UPG (R443, R446). -/
def execUpg (line : BitVec 34) (a : BitVec 2) (s : State) : Host.Outcome State Fault Refusal := .next (s.ask line.toNat a.toNat .upg)

/-- ATOM_REQUEST (R447): the line is recalled from every cache, so that its home's L2 performs the read-modify-write. -/
def execAtomRequest (line : BitVec 34) (a : BitVec 2) (ret : Bool) (s : State) : Host.Outcome State Fault Refusal :=
  .next (s.ask line.toNat a.toNat (.atom ret))

/-- The line at which a Blk of an agent for the block of a line stands: one whose home holds it, or the block's first. -/
def State.blkLine (s : State) (line a : Nat) : Nat :=
  let lines := (List.range 4).map (· + line / 4 * 4)
  (lines.find? fun k => (s.line k).queue.any (fun q => q.a == a && q.req == .blk) ||
    (s.line k).txn.any fun t => t.a == a && t.req == .blk).getD (line / 4 * 4)

/-- BLK (R312, R439): one request for the 512-byte block that holds a line. -/
def execBlk (line : BitVec 34) (a : BitVec 2) (s : State) : Host.Outcome State Fault Refusal :=
  .next (s.ask (s.blkLine line.toNat a.toNat) a.toNat .blk)

/-- FLUSH (R443). -/
def execFlush (line : BitVec 34) (a : BitVec 2) (s : State) : Host.Outcome State Fault Refusal := .next (s.ask line.toNat a.toNat .flush)

/-! ### Snoops at an agent (R444, Table PF-7) -/

/-- A snoop reaches an agent: a die answers; for the host the hub sends the back-invalidate of both sectors (R454).
Whether a die has dropped a clean copy is a choice. -/
def State.snoop (s : State) (line b : Nat) (m : Msg) : State :=
  let h := homeOf line
  match s.deliver h b line m with
  | none => s
  | some s1 =>
    let e := s1.line line
    if b = 4 then s1.setLine line { e with txn := e.txn.map fun t => { t with bi := [2 * line, 2 * line + 1], kept := false } }
    else
      let clean := e.agent b == .s || e.agent b == .e
      let c := if clean then s1.choose else (0, s1)
      let x := (e.agent b).snooped m (c.1 == 1)
      let s2 := if x.1 = .rspI ∨ m = .snpI then c.2.l1Drop b line else c.2.l1Share b line
      (s2.setAgent line b x.2).send b h line x.1

/-- SNPS (R444). -/
def execSnps (line : BitVec 34) (a : BitVec 3) (s : State) : Host.Outcome State Fault Refusal := .next (s.snoop line.toNat a.toNat .snpS)

/-- SNPC (R444). -/
def execSnpc (line : BitVec 34) (a : BitVec 3) (s : State) : Host.Outcome State Fault Refusal := .next (s.snoop line.toNat a.toNat .snpC)

/-- SNPI (R444). -/
def execSnpi (line : BitVec 34) (a : BitVec 3) (s : State) : Host.Outcome State Fault Refusal := .next (s.snoop line.toNat a.toNat .snpI)

/-! ### Answers at the home -/

/-- An answer of a die reaches the home. -/
def State.takeAnswer (s : State) (line a : Nat) (m : Msg) : State :=
  match s.deliver a (homeOf line) line m with
  | none => s
  | some s1 => s1.answered line a m

/-- RSPI (R443). -/
def execRspi (line : BitVec 34) (a : BitVec 2) (s : State) : Host.Outcome State Fault Refusal := .next (s.takeAnswer line.toNat a.toNat .rspI)

/-- RSPS (R443). -/
def execRsps (line : BitVec 34) (a : BitVec 2) (s : State) : Host.Outcome State Fault Refusal := .next (s.takeAnswer line.toNat a.toNat .rspS)

/-- RSPWBP (R445). -/
def execRspwbp (line : BitVec 34) (a : BitVec 2) (s : State) : Host.Outcome State Fault Refusal := .next (s.takeAnswer line.toNat a.toNat .rspWbP)

/-- SNPD (R443). -/
def execSnpd (line : BitVec 34) (a : BitVec 2) (s : State) : Host.Outcome State Fault Refusal := .next (s.takeAnswer line.toNat a.toNat .snpD)

/-- ACK (R442): the transaction ends. -/
def State.takeAck (s : State) (line a : Nat) : State :=
  match s.deliver a (homeOf line) line .ack with
  | none => s
  | some s1 =>
    let e := s1.line line
    if e.txn.any fun t => t.phase == .ha && t.a == a then s1.setLine line { e with txn := none } else s1

def execAck (line : BitVec 34) (a : BitVec 3) (s : State) : Host.Outcome State Fault Refusal := .next (s.takeAck line.toNat a.toNat)

/-- WBD (R445): an owner sends its write-back, or the home takes the one on its way. -/
def State.wbD (s : State) (line a : Nat) : State :=
  let h := homeOf line
  let e := s.line line
  match s.deliver a h line .wbD with
  | some s1 => s1.writeBack line a
  | none => if (e.agent a == .m || e.agent a == .o) && !s.fenced.has a then ((s.l1Drop a line).setAgent line a .xw).send a h line .wbD else s

def execWbd (line : BitVec 34) (a : BitVec 2) (s : State) : Host.Outcome State Fault Refusal := .next (s.wbD line.toNat a.toNat)

/-! ### Replies at the requester (R444) -/

/-- A grant reaches a die, which acknowledges it. -/
def State.takeGrant (s : State) (line a : Nat) (m : Msg) : State :=
  match s.deliver (homeOf line) a line m with
  | none => s
  | some s1 => (s1.setAgent line a (((s1.line line).agent a).granted m)).send a (homeOf line) line .ack

/-- GNTX (R444). -/
def execGntx (line : BitVec 34) (a : BitVec 2) (s : State) : Host.Outcome State Fault Refusal := .next (s.takeGrant line.toNat a.toNat .gntX)

/-- DATS (R444). -/
def execDats (line : BitVec 34) (a : BitVec 2) (s : State) : Host.Outcome State Fault Refusal := .next (s.takeGrant line.toNat a.toNat .datS)

/-- DATE (R444). -/
def execDate (line : BitVec 34) (a : BitVec 2) (s : State) : Host.Outcome State Fault Refusal := .next (s.takeGrant line.toNat a.toNat .datE)

/-- DATM (R444). -/
def execDatm (line : BitVec 34) (a : BitVec 2) (s : State) : Host.Outcome State Fault Refusal := .next (s.takeGrant line.toNat a.toNat .datM)

/-- A reply without an acknowledgement reaches a die. -/
def State.takeReply (s : State) (line a : Nat) (m : Msg) : State := (s.deliver (homeOf line) a line m).getD s

/-- CMP (R439). -/
def execCmp (line : BitVec 34) (a : BitVec 2) (s : State) : Host.Outcome State Fault Refusal := .next (s.takeReply line.toNat a.toNat .cmp)

/-- ATOMD (R439). -/
def execAtomd (line : BitVec 34) (a : BitVec 2) (s : State) : Host.Outcome State Fault Refusal := .next (s.takeReply line.toNat a.toNat .atomD)

/-- WBACK (R444): the agent goes to I. -/
def execWback (line : BitVec 34) (a : BitVec 2) (s : State) : Host.Outcome State Fault Refusal :=
  match s.deliver (homeOf line.toNat) a.toNat line.toNat .wbAck with
  | none => .next s
  | some s1 => if (s1.line line.toNat).agent a.toNat = .xw then .next (s1.setAgent line.toNat a.toNat .i) else .next s1

/-- The state of an agent whose request is answered with Err: it holds what it held before. An upgrade was asked for from O
where the directory names the agent as the owner, and from S elsewhere. -/
def LineSt.refused (e : LineSt) (a : Nat) : AgentSt :=
  match e.agent a with
  | .is => .i
  | .ix => .i
  | .sx => if e.dir == .o && e.owner == a then .o else .s
  | x => x

/-- A request of an agent toward a fenced home that the home has not taken is answered with Err (R457). -/
def State.errAgent (s : State) (line a : Nat) : State :=
  let h := homeOf line
  let ch := s.chan a h 0
  let mine (f : FMsg) : Bool := f.line == line && f.msg.chan == 0
  if s.fenced.has h && (ch.slots.any mine || ch.wait.any mine) then
    let s1 := s.setChan a h 0 { slots := ch.slots.filter fun f => !mine f, wait := ch.wait.filter fun f => !mine f }
    s1.setAgent line a ((s1.line line).refused a)
  else s

/-- ERR (R457). -/
def execErr (t : ErrTarget) (s : State) : Host.Outcome State Fault Refusal :=
  match t with
  | .access c n => .next (s.lsComplete c n true)
  | .agent line a => .next (s.errAgent line.toNat a.toNat)

end Sys2Proof.Machine
end

