-- ==== Sys2Proof/Machine/Links.lean ====
section
/-! DEFINITION. Sleeping links and dead dies (R449, R450), and the warm reset of a compute die (R432, R457 to R460,
R469). -/

namespace Sys2Proof.Machine

/-! ### Sleeping links (R449) -/

/-- Whether a direction of a link has messages in slots or waiting. -/
def State.dirBusy (s : State) (a b : Nat) : Bool :=
  (List.range 4).any fun n => !(s.chan a b n).wait.isEmpty || !(s.chan a b n).slots.isEmpty

def State.dirWaits (s : State) (a b : Nat) : Bool := (List.range 4).any fun n => !(s.chan a b n).wait.isEmpty

/-- LINK_SLEEP: a link without a message for 8192 cycles of its lower die's clock. -/
def State.linkSleep (s : State) (a b : Nat) : State :=
  let x := s.link a b
  if a ≠ b ∧ a < 5 ∧ b < 5 ∧ x.mode = .awake ∧ ¬ s.dirBusy a b ∧ ¬ s.dirBusy b a ∧ 8192 ≤ s.dieClk (min a b) - x.last then
    s.setLink a b { x with mode := .asleep }
  else s

def execLinkSleep (a b : BitVec 3) (s : State) : Host.Outcome State Fault Refusal := .next (s.linkSleep a.toNat b.toNat)

/-- LINK_WAKE: a message from a to b waits for a sleeping link. -/
def State.linkWake (s : State) (a b : Nat) : State :=
  let x := s.link a b
  let lo := s.dieClk (min a b)
  let hi := s.dieClk (max a b)
  if a ≠ b ∧ x.mode = .asleep ∧ s.dirWaits a b then
    s.setLink a b { x with mode := .waking, sinceLo := lo, sinceHi := hi, firstLo := lo, firstHi := hi }
  else s

def execLinkWake (a b : BitVec 3) (s : State) : Host.Outcome State Fault Refusal := .next (s.linkWake a.toNat b.toNat)

/-- LINK_AWAKE: the link is awake, and the messages that waited for it are sent. -/
def State.linkAwake (s : State) (a b : Nat) : State :=
  let x := s.link a b
  if x.mode = .waking then
    let s1 := s.setLink a b { x with mode := .awake, last := s.dieClk (min a b) }
    (List.range 4).foldl (fun t n => (t.refill a b n).refill b a n) s1
  else s

def execLinkAwake (a b : BitVec 3) (s : State) : Host.Outcome State Fault Refusal := .next (s.linkAwake a.toNat b.toNat)

/-- The cycle at which the present wake attempt began, on the clock of the end that is agent a. -/
def LinkSt.since (x : LinkSt) (a b : Nat) : Nat := if a ≤ b then x.sinceLo else x.sinceHi

/-- The cycle at which the first wake attempt began, on the clock of the end that is agent a. -/
def LinkSt.first (x : LinkSt) (a b : Nat) : Nat := if a ≤ b then x.firstLo else x.firstHi

/-- The end that is agent a begins a new wake attempt. -/
def LinkSt.again (x : LinkSt) (a b t : Nat) : LinkSt := if a ≤ b then { x with sinceLo := t } else { x with sinceHi := t }

/-- WAKE_TIMEOUT: a snoop from a to b has waited on the waking link for 60,000 cycles of a's clock; the event is logged, a new
attempt begins, and the message keeps waiting. DEDUCED, log 48. -/
def State.wakeTimeout (s : State) (a b : Nat) : State :=
  let x := s.link a b
  if x.mode = .waking ∧ ¬ (s.chan a b 1).wait.isEmpty ∧ 60000 ≤ s.dieClk a - x.since a b then
    let s1 := s.setLink a b (x.again a b (s.dieClk a))
    if b = 4 then s1.logEvent 8 a 0xFFFF (BitVec.ofNat 64 b) else s1.logDie 8 a 0xFFFF (BitVec.ofNat 64 b)
  else s

def execWakeTimeout (a b : BitVec 3) (s : State) : Host.Outcome State Fault Refusal := .next (s.wakeTimeout a.toNat b.toNat)

/-! ### What a reset does to the package's lines (Table PF-11) -/

/-- Whether an agent's copy of a line is dirty: M, O, a write-back on its way, or an owner that asks for exclusivity. -/
def LineSt.dirtyAt (e : LineSt) (a : Nat) : Bool :=
  match e.agent a with
  | .m => true
  | .o => true
  | .xw => true
  | .sx => e.dir == .o && e.owner == a
  | _ => false

/-- A line homed on the die: the copies at other dies are invalidated, and in a planned reset their dirty data is written
back. In an abrupt one the hub has them invalidated, and what the host holds of the line stays with it until the home's first access
after readmission recalls it (Table PF-11). -/
def State.dropHomeLine (s : State) (line : Nat) (abrupt : Bool) : State :=
  let e := s.line line
  let d := homeOf line
  let dirty := (List.range 5).any fun a => e.dirtyAt a
  let held := (List.range 4).filter fun b => b != d && e.copies.has b
  let s0 := held.foldl (fun t b => if abrupt then t.pass 4 b else t.exchange d b) s
  let s1 := if dirty && !abrupt then s0.mergeLine line else s0
  let host := e.agent 4
  let kept : LineSt := { LineSt.initial with dir := .s, sh := [4], recallBit := true, agents := [(4, host)] }
  { s1 with lines := if abrupt && host.stable && host != .i then s1.lines.put line kept else s1.lines.del line
            l1 := s1.l1.filter fun p => p.1 / 512 != line }

/-- The host's copy of a line is recalled (R454, R456): the back-invalidates of both sectors are sent over the home's hub link, and
the transaction ends with the second BIRsp. -/
def State.recallHost (s : State) (line : Nat) : State :=
  let e := s.line line
  if e.copies.has 4 && e.txn.isNone then
    let t : Txn := { a := homeOf line, req := .flush, phase := .hs, awaiting := [4], wbWait := [], wbGot := []
                     bi := [2 * line, 2 * line + 1], kept := false, dirty := false }
    (s.pass (homeOf line) 4).setLine line { e with txn := some t }
  else s

/-- Every host copy of a die's lines is recalled, those whose host bit an abrupt reset has set among them (R456, Table PF-11): of
a line that the home has not seen since, the host holds nothing. -/
def State.recallHostAll (s : State) (d : Nat) : State :=
  let s1 := ((s.lines.map (·.1)).filter fun k => homeOf k == d).foldl State.recallHost s
  if (s1.die d).hostBits then
    { (s1.exchange d 4).setDie d { (s1.exchange d 4).die d with hostBits := false } with
        lines := s1.lines.filter fun p => !(homeOf p.1 == d && p.2 == LineSt.initial) }
  else s1

/-- What the die and the home of a line homed elsewhere send for it: the write-back of dirty data, or the invalidation of the other
copies of a line whose data is lost. -/
def State.awaySends (s : State) (d line : Nat) (e : LineSt) (dirty abrupt : Bool) : State :=
  let h := homeOf line
  if !dirty then s
  else if !abrupt then s.exchange d h
  else ((List.range 5).filter fun b => b != d && b != h && e.copies.has b).foldl (fun t b => t.exchange h b) s

/-- A line homed elsewhere that the die may hold: dirty data is written back, or in an abrupt reset the line is poisoned and
every other copy invalidated; the die leaves the directory, and a transaction that waits for it takes RspI. -/
def State.dropAwayLine (s0 : State) (d line : Nat) (abrupt : Bool) : State :=
  let e := s0.line line
  let dirty := e.dirtyAt d
  let s := s0.awaySends d line e dirty abrupt
  let e1 := (e.setAgent d .i).clear d
  let e2 := { e1 with queue := e1.queue.filter fun q => q.a != d }
  let lost := dirty && abrupt
  let stable (x : AgentSt) : Bool := x == .s || x == .e || x == .m || x == .o
  let e3 : LineSt := if lost then { e2 with dir := .i, sh := [], owner := 0, agents := e2.agents.filter fun p => !stable p.2 } else e2
  let t3 : Option Txn := match e3.txn with
    | none => none
    | some t =>
      if t.a = d then none
      else some { t with awaiting := t.awaiting.remove d, wbWait := t.wbWait.remove d, wbGot := t.wbGot.remove d }
  let s1 := if lost then (s.setSec (2 * line) true).setSec (2 * line + 1) true else s
  let s2 := if dirty then s1.mergeLine line else s1
  let s3 := if lost then { s2 with l1 := s2.l1.filter fun p => p.1 / 512 != line } else s2
  (s3.setLine line { e3 with txn := t3 }).advanceTxn line

/-- Every message from or to a die is gone. -/
def State.dropMessages (s : State) (d : Nat) : State :=
  { s with chans := s.chans.filter fun p => p.1 / 4 / 5 != d && p.1 / 4 % 5 != d }

/-- The host-memory sectors that the die holds: written back, or in an abrupt reset the dirty ones read as poisoned. -/
def State.dropHostSectors (s0 : State) (d : Nat) (abrupt : Bool) : State :=
  let mine := s0.hostSec.filter fun p => p.1 % 4 == d
  let s := if abrupt || mine.isEmpty then s0 else s0.exchange d 4
  let s1 := if abrupt then (mine.filter fun p => p.2 == .m).foldl (fun t p => t.setSec (p.1 / 4) true) s else s
  { s1 with hostSec := s1.hostSec.filter fun p => p.1 % 4 != d }

/-- The resident cultures of a core are lost: their regions are zeroed and free (R350, R357). -/
def Core.loseCultures (k : Core) : Core :=
  let regs := (List.range 16).filter fun i => (k.ownAt i).st != OwnState.free
  { k.setRegions regs (fun _ => Own.free) with
      acc := k.acc.filter fun p => !regs.contains (p.1 / 4096)
      accPoison := k.accPoison.filter fun row => !regs.contains (row / 64) }

/-- The caches and directories of a die are empty. -/
def State.dropCaches (s : State) (d : Nat) : State :=
  { s with
    l1 := s.l1.filter fun p => dieOf (p.1 % 512) != d, dieDir := s.dieDir.filter fun p => p.1 % 4 != d
    clIc := s.clIc.filter fun k => k % 128 / 32 != d, l2tlb := s.l2tlb.filter fun p => p.1 / 32 != d }

/-- The hub tells the other dies what becomes of a die: its fence, the cleaning of its lines, its readmission (R9, R459). -/
def State.tellOthers (s : State) (d : Nat) : State := ((List.range 4).filter (· != d)).foldl (fun t b => t.pass 4 b) s

/-- Step 2 of R459. -/
def State.cleanDie (s : State) (d : Nat) (abrupt : Bool) : State :=
  let s0 := (s.dropMessages d).tellOthers d
  let keys := s0.lines.map (·.1)
  let s1 := keys.foldl (fun t k => if homeOf k = d then t.dropHomeLine k abrupt else t.dropAwayLine d k abrupt) s0
  let s2 := (s1.dropHostSectors d abrupt).dropCaches d
  { s2 with cores := s2.cores.map fun p => (p.1, if dieOf p.1 = d then p.2.loseCultures else p.2) }

/-! ### Launches during a reset (R432) -/

/-- Grants that go back: the die's own, and, when the die was the leader, those not yet acknowledged. -/
def Launch.giveBack (l : Launch) (d : Nat) (leader : Bool) : Launch :=
  let gone (g : Grant) : Bool := g.die == d || (leader && !g.live)
  { l with grants := l.grants.filter fun g => !gone g
           back := (l.grants.filter gone).foldl (fun b g => SMap.put b g.lo g.hi) l.back }

/-- The fence of a die starts (R457, R459): no leader counts it, and its grants go back. -/
def State.fenceDie (s0 : State) (d : Nat) : State :=
  let s := s0.tellOthers d
  let ls := s.launches.map fun p => (p.1, p.2.giveBack d (s.leader p.2 == d))
  { s with launches := ls, fenced := s.fenced.add d, bypass := s.bypass.del d }

/-- A resident group is lost with its die: one that has not started goes back to the leader, or stays among the work that
is to start again; a started one is restarted or counted. -/
def State.loseGroup (s : State) (gid : Nat) : State :=
  match s.group gid with
  | none => s
  | some g =>
    match s.launch g.launch with
    | none => s
    | some l =>
      if g.run = .placed ∧ !g.resumed ∧ l.record.gclass ≠ 0 then
        let known := l.again.has g.index || (l.saved.find? g.index).isSome
        let n := l.record.clSize
        let s1 := s.vacate gid g
        if known || g.index % n != 0 then s1
        else s1.updLaunch g.launch fun x => { x with back := SMap.put x.back g.index (g.index + n) }
      else
        (s.resetSaved g.launch g.index l.record.restart).resetGroup gid l.record.restart

/-- A concurrent grid that has lost a group: every member that has not retired is reset, which the hub tells its die and the die
reports, and starts again or counts. -/
def State.loseGrid (s : State) (lid : Nat) : State :=
  match s.launch lid with
  | none => s
  | some l =>
    let r := l.record.restart
    let gs := s.groups.filter fun p => p.2.launch == lid
    let cores := gs.flatMap fun p => p.2.cores
    let s1 := (gs.foldl (fun t p => t.resetGroup p.1 r) ((s.passTo 4 cores).reportFrom cores)).resetSaved lid 0 r
    if r then s1 else s1.updLaunch lid fun x => x.again.foldl (fun y i => y.lose i false) x

/-- Every group on a die is lost. -/
def State.loseDie (s : State) (d : Nat) : State :=
  let gs := s.groups.filter fun p => p.2.cores.any fun c => dieOf c == d
  let s1 := gs.foldl (fun t p => t.loseGroup p.1) s
  let lids := ((gs.map (·.2.launch)).filter fun i => (s.launch i).any fun l => l.record.gclass == 0).foldl NSet.add []
  lids.foldl State.loseGrid s1

/-! ### The warm reset (R458, R459, R460, R469) -/

/-- A planned reset begins with its save step: every core of the die is asked to save its groups with no drain. -/
def State.beginReset (s : State) (d : Nat) (gate : Bool) : State :=
  if s.boot ≠ .on ∨ 4 ≤ d ∨ (s.die d).mode ≠ .running then s
  else
    let x := s.die d
    let s1 := s.setDie d { x with mode := .warm, step := .save, abrupt := false, gate := gate, since := x.clk }
    ((s1.exchange 4 d).request (coresOf [d]) none true).logEvent 9 d 0xFFFF 0

/-- DCTL_WARM_RESET (R466, R469). -/
def execDctlWarmReset (d : BitVec 2) (s : State) : Host.Outcome State Fault Refusal := .next (s.beginReset d.toNat false)

/-- DCTL_GATE (R466, R469). -/
def execDctlGate (d : BitVec 2) (s : State) : Host.Outcome State Fault Refusal := .next (s.beginReset d.toNat true)

/-- Whether a core of a die holds a group. -/
def State.dieHoldsGroups (s : State) (d : Nat) : Bool := s.groups.any fun p => p.2.cores.any fun c => dieOf c == d

/-- WARM_RESET_QUIESCE (R459): step 1 begins once no core of the die holds a group. -/
def State.quiesce (s : State) (d : Nat) : State :=
  let x := s.die d
  if x.mode = .warm ∧ x.step = .save ∧ ¬ s.dieHoldsGroups d then
    (s.fenceDie d).setDie d { x with step := .quiesce, since := x.clk }
  else s

def execWarmResetQuiesce (d : BitVec 2) (s : State) : Host.Outcome State Fault Refusal := .next (s.quiesce d.toNat)

/-- Whether the transactions accepted at a die's home, and its own answered requests, have run to their end. -/
def State.quiesced (s : State) (d : Nat) : Bool :=
  s.lines.all fun p =>
    (homeOf p.1 != d || p.2.queue.isEmpty) && p.2.txn.all fun t => homeOf p.1 != d && !(t.a == d && t.phase == .ha)

/-- The compute domain at its reset values: the die's cores, fenced ones staying in reset, and none that waits for its release. -/
def State.resetCores (s : State) (d : Nat) : State :=
  let t := (coresOf [d]).foldl (fun t c => t.setCore c { Core.initial with fenced := (s.core c).fenced }) s
  { t with release := t.release.map fun p => (p.1, p.2.filter fun k => k / 32 != d) }

/-- WARM_RESET_CLEANUP (R459): step 2 begins when step 1 is complete, with the recall of the host's copies in a planned reset,
and completes when they have come back. A die that is to be gated is gated after it (R460), and its cores' clocks stop
(R34). DEDUCED, log 49. -/
def State.cleanup (s : State) (d : Nat) : State :=
  let x := s.die d
  if x.mode ≠ .warm then s
  else if x.step = .quiesce then
    if s.quiesced d then
      let t := if x.abrupt then s else s.recallHostAll d
      t.setDie d { t.die d with step := .cleanup, since := x.clk }
    else s
  else if x.step = .cleanup then
    if !x.abrupt && !s.quiesced d then s
    else
    let s1 := s.cleanDie d x.abrupt
    if x.gate && !x.abrupt then (s1.resetCores d).setDie d { x with mode := .gated, step := .none } else s1.setDie d { x with step := .cleaned, since := x.clk }
  else s

def execWarmResetCleanup (d : BitVec 2) (s : State) : Host.Outcome State Fault Refusal := .next (s.cleanup d.toNat)

/-- PLANNED_RESET_TIMEOUT (R459): step 2 has taken 6,000,000 die cycles, and the reset is abrupt from it. -/
def execPlannedResetTimeout (d : BitVec 2) (s : State) : Host.Outcome State Fault Refusal :=
  let x := s.die d.toNat
  if x.mode = .warm ∧ x.step = .cleanup ∧ ¬ x.abrupt ∧ 6000000 ≤ x.clk - x.since then
    .next (s.setDie d.toNat { x with abrupt := true })
  else .next s

/-- ABRUPT_WARM_RESET (R432, R458, R459): of a dead die, or of one with an uncorrectable fault in its compute domain. It has
no save step, and the die's groups are lost. A planned reset that has come to its cleaning goes on as an abrupt one. -/
def State.abruptReset (s : State) (d : Nat) : State :=
  let x := s.die d
  let early := x.mode == .running || (x.mode == .warm && (x.step == .save || x.step == .quiesce))
  if s.boot ≠ .on ∨ 4 ≤ d then s
  else if x.mode = .warm ∧ x.step = .cleanup then s.setDie d { x with abrupt := true }
  else if !early then s
  else
    let s1 := if s.fenced.has d then s else s.fenceDie d
    let s2 := s1.loseDie d
    (s2.setDie d { x with mode := .warm, step := .quiesce, abrupt := true, since := x.clk }).logEvent 9 d 0xFFFF 1

def execAbruptWarmReset (d : BitVec 2) (s : State) : Host.Outcome State Fault Refusal := .next (s.abruptReset d.toNat)

/-- The memory domain reset: every block of the die reads as poisoned until it is written (Table PF-11, R306). -/
def State.resetMemory (s : State) (d : Nat) : State :=
  { s with
    poisonDies := s.poisonDies.add d, memPoison := s.memPoison.filter fun k => k / 2 ^ 33 != d
    hbmPoison := s.hbmPoison.filter fun k => k / 2 ^ 33 != d, tags := s.tags.filter fun p => p.1 / 2 ^ 30 != d
    compLines := s.compLines.filter fun k => homeOf k != d }

/-- WARM_RESET_RETRAIN (R459): step 4. -/
def State.retrain (s : State) (d : Nat) : State :=
  let x := s.die d
  if x.step ≠ .cleaned then s
  else
    let s1 := s.resetCores d
    let s2 := if x.abrupt then s1.resetMemory d else s1
    let s3 := (List.range 5).foldl (fun t b => if b = d then t else t.setLink d b { LinkSt.initial with last := t.dieClk (min d b) }) s2
    s3.setDie d { x with step := .retrained, since := x.clk }

def execWarmResetRetrain (d : BitVec 2) (s : State) : Host.Outcome State Fault Refusal := .next (s.retrain d.toNat)

/-- A launch whose die set was empty at its reading gets the readmitted die, if its record names it (R423). -/
def State.admitDie (s : State) (d : Nat) : State :=
  (s.launches.filter fun p => p.2.dies.isEmpty && p.2.record.dieSet.contains d).foldl (fun t p =>
    (t.updLaunch p.1 fun l => { l with dies := [d] }).judge p.1) s

/-- WARM_RESET_READMIT (R459, R469): step 5. The clusters of the die are released under R468; those of a die that was not
gated have the rank of its readmission. -/
def State.readmit (s : State) (d : Nat) : State :=
  let x := s.die d
  if x.step ≠ .retrained then s
  else
    let rank := if x.mode = .waking then x.wakeRank else 8 * s.hub + d + 1
    let s1 := s.setDie d { x with mode := .running, step := .none, abrupt := false, gate := false, since := x.clk, dead := false
                                  lastHub := s.hub, unanswered := [], hostBits := x.abrupt || x.hostBits }
    let s2 := { s1 with
      fenced := s1.fenced.remove d
      cores := s1.cores.map fun (p : Nat × Core) => (p.1, { p.2 with fenceSeen := p.2.fenceSeen.remove d })
      release := s1.release.put rank ((List.range 32).map (· + 32 * d)), msix := s1.msix ++ [0] }
    ((s2.tellOthers d).admitDie d).logEvent 10 d 0xFFFF 0

def execWarmResetReadmit (d : BitVec 2) (s : State) : Host.Outcome State Fault Refusal := .next (s.readmit d.toNat)

/-- A gated die wakes through steps 4 and 5. Its clusters are released in the order in which the wakes were requested, the lower
die first on a tie (R468). -/
def State.wakeDie (s : State) (d : Nat) : State :=
  let x := s.die d
  if s.boot = .on ∧ x.mode = .gated then
    (s.exchange 4 d).setDie d { x with mode := .waking, step := .cleaned, since := x.clk, wakeRank := 8 * s.hub + d + 1 }
  else s

/-- DCTL_WAKE (R466, R469). -/
def execDctlWake (d : BitVec 2) (s : State) : Host.Outcome State Fault Refusal := .next (s.wakeDie d.toNat)

/-! ### Dead dies (R450) -/

/-- Whether a request of the hub has waited 5,000,000 hub cycles for a die's answer. -/
def DieSt.overdue (x : DieSt) (hub : Nat) : Bool := x.unanswered.any fun t => decide (5000000 ≤ hub - t.2)

/-- Whether a die takes part in the package's traffic, so that its silence says something: it runs, or its planned reset has not got
beyond the cleaning. DEDUCED, log 49. -/
def DieSt.talks (x : DieSt) : Bool :=
  x.mode == .running || (x.mode == .warm && !x.abrupt && (x.step == .save || x.step == .quiesce || x.step == .cleanup))

/-- DEAD_DIE_DETECTION: the die has sent nothing to the hub, and a request to it has waited, for 5,000,000 hub cycles. -/
def execDeadDieDetection (d : BitVec 2) (s : State) : Host.Outcome State Fault Refusal :=
  let x := s.die d.toNat
  let silent := decide (5000000 ≤ s.hub - x.lastHub) && x.overdue s.hub
  if silent ∧ x.talks then .next ((s.setDie d.toNat { x with dead := true }).abruptReset d.toNat) else .next s

/-- Whether a die still answers the hub. -/
def DieSt.answers (x : DieSt) (hub : Nat) : Bool :=
  x.talks && !x.dead && !x.overdue hub

/-- LINK_WAKE_FAILURE_REPORT: a link between two compute dies that both answer the hub has failed to wake for 6,000,000
cycles of the reporting die; the higher-numbered die is dead. -/
def execLinkWakeFailureReport (a b : BitVec 2) (s : State) : Host.Outcome State Fault Refusal :=
  let x := s.link a.toNat b.toNat
  let d := max a.toNat b.toNat
  let late (a b : Nat) : Bool := decide (6000000 ≤ s.dieClk a - x.first a b)
  if a ≠ b ∧ x.mode = .waking ∧ (late a.toNat b.toNat ∨ late b.toNat a.toNat) ∧ (s.die a.toNat).answers s.hub ∧ (s.die b.toNat).answers s.hub then
    let s1 := s.pass (if late a.toNat b.toNat then a.toNat else b.toNat) 4
    .next ((s1.setDie d { s1.die d with dead := true }).abruptReset d)
  else .next s

end Sys2Proof.Machine
end

