-- ==== Sys2Proof/Machine/HostPort.lean ====
section
/-! DEFINITION. The host link (R453 to R457) and the Glicharun ports (R461 to R464) of
spec/15_package_fabric.md. -/

namespace Sys2Proof.Machine

/-! ### The host's requests to device HBM (R454, R457) -/

/-- The home's reply to the host for a line, if it is the oldest on its channel. -/
def State.hostReply (s : State) (line : Nat) : Option (Msg × State) :=
  [Msg.datS, Msg.datE, Msg.datM, Msg.gntX, Msg.cmp].findSome? fun m => (s.deliver (homeOf line) 4 line m).map fun t => (m, t)

/-- The request of the host agent that a CXL.mem request makes. -/
def m2sReq (k : M2S) (sec : Nat) : Req :=
  match k with
  | .shared => .rdS
  | .exclusive _ => .rdX
  | .write bs p => .hostWr sec bs p

/-- What the host stores in a line that it holds exclusively has its place in the one coherence order at once (R448): a party
of the device that reads the line recalls it first. The sector's poison becomes what comes with the data. DESIGN CHOICE, logs 46 and
78. -/
def State.hostPut (s : State) (sec : Nat) (data : Option (List Byte)) (poison : Bool := false) : State :=
  match data with
  | some bs => ((s.memWrite (64 * sec) (bs.take 64)).setSec sec poison).setAgent (sec / 2) 4 .m
  | none => s

/-- The host has a sector that it asked for: it gets the bytes, and stores in them what it wants. -/
def State.hostGets (s : State) (sec : Nat) (excl : Bool) (data : Option (List Byte)) : State :=
  { s.hostPut sec data with reply := some (.hostData sec (s.memRead (64 * sec) 64) (s.secPoisoned sec) excl) }

/-- What the host stores with a request. -/
def m2sStores (k : M2S) : Option (List Byte) :=
  match k with
  | .exclusive data => data
  | _ => none

/-- A reply reaches the host: it holds what was granted, and gets its sector. -/
def State.hostTakes (s : State) (sec : Nat) (m : Msg) (k : M2S) : State :=
  let line := sec / 2
  if m = .cmp then { s with reply := some (.hostDone sec) }
  else
    let s1 := (s.setAgent line 4 (((s.line line).agent 4).granted m)).send 4 (homeOf line) line .ack
    s1.hostGets sec (m != .datS) (if m = .datS then none else m2sStores k)

/-- The host writes a sector. What it holds dirty of the line goes to memory, and so does a write to a line that it holds
exclusively, which is the owner's write-back; any other is performed at the home. -/
def State.hostWrites (s : State) (sec : Nat) (bs : List Byte) (p : Bool) : State :=
  let line := sec / 2
  let h := homeOf line
  match (s.line line).agent 4 with
  | .m => (((s.hostPut sec (some bs) p).mergeLine line).setAgent line 4 .i).send 4 h line (.req .flush)
  | .e => (((s.hostPut sec (some bs) p).mergeLine line).setAgent line 4 .i).send 4 h line (.req .flush)
  | .o => ((s.mergeLine line).setAgent line 4 .i).send 4 h line (.req (.hostWr sec bs p))
  | .s => (s.setAgent line 4 .i).send 4 h line (.req (.hostWr sec bs p))
  | .i => s.send 4 h line (.req (.hostWr sec bs p))
  | _ => s

/-- Whether a line's home has accepted a request of the host. -/
def State.hostTaken (s : State) (line : Nat) : Bool :=
  (s.line line).queue.any (fun q => q.a == 4) || (s.line line).txn.any fun t => t.a == 4

/-- The hub answers the host for a fenced home; a request on its way there is gone (R457). -/
def State.hubAnswers (s0 : State) (sec : Nat) (k : M2S) : State :=
  let s := s0.errAgent (sec / 2) 4
  match k with
  | .write _ _ => { (s.logEvent 7 4 0xFFFF (BitVec.ofNat 64 (64 * sec))) with reply := some (.hostDone sec) }
  | _ => { s with reply := some (.hostData sec [] true false) }

/-- A CXL.mem request goes on: it is sent, served, or answered. A fenced home serves what it has accepted (R459), and is answered
for by the hub otherwise. DEDUCED, log 55. -/
def State.m2s (s : State) (sec : Nat) (k : M2S) : State :=
  let line := sec / 2
  if s.boot ≠ .on ∨ 2 ^ 34 ≤ line then s
  else
    match s.hostReply line with
    | some (m, t) => t.hostTakes sec m k
    | none =>
      if s.fenced.has (homeOf line) && !s.hostTaken line then s.hubAnswers sec k
      else if s.asked line 4 (m2sReq k sec) then s.ask line 4 (m2sReq k sec)
      else if s.asked line 4 .flush then s.ask line 4 .flush
      else if s.fenced.has (homeOf line) then s
      else
        match k, (s.line line).agent 4 with
        | .write bs p, _ => s.hostWrites sec bs p
        | .shared, .i => (s.setAgent line 4 .is).send 4 (homeOf line) line (.req .rdS)
        | .shared, .s => (s.setAgent line 4 .is).send 4 (homeOf line) line (.req .rdS)
        | .shared, .e => s.hostGets sec true none
        | .shared, .m => s.hostGets sec true none
        | .shared, .o => s.hostGets sec false none
        | .exclusive _, .i => (s.setAgent line 4 .ix).send 4 (homeOf line) line (.req .rdX)
        | .exclusive _, .s => (s.setAgent line 4 .ix).send 4 (homeOf line) line (.req .rdX)
        | .exclusive _, .o => ((s.mergeLine line).setAgent line 4 .ix).send 4 (homeOf line) line (.req .rdX)
        | .exclusive data, .e => s.hostGets sec true data
        | .exclusive data, .m => s.hostGets sec true data
        | _, _ => s

/-- HOST_M2S_REQUEST (R454). -/
def execHostM2sRequest (sec : BitVec 35) (k : M2S) (s : State) : Host.Outcome State Fault Refusal := .next (s.m2s sec.toNat k)

/-- The dirty data that comes with a BIRsp, where the host holds the line exclusively: its last store in the sector. -/
def State.biData (s : State) (sec : Nat) (data : Option (List Byte)) : State :=
  match (s.line (sec / 2)).agent 4 with
  | .m => s.hostPut sec data
  | .e => s.hostPut sec data
  | _ => s

/-- BIRSP (R454): the host answers the back-invalidate of one sector, with its dirty data if it held any. The line counts as
answered with the second one. `keep` says that the host keeps a clean copy of the sector; a dirty line of which it keeps nothing
goes to memory, unless the request takes its data with the ownership. DEDUCED, log 47. -/
def State.biRsp (s : State) (sec : Nat) (keep : Bool) (data : Option (List Byte)) : State :=
  let line := sec / 2
  match (s.line line).txn with
  | none => s
  | some t =>
    if !t.bi.has sec then s
    else
      let s1 := (s.pass 4 (homeOf line)).biData sec data
      let e := s1.line line
      let t1 := { t with bi := t.bi.remove sec, kept := t.kept || keep }
      if !t1.bi.isEmpty then s1.setLine line { e with txn := some t1 }
      else
        let kind := snoopKind t.req e.recallBit 4
        let dirty := e.agent 4 == .m || e.agent 4 == .o
        let gone := kind == .snpI || !t1.kept
        let merges := dirty && gone && snoopKind t.req false 4 != .snpI
        let e1 : LineSt := { e with txn := some { t1 with dirty := t.dirty || (dirty && !merges) } }
        let s2 := s1.setLine line (e1.setAgent 4 (if gone then .i else if dirty && kind == .snpS then .o else .s))
        let s3 := if merges then s2.mergeLine line else s2
        s3.answered line 4 (if gone then .rspI else if dirty then .snpD else .rspS)

def execBirsp (sec : BitVec 35) (keep : Bool) (data : Option (List Byte)) (s : State) : Host.Outcome State Fault Refusal :=
  .next (s.biRsp sec.toNat keep data)

/-! ### Host memory through CXL.cache (R453 to R456) -/

/-- A host sector: one of host memory in the physical address map (Table PF-1). -/
def isHostSec (sec : Nat) : Bool := decide (2 ^ 45 ≤ sec) && decide (sec < 2 ^ 46)

/-- A die gives up its copy of a sector of host memory. -/
def State.hostDrop (s : State) (d sec : Nat) : State :=
  { ((s.exchange d 4).l1Drop d (sec / 2)) with hostSec := s.hostSec.del (hostKey sec d) }

/-- CXL_CACHE_RESPONSE (R455): the host answers a request of a die for a sector of host memory: a copy, which no other die
then holds if it is exclusive, the data alone, or the global observation of an eviction. A fenced die has none. -/
def execCxlCacheResponse (d : BitVec 2) (sec : BitVec 46) (k : D2H) (s : State) : Host.Outcome State Fault Refusal :=
  let held := s.hostSec.get .i (hostKey sec.toNat d.toNat)
  if s.boot ≠ .on ∨ !isHostSec sec.toNat ∨ s.fenced.has d.toNat then .next s
  else
    match k with
    | .rdShared => .next (s.hostAccess d.toNat sec.toNat false)
    | .rdOwn => .next (s.hostAccess d.toNat sec.toNat true)
    | .rdCurr => .next (s.exchange d.toNat 4)
    | .dirtyEvict => .next (if held = .m then s.hostDrop d.toNat sec.toNat else s)
    | .cleanEvict => .next (if held = .s then s.hostDrop d.toNat sec.toNat else s)

/-- The device's answer to a host snoop of a sector: what the die held, with the data if it was dirty; a sector whose data
an abrupt reset has lost is poisoned (Table PF-11). -/
def State.hostSnoop (s : State) (d sec : Nat) (after : AgentSt → AgentSt) : State :=
  if s.boot ≠ .on ∨ !isHostSec sec then s
  else
    let key := hostKey sec d
    let st := s.hostSec.get .i key
    let data := if st == .m then some (s.memRead (64 * sec) 64) else none
    let s1 := s.exchange 4 d
    let s2 := if after st = .i then s1.l1Drop d (sec / 2) else if after st = .s then s1.l1Share d (sec / 2) else s1
    { s2 with hostSec := s.hostSec.set .i key (after st), reply := some (.snooped sec st data (s.secPoisoned sec)) }

/-- HOST_SNPDATA (R453): the die keeps a shared copy. -/
def execHostSnpdata (d : BitVec 2) (sec : BitVec 46) (s : State) : Host.Outcome State Fault Refusal :=
  .next (s.hostSnoop d.toNat sec.toNat fun st => if st = .i then .i else .s)

/-- HOST_SNPINV (R453): the die gives up its copy. `data` holds what the host then stores in the sector, once no die holds
it. -/
def execHostSnpinv (d : BitVec 2) (sec : BitVec 46) (data : Option (List Byte)) (s : State) : Host.Outcome State Fault Refusal :=
  let s1 := s.hostSnoop d.toNat sec.toNat fun _ => .i
  if s.boot ≠ .on ∨ !isHostSec sec.toNat then .next s1
  else
    match data with
    | some bs =>
      if (List.range 4).any fun b => s1.hostSec.get .i (hostKey sec.toNat b) != .i then .next s1
      else .next ((s1.memWrite (64 * sec.toNat) (bs.take 64)).setSec sec.toNat false)
    | none => .next s1

/-- HOST_SNPCUR (R453): the die answers and keeps what it holds. -/
def execHostSnpcur (d : BitVec 2) (sec : BitVec 46) (s : State) : Host.Outcome State Fault Refusal :=
  .next (s.hostSnoop d.toNat sec.toNat id)

/-! ### Glicharun ports (R461, R462) -/

/-- An answer of the peer to one of this device's elements. -/
def gAnswer : GMsg → Bool
  | .write _ _ _ _ _ => false
  | .read _ _ _ _ => false
  | _ => true

def gTag : GMsg → Nat
  | .write t _ _ _ _ => t
  | .read t _ _ _ => t
  | .done t => t
  | .data t _ _ => t
  | .refused t => t
  | .memErr t => t

/-- REPLAY counts flits sent again, and saturates. -/
def Port.replayed (x : Port) : Port := { x with replay := BitVec.ofNat 16 (min 0xFFFF (x.replay.toNat + x.tx.length)) }

/-- A flit arrives: an acknowledgement frees the flits before it, a request for a replay sends the rest again, and a flit
with the next sequence number and a good CRC is delivered; any other is not. -/
def State.flitIn (s : State) (p : Nat) (seq ack : Nat) (crcOk nack : Bool) (m : Option GMsg) : State :=
  let x := s.port p
  if x.st ≠ .up ∨ !crcOk then s
  else
    let x1 := { x with tx := x.tx.filter fun f => !decide (f.seq < ack) }
    let x2 := if nack then x1.replayed else x1
    match m with
    | none => s.setPort p x2
    | some g =>
      if seq ≠ x2.nextRx then s.setPort p x2
      else
        let x3 := { x2 with nextRx := x2.nextRx + 1 }
        if gAnswer g then (s.setPort p x3).copyAnswer (gTag g) g else s.setPort p { x3 with rx := x3.rx ++ [g] }

/-- GLICHARUN_FLIT_RECEIVED (R461). -/
def execGlicharunFlitReceived (p : BitVec 5) (seq ack : Nat) (crcOk nack : Bool) (m : Option GMsg) (s : State) :
    Host.Outcome State Fault Refusal := .next (s.flitIn p.toNat seq ack crcOk nack m)

/-- A request of this device that waits for the answer to a flit ends with DETAIL 0x10 (R462), WR that of its local access.
DESIGN CHOICE, log 67. -/
def State.failFlit (s : State) (m : GMsg) : State :=
  let c := gTag m % 1024 / 2
  let strm : Stream := if gTag m % 2 = 0 then .sa else .sb
  match Sys2Proof.Machine.headOf strm (s.core c).copy with
  | none => s
  | some (_, r, _) =>
    match decide (r.waiting = some (gTag m)), r.elems with
    | true, x :: _ => s.copyFail c strm 0x10 (if r.kind = .send then x.sa else x.da) (r.kind != .send)
    | _, _ => s

/-- FLIT_ACK_TIMEOUT (R462): the n-th unacknowledged flit of a port is 1,000,000 hub cycles old. -/
def execFlitAckTimeout (p : BitVec 5) (n : Nat) (s : State) : Host.Outcome State Fault Refusal :=
  match (s.port p.toNat).tx[n]? with
  | none => .next s
  | some f => if 1000000 ≤ s.hub - f.sent ∧ !gAnswer f.msg then .next (s.failFlit f.msg) else .next s

/-- The requests of CPYX through a port that wait for an answer. -/
def State.portWaiters (s : State) (p : Nat) : List (Nat × Stream) :=
  s.cores.flatMap fun q => [Stream.sa, Stream.sb].filterMap fun strm =>
    match Sys2Proof.Machine.headOf strm q.2.copy with
    | some (_, r, _) => if r.waiting.isSome && epPort r.ep == p then some (q.1, strm) else none
    | none => none

/-- A port leaves up: what it held is gone, and the requests that wait on it end with DETAIL 0x10 (R462), WR that of their local
access. DESIGN CHOICE, log 67. -/
def State.portDown (s : State) (p : Nat) : State :=
  let x := s.port p
  if x.st = .down then s
  else
    let s1 := s.setPort p { x with st := .down, nextTx := 0, nextRx := 0, tx := [], rx := [] }
    (s.portWaiters p).foldl (fun t q =>
      match Sys2Proof.Machine.headOf q.2 (t.core q.1).copy with
      | some (_, r, _) =>
        match r.elems with
        | y :: _ => t.copyFail q.1 q.2 0x10 (if r.kind = .send then y.sa else y.da) (r.kind != .send)
        | [] => t
      | none => t) s1

/-- GLICHARUN_PORT_DOWN (R461). -/
def execGlicharunPortDown (p : BitVec 5) (s : State) : Host.Outcome State Fault Refusal := .next (s.portDown p.toNat)

/-- GLICHARUN_LINK_TRAINING (R461): a port that is down begins to train; one that trains records its peer and is up. A
fenced port stays down. -/
def execGlicharunLinkTraining (p : BitVec 5) (peer : BitVec 16) (s : State) : Host.Outcome State Fault Refusal :=
  let x := s.port p.toNat
  if s.boot ≠ .on ∨ 18 ≤ p.toNat ∨ s.fencedUnits.contains (.port p) then .next s
  else
    match x.st with
    | .down => .next (s.setPort p.toNat { x with st := .training })
    | .training => .next (s.setPort p.toNat { x with st := .up, peer := peer, nextTx := 0, nextRx := 0, tx := [], rx := [] })
    | .up => .next s

/-- GPST_REPLAY_CLEAR (Table PF-12): ones written to REPLAY clear its bits. -/
def execGpstReplayClear (p : BitVec 5) (v : BitVec 16) (s : State) : Host.Outcome State Fault Refusal :=
  let x := s.port p.toNat
  .next (s.setPort p.toNat { x with replay := x.replay &&& ~~~v })

/-! ### Windows (R463) -/

def State.window (s : State) (w : Nat) : Window := s.windows.get Window.initial w

/-- Whether a window lies in device HBM. -/
def Window.inHbm (w : Window) : Bool := decide (4096 * (w.base.toNat + w.size.toNat) ≤ 2 ^ 41)

/-- R463's conditions on an element of `n` bytes at an offset of a window. -/
def Window.accepts (w : Window) (p off n : Nat) (write : Bool) : Bool :=
  w.en && w.inHbm && w.ports.getLsbD p && (if write then w.wr else w.rd) && decide (off + n ≤ 4096 * w.size.toNat)

/-- A write of the peer: poison stores zeros, and poisons every sector that it reaches (R302). DEDUCED, log 54. -/
def State.peerWrite (s : State) (pa : Nat) (bs : List Byte) (poison : Bool) : State :=
  if poison then (s.store .hub pa (List.replicate bs.length 0)).poisonSecs pa bs.length else s.store .hub pa bs

/-- PEER_WINDOW_ACCESS (R463): the oldest element received through a port is checked, performed and answered. -/
def State.peerAccess (s : State) (p : Nat) : State :=
  let x := s.port p
  match x.rx with
  | [] => s
  | m :: rest =>
    let s1 := s.setPort p { x with rx := rest }
    match m with
    | .write t win off bs poison =>
      let w := s.window win
      let pa := 4096 * w.base.toNat + off
      if !w.accepts p off bs.length true then s1.sendFlit p (.refused t)
      else if s.errReply pa then s1.sendFlit p (.memErr t)
      else (s1.peerWrite pa bs poison).sendFlit p (.done t)
    | .read t win off n =>
      let w := s.window win
      let pa := 4096 * w.base.toNat + off
      if !w.accepts p off n false then s1.sendFlit p (.refused t)
      else if s.errReply pa then s1.sendFlit p (.memErr t)
      else (s1.access .hub pa n .read).sendFlit p (.data t (s.memRead pa n) (s.memPoisoned pa n))
    | _ => s1

def execPeerWindowAccess (p : BitVec 5) (s : State) : Host.Outcome State Fault Refusal := .next (s.peerAccess p.toNat)

end Sys2Proof.Machine
end

