-- ==== Sys2Proof/Machine/Mgmt.lean ====
section
/-! DEFINITION. The management controller (spec/16_management_controller.md): power-up and the release of clusters, power
and clocks, register writes without a behaviour of their own, errors and fencing, attestation, and firmware update. -/

namespace Sys2Proof.Machine

/-! ### Power-up (R306, R468, R475, R476, R478) -/

/-- Whether an image is one that Merni accepts (R475): long enough, signed, and not older than the fuses allow. -/
def imageOk (b : List Byte) : Bool :=
  let n := b.length - Config.imageSignature
  decide (Config.imageHeader + Config.imageSignature ≤ b.length) && Config.signatureOk (b.take n) (b.drop n) &&
  decide (Config.fusedSvn ≤ Config.imageSvn b)

/-- A unit's core, if it is one. -/
def unitCore : UnitRef → Option Nat
  | .core c => some c.toNat
  | _ => none

/-- A cold reset: everything at its reset value but the host's memory, the flash, the fence list less the entries removed
from it, and the model's own record of what comes next. DESIGN CHOICE, log 52. -/
def State.coldReset (s : State) (imageFound : Bool) : State :=
  let fences := s.fenceList.filter fun u => !s.fenceDrop.contains u
  let host (k : Nat) : Bool := decide (2 ^ 51 ≤ k)
  let r := { State.reset with
    agenda := s.agenda, choices := s.choices, freeCtr := s.freeCtr, seq := s.seq, sched := s.sched, turn := s.turn
    mem := s.mem.filter fun p => host p.1, memPoison := s.memPoison.filter fun k => host (64 * k)
    flash := s.flash, fenceList := fences }
  if imageFound && s.flash.all imageOk then
    { r with
      boot := .on, running := s.flash, bootFences := fences, fencedUnits := fences, release := [(0, List.range 128)], releaseTurn := 0
      cores := fences.foldl (fun m u => match unitCore u with
        | some c => m.put c { Core.initial with fenced := true }
        | none => m) [] }
  else { r with boot := .recovery }

/-- POWER_UP (R468): the hub die starts, every block tag is raw (R306), and the clusters wait for their release. Without a
valid image the device enters recovery (R476). -/
def execPowerUp (imageFound : Bool) (s : State) : Host.Outcome State Fault Refusal := .next (s.coldReset imageFound)

/-- The cores of a cluster leave reset together; a fenced core stays in it. -/
def State.releaseCluster (s : State) (k : Nat) : State :=
  ((List.range 4).map (· + 4 * k)).foldl (fun t c =>
    if (t.core c).fenced then t else t.setCore c { t.core c with released := true, phase := (s.die (dieOf c)).clk % 2 }) s

/-- Whose turn it is to release a cluster: the first from `releaseTurn` on among those that wait, by the order in which they asked,
and from the first again after the last. -/
def State.releaseNext (s : State) : Option (Nat × Nat × List Nat) :=
  let waits := s.release.filterMap fun p =>
    match p.2 with
    | [] => none
    | k :: ks => some (p.1, k, ks)
  (waits.find? fun p => decide (s.releaseTurn ≤ p.1)).or (waits.head?)

/-- CLUSTER_RELEASE (R468): at most one cluster every 4 µs, which is 4,000 hub cycles. The clusters of dies that wake together
take turns, in the order in which the wakes were requested. -/
def State.nextRelease (s : State) : State :=
  if s.boot ≠ .on ∨ s.lastRelease.any (fun t => decide (s.hub - t < 4000)) then s
  else
    match s.releaseNext with
    | none => s
    | some (r, k, ks) =>
      { ((s.pass 4 (k / 32)).releaseCluster k) with
        release := if ks.isEmpty then s.release.del r else s.release.put r ks, releaseTurn := r + 1, lastRelease := some s.hub }

def execClusterRelease (s : State) : Host.Outcome State Fault Refusal := .next s.nextRelease

/-! ### Power and clocks (R467) -/

/-- A die's cap in watts. -/
def DieSt.cap (x : DieSt) : Nat := if x.pcap = 0 then 780 else min x.pcap.toNat 780

/-- The clock and the counts after an interval: FREQ in units of 25 MHz, in steps of 50 MHz between 400 and 1,200. DEDUCED, log 53. -/
def DieSt.control (x : DieSt) (r : Reading) : DieSt :=
  let y := { x with power := r.power, temp := r.temp, vmin := r.vmin }
  let p := r.power.toNat
  let t := r.temp.toNat
  let hot := decide (105 ≤ t) || (x.hot && decide (100 ≤ t))
  let good := if x.hot then 0 else x.good
  if hot then { y with hot := true, good := 0, freq := 16 }
  else if x.cap < p then { y with hot := false, good := 0, freq := if x.freq.toNat ≤ 16 then 16 else x.freq - 2 }
  else if 10 * p < 9 * x.cap then
    if 9 ≤ good then { y with hot := false, good := 0, freq := if 48 ≤ x.freq.toNat then 48 else x.freq + 2 }
    else { y with hot := false, good := good + 1 }
  else { y with hot := false, good := 0 }

/-- The end of an interval on one die: the rules apply unless the die is gated, a save or a warm reset going on with them; a
step is logged; and at 115 °C the die is gated as ACT 2 does, which acts on a running die (R466). The readings come over no link,
the command to change the clock over the die's hub link. DEDUCED, log 48. -/
def State.controlDie (s : State) (d : Nat) (r : Reading) : State :=
  let x := s.die d
  let y := x.control r
  if x.mode = .gated then s.setDie d { x with power := r.power, temp := r.temp, vmin := r.vmin }
  else
    let s1 := s.setDie d y
    let s2 := if y.freq = x.freq then s1 else (s1.pass 4 d).logEvent 0x0B d 0xFFFF (y.freq.setWidth 64)
    if 115 ≤ r.temp.toNat ∧ x.mode = .running then let s3 := s2.beginReset d true; { s3 with msix := s3.msix ++ [0] } else s2

/-- The corrected errors of the interval are logged, one entry for each class of each die that had some (R471). -/
def State.logCorrected (s : State) : State :=
  s.errs.foldl (fun t p =>
    if p.2.recent = 0 then t
    else
      let u := t.logEvent 1 (p.1 / 8) (p.1 % 8) (BitVec.ofNat 64 p.2.recent)
      { u with errs := u.errs.set ErrCount.zero p.1 { p.2 with recent := 0 } }) s

/-- CONTROL_INTERVAL (R467, R471): the end of a control interval, with the readings of dies 0 to 3. -/
def execControlInterval (r0 r1 r2 r3 : Reading) (s : State) : Host.Outcome State Fault Refusal :=
  if s.boot ≠ .on then .next s
  else
    let s1 := (((s.controlDie 0 r0).controlDie 1 r1).controlDie 2 r2).controlDie 3 r3
    .next { s1.logCorrected with mclk := s.mclk + 1 }

/-! ### Registers (R414, R451, R463, R466, R472) -/

/-- A residency register of Table PF-9. -/
def Residency.write (r : Residency) (ctl : Bool) (v : DWord) : Residency :=
  if ctl then { r with en := v.getLsbD 63, limit := v.extractLsb' 12 40, ratio := v.extractLsb' 7 5, ways := v.extractLsb' 0 4 }
  else { r with base := v.extractLsb' 12 40 }

/-- A window register of Table PF-13. -/
def Window.write (w : Window) (o : Nat) (v : DWord) : Window :=
  if o = 0 then { w with base := v.extractLsb' 12 40 }
  else if o = 8 then { w with size := v.extractLsb' 0 28 }
  else if o = 16 then { w with en := v.getLsbD 31, rd := v.getLsbD 30, wr := v.getLsbD 29, ports := v.extractLsb' 0 18 }
  else w

/-- QBASE and QDESC, while ENABLE is 0 (Table LE-2). -/
def Queue.write (x : Queue) (o : Nat) (v : DWord) : Queue :=
  if x.enable then x
  else if o = 0 then { x with base := v.extractLsb' 12 40, log2sz := v.extractLsb' 0 5 }
  else if o = 8 then { x with desc := v.extractLsb' 7 45 }
  else x

/-- A write of DCTL (R466): PCAP, and with it the action that ACT names. A write whose ACT the die's STATE ignores changes
nothing. DEDUCED, log 63. -/
def State.writeDctl (s : State) (d : Nat) (v : DWord) : State :=
  let t := s.setDie d { s.die d with pcap := v.extractLsb' 20 12 }
  match (v.extractLsb' 2 2).toNat, (s.die d).mode with
  | 0, _ => t
  | 1, .running => t.beginReset d false
  | 2, .running => t.beginReset d true
  | 3, .gated => t.wakeDie d
  | _, _ => s

/-- A write of a register at a BAR 0 offset. What holds no register ignores it (R453). -/
def State.writeReg (s : State) (off : Nat) (v : DWord) : State :=
  if 0x2000 ≤ off ∧ off < 0x2400 ∧ off % 8 = 0 then
    let i := (off - 0x2000) / 16
    { s with residency := s.residency.set Residency.initial i ((s.residency.get Residency.initial i).write (off % 16 == 8) v) }
  else if 0x5000 ≤ off ∧ off < 0x5040 ∧ off % 16 = 0 then
    s.writeDctl ((off - 0x5000) / 16) v
  else if off = 0x5100 then { s with dbgsel := v.extractLsb' 0 13 }
  else if 0x20000 ≤ off ∧ off < 0x22000 then
    let w := (off - 0x20000) / 32
    { s with windows := s.windows.set Window.initial w ((s.window w).write (off % 32) v) }
  else if 0x100000 ≤ off ∧ off < 0x102000 then
    let q := (off - 0x100000) / 64
    s.setQueue q ((s.queue q).write (off % 64) v)
  else s

/-- REGISTER_WRITE (R414). -/
def execRegisterWrite (off : BitVec 32) (v : BitVec 64) (s : State) : Host.Outcome State Fault Refusal :=
  s.bar0 (s.writeReg off.toNat v)

/-! ### Register reads (R414, R451, R453, R461, R463, R465, R466, R470, R472) -/

/-- NFC of a die: its fenced cores. -/
def State.nfc (s : State) (d : Nat) : Nat := ((coresOf [d]).filter fun c => (s.core c).fenced).length

/-- STATE of DSTAT. -/
def dieModeCode : DieMode → Nat
  | .running => 0
  | .warm => 1
  | .gated => 2
  | .waking => 3

/-- DSTAT (Table MC-2). -/
def State.dstat (s : State) (d : Nat) : DWord :=
  let x := s.die d
  x.power ++ x.temp ++ x.vmin ++ x.freq ++ (0 : BitVec 8) ++ BitVec.ofNat 8 (s.nfc d) ++ BitVec.ofNat 8 (dieModeCode x.mode)

/-- The registers of a queue's block (Tables LE-1 and LE-2), eight bytes at a time. QCTL reads as zero. -/
def Queue.read (x : Queue) (o : Nat) : DWord :=
  let bit (b : Bool) : BitVec 1 := BitVec.ofBool b
  let st : BitVec 2 := match x.st with
    | .disabled => 0
    | .enabled => 1
    | .halted => 2
  let cfg : Word := (0 : BitVec 16) ++ x.vec ++ (0 : BitVec 3) ++ bit x.preempt ++ bit x.enable ++ x.qprio
  let stat : Word := st ++ bit x.irq ++ (0 : BitVec 17) ++ x.errdet ++ x.err
  if o = 0 then (0 : BitVec 12) ++ x.base ++ (0 : BitVec 7) ++ x.log2sz
  else if o = 8 then (0 : BitVec 12) ++ x.desc ++ (0 : BitVec 7)
  else if o = 16 then (0 : BitVec 6) ++ x.wp ++ cfg
  else if o = 24 then stat ++ ((0 : BitVec 6) ++ x.rp)
  else if o = 32 then (0 : BitVec 32) ++ ((0 : BitVec 6) ++ x.erroff)
  else if o = 40 then (0 : BitVec 8) ++ x.seq
  else 0

/-- RRBASE and RRCTL (Table PF-9). -/
def Residency.read (r : Residency) (ctl : Bool) : DWord :=
  if ctl then BitVec.ofBool r.en ++ (0 : BitVec 11) ++ r.limit ++ r.ratio ++ (0 : BitVec 3) ++ r.ways
  else (0 : BitVec 12) ++ r.base ++ (0 : BitVec 12)

/-- GPST (Table PF-12). -/
def Port.status (x : Port) : DWord :=
  let st : BitVec 16 := match x.st with
    | .down => 0
    | .training => 1
    | .up => 2
  (0 : BitVec 16) ++ x.replay ++ x.peer ++ st

/-- GWBASE, GWSIZE and GWCTL (Table PF-13). -/
def Window.read (w : Window) (o : Nat) : DWord :=
  if o = 0 then (0 : BitVec 12) ++ w.base ++ (0 : BitVec 12)
  else if o = 8 then (0 : BitVec 36) ++ w.size
  else if o = 16 then
    (0 : BitVec 32) ++ (BitVec.ofBool w.en ++ BitVec.ofBool w.rd ++ BitVec.ofBool w.wr ++ (0 : BitVec 11) ++ w.ports)
  else 0

/-- A half of an event-log entry (Table MC-3). -/
def LogEntry.read8 (e : LogEntry) (high : Bool) : DWord := if high then e.data else e.unit ++ e.src ++ e.code ++ e.seq

/-- Eight bytes of the log's window: an entry that has not been written reads as its reset value. -/
def State.readLog (s : State) (o : Nat) : DWord :=
  match s.log.find? (o / 16) with
  | some e => e.read8 (o % 16 == 8)
  | none => 0

/-- STATE of an ownership-table entry. -/
def ownCode : OwnState → Nat
  | .free => 0
  | .owned => 1
  | .pinned => 2
  | .spilling => 3
  | .filling => 4

/-- An entry as Table FW-2 lays it out. -/
def Own.word (o : Own) : DWord :=
  BitVec.ofNat 64 (2 ^ 61 * ownCode o.st + (if o.pin then 2 ^ 60 else 0) + (if o.bound then 2 ^ 59 else 0) +
    2 ^ 54 * (o.bwarp % 32) + 2 ^ 52 * (o.slot % 4) + 2 ^ 50 * (o.part % 4) + 2 ^ 32 * (o.asid % 4096) + o.handle % 2 ^ 32)

/-- DBGDATA (R472): zero for a core that is fenced, or on a die that is not running. -/
def State.dbgData (s : State) : DWord :=
  let c := s.dbgsel.toNat / 16
  let dark := (s.core c).fenced || (s.die (dieOf c)).mode != .running
  if dark then 0 else ((s.core c).ownAt (s.dbgsel.toNat % 16)).word

/-- What a read of the eight bytes at a BAR 0 offset that is a multiple of 8 returns. An offset without a register reads as zero,
and so do what is write-only and the recovery mailbox at 0x7000, which lies in the range of the event log's window (R453); in
recovery BAR 0 holds no register (R476). The width of the mailbox, one doubleword, is DEDUCED, log 63. -/
def State.readReg (s : State) (off : Nat) : DWord :=
  if s.boot ≠ .on then 0
  else if 0x2000 ≤ off ∧ off < 0x2400 then (s.residency.get Residency.initial ((off - 0x2000) / 16)).read (off % 16 == 8)
  else if 0x3000 ≤ off ∧ off < 0x3090 then (s.port ((off - 0x3000) / 8)).status
  else if 0x5000 ≤ off ∧ off < 0x5040 then
    let d := (off - 0x5000) / 16
    if off % 16 = 8 then s.dstat d else (0 : BitVec 32) ++ ((s.die d).pcap ++ (0 : BitVec 20))
  else if off = 0x5100 then s.dbgsel.setWidth 64
  else if off = 0x5108 then s.dbgData
  else if off = 0x5200 then s.logLost ++ s.logNext
  else if off = 0x7000 then 0
  else if 0x6000 ≤ off ∧ off < 0x16000 then s.readLog (off - 0x6000)
  else if 0x20000 ≤ off ∧ off < 0x22000 then (s.window ((off - 0x20000) / 32)).read (off % 32)
  else if 0x100000 ≤ off ∧ off < 0x102000 then (s.queue ((off - 0x100000) / 64)).read (off % 64)
  else 0


/-- DBGDATA_READ (R472): a read of the register at 0x5108. -/
def execDbgdataRead (s : State) : Host.Outcome State Fault Refusal :=
  s.bar0 { s with reply := some (.dbgData (s.readReg 0x5108)) }

/-! ### Errors (R477, R478) -/

/-- The errors of a unit so far. -/
def State.unitErr (s : State) (u : UnitRef) : UnitErr :=
  ((List.find? (fun p : UnitRef × UnitErr => p.1 == u) s.unitErrs).map (·.2)).getD { uncorrected := 0, corrected := [] }

def State.setUnitErr (s : State) (u : UnitRef) (x : UnitErr) : State :=
  { s with unitErrs := (u, x) :: s.unitErrs.filter fun p => p.1 != u }

/-- The die that an event about a unit names, or the hub (Table MC-3). -/
def unitSrc : UnitRef → Nat
  | .core c => c.toNat / 128
  | .slice d _ => d.toNat
  | .port _ => 4

/-- The package index of a unit. -/
def unitIndex : UnitRef → Nat
  | .core c => c.toNat
  | .slice d n => 64 * d.toNat + n.toNat
  | .port p => p.toNat

/-- The code of a unit's kind in the event log. DEDUCED, log 50. -/
def unitKind : UnitRef → Nat
  | .core _ => 0
  | .slice _ _ => 1
  | .port _ => 2

/-- CORRECTED_ERROR (R477): counted for its die and class, and for its unit within the last hour. -/
def execCorrectedError (d : BitVec 2) (cls : BitVec 3) (u : Option UnitRef) (s : State) : Host.Outcome State Fault Refusal :=
  let k := 8 * d.toNat + cls.toNat
  let x := s.errs.get ErrCount.zero k
  let y : ErrCount := { total := if x.total = BitVec.allOnes 32 then x.total else x.total + 1, recent := x.recent + 1 }
  let s1 := { s.pass d.toNat 4 with errs := (s.pass d.toNat 4).errs.set ErrCount.zero k y }
  match u with
  | none => .next s1
  | some v =>
    let e := s1.unitErr v
    let hour := e.corrected.filter fun t => decide (s.mclk - t < 3600000)
    .next (s1.setUnitErr v { e with corrected := (s.mclk :: hour).take 1025 })

/-- Marks a lane of a register as poisoned. -/
def poisonLane (xs : Lanes) (lane : Nat) : Lanes := tab fun l => let x := xs.getD l RegVal.zero; if l = lane then { x with tag := .poison } else x

/-- Every sector of a block is poisoned. -/
def State.poisonBlock (s : State) (blk : Nat) : State := (List.range 8).foldl (fun t i => t.setSec (8 * blk + i) true) s

/-- What an uncorrectable error does at its place: poison, as the owning chapters decide (R170, R306, R321). An error in HBM
concerns the sectors as they are stored: one that a non-raw block does not store poisons nothing. The L2 holds lines expanded. -/
def State.strike (s : State) (e : ErrSite) : State :=
  match e with
  | .vreg c j r lane =>
    match s.warpAt c j with
    | some w => s.setWarpAt c j { w with v := w.v.set zeroLanes r (poisonLane (w.v.get zeroLanes r) lane) }
    | none => s
  | .sreg c j r =>
    match s.warpAt c j with
    | some w => s.setWarpAt c j { w with s := w.s.set RegVal.zero r { w.sreg r with tag := .poison } }
    | none => s
  | .sram c g => s.setCore c { s.core c with sramPoison := (s.core c).sramPoison.add g }
  | .acc c row => s.setCore c { s.core c with accPoison := (s.core c).accPoison.add row }
  | .side c row => s.setCore c { s.core c with sidePoison := (s.core c).sidePoison.add row }
  | .plane c shadow cell =>
    let k := s.core c
    if shadow then s.setCore c { k with shadow := { k.shadow with poison := k.shadow.poison.add cell } }
    else s.setCore c { k with active := { k.active with poison := k.active.poison.add cell } }
  | .sector sec slice =>
    let n := sec.toNat
    if slice.isSome ∨ 2 ^ 35 ≤ n then s.setSec n true
    else if s.tagOf (n / 8) = 0x08 then { (s.setSec n true) with hbmPoison := s.hbmPoison.add n }
    else if n % 8 < (s.tagOf (n / 8)).toNat % 16 then
      { (s.poisonBlock (n / 8)) with hbmPoison := ((List.range 8).map (· + 8 * (n / 8))).foldl NSet.add s.hbmPoison }
    else s
  | .tag blk => ({ s with tags := s.tags.put blk.toNat tagReserved }).poisonBlock blk.toNat
  | .fetch c => s.setCore c { s.core c with icache := [], tlb := [] }

/-- The unit whose SRAM holds a place. -/
def siteUnit : ErrSite → Option UnitRef
  | .vreg c _ _ _ => some (.core (BitVec.ofNat 9 c))
  | .sreg c _ _ => some (.core (BitVec.ofNat 9 c))
  | .sram c _ => some (.core (BitVec.ofNat 9 c))
  | .acc c _ => some (.core (BitVec.ofNat 9 c))
  | .side c _ => some (.core (BitVec.ofNat 9 c))
  | .plane c _ _ => some (.core (BitVec.ofNat 9 c))
  | .sector _ u => u
  | .tag _ => none
  | .fetch c => some (.core (BitVec.ofNat 9 c))

/-- The die of a place, or the hub for host memory. -/
def siteSrc (e : ErrSite) : Nat :=
  match siteUnit e with
  | some u => unitSrc u
  | none =>
    match e with
    | .sector sec _ => if sec.toNat < 2 ^ 35 then sec.toNat / 2 ^ 33 else 4
    | .tag blk => blk.toNat / 2 ^ 30
    | _ => 4

/-- The physical address or the row that the log records. -/
def siteData : ErrSite → Nat
  | .vreg _ _ r _ => r
  | .sreg _ _ r => r
  | .sram _ g => g
  | .acc _ row => row
  | .side _ row => row
  | .plane _ _ cell => cell / 64
  | .sector sec _ => 64 * sec.toNat
  | .tag blk => 512 * blk.toNat
  | .fetch _ => 0

/-- UNCORRECTED_ERROR (R477). -/
def execUncorrectedError (e : ErrSite) (s : State) : Host.Outcome State Fault Refusal :=
  let u := siteUnit e
  let s1 := (s.strike e).logDie 2 (siteSrc e) ((u.map unitIndex).getD 0xFFFF) (BitVec.ofNat 64 (siteData e))
  match u with
  | some v => .next (s1.setUnitErr v { s1.unitErr v with uncorrected := (s1.unitErr v).uncorrected + 1 })
  | none => .next s1

/-- R478's thresholds: two uncorrected errors, or more than 1,024 corrected ones within an hour. -/
def State.pastThreshold (s : State) (u : UnitRef) : Bool :=
  let e := s.unitErr u
  decide (2 ≤ e.uncorrected) || decide (1024 < (e.corrected.filter fun t => decide (s.mclk - t < 3600000)).length)

/-- A unit is fenced: it is listed in flash and logged; a core takes no further group and its groups are saved, and pending
launches are judged again; a port goes down. -/
def State.fenceUnit (s : State) (u : UnitRef) : State :=
  let s1 := { s with fencedUnits := u :: s.fencedUnits, fenceList := if s.fenceList.contains u then s.fenceList else u :: s.fenceList }
  let s2 := s1.logEvent 0x0C (unitSrc u) (unitIndex u) (BitVec.ofNat 64 (unitKind u))
  match u with
  | .core c => ((s2.setCore c.toNat { s2.core c.toNat with fenced := true }).request [c.toNat] none true).rejudge
  | .slice _ _ => s2
  | .port p => s2.portDown p.toNat

/-- A fenced core that holds no group is held in reset. -/
def State.holdCore (s : State) (c : Nat) : State :=
  if (s.core c).fenced ∧ (s.groupsOn c).isEmpty then s.setCore c { Core.initial with fenced := true } else s

/-- UNIT_FENCE (R478): a unit past its threshold is fenced; a core that has been fenced and emptied goes into reset. -/
def execUnitFence (u : UnitRef) (s : State) : Host.Outcome State Fault Refusal :=
  if s.fencedUnits.contains u then
    match u with
    | .core c => .next (s.holdCore c.toNat)
    | _ => .next s
  else if s.pastThreshold u then .next (s.fenceUnit u)
  else .next s

/-- FENCE_LIST_REMOVE (R478): the entry is gone from the next cold reset on. -/
def execFenceListRemove (u : UnitRef) (s : State) : Host.Outcome State Fault Refusal :=
  if s.fenceList.contains u then .next { s with fenceDrop := if s.fenceDrop.contains u then s.fenceDrop else u :: s.fenceDrop, reply := some .pldmDone }
  else .next { s with reply := some .pldmRefused }

/-! ### Attestation (R473, R474) -/

/-- SPDM 1.3's version byte. -/
def spdm13 : BitVec 8 := 0x13

/-- An SPDM request of a version: answered if it is 1.3, refused otherwise. -/
def State.spdm (s : State) (v : BitVec 8) (r : Reply) : Host.Outcome State Fault Refusal :=
  .next { s with reply := some (if v = spdm13 then r else .spdmUnsupported) }

/-- The measurement blocks 1 to 5 of the last cold reset. -/
def State.measurements (s : State) : List (Nat × BitVec 384) :=
  let fences := s.bootFences.map fun u => 65536 * unitKind u + unitIndex u
  [1, 2, 3, 4, 5].map fun i => (i, Config.measurement i s.running fences)

/-- GET_VERSION (R473). -/
def execGetVersion (s : State) : Host.Outcome State Fault Refusal := .next { s with reply := some (.spdmVersion spdm13) }

/-- GET_CAPABILITIES (R473). -/
def execGetCapabilities (v : BitVec 8) (s : State) : Host.Outcome State Fault Refusal := s.spdm v .spdmCapabilities

/-- NEGOTIATE_ALGORITHMS (R473): SHA-384 and SLH-DSA-SHAKE-256s, or the error response. -/
def execNegotiateAlgorithms (v : BitVec 8) (sha384 slhDsa : Bool) (s : State) : Host.Outcome State Fault Refusal :=
  s.spdm v (if sha384 && slhDsa then .spdmAlgorithms true true else .spdmUnsupported)

/-- GET_DIGESTS (R473). -/
def execGetDigests (v : BitVec 8) (s : State) : Host.Outcome State Fault Refusal := s.spdm v (.spdmDigests 0 Config.certificateDigest)

/-- GET_CERTIFICATE (R473): slot 0 holds the identity chain. -/
def execGetCertificate (v : BitVec 8) (slot : BitVec 4) (off len : Nat) (s : State) : Host.Outcome State Fault Refusal :=
  s.spdm v (if slot = 0 then .spdmCertificate ((Config.certificates.drop off).take len) else .spdmUnsupported)

/-- CHALLENGE (R473). -/
def execChallenge (v : BitVec 8) (slot : BitVec 4) (nonce : BitVec 256) (s : State) : Host.Outcome State Fault Refusal :=
  s.spdm v (if slot = 0 then .spdmSigned nonce (Config.sign nonce (s.measurements.map (·.2))) else .spdmUnsupported)

/-- GET_MEASUREMENTS (R474): one block, or all of them. -/
def execGetMeasurements (v : BitVec 8) (index : Option Nat) (s : State) : Host.Outcome State Fault Refusal :=
  let bs := match index with
    | none => s.measurements
    | some i => s.measurements.filter fun p => p.1 == i
  s.spdm v (if bs.isEmpty then .spdmUnsupported else .spdmMeasurements bs)

/-! ### PLDM (R465, R470) -/

/-- PLDM_BASE_DISCOVERY (R465): Types 0, 2 and 5. -/
def execPldmBaseDiscovery (s : State) : Host.Outcome State Fault Refusal := .next { s with reply := some (.pldmTypes [0, 2, 5]) }

/-- A quantity of Table MC-2, or a die's counter of corrected errors (R477). -/
def State.sensor (s : State) (d : Nat) (q : Sensor) : Nat :=
  match q with
  | .power => (s.die d).power.toNat
  | .temp => (s.die d).temp.toNat
  | .vmin => (s.die d).vmin.toNat
  | .freq => (s.die d).freq.toNat
  | .nfc => s.nfc d
  | .state => dieModeCode (s.die d).mode
  | .errors cls => (s.errs.get ErrCount.zero (8 * d + cls.toNat)).total.toNat

/-- PLDM_SENSOR_READ (R465). -/
def execPldmSensorRead (d : BitVec 2) (q : Sensor) (s : State) : Host.Outcome State Fault Refusal :=
  .next { s with reply := some (.pldmValue (s.sensor d.toNat q)) }

/-- PLDM_EVENT_LOG_READ (R470): entries from a sequence number on that the ring still holds; they are marked read. -/
def execPldmEventLogRead (first : BitVec 32) (n : Nat) (s : State) : Host.Outcome State Fault Refusal :=
  let wanted (e : LogEntry) : Bool := decide ((e.seq - first).toNat < n)
  let es := (s.log.map (·.2)).filter wanted
  .next { s with log := s.log.map fun p => (p.1, if wanted p.2 then { p.2 with read := true } else p.2), reply := some (.pldmLog es) }

/-- ENDPOINT_ID_ASSIGNMENT (R465). -/
def execEndpointIdAssignment (eid : BitVec 8) (s : State) : Host.Outcome State Fault Refusal := .next { s with eid := eid }

/-! ### Firmware update (R475, R476) -/

/-- REQUEST_UPDATE: one session at a time. -/
def execRequestUpdate (s : State) : Host.Outcome State Fault Refusal :=
  match s.update with
  | some _ => .next { s with reply := some .pldmAlreadyUpdating }
  | none => .next { s with update := some { step := .requested, image := [] }, reply := some .pldmDone }

/-- A command of the session that takes it from one step to the next; any other order is refused. -/
def State.updStep (s : State) (now nxt : UpdStep) (f : List Byte → List Byte) : State :=
  match s.update with
  | some u =>
    if u.step = now then { s with update := some { step := nxt, image := f u.image }, reply := some .pldmDone }
    else { s with reply := some .pldmRefused }
  | none => { s with reply := some .pldmRefused }

/-- PASS_COMPONENT_TABLE (R475). -/
def execPassComponentTable (s : State) : Host.Outcome State Fault Refusal := .next (s.updStep .requested .table id)

/-- UPDATE_COMPONENT (R475). -/
def execUpdateComponent (s : State) : Host.Outcome State Fault Refusal := .next (s.updStep .table .component fun _ => [])

/-- FIRMWARE_TRANSFER (R475). -/
def execFirmwareTransfer (data : List (BitVec 8)) (s : State) : Host.Outcome State Fault Refusal :=
  .next (s.updStep .component .component fun b => b ++ data)

/-- A firmware event in the log (R471). DEDUCED, log 51. -/
def State.logFirmware (s : State) (b : List Byte) : State := s.logEvent 0x0D 4 0xFFFF (BitVec.ofNat 64 (Config.imageVersion b))

/-- FIRMWARE_VERIFY (R475): signature and SVN before any byte of flash; an image that fails is refused, and the event
logged. -/
def execFirmwareVerify (s : State) : Host.Outcome State Fault Refusal :=
  match s.update with
  | some u =>
    if u.step ≠ .component then .next { s with reply := some .pldmRefused }
    else if imageOk u.image then .next (s.updStep .component .verified id)
    else .next { (s.logFirmware u.image) with update := none, reply := some .pldmRefused }
  | none => .next { s with reply := some .pldmRefused }

/-- FIRMWARE_APPLY (R475): the verified image is written to flash. -/
def execFirmwareApply (s : State) : Host.Outcome State Fault Refusal :=
  match s.update with
  | some u =>
    if u.step ≠ .verified then .next { s with reply := some .pldmRefused }
    else .next { (s.updStep .verified .applied id) with flash := some u.image }
  | none => .next { s with reply := some .pldmRefused }

/-- ACTIVATE_FIRMWARE (R475): the session ends; the image runs from the next cold reset. -/
def execActivateFirmware (s : State) : Host.Outcome State Fault Refusal :=
  match s.update with
  | some u =>
    if u.step ≠ .applied then .next { s with reply := some .pldmRefused }
    else .next { (s.logFirmware u.image) with update := none, reply := some .pldmDone }
  | none => .next { s with reply := some .pldmRefused }

/-- RECOVERY_MAILBOX_WRITE (R476): in recovery the boot ROM verifies the image, writes the flash and restarts; an image that
fails is refused and logged. -/
def execRecoveryMailboxWrite (image : List (BitVec 8)) (s : State) : Host.Outcome State Fault Refusal :=
  if s.boot ≠ .recovery then .next s
  else if imageOk image then .next ((({ s with flash := some image }).coldReset true).logFirmware image)
  else .next (s.logFirmware image)

end Sys2Proof.Machine
end

