-- ==== Sys2Proof/Machine/Issue.lean ====
section
/-! DEFINITION. Which warp issues (R104, R105, R107): the words at its program counter, the conditions on the warp, on its
flags and on the units that the word needs, and the round-robin order of a quadrant. -/

namespace Sys2Proof.Machine

/-- The words that a warp's program counter names: both words of a long instruction (R68). A fetch that fails names the word
that failed. -/
def State.fetchWords (s : State) (c : Nat) (w : Warp) : Except (GFault × Nat) (DWord × Option DWord) :=
  let asid := s.asidOf w
  match s.fetchWord c asid w.pc.toNat with
  | .error f => .error (f, w.pc.toNat)
  | .ok w0 =>
    if wordLength w0 = 16 then
      match s.fetchWord c asid (w.pc + 8).toNat with
      | .error f => .error (f, (w.pc + 8).toNat)
      | .ok w1 => .ok (w0, some w1)
    else .ok (w0, none)

/-- What the fetch of the words that a warp's program counter names does to the caches, as far as it comes. -/
def State.touchWords (s : State) (c : Nat) (w : Warp) : State :=
  let asid := s.asidOf w
  let second := match s.fetchWords c w with
    | .ok (_, w1) => w1.isSome
    | .error (_, va) => va != w.pc.toNat
  let s1 := s.fetchTouch c asid w.pc.toNat
  if second then s1.fetchTouch c asid (w.pc + 8).toNat else s1

/-- The trap of a fetch that fails (R68, R436, R481): ORIGIN 1, and XADDR the address of the word that failed. -/
def fetchTrap (w : Warp) (f : GFault) (va : Nat) : Trap := { trapAt f.code w.act f.detail va with origin := 1 }

/-- The flag condition of a word (R104, R107): every flag that WAIT selects is zero, and the SET flag's counter is below 63. -/
def Warp.flagsReady (w : Warp) (h : Hdr) : Bool :=
  (List.range 12).all (fun f => !h.wait.getLsbD f || w.flag f == 0) && h.set.all fun f => decide (w.flag f.val < 63)

/-- Requests of a core's matrix engine that have not completed. -/
def Core.matrixLoad (k : Core) : Nat := (k.arr.filter fun r => match r.op with | .mx _ _ => true | .fw _ _ => false).length

/-- Requests of a core's fast-weight unit that have not completed. -/
def Core.fwLoad (k : Core) : Nat := (k.arr.filter fun r => match r.op with | .mx _ _ => false | .fw _ _ => true).length

/-- Requests of a copy stream that have not completed. -/
def Core.copyLoad (k : Core) (strm : Stream) : Nat := (k.copy.filter fun r => r.strm == strm).length

/-- Whether the command FIFO of the generator that a selector names has an entry free. -/
def State.fifoFree (s : State) (w : Warp) (gs : Operand) : Bool :=
  match s.ctx, s.fabrics.find? w.gid with
  | some x, some f => (f.gens.find? (x.n32 gs % 32)).all fun g => decide (g.fifo.length < 4)
  | _, _ => true

/-- Whether the unit that an instruction needs has room for its request: 64 requests of the matrix engine (R323), 32 of the
fast-weight unit (R367), 32 of each copy stream (R284), four commands of a generator (R394). -/
def State.unitReady (s : State) (w : Warp) (i : Instr) : Bool :=
  let k := s.curCore
  let mx := decide (k.matrixLoad < 64)
  let fw := decide (k.fwLoad < 32)
  let cp (strm : Stream) : Bool := decide (k.copyLoad strm < 32)
  match i with
  | .wld _ _ _ _ _ => mx
  | .wflip _ => mx
  | .mms _ _ _ _ _ _ => mx
  | .mmsq _ _ _ _ _ _ _ => mx
  | .aclr _ _ => mx
  | .ald _ _ _ => mx
  | .ast _ _ _ _ _ => mx
  | .adrn _ _ _ _ _ _ _ _ => mx
  | .amov _ _ => mx
  | .smx _ _ _ _ => mx
  | .smxrInit _ _ => mx
  | .smxrNorm _ _ => mx
  | .smxrRd _ _ _ => mx
  | .smxrWr _ _ _ => mx
  | .cbind _ _ => fw
  | .cbindSw _ _ _ => fw
  | .crel _ _ => fw
  | .crelPin _ _ => fw
  | .crelUnpin _ _ => fw
  | .delta _ _ _ => fw
  | .dqry _ _ => fw
  | .cspill _ _ => fw
  | .cfill _ _ => fw
  | .cstat _ _ _ => fw
  | .cstatH _ _ _ => fw
  | .cpy _ strm _ _ _ _ _ _ _ => cp strm
  | .cpyz _ strm _ _ _ _ _ _ _ => cp strm
  | .cpyg _ strm _ _ _ _ _ _ _ _ => cp strm
  | .cpys _ strm _ _ _ _ _ _ _ _ => cp strm
  | .cpyb _ strm _ _ _ _ _ _ _ _ => cp strm
  | .cpyxSend _ strm _ _ _ _ _ _ _ _ => cp strm
  | .cpyxFetch _ strm _ _ _ _ _ _ _ _ => cp strm
  | .spstream _ _ gs _ => s.fifoFree w gs
  | .spparamBase _ _ gs _ => s.fifoFree w gs
  | .spparamExt _ _ gs _ => s.fifoFree w gs
  | _ => true

/-- The conditions on a warp itself (R104): not parked, not held by the trap and context unit, its group running, not
blocked, and its time come. -/
def State.warpReady (s : State) (c : Nat) (w : Warp) : Bool :=
  !w.parked && !w.halted && w.trapWait.isNone && (s.groupOf w).any (fun g => g.run == .running) && w.wait == .none &&
  decide (w.notBefore ≤ (s.core c).cycle)

/-- The flag condition of a word that is no instruction: row 4 of Table EC-9 ignores SET in probe mode. -/
def rejectedHdr (h : Hdr) (e : DecodeErr) (probe : Bool) : Hdr := if e = .unassigned ∧ probe then { h with set := none } else h

/-- Whether the next word of the warp in a slot may issue now: it has been fetched, its flags stand as it asks, and the engine
that it enters has room. A word with an empty effective mask enters none (R76). DEDUCED, log 58. -/
def State.wordReady (s : State) (c j : Nat) (w : Warp) : Bool :=
  match s.fetchWords c w with
  | .error _ => true
  | .ok (w0, w1) =>
    let h := wordHdr w0
    match decodeWords w0 w1 with
    | .ok i => w.flagsReady h && (w.eff h == 0 || ({ s with cur := (c, j) }).unitReady w i)
    | .error e => w.flagsReady (rejectedHdr h e (w.mode.getLsbD 1))

/-- Whether the warp in a slot is eligible to issue (R104). A fetch that fails is reported when the word issues. -/
def State.eligible (s : State) (c j : Nat) : Bool :=
  match s.warpAt c j with
  | none => false
  | some w => s.warpReady c w && s.wordReady c j w

/-- The slots of a quadrant in round-robin order after one slot (R105). -/
def roundRobin (q last : Nat) : List Nat := (List.range 16).map fun i => 16 * q + (last + 1 + i) % 16

/-- The eligible slots of a quadrant in round-robin order, of which the first issues; none when the quadrant, or one of a
higher number, has issued a word in this cycle, so that the requests of a cycle reach an engine in the quadrants' order (R16).
DESIGN CHOICE, log 33. -/
def State.issueSlots (s : State) (c q : Nat) : List Nat :=
  let k := s.core c
  if !k.released || 4 ≤ q || k.issued.any (fun p => decide (q ≤ p)) then []
  else (roundRobin q (k.last.get 15 q)).filter fun j => s.eligible c j

/-- The core after a quadrant has issued from a slot, which becomes the acting one. -/
def State.issueFrom (s : State) (c j : Nat) : State :=
  let k := s.core c
  let q := quadOf j
  { (s.setCore c { k with issued := k.issued.add q, last := k.last.set 15 q (j % 16) }) with cur := (c, j) }

/-- Whether a fault may be delivered to a warp in a slot: at its next word, once that may issue, or at the blocking instruction in
which it waits while its group runs. A GBAR whose phase has completed is completed first (R267). -/
def State.takesFault (s : State) (c j : Nat) (w : Warp) : Bool :=
  if w.wait == .none then s.eligible c j
  else (s.groupOf w).any (fun g => g.run == .running) && !(w.wait == .gbar && s.gbarDue w.gid)

/-- PENDING_FAULT_DELIVERY (R305, R329, R378, R457) for the warp in a slot. -/
def execPendingFaultDelivery (c j : Nat) (s : State) : Host.Outcome State Fault Refusal :=
  match s.warpAt c j with
  | none => .next s
  | some w =>
    if s.takesFault c j w then
      .next (s.deliverFault c j)
    else .next s

/-- GENERATOR_FAULT_DELIVERY (R410) to the control thread in a slot. -/
def execGeneratorFaultDelivery (c j : Nat) (s : State) : Host.Outcome State Fault Refusal :=
  match s.warpAt c j with
  | none => .next s
  | some w =>
    if s.takesFault c j w then
      .next (s.deliverGenFault c j)
    else .next s

/-- Whether a control thread takes a generator's fault at its next word (R410). -/
def State.genFaultReady (s : State) (w : Warp) : Bool :=
  w.wid == 0 && w.genFaultDue && (s.fabrics.find? w.gid).any fun f => f.pending.isSome

end Sys2Proof.Machine
end

