-- ==== Sys2Proof/Machine/Cycle.lean ====
section
/-! DEFINITION. The end of a core's, a die's and the hub's cycle: register writes that fall due (R108), WAITF (R123), the
steep timers (R270 to R273), the rereads of waits (R264, R269, R421), array-cycle boundaries (R32), sleeping links (R449), and
the bound on learning of a fence (R457), and the budgets of pre-emption requests (R243). -/

namespace Sys2Proof.Machine

/-- Whether a warp's wait counts on its steep timer in this cycle (R270, R273): of SPENTER, its wait for an empty rectangle alone
(R407). -/
def State.counting (s : State) (w : Warp) : Bool :=
  let counts := match w.wait with
    | .spenter _ _ => (s.fabrics.find? w.gid).any fun f => !f.empty
    | x => x.counts
  counts && !w.halted && w.trapWait.isNone && !s.frozen w && (s.groupOf w).any fun g => g.run == .running

/-- A warp's own part of a cycle that ends at cycle `t`: writes due then take effect, and the steep timer counts. -/
def State.warpCycle (s : State) (c t j : Nat) : State :=
  match s.warpAt c j with
  | none => s
  | some w =>
    let w1 := (w.settle t).wakeWaitf
    s.setWarpAt c j (if s.counting w1 && w1.steep != BitVec.allOnes 32 then { w1 with steep := w1.steep + 1 } else w1)

/-- Does what needs no access that has to wait; where it has to, nothing happens yet (R442). DESIGN CHOICE, log 46. -/
def State.attempt (s : State) (f : State → State) : State := if (f s).stalled then s else f s

/-- A wait whose location must be read again (R264, R269), and a wait whose budget has run out (R271). -/
def State.waitCycle (s : State) (c t j : Nat) : State :=
  let s1 := if s.rereadDue c t j then s.attempt fun a => a.reread c j else s
  match s1.warpAt c j with
  | some w => if s1.counting w then s1.attempt fun a => a.steepExpire c j else s1
  | none => s1

/-- A core learns of the fences it does not know: at once or later, as a choice says, and within 64 cycles (R457). -/
def State.noticeFences (s : State) (c t : Nat) : State :=
  let new := s.fenced.filter fun d => !(s.core c).fenceSeen.has d
  if new.isEmpty then s
  else
    let p := s.choose
    if p.1 = 1 ∨ t % 64 = 0 then
      p.2.setCore c { p.2.core c with fenceSeen := new.foldl NSet.add (p.2.core c).fenceSeen }
    else p.2

/-- A cycle that is an array-cycle boundary does not end before every request that has arrived is accepted (R32). -/
def Core.acceptAll (k : Core) : Core :=
  if k.boundary then { k with arr := k.arr.map fun r => { r with accepted := true } } else k

/-- The end of a core's cycle. A core in reset has none. -/
def State.coreCycle (s : State) (c : Nat) : State :=
  let k := s.core c
  if !k.released then s
  else
    let t := k.cycle + 1
    let js := k.warps.map (·.1)
    let s1 := (s.setCore c { k.acceptAll with cycle := t, issued := [] }).noticeFences c t
    (js.foldl (fun a j => a.waitCycle c t j) (js.foldl (fun a j => a.warpCycle c t j) s1)).attempt fun a => a.budgetCycle c

/-- The end of a die's cycle, which is the cycle of every core of it (R32): the links that count on its clock and have carried
nothing for 8192 cycles sleep (R449). -/
def State.dieCycle (s : State) (d : Nat) : State :=
  if s.boot = .on ∧ d < 4 then
    (coresOf [d]).foldl State.coreCycle
      ((List.range 5).foldl (fun t b => if d < b then t.linkSleep d b else t) (s.setDie d { s.die d with clk := (s.die d).clk + 1 }))
  else s

/-- A WAIT packet in a hub cycle: it reads its location again within 4096 of them, and a last time when its budget runs out, with
which it ends (R421). -/
def State.queueCycle (s : State) (q : Nat) : State :=
  match (s.queue q).work with
  | .wait _ _ _ _ _ start last timeout _ =>
    if timeout ≠ 0 ∧ 1024 * timeout ≤ s.hub - start then s.attempt fun a => (a.waitStep q).waitExpire q
    else if 4095 ≤ s.hub - last then s.attempt fun a => a.waitStep q
    else s
  | _ => s

/-- The end of a hub cycle. -/
def State.hubCycle (s : State) : State :=
  if s.boot ≠ .on then s
  else
    (List.range 128).foldl State.queueCycle { s with hub := s.hub + 1 }

end Sys2Proof.Machine
end

