-- ==== Sys2Proof/Machine/Scalar.lean ====
section
/-! DEFINITION. The scalar unit: SMOV to SCLZ, and the moves between scalars and lanes (R136, R137, Table IU-1). -/

namespace Sys2Proof.Machine

/-- A two-source scalar word over an integer type. -/
def scalarInt (h : Hdr) (l : Bool) (t : IntTy) (lat : Nat) (d a : Operand) (b : Src) (op : ITy → Int → Int → DWord)
    (s : State) : Host.Outcome State Fault Refusal :=
  let w := intWide t
  alu h (scalarForm l w w w d a b) lat (fun x _ => sWriteW w (regOf d)
    (op (ityOf t) ((ityOf t).toInt (x.read (rdW w) a 0)) ((ityOf t).toInt (x.readSrc (rdW w) b 0)))) s

/-- A two-source scalar word over a bit type. -/
def scalarBit (h : Hdr) (l : Bool) (t : BitTy) (d a : Operand) (b : Src) (op : DWord → DWord → DWord) (s : State) :
    Host.Outcome State Fault Refusal :=
  let w := bitWide t
  alu h (scalarForm l w w w d a b) 2 (fun x _ => sWriteW w (regOf d) (op (x.read (rdW w) a 0) (x.readSrc (rdW w) b 0))) s

/-- A scalar shift or bit-field extraction: the second source is a .N32 control value (R129). -/
def scalarCtl (h : Hdr) (l : Bool) (t : BitTy) (d a : Operand) (b : Src) (op : Nat → DWord → Nat → DWord) (s : State) :
    Host.Outcome State Fault Refusal :=
  let w := bitWide t
  alu h (scalarForm l w w false d a b) 2 (fun x _ => sWriteW w (regOf d)
    (op (widthW w) (x.read (rdW w) a 0) (x.n32Src b))) s

/-- SMOV (R136): the source is source 1. -/
def execSmov (h : Hdr) (l : Bool) (t : BitTy) (d : Operand) (a : Src) (s : State) : Host.Outcome State Fault Refusal :=
  let w := bitWide t
  alu h { len := lenOf l, checks := fun _ => [(fDst, sDst w d), (fSrc1, sSrc1 w a)], reads := fun m => Rd.src a w m,
          spatialOk := true } 2
    (fun x _ => sWriteW w (regOf d) (x.readSrc (rdW w) a 0)) s

/-- SMOVL (R136): IMM in the high word, a in the low word. -/
def execSmovl (h : Hdr) (d a : Operand) (imm : Word) (s : State) : Host.Outcome State Fault Refusal :=
  alu h { len := 16, checks := fun _ => [(fDst, sDst true d), (fSrc0, sSrc false a)], reads := fun m => [Rd.of a false m],
          spatialOk := true } 2
    (fun x _ => sWriteW true (regOf d) (imm ++ (x.read .i32 a 0).setWidth 32)) s

/-- SADD (R136). -/
def execSadd (h : Hdr) (l : Bool) (t : IntTy) (sat : Bool) (d a : Operand) (b : Src) (s : State) :
    Host.Outcome State Fault Refusal :=
  scalarInt h l t 2 d a b (fun ty x y => ty.result sat (x + y)) s

/-- SSUB (R136). -/
def execSsub (h : Hdr) (l : Bool) (t : IntTy) (sat : Bool) (d a : Operand) (b : Src) (s : State) :
    Host.Outcome State Fault Refusal :=
  scalarInt h l t 2 d a b (fun ty x y => ty.result sat (x - y)) s

/-- SMUL (R136). -/
def execSmul (h : Hdr) (l : Bool) (t : IntTy) (d a : Operand) (b : Src) (s : State) : Host.Outcome State Fault Refusal :=
  scalarInt h l t 4 d a b (fun ty x y => ty.wrap (x * y)) s

/-- SMAD (R136). -/
def execSmad (h : Hdr) (t : IntTy) (d a : Operand) (b : Src) (c : Operand) (s : State) :
    Host.Outcome State Fault Refusal :=
  let w := intWide t
  let ty := ityOf t
  alu h ((scalarForm true w w w d a b).withSrc2 (fun _ => sSrc w c) c w) 4 (fun x _ => sWriteW w (regOf d)
    (ty.wrap (ty.toInt (x.read (rdW w) a 0) * ty.toInt (x.readSrc (rdW w) b 0) + ty.toInt (x.read (rdW w) c 0)))) s

def wideTy : WideTy → ITy
  | .i32 => i32T
  | .n32 => n32T

/-- SADD64 (R136): a 64-bit pair plus an extended 32-bit value. -/
def execSadd64 (h : Hdr) (l : Bool) (t : WideTy) (d a : Operand) (b : Src) (s : State) :
    Host.Outcome State Fault Refusal :=
  alu h (scalarForm l true true false d a b) 4 (fun x _ => sWriteW true (regOf d)
    (n64T.wrap (n64T.toInt (x.read .i64 a 0) + (wideTy t).toInt (x.readSrc .i32 b 0)))) s

/-- SMAD64 (R136): a product of 32-bit values plus a 64-bit pair. -/
def execSmad64 (h : Hdr) (t : WideTy) (d a : Operand) (b : Src) (c : Operand) (s : State) :
    Host.Outcome State Fault Refusal :=
  let ty := wideTy t
  alu h ((scalarForm true true false false d a b).withSrc2 (fun _ => sSrc true c) c true) 4
    (fun x _ => sWriteW true (regOf d)
      (n64T.wrap (ty.toInt (x.read .i32 a 0) * ty.toInt (x.readSrc .i32 b 0) + n64T.toInt (x.read .i64 c 0)))) s

/-- SAND (R136). -/
def execSand (h : Hdr) (l : Bool) (t : BitTy) (d a : Operand) (b : Src) (s : State) : Host.Outcome State Fault Refusal :=
  scalarBit h l t d a b (fun x y => x &&& y) s

/-- SOR (R136). -/
def execSor (h : Hdr) (l : Bool) (t : BitTy) (d a : Operand) (b : Src) (s : State) : Host.Outcome State Fault Refusal :=
  scalarBit h l t d a b (fun x y => x ||| y) s

/-- SXOR (R136). -/
def execSxor (h : Hdr) (l : Bool) (t : BitTy) (d a : Operand) (b : Src) (s : State) : Host.Outcome State Fault Refusal :=
  scalarBit h l t d a b (fun x y => x ^^^ y) s

/-- SSHL (R136). -/
def execSshl (h : Hdr) (l : Bool) (t : BitTy) (d a : Operand) (b : Src) (s : State) : Host.Outcome State Fault Refusal :=
  scalarCtl h l t d a b shlW s

/-- SSHR (R136). -/
def execSshr (h : Hdr) (l : Bool) (t : BitTy) (d a : Operand) (b : Src) (s : State) : Host.Outcome State Fault Refusal :=
  scalarCtl h l t d a b shrW s

/-- SSRA (R136). -/
def execSsra (h : Hdr) (l : Bool) (t : BitTy) (d a : Operand) (b : Src) (s : State) : Host.Outcome State Fault Refusal :=
  scalarCtl h l t d a b sraW s

/-- SMIN (R136). -/
def execSmin (h : Hdr) (l : Bool) (t : IntTy) (d a : Operand) (b : Src) (s : State) : Host.Outcome State Fault Refusal :=
  scalarInt h l t 2 d a b (fun ty x y => ty.wrap (min x y)) s

/-- SMAX (R136). -/
def execSmax (h : Hdr) (l : Bool) (t : IntTy) (d a : Operand) (b : Src) (s : State) : Host.Outcome State Fault Refusal :=
  scalarInt h l t 2 d a b (fun ty x y => ty.wrap (max x y)) s

/-- SCMP (R131, R136): all 32 bits of the predicate are written. -/
def execScmp (h : Hdr) (t : IntTy) (cc : ICond) (kD : KField) (a : Operand) (b : Src) (s : State) :
    Host.Outcome State Fault Refusal :=
  let w := intWide t
  let ty := ityOf t
  alu h { len := 16, checks := fun _ => [(fDst, kOk kD), (fSrc0, sSrc w a), (fSrc1, sSrc1 w b)],
          reads := fun m => Rd.of a w m :: Rd.src b w m, spatialOk := true } 2
    (fun x _ => kWrite kD fullMask
      (allBits (icond cc (ty.toInt (x.read (rdW w) a 0)) (ty.toInt (x.readSrc (rdW w) b 0))))) s

/-- SSEL (R136). -/
def execSsel (h : Hdr) (t : BitTy) (d a : Operand) (b : Src) (kC : KField) (s : State) :
    Host.Outcome State Fault Refusal :=
  let w := bitWide t
  alu h ((scalarForm true w w w d a b).withK2 kC) 2
    (fun x _ => sWriteW w (regOf d) (if x.k kC ≠ 0 then x.read (rdW w) a 0 else x.readSrc (rdW w) b 0)) s

/-- SBFE (R139). -/
def execSbfe (h : Hdr) (l : Bool) (t : BitTy) (sx : Bool) (d a : Operand) (b : Src) (s : State) :
    Host.Outcome State Fault Refusal :=
  scalarCtl h l t d a b (fun n x c => bfe n sx x c) s

/-- A one-source scalar word with a 32-bit result. -/
def scalarCount (h : Hdr) (t : BitTy) (d a : Operand) (op : Nat → Nat → Nat) (s : State) :
    Host.Outcome State Fault Refusal :=
  let w := bitWide t
  alu h { len := 8, checks := fun _ => [(fDst, sDst false d), (fSrc0, sSrc w a)], reads := fun m => [Rd.of a w m],
          spatialOk := true } 2
    (fun x _ => sWriteW false (regOf d) (BitVec.ofNat 64 (op (widthW w) (x.read (rdW w) a 0).toNat))) s

/-- SPOPC (R136). -/
def execSpopc (h : Hdr) (t : BitTy) (d a : Operand) (s : State) : Host.Outcome State Fault Refusal :=
  scalarCount h t d a popCount s

/-- SCLZ (R136). -/
def execSclz (h : Hdr) (t : BitTy) (d a : Operand) (s : State) : Host.Outcome State Fault Refusal :=
  scalarCount h t d a clz s

/-- S2V (R137): one lane, if it is in the effective mask. -/
def execS2v (h : Hdr) (l : Bool) (t : BitTy) (d a : Operand) (sel : Src) (s : State) :
    Host.Outcome State Fault Refusal :=
  let w := bitWide t
  alu h { len := lenOf l
          checks := fun A => [(fDst, vDst A (regsOf w) d), (fSrc0, !isVec a && vSrc A w a), (fSrc1, sSrc1 false sel)]
          reads := fun m => Rd.of a w m :: Rd.src sel false m
          spatialOk := false } 2
    (fun x eff =>
      let i := x.n32Src sel % 32
      vWriteW w (regOf d) (eff &&& (1#32 <<< i)) (fun _ => x.read (rdW w) a i)) s

/-- V2S (R137): one lane as read at issue, active or not. -/
def execV2s (h : Hdr) (l : Bool) (t : BitTy) (d a : Operand) (sel : Src) (s : State) :
    Host.Outcome State Fault Refusal :=
  let w := bitWide t
  alu h { len := lenOf l
          checks := fun A => [(fDst, sDst w d), (fSrc0, isVec a && vSrc A w a), (fSrc1, sSrc1 false sel)]
          reads := fun m => s.laneReads sel m fun x => Rd.of a w (1#32 <<< (x.n32Src sel % 32))
          spatialOk := false } 6
    (fun x _ => sWriteW w (regOf d) (x.read (rdW w) a (x.n32Src sel % 32))) s

end Sys2Proof.Machine
end

