-- ==== Sys2Proof/Machine/Dispatch.lean ====
section
/-! DEFINITION. One arm per row of the opcode table: the one place where an instruction meets its meaning. -/

namespace Sys2Proof.Machine

/-- The meaning of one instruction or event in a state. -/
def exec (i : Instr) (s : State) : Host.Outcome State Fault Refusal :=
  match i with
  | .nop h => Sys2Proof.Machine.execNop h s
  | .waitf h l f n => Sys2Proof.Machine.execWaitf h l f n s
  | .yieldW h l n => Sys2Proof.Machine.execYieldW h l n s
  | .regx h l dlt mask => Sys2Proof.Machine.execRegx h l dlt mask s
  | .srd h d ix => Sys2Proof.Machine.execSrd h d ix s
  | .swr h ix a => Sys2Proof.Machine.execSwr h ix a s
  | .modeSet h bits => Sys2Proof.Machine.execModeSet h bits s
  | .modeClr h bits => Sys2Proof.Machine.execModeClr h bits s
  | .modeWr h bits => Sys2Proof.Machine.execModeWr h bits s
  | .bra h off => Sys2Proof.Machine.execBra h off s
  | .brx h a => Sys2Proof.Machine.execBrx h a s
  | .split h els kC jn => Sys2Proof.Machine.execSplit h els kC jn s
  | .join h => Sys2Proof.Machine.execJoin h s
  | .loopr h ext => Sys2Proof.Machine.execLoopr h ext s
  | .brk h => Sys2Proof.Machine.execBrk h s
  | .call h off => Sys2Proof.Machine.execCall h off s
  | .callx h a => Sys2Proof.Machine.execCallx h a s
  | .ret h => Sys2Proof.Machine.execRet h s
  | .exit h => Sys2Proof.Machine.execExit h s
  | .bar h l b n => Sys2Proof.Machine.execBar h l b n s
  | .bara h l sp d a cnt disp => Sys2Proof.Machine.execBara h l sp d a cnt disp s
  | .barw h l sp a p disp tmo => Sys2Proof.Machine.execBarw h l sp a p disp tmo s
  | .cbar h b => Sys2Proof.Machine.execCbar h b s
  | .gbar h => Sys2Proof.Machine.execGbar h s
  | .waitm h sp sz sgn sc peer cc d a b disp tmo => Sys2Proof.Machine.execWaitm h sp sz sgn sc peer cc d a b disp tmo s
  | .smov h l t d a => Sys2Proof.Machine.execSmov h l t d a s
  | .smovl h d a imm => Sys2Proof.Machine.execSmovl h d a imm s
  | .sadd h l t sat d a b => Sys2Proof.Machine.execSadd h l t sat d a b s
  | .ssub h l t sat d a b => Sys2Proof.Machine.execSsub h l t sat d a b s
  | .smul h l t d a b => Sys2Proof.Machine.execSmul h l t d a b s
  | .smad h t d a b c => Sys2Proof.Machine.execSmad h t d a b c s
  | .sadd64 h l t d a b => Sys2Proof.Machine.execSadd64 h l t d a b s
  | .smad64 h t d a b c => Sys2Proof.Machine.execSmad64 h t d a b c s
  | .sand h l t d a b => Sys2Proof.Machine.execSand h l t d a b s
  | .sor h l t d a b => Sys2Proof.Machine.execSor h l t d a b s
  | .sxor h l t d a b => Sys2Proof.Machine.execSxor h l t d a b s
  | .sshl h l t d a b => Sys2Proof.Machine.execSshl h l t d a b s
  | .sshr h l t d a b => Sys2Proof.Machine.execSshr h l t d a b s
  | .ssra h l t d a b => Sys2Proof.Machine.execSsra h l t d a b s
  | .smin h l t d a b => Sys2Proof.Machine.execSmin h l t d a b s
  | .smax h l t d a b => Sys2Proof.Machine.execSmax h l t d a b s
  | .scmp h t cc kD a b => Sys2Proof.Machine.execScmp h t cc kD a b s
  | .ssel h t d a b kC => Sys2Proof.Machine.execSsel h t d a b kC s
  | .sbfe h l t sx d a b => Sys2Proof.Machine.execSbfe h l t sx d a b s
  | .spopc h t d a => Sys2Proof.Machine.execSpopc h t d a s
  | .sclz h t d a => Sys2Proof.Machine.execSclz h t d a s
  | .s2v h l t d a sel => Sys2Proof.Machine.execS2v h l t d a sel s
  | .v2s h l t d a sel => Sys2Proof.Machine.execV2s h l t d a sel s
  | .mov h l t d a => Sys2Proof.Machine.execMov h l t d a s
  | .iadd h l t sat d a b => Sys2Proof.Machine.execIadd h l t sat d a b s
  | .iaddc h t d a b kC => Sys2Proof.Machine.execIaddc h t d a b kC s
  | .isub h l t sat d a b => Sys2Proof.Machine.execIsub h l t sat d a b s
  | .imul h l t d a b => Sys2Proof.Machine.execImul h l t d a b s
  | .imulh h l t d a b => Sys2Proof.Machine.execImulh h l t d a b s
  | .imad h t d a b c => Sys2Proof.Machine.execImad h t d a b c s
  | .imin h l t d a b => Sys2Proof.Machine.execImin h l t d a b s
  | .imax h l t d a b => Sys2Proof.Machine.execImax h l t d a b s
  | .iabs h l t sat d a => Sys2Proof.Machine.execIabs h l t sat d a s
  | .iand h l t d a b => Sys2Proof.Machine.execIand h l t d a b s
  | .ior h l t d a b => Sys2Proof.Machine.execIor h l t d a b s
  | .ixor h l t d a b => Sys2Proof.Machine.execIxor h l t d a b s
  | .inot h t d a => Sys2Proof.Machine.execInot h t d a s
  | .ishl h l t d a b => Sys2Proof.Machine.execIshl h l t d a b s
  | .ishr h l t d a b => Sys2Proof.Machine.execIshr h l t d a b s
  | .isra h l t d a b => Sys2Proof.Machine.execIsra h l t d a b s
  | .ifunnel h t d a b c => Sys2Proof.Machine.execIfunnel h t d a b c s
  | .ipopc h t d a => Sys2Proof.Machine.execIpopc h t d a s
  | .iclz h t d a => Sys2Proof.Machine.execIclz h t d a s
  | .ibfe h l t sx d a b => Sys2Proof.Machine.execIbfe h l t sx d a b s
  | .ibfi h t d a b c => Sys2Proof.Machine.execIbfi h t d a b c s
  | .idp4 h sg sat d a b c => Sys2Proof.Machine.execIdp4 h sg sat d a b c s
  | .idp2 h sg sat d a b c => Sys2Proof.Machine.execIdp2 h sg sat d a b c s
  | .icmp h t cc kD a b => Sys2Proof.Machine.execIcmp h t cc kD a b s
  | .isel h t d a b kC => Sys2Proof.Machine.execIsel h t d a b kC s
  | .fadd h l t rm d a b => Sys2Proof.Machine.execFadd h l t rm d a b s
  | .fsub h l t rm d a b => Sys2Proof.Machine.execFsub h l t rm d a b s
  | .fmul h l t rm d a b => Sys2Proof.Machine.execFmul h l t rm d a b s
  | .ffma h t rm d a b c => Sys2Proof.Machine.execFfma h t rm d a b c s
  | .fmin h l t d a b => Sys2Proof.Machine.execFmin h l t d a b s
  | .fmax h l t d a b => Sys2Proof.Machine.execFmax h l t d a b s
  | .fcmp h t cc kD a b => Sys2Proof.Machine.execFcmp h t cc kD a b s
  | .fclass h t d a => Sys2Proof.Machine.execFclass h t d a s
  | .frnd h l t rm d a => Sys2Proof.Machine.execFrnd h l t rm d a s
  | .frcp h d a => Sys2Proof.Machine.execFrcp h d a s
  | .frsq h d a => Sys2Proof.Machine.execFrsq h d a s
  | .fsqrt h l t rm d a => Sys2Proof.Machine.execFsqrt h l t rm d a s
  | .fexp2 h d a => Sys2Proof.Machine.execFexp2 h d a s
  | .flog2 h d a => Sys2Proof.Machine.execFlog2 h d a s
  | .fsin h d a => Sys2Proof.Machine.execFsin h d a s
  | .fcos h d a => Sys2Proof.Machine.execFcos h d a s
  | .ftanh h d a => Sys2Proof.Machine.execFtanh h d a s
  | .hadd2 h l t rm d a b => Sys2Proof.Machine.execHadd2 h l t rm d a b s
  | .hmul2 h l t rm d a b => Sys2Proof.Machine.execHmul2 h l t rm d a b s
  | .hfma2 h t rm d a b c => Sys2Proof.Machine.execHfma2 h t rm d a b c s
  | .hmin2 h l t d a b => Sys2Proof.Machine.execHmin2 h l t d a b s
  | .hmax2 h l t d a b => Sys2Proof.Machine.execHmax2 h l t d a b s
  | .fdot2 h t rm d a b c => Sys2Proof.Machine.execFdot2 h t rm d a b c s
  | .cvt h rm cv d a => Sys2Proof.Machine.execCvt h rm cv d a s
  | .cvtSr h half tgt src sat d a rnd => Sys2Proof.Machine.execCvtSr h half tgt src sat d a rnd s
  | .pack h l t d a b => Sys2Proof.Machine.execPack h l t d a b s
  | .unpack h l t d a sel => Sys2Proof.Machine.execUnpack h l t d a sel s
  | .qnt h l t d a p => Sys2Proof.Machine.execQnt h l t d a p s
  | .dqnt h t d a p sel => Sys2Proof.Machine.execDqnt h t d a p sel s
  | .rng h l d a n imm => Sys2Proof.Machine.execRng h l d a n imm s
  | .shfl h l m d a n => Sys2Proof.Machine.execShfl h l m d a n s
  | .vote h v kS => Sys2Proof.Machine.execVote h v kS s
  | .wred h op ty d a => Sys2Proof.Machine.execWred h op ty d a s
  | .wscan h op ty d a => Sys2Proof.Machine.execWscan h op ty d a s
  | .matchW h t d a => Sys2Proof.Machine.execMatchW h t d a s
  | .kand h kD kA kB => Sys2Proof.Machine.execKand h kD kA kB s
  | .kor h kD kA kB => Sys2Proof.Machine.execKor h kD kA kB s
  | .kxor h kD kA kB => Sys2Proof.Machine.execKxor h kD kA kB s
  | .knot h kD kA => Sys2Proof.Machine.execKnot h kD kA s
  | .kmov h v => Sys2Proof.Machine.execKmov h v s
  | .kpop h d kA => Sys2Proof.Machine.execKpop h d kA s
  | .pairWord p => Sys2Proof.Machine.execPairWord p s
  | .ld h l sp sz sx sc od hint scl d a b disp => Sys2Proof.Machine.execLd h l sp sz sx sc od hint scl d a b disp s
  | .st h l sp sz sc od hint scl d a b disp => Sys2Proof.Machine.execSt h l sp sz sc od hint scl d a b disp s
  | .ldfe h sp sz sx sc scl peer clr d a b disp tmo => Sys2Proof.Machine.execLdfe h sp sz sx sc scl peer clr d a b disp tmo s
  | .stfe h l sp sz sc scl d a b disp => Sys2Proof.Machine.execStfe h l sp sz sc scl d a b disp s
  | .atom h sp sz sc od op d a b disp => Sys2Proof.Machine.execAtom h sp sz sc od op d a b disp s
  | .atomc h sp sz sc od d a b c disp => Sys2Proof.Machine.execAtomc h sp sz sc od d a b c disp s
  | .red h sp sz sc od op a b disp => Sys2Proof.Machine.execRed h sp sz sc od op a b disp s
  | .fence h sc od => Sys2Proof.Machine.execFence h sc od s
  | .pref h l lv scl a b disp => Sys2Proof.Machine.execPref h l lv scl a b disp s
  | .cctlL1ev h l scl a b disp => Sys2Proof.Machine.execCctlL1ev h l scl a b disp s
  | .cctlL2ev h l scl a b disp => Sys2Proof.Machine.execCctlL2ev h l scl a b disp s
  | .cctlZero h l scl a b disp => Sys2Proof.Machine.execCctlZero h l scl a b disp s
  | .ifence h => Sys2Proof.Machine.execIfence h s
  | .wld h w a cb pitch => Sys2Proof.Machine.execWld h w a cb pitch s
  | .wflip h => Sys2Proof.Machine.execWflip h s
  | .mms h ta tb zi m cb => Sys2Proof.Machine.execMms h ta tb zi m cb s
  | .mmsq h q g zi a cb pitch => Sys2Proof.Machine.execMmsq h q g zi a cb pitch s
  | .aclr h cb => Sys2Proof.Machine.execAclr h cb s
  | .ald h m cb => Sys2Proof.Machine.execAld h m cb s
  | .ast h sp a cb pitch => Sys2Proof.Machine.execAst h sp a cb pitch s
  | .adrn h act t bias sat clr m cb => Sys2Proof.Machine.execAdrn h act t bias sat clr m cb s
  | .amov h cb => Sys2Proof.Machine.execAmov h cb s
  | .smx h a cb pitch => Sys2Proof.Machine.execSmx h a cb pitch s
  | .smxrInit h cb => Sys2Proof.Machine.execSmxrInit h cb s
  | .smxrNorm h cb => Sys2Proof.Machine.execSmxrNorm h cb s
  | .smxrRd h a cb => Sys2Proof.Machine.execSmxrRd h a cb s
  | .smxrWr h a cb => Sys2Proof.Machine.execSmxrWr h a cb s
  | .cbind h cs => Sys2Proof.Machine.execCbind h cs s
  | .cbindSw h cs hd => Sys2Proof.Machine.execCbindSw h cs hd s
  | .crel h cs => Sys2Proof.Machine.execCrel h cs s
  | .crelPin h cs => Sys2Proof.Machine.execCrelPin h cs s
  | .crelUnpin h cs => Sys2Proof.Machine.execCrelUnpin h cs s
  | .delta h rec cb => Sys2Proof.Machine.execDelta h rec cb s
  | .dqry h cb => Sys2Proof.Machine.execDqry h cb s
  | .cspill h cs => Sys2Proof.Machine.execCspill h cs s
  | .cfill h cs => Sys2Proof.Machine.execCfill h cs s
  | .cstat h d cs => Sys2Proof.Machine.execCstat h d cs s
  | .cstatH h d cs => Sys2Proof.Machine.execCstatH h d cs s
  | .cpy h strm dsp ssp fe sc d a ds => Sys2Proof.Machine.execCpy h strm dsp ssp fe sc d a ds s
  | .cpyz h strm dsp ssp fe sc d a nblk => Sys2Proof.Machine.execCpyz h strm dsp ssp fe sc d a nblk s
  | .cpyg h strm dsp ssp fe sc d a ds ix => Sys2Proof.Machine.execCpyg h strm dsp ssp fe sc d a ds ix s
  | .cpys h strm dsp ssp fe sc d a ds ix => Sys2Proof.Machine.execCpys h strm dsp ssp fe sc d a ds ix s
  | .cpyb h strm dsp ssp fe sc d a ds mk => Sys2Proof.Machine.execCpyb h strm dsp ssp fe sc d a ds mk s
  | .cpyxSend h strm dsp ssp fe sc d a ds ep => Sys2Proof.Machine.execCpyxSend h strm dsp ssp fe sc d a ds ep s
  | .cpyxFetch h strm dsp ssp fe sc d a ds ep => Sys2Proof.Machine.execCpyxFetch h strm dsp ssp fe sc d a ds ep s
  | .spenter h shape a => Sys2Proof.Machine.execSpenter h shape a s
  | .spleave h => Sys2Proof.Machine.execSpleave h s
  | .spstream h l gs n => Sys2Proof.Machine.execSpstream h l gs n s
  | .spparamBase h l gs b => Sys2Proof.Machine.execSpparamBase h l gs b s
  | .spparamExt h l gs n => Sys2Proof.Machine.execSpparamExt h l gs n s
  | .spdrain h => Sys2Proof.Machine.execSpdrain h s
  | .spstatRect h d => Sys2Proof.Machine.execSpstatRect h d s
  | .spstatGen h d gs => Sys2Proof.Machine.execSpstatGen h d gs s
  | .spstatPos h d gs => Sys2Proof.Machine.execSpstatPos h d gs s
  | .trap h n => Sys2Proof.Machine.execTrap h n s
  | .xret h => Sys2Proof.Machine.execXret h s
  | .bkpt h n => Sys2Proof.Machine.execBkpt h n s
  | .halt h l code => Sys2Proof.Machine.execHalt h l code s
  | .regxCommit c j => Sys2Proof.Machine.execRegxCommit c j s
  | .barrierPhaseComplete gid b => Sys2Proof.Machine.execBarrierPhaseComplete gid b s
  | .cbarPhaseComplete lid inst b => Sys2Proof.Machine.execCbarPhaseComplete lid inst b s
  | .gbarCompletion lid c => Sys2Proof.Machine.execGbarCompletion lid c s
  | .waitmReread c j => Sys2Proof.Machine.execWaitmReread c j s
  | .steepTimerExpiry c j => Sys2Proof.Machine.execSteepTimerExpiry c j s
  | .variableAluCompletion c j => Sys2Proof.Machine.execVariableAluCompletion c j s
  | .ldfeServe c j => Sys2Proof.Machine.execLdfeServe c j s
  | .lsCompletion c n => Sys2Proof.Machine.execLsCompletion c n s
  | .instructionFetch c j va => Sys2Proof.Machine.execInstructionFetch c j va s
  | .pageWalk c asid va => Sys2Proof.Machine.execPageWalk c asid va s
  | .trapEntry c j => Sys2Proof.Machine.execTrapEntry c j s
  | .pendingFaultDelivery c j => Sys2Proof.Machine.execPendingFaultDelivery c j s
  | .copyElement c strm => Sys2Proof.Machine.execCopyElement c strm s
  | .copyGranuleFull c strm n => Sys2Proof.Machine.execCopyGranuleFull c strm n s
  | .copyRequestCompletion c strm => Sys2Proof.Machine.execCopyRequestCompletion c strm s
  | .blockMerge line => Sys2Proof.Machine.execBlockMerge line s
  | .arrayRequestAccept c n => Sys2Proof.Machine.execArrayRequestAccept c n s
  | .accumulatorPortAccess c n => Sys2Proof.Machine.execAccumulatorPortAccess c n s
  | .matrixRequestCompletion c n => Sys2Proof.Machine.execMatrixRequestCompletion c n s
  | .fwRequestCompletion c n => Sys2Proof.Machine.execFwRequestCompletion c n s
  | .cultureSpill c idx => Sys2Proof.Machine.execCultureSpill c idx s
  | .cultureFill c idx => Sys2Proof.Machine.execCultureFill c idx s
  | .cultureEviction c idx => Sys2Proof.Machine.execCultureEviction c idx s
  | .groupDeparture gid => Sys2Proof.Machine.execGroupDeparture gid s
  | .spenterCommit c j => Sys2Proof.Machine.execSpenterCommit c j s
  | .spleaveCommit c j => Sys2Proof.Machine.execSpleaveCommit c j s
  | .spdrainComplete c j => Sys2Proof.Machine.execSpdrainComplete c j s
  | .nodeFiring gid idx => Sys2Proof.Machine.execNodeFiring gid idx s
  | .eoiFiring gid idx => Sys2Proof.Machine.execEoiFiring gid idx s
  | .generatorRoundStart gid k => Sys2Proof.Machine.execGeneratorRoundStart gid k s
  | .genElementRead gid k => Sys2Proof.Machine.execGenElementRead gid k s
  | .generatorFaultDelivery c j => Sys2Proof.Machine.execGeneratorFaultDelivery c j s
  | .preemptionRequest d => Sys2Proof.Machine.execPreemptionRequest d s
  | .drainBudgetExpiry c n => Sys2Proof.Machine.execDrainBudgetExpiry c n s
  | .groupSave gid => Sys2Proof.Machine.execGroupSave gid s
  | .saveBudgetExpiry c n => Sys2Proof.Machine.execSaveBudgetExpiry c n s
  | .groupResume d => Sys2Proof.Machine.execGroupResume d s
  | .groupDispatch gid => Sys2Proof.Machine.execGroupDispatch gid s
  | .groupRetire gid => Sys2Proof.Machine.execGroupRetire gid s
  | .qcfgEnableSet q v => Sys2Proof.Machine.execQcfgEnableSet q v s
  | .qcfgEnableClear q v => Sys2Proof.Machine.execQcfgEnableClear q v s
  | .qwpWrite q v => Sys2Proof.Machine.execQwpWrite q v s
  | .qctlReset q => Sys2Proof.Machine.execQctlReset q s
  | .qctlResume q => Sys2Proof.Machine.execQctlResume q s
  | .qstatIrqClear q => Sys2Proof.Machine.execQstatIrqClear q s
  | .registerWrite off v => Sys2Proof.Machine.execRegisterWrite off v s
  | .preqPreempt asid all core => Sys2Proof.Machine.execPreqPreempt asid all core s
  | .preqPreemptHold asid all core => Sys2Proof.Machine.execPreqPreemptHold asid all core s
  | .preqReleaseHold asid => Sys2Proof.Machine.execPreqReleaseHold asid s
  | .preqKill asid => Sys2Proof.Machine.execPreqKill asid s
  | .nopPacket q => Sys2Proof.Machine.execNopPacket q s
  | .launch q => Sys2Proof.Machine.execLaunch q s
  | .waitPacket q => Sys2Proof.Machine.execWaitPacket q s
  | .waitReread q => Sys2Proof.Machine.execWaitReread q s
  | .waitTimeout q => Sys2Proof.Machine.execWaitTimeout q s
  | .signal q => Sys2Proof.Machine.execSignal q s
  | .inval q => Sys2Proof.Machine.execInval q s
  | .iflush q => Sys2Proof.Machine.execIflush q s
  | .launchAdmission d => Sys2Proof.Machine.execLaunchAdmission d s
  | .chunkRequest lid d => Sys2Proof.Machine.execChunkRequest lid d s
  | .grantAcknowledged lid n => Sys2Proof.Machine.execGrantAcknowledged lid n s
  | .launchCompletion lid => Sys2Proof.Machine.execLaunchCompletion lid s
  | .rds line a => Sys2Proof.Machine.execRds line a s
  | .rdx line a => Sys2Proof.Machine.execRdx line a s
  | .upg line a => Sys2Proof.Machine.execUpg line a s
  | .atomRequest line a ret => Sys2Proof.Machine.execAtomRequest line a ret s
  | .blk line a => Sys2Proof.Machine.execBlk line a s
  | .flush line a => Sys2Proof.Machine.execFlush line a s
  | .snps line a => Sys2Proof.Machine.execSnps line a s
  | .snpc line a => Sys2Proof.Machine.execSnpc line a s
  | .snpi line a => Sys2Proof.Machine.execSnpi line a s
  | .rspi line a => Sys2Proof.Machine.execRspi line a s
  | .rsps line a => Sys2Proof.Machine.execRsps line a s
  | .rspwbp line a => Sys2Proof.Machine.execRspwbp line a s
  | .gntx line a => Sys2Proof.Machine.execGntx line a s
  | .ack line a => Sys2Proof.Machine.execAck line a s
  | .wback line a => Sys2Proof.Machine.execWback line a s
  | .cmp line a => Sys2Proof.Machine.execCmp line a s
  | .err t => Sys2Proof.Machine.execErr t s
  | .dats line a => Sys2Proof.Machine.execDats line a s
  | .date line a => Sys2Proof.Machine.execDate line a s
  | .datm line a => Sys2Proof.Machine.execDatm line a s
  | .snpd line a => Sys2Proof.Machine.execSnpd line a s
  | .wbd line a => Sys2Proof.Machine.execWbd line a s
  | .atomd line a => Sys2Proof.Machine.execAtomd line a s
  | .linkSleep a b => Sys2Proof.Machine.execLinkSleep a b s
  | .linkWake a b => Sys2Proof.Machine.execLinkWake a b s
  | .wakeTimeout a b => Sys2Proof.Machine.execWakeTimeout a b s
  | .deadDieDetection d => Sys2Proof.Machine.execDeadDieDetection d s
  | .linkWakeFailureReport a b => Sys2Proof.Machine.execLinkWakeFailureReport a b s
  | .abruptWarmReset d => Sys2Proof.Machine.execAbruptWarmReset d s
  | .warmResetQuiesce d => Sys2Proof.Machine.execWarmResetQuiesce d s
  | .warmResetCleanup d => Sys2Proof.Machine.execWarmResetCleanup d s
  | .plannedResetTimeout d => Sys2Proof.Machine.execPlannedResetTimeout d s
  | .warmResetRetrain d => Sys2Proof.Machine.execWarmResetRetrain d s
  | .warmResetReadmit d => Sys2Proof.Machine.execWarmResetReadmit d s
  | .hostSnpdata d sec => Sys2Proof.Machine.execHostSnpdata d sec s
  | .hostSnpinv d sec data => Sys2Proof.Machine.execHostSnpinv d sec data s
  | .hostSnpcur d sec => Sys2Proof.Machine.execHostSnpcur d sec s
  | .hostM2sRequest sec k => Sys2Proof.Machine.execHostM2sRequest sec k s
  | .birsp sec keep data => Sys2Proof.Machine.execBirsp sec keep data s
  | .cxlCacheResponse d sec k => Sys2Proof.Machine.execCxlCacheResponse d sec k s
  | .glicharunFlitReceived p seq ack crcOk nack m => Sys2Proof.Machine.execGlicharunFlitReceived p seq ack crcOk nack m s
  | .flitAckTimeout p n => Sys2Proof.Machine.execFlitAckTimeout p n s
  | .glicharunLinkTraining p peer => Sys2Proof.Machine.execGlicharunLinkTraining p peer s
  | .peerWindowAccess p => Sys2Proof.Machine.execPeerWindowAccess p s
  | .gpstReplayClear p v => Sys2Proof.Machine.execGpstReplayClear p v s
  | .powerUp imageFound => Sys2Proof.Machine.execPowerUp imageFound s
  | .clusterRelease => Sys2Proof.Machine.execClusterRelease s
  | .controlInterval r0 r1 r2 r3 => Sys2Proof.Machine.execControlInterval r0 r1 r2 r3 s
  | .dctlWarmReset d => Sys2Proof.Machine.execDctlWarmReset d s
  | .dctlGate d => Sys2Proof.Machine.execDctlGate d s
  | .dctlWake d => Sys2Proof.Machine.execDctlWake d s
  | .dbgdataRead => Sys2Proof.Machine.execDbgdataRead s
  | .correctedError d cls u => Sys2Proof.Machine.execCorrectedError d cls u s
  | .uncorrectedError e => Sys2Proof.Machine.execUncorrectedError e s
  | .unitFence u => Sys2Proof.Machine.execUnitFence u s
  | .getVersion => Sys2Proof.Machine.execGetVersion s
  | .getCapabilities v => Sys2Proof.Machine.execGetCapabilities v s
  | .negotiateAlgorithms v sha384 slhDsa => Sys2Proof.Machine.execNegotiateAlgorithms v sha384 slhDsa s
  | .getDigests v => Sys2Proof.Machine.execGetDigests v s
  | .getCertificate v slot off len => Sys2Proof.Machine.execGetCertificate v slot off len s
  | .challenge v slot nonce => Sys2Proof.Machine.execChallenge v slot nonce s
  | .getMeasurements v index => Sys2Proof.Machine.execGetMeasurements v index s
  | .pldmBaseDiscovery => Sys2Proof.Machine.execPldmBaseDiscovery s
  | .pldmSensorRead d q => Sys2Proof.Machine.execPldmSensorRead d q s
  | .requestUpdate => Sys2Proof.Machine.execRequestUpdate s
  | .passComponentTable => Sys2Proof.Machine.execPassComponentTable s
  | .updateComponent => Sys2Proof.Machine.execUpdateComponent s
  | .firmwareTransfer data => Sys2Proof.Machine.execFirmwareTransfer data s
  | .firmwareVerify => Sys2Proof.Machine.execFirmwareVerify s
  | .firmwareApply => Sys2Proof.Machine.execFirmwareApply s
  | .activateFirmware => Sys2Proof.Machine.execActivateFirmware s
  | .fenceListRemove u => Sys2Proof.Machine.execFenceListRemove u s
  | .recoveryMailboxWrite image => Sys2Proof.Machine.execRecoveryMailboxWrite image s
  | .linkAwake a b => Sys2Proof.Machine.execLinkAwake a b s
  | .glicharunPortDown p => Sys2Proof.Machine.execGlicharunPortDown p s
  | .pldmEventLogRead first n => Sys2Proof.Machine.execPldmEventLogRead first n s
  | .endpointIdAssignment eid => Sys2Proof.Machine.execEndpointIdAssignment eid s

end Sys2Proof.Machine
end

