-- ==== Sys2Proof/Machine/Sched.lean ====
section
/-! DEFINITION. Who acts in a step. An event of the agenda comes first. Otherwise a turn is taken: a quadrant issues, a
core's units or the hub do the first work that has an effect, or a cycle ends. The order of turns is `sched`, and a fixed
rotation when `sched` is empty. -/

namespace Sys2Proof.Machine

/-- An instruction word, as against an event. -/
def isWord (i : Instr) : Bool := !(encode i).isEmpty

/-- The warp in a slot issues its next word: a pending fault or a failed fetch traps in its place, the decoded instruction
takes effect, and a word that is no instruction is rejected. -/
def State.issueWarp (s : State) (c j : Nat) : Host.Outcome State Fault Refusal :=
  let s1 := s.issueFrom c j
  match s1.warpAt c j with
  | none => .next s1
  | some w =>
    if w.faultDue then .next (s1.deliverFault c j)
    else if s1.genFaultReady w then .next (s1.deliverGenFault c j)
    else
      let s2 := s1.touchWords c w
      match s1.fetchWords c w with
      | .error (f, va) => .next (s2.takeTrap (fetchTrap w f va))
      | .ok (w0, w1) =>
        match decodeWords w0 w1 with
        | .ok i => exec i s2
        | .error e => .next (rejectWord e w0 s2)

/-- The first warp of some slots whose next word need not wait for an access issues it (R442). DESIGN CHOICE, log 46. -/
def State.issueFirst (s : State) (c : Nat) (js : List Nat) : Host.Outcome State Fault Refusal :=
  match js with
  | [] => .next s
  | j :: rest =>
    match s.issueWarp c j with
    | .next t => if t.stalled then s.issueFirst c rest else .next t
    | r => r

/-- An event with its operands, as the machine's own units take it. -/
abbrev Act := State → Host.Outcome State Fault Refusal

/-! ### The work of a core's units -/

/-- The events of a core's warps. -/
def warpEvents (c j : Nat) : List Act :=
  [execTrapEntry c j, execVariableAluCompletion c j, execLdfeServe c j, execRegxCommit c j, execPendingFaultDelivery c j
   , execGeneratorFaultDelivery c j, execSpenterCommit c j, execSpleaveCommit c j, execSpdrainComplete c j]

/-- The events of a core's requests in flight. -/
def State.unitEvents (s : State) (c : Nat) : List Act :=
  let k := s.core c
  let ls := (List.range k.ls.length).flatMap fun n => [execLsCompletion c n, execErr (.access c n)]
  let copy := [Stream.sa, Stream.sb].flatMap fun x => [execCopyElement c x, execCopyGranuleFull c x 0, execCopyRequestCompletion c x]
  let arr := (List.range k.arr.length).flatMap fun n =>
    [execArrayRequestAccept c n, execAccumulatorPortAccess c n, execMatrixRequestCompletion c n, execFwRequestCompletion c n]
  let own := (List.range 16).flatMap fun i => [execCultureSpill c (BitVec.ofNat 4 i), execCultureFill c (BitVec.ofNat 4 i)]
  let pre := (List.range k.pre.length).flatMap fun n => [execDrainBudgetExpiry c n, execSaveBudgetExpiry c n]
  ls ++ copy ++ arr ++ own ++ pre

/-- The events of the groups on a core. -/
def State.groupEvents (s : State) (c : Nat) : List Act :=
  (s.groupsOn c).flatMap fun p =>
    let gid := p.1
    let g := p.2
    let n := ((s.launch g.launch).map (·.record.clSize)).getD 1
    let bars := (List.range 16).map fun b => execBarrierPhaseComplete gid (BitVec.ofNat 4 b)
    let cbars := (List.range 4).map fun b => execCbarPhaseComplete g.launch (g.index / n) (BitVec.ofNat 2 b)
    let spat := match s.fabrics.find? gid with
      | none => []
      | some f =>
        ((List.range f.nodes.length).flatMap fun i => [execNodeFiring gid i, execEoiFiring gid i]) ++
        f.gens.flatMap fun q => [execGeneratorRoundStart gid q.1, execGenElementRead gid q.1]
    bars ++ cbars ++ [execGbarCompletion g.launch c, execGroupDispatch gid, execGroupDeparture gid, execGroupRetire gid
      , execGroupSave gid] ++ spat

def State.coreEvents (s : State) (c : Nat) : List Act :=
  (s.core c).warps.flatMap (fun p => warpEvents c p.1) ++ s.unitEvents c ++ s.groupEvents c

/-! ### The work of the hub, the dies and the links -/

/-- The event that takes a message from the head of a channel. -/
def msgEvent (src dst : Nat) (f : FMsg) : List Act :=
  let l := BitVec.ofNat 34 f.line
  let a := BitVec.ofNat 2 src
  let b := BitVec.ofNat 2 dst
  match f.msg with
  | .req .rdS => [execRds l a]
  | .req .rdX => [execRdx l a]
  | .req .upg => [execUpg l a]
  | .req (.atom r) => [execAtomRequest l a r]
  | .req .blk => [execBlk l a]
  | .req .flush => [execFlush l a]
  | .req (.hostWr _ _ _) => []
  | .snpS => [execSnps l (BitVec.ofNat 3 dst)]
  | .snpC => [execSnpc l (BitVec.ofNat 3 dst)]
  | .snpI => [execSnpi l (BitVec.ofNat 3 dst)]
  | .rspI => [execRspi l a]
  | .rspS => [execRsps l a]
  | .rspWbP => [execRspwbp l a]
  | .ack => [execAck l (BitVec.ofNat 3 src)]
  | .snpD => [execSnpd l a]
  | .wbD => [execWbd l a]
  | .gntX => [execGntx l b]
  | .wbAck => [execWback l b]
  | .cmp => [execCmp l b]
  | .datS => [execDats l b]
  | .datE => [execDate l b]
  | .datM => [execDatm l b]
  | .atomD => [execAtomd l b]
  | .err => []

/-- A home takes or serves a request of the host. -/
def hostEvent (line : Nat) (r : Req) : Act := fun s => .next (s.ask line 4 r)

/-- The event that serves the oldest request waiting at a line's home. -/
def queueEvent (line : Nat) (e : LineSt) : List Act :=
  match e.queue with
  | [] => []
  | q :: _ => if q.a = 4 then [hostEvent line q.req] else msgEvent q.a 0 { line := line, msg := .req q.req }

def State.fabricEvents (s : State) : List Act :=
  let msgs := s.chans.flatMap fun p => match p.2.slots with
    | f :: _ =>
      let src := p.1 / 4 / 5
      let dst := p.1 / 4 % 5
      let toHost := dst == 4 && f.msg.chan != 1
      match src, f.msg with
      | 4, .req r => [hostEvent f.line r]
      | _, _ => if toHost then [] else msgEvent src dst f
    | [] => []
  let links := (List.range 5).flatMap fun a => (List.range 5).flatMap fun b =>
    [execLinkWake (BitVec.ofNat 3 a) (BitVec.ofNat 3 b), execLinkAwake (BitVec.ofNat 3 a) (BitVec.ofNat 3 b)
     , execWakeTimeout (BitVec.ofNat 3 a) (BitVec.ofNat 3 b)]
  msgs ++ s.lines.flatMap (fun p => queueEvent p.1 p.2) ++ links

def dieEvents : List Act :=
  (List.range 4).flatMap fun n =>
    let d := BitVec.ofNat 2 n
    [execLaunchAdmission d, execGroupResume d, execPreemptionRequest d, execWarmResetQuiesce d, execWarmResetCleanup d
     , execWarmResetRetrain d, execWarmResetReadmit d, execPlannedResetTimeout d, execDeadDieDetection d]

def State.launchEvents (s : State) : List Act :=
  s.launches.flatMap fun p =>
    (List.range 4).map (fun d => execChunkRequest p.1 (BitVec.ofNat 2 d)) ++
    (List.range p.2.grants.length).map (fun n => execGrantAcknowledged p.1 n) ++ [execLaunchCompletion p.1]

def queueEvents (q : BitVec 7) : List Act :=
  [execNopPacket q, execLaunch q, execWaitPacket q, execSignal q, execInval q, execIflush q, execWaitTimeout q]

def State.hubEvents (s : State) : List Act :=
  [execClusterRelease] ++ (s.queues.flatMap fun p => queueEvents (BitVec.ofNat 7 p.1)) ++ s.launchEvents ++ dieEvents ++
  (s.ports.flatMap fun p => [execPeerWindowAccess (BitVec.ofNat 5 p.1), execFlitAckTimeout (BitVec.ofNat 5 p.1) 0]) ++ s.fabricEvents

/-- The first event of a list that has an effect and need not wait; no effect when none has. -/
def State.firstWork (s : State) (es : List Act) : Host.Outcome State Fault Refusal :=
  match es with
  | [] => .next s
  | e :: rest =>
    match e s with
    | .next t => if t.stalled || t == s then s.firstWork rest else .next t
    | r => r

/-! ### Turns -/

/-- The number of turns in the rotation: five for each core, one for each die, two of the hub. -/
def turnCount : Nat := 512 * 5 + 6

/-- The turn at a place of the rotation. DESIGN CHOICE, log 3. -/
def turnAt (n : Nat) : Turn :=
  if n < 2560 then if n % 5 < 4 then .issue (n / 5) (n % 5) else .work (n / 5)
  else if n < 2564 then .die (n - 2560)
  else if n = 2564 then .hub
  else .hubWork

/-- The next turn, and the machine after taking it from the schedule. -/
def State.nextTurn (s : State) : Turn × State :=
  match s.sched with
  | t :: rest => (t, { s with sched := rest })
  | [] => (turnAt s.turn, { s with turn := (s.turn + 1) % turnCount })

/-- A turn. -/
def State.runTurn (s : State) (t : Turn) : Host.Outcome State Fault Refusal :=
  match t with
  | .issue c q => s.issueFirst c (s.issueSlots c q)
  | .work c => s.firstWork (s.coreEvents c)
  | .die d => .next (s.dieCycle d)
  | .hub => .next s.hubCycle
  | .hubWork => s.firstWork s.hubEvents

/-- An event of the agenda; a word is issued by warps alone, and an event whose access has to wait does not happen. DESIGN CHOICE,
logs 5 and 46. -/
def State.runEvent (s : State) (i : Instr) : Host.Outcome State Fault Refusal :=
  if isWord i then .next s
  else
    match exec i s with
    | .next t => .next (if t.stalled then s else t)
    | r => r

end Sys2Proof.Machine
end

