-- ==== Sys2Proof/Machine/Step.lean ====
section
/-! DEFINITION. One step of the machine, and the placing of one instruction where the next step fetches it. -/

namespace Sys2Proof.Machine

/-- One step: the agenda's next event, or a turn. No access waits at its start. -/
def step (s0 : State) : Host.Outcome State Fault Refusal :=
  let s := { s0 with stalled := false }
  match s.agenda with
  | i :: rest => ({ s with agenda := rest }).runEvent i
  | [] => s.nextTurn.2.runTurn s.nextTurn.1

/-- The launch record of the warp that `withFetchWord` places: one group of one warp with 256 registers. -/
def fetchRecord : LaunchRec :=
  { code := 0, codesz := 16, gx := 1, gy := 1, gz := 1, warps := 1, regs := 256, gmem := 0, steep := 0xFFFFFFFF, deadline := 0
    gclass := 2, clSize := 1, prio := 0, rect := none, dies := 1, restart := false, fresh := false, sigaddr := 64, sigval := 0
    listaddr := 0, listcap := 0, cults := [] }

/-- The launch of that warp. -/
def fetchLaunch (s : State) : Launch :=
  { id := 0, queue := 0, asid := 0, space := none, off := 0, record := fetchRecord, prio := 0, dies := [0], readAt := s.hub, preempt := false, irq := false
    constAt := 0, gphase := 0, fault := false, next := 1, grants := [], back := [], started := [0], retired := [], lost := []
    again := [], saved := [], freshDone := [], unadmit := false, killed := false }

/-- The group of that warp, in slot 0 of core 0. -/
def fetchGroup (lid : Nat) : Group :=
  { launch := lid, index := 0, cores := [0], gbase := 0, slots := [(0, 0)], retired := [], bars := [], run := .running, binds := []
    handles := [], rows := [], resumed := false, kept := [], gphase := 0 }

/-- The machine with a running warp in slot 0 of core 0 whose two next words, at address 0 of address space 0, are the low
128 bits of `w` less those from `nbits` on; core 0's instruction cache holds them. The next step issues them. -/
def State.withFetchWord (s : State) (nbits w : Nat) : State :=
  let v := w % 2 ^ nbits
  let lid := s.seq
  let gid := s.seq + 1
  let k := s.core 0
  let code (a : Nat) : IcEntry := { asid := 0, va := a, word := BitVec.ofNat 64 (v / 2 ^ (8 * a)) }
  let k1 := { k with
    released := true, fenced := false, cmode := .simt, issued := [], last := k.last.del 0
    warps := k.warps.put 0 (Warp.start gid 0 fetchRecord (0, 256) k.cycle)
    icache := code 0 :: code 8 :: k.icache.filter fun e => e.asid != 0 || (e.va != 0 && e.va != 8) }
  { s.setCore 0 k1 with
    boot := .on, agenda := [], sched := [.issue 0 0], seq := s.seq + 2
    launches := s.launches.put lid (fetchLaunch s), groups := s.groups.put gid (fetchGroup lid) }

end Sys2Proof.Machine
end

