-- ==== Sys2Proof/Safety.lean ====
section
/-! DEFINITION. The terms of the claims: when a word of a warp goes on to its own effect, the state after it, and what an
instruction leaves unchanged. -/

namespace Sys2Proof.Machine

/-! ### Words -/

/-- Nothing stands between a word and its own effect: `x` is the acting warp's context, the operand checks of row 6 hold
(`ok`), the effective mask is not empty (R76), no register that the word reads is tagged (R170), and the core is not in
spatial mode unless `ctl` says that a control thread may issue the word (R382). -/
structure Ready (s : State) (x : Ctx) (h : Hdr) (ok : Bool) (reads : List Rd) (ctl : Bool) : Prop where
  ctx : s.ctx = some x
  operands : ok = true
  lanes : x.w.eff h ≠ 0
  clean : ∀ r ∈ reads, r.tags x.w = []
  mode : s.spatial = true → ctl = true

/-- The state once a word has issued: the pc is past it, STALL counts, and its SET flag has risen (R67, R71). -/
def State.past (s : State) (x : Ctx) (h : Hdr) (len : Nat) (extra : Nat := 0) : State :=
  s.setWarp ((x.w.issued h len x.cycle extra).incFlag h.set)

/-- The state after a word that writes registers `lat` cycles later (R108). -/
def State.later (s : State) (x : Ctx) (h : Hdr) (len lat : Nat) (ws : List Wr) : State :=
  (s.past x h len).updWarp fun w => w.defer x.cycle lat ws

/-- An operand read as an integer type on a lane. -/
def Ctx.int (x : Ctx) (t : ITy) (o : Operand) (i : Nat) : Int := t.toInt (x.read (rdW (t.width == 64)) o i)

/-- Source 1 read as an integer type on a lane. -/
def Ctx.intSrc (x : Ctx) (t : ITy) (b : Src) (i : Nat) : Int := t.toInt (x.readSrc (rdW (t.width == 64)) b i)

/-- The conditions of a scalar-unit word with a scalar destination and two sources. -/
abbrev ScalarReady (s : State) (x : Ctx) (h : Hdr) (wd wa wb : Bool) (d a : Operand) (b : Src) : Prop :=
  Ready s x h (sDst wd d && sSrc wa a && sSrc1 wb b) (Rd.of a wa (x.w.eff h) :: Rd.src b wb (x.w.eff h)) true

/-- The same with a third source. -/
abbrev ScalarReady3 (s : State) (x : Ctx) (h : Hdr) (wd wa wb wc : Bool) (d a : Operand) (b : Src) (c : Operand) : Prop :=
  Ready s x h (sDst wd d && sSrc wa a && sSrc1 wb b && sSrc wc c)
    (Rd.of a wa (x.w.eff h) :: Rd.src b wb (x.w.eff h) ++ [Rd.of c wc (x.w.eff h)]) true

/-- The conditions of a scalar-unit word with one source operand. -/
abbrev ScalarReady1 (s : State) (x : Ctx) (h : Hdr) (wd wa : Bool) (d a : Operand) : Prop :=
  Ready s x h (sDst wd d && sSrc wa a) [Rd.of a wa (x.w.eff h)] true

/-- The conditions of a vector word with a destination of `nd` registers and two sources. -/
abbrev VectorReady (s : State) (x : Ctx) (h : Hdr) (nd : Nat) (wa wb : Bool) (d a : Operand) (b : Src) : Prop :=
  Ready s x h (vDst x.w.alloc nd d && vSrc x.w.alloc wa a && vSrc1 x.w.alloc wb b)
    (Rd.of a wa (x.w.eff h) :: Rd.src b wb (x.w.eff h)) false

/-- The same with a third source. -/
abbrev VectorReady3 (s : State) (x : Ctx) (h : Hdr) (nd : Nat) (wa wb wc : Bool) (d a : Operand) (b : Src) (c : Operand) :
    Prop :=
  Ready s x h (vDst x.w.alloc nd d && vSrc x.w.alloc wa a && vSrc1 x.w.alloc wb b && vSrc x.w.alloc wc c)
    (Rd.of a wa (x.w.eff h) :: Rd.src b wb (x.w.eff h) ++ [Rd.of c wc (x.w.eff h)]) false

/-- The conditions of a vector word with one source operand. -/
abbrev VectorReady1 (s : State) (x : Ctx) (h : Hdr) (nd : Nat) (wa : Bool) (d a : Operand) : Prop :=
  Ready s x h (vDst x.w.alloc nd d && vSrc x.w.alloc wa a) [Rd.of a wa (x.w.eff h)] false

/-! ### Frames -/

/-- The schedule and predicate fields of a word; none for an event. A pair word carries no predicate (R75). -/
def hdrOf (i : Instr) : Option Hdr :=
  match i with
  | .nop (h := h) .. => some h
  | .waitf (h := h) .. => some h
  | .yieldW (h := h) .. => some h
  | .regx (h := h) .. => some h
  | .srd (h := h) .. => some h
  | .swr (h := h) .. => some h
  | .modeSet (h := h) .. => some h
  | .modeClr (h := h) .. => some h
  | .modeWr (h := h) .. => some h
  | .bra (h := h) .. => some h
  | .brx (h := h) .. => some h
  | .split (h := h) .. => some h
  | .join (h := h) .. => some h
  | .loopr (h := h) .. => some h
  | .brk (h := h) .. => some h
  | .call (h := h) .. => some h
  | .callx (h := h) .. => some h
  | .ret (h := h) .. => some h
  | .exit (h := h) .. => some h
  | .bar (h := h) .. => some h
  | .bara (h := h) .. => some h
  | .barw (h := h) .. => some h
  | .cbar (h := h) .. => some h
  | .gbar (h := h) .. => some h
  | .waitm (h := h) .. => some h
  | .smov (h := h) .. => some h
  | .smovl (h := h) .. => some h
  | .sadd (h := h) .. => some h
  | .ssub (h := h) .. => some h
  | .smul (h := h) .. => some h
  | .smad (h := h) .. => some h
  | .sadd64 (h := h) .. => some h
  | .smad64 (h := h) .. => some h
  | .sand (h := h) .. => some h
  | .sor (h := h) .. => some h
  | .sxor (h := h) .. => some h
  | .sshl (h := h) .. => some h
  | .sshr (h := h) .. => some h
  | .ssra (h := h) .. => some h
  | .smin (h := h) .. => some h
  | .smax (h := h) .. => some h
  | .scmp (h := h) .. => some h
  | .ssel (h := h) .. => some h
  | .sbfe (h := h) .. => some h
  | .spopc (h := h) .. => some h
  | .sclz (h := h) .. => some h
  | .s2v (h := h) .. => some h
  | .v2s (h := h) .. => some h
  | .mov (h := h) .. => some h
  | .iadd (h := h) .. => some h
  | .iaddc (h := h) .. => some h
  | .isub (h := h) .. => some h
  | .imul (h := h) .. => some h
  | .imulh (h := h) .. => some h
  | .imad (h := h) .. => some h
  | .imin (h := h) .. => some h
  | .imax (h := h) .. => some h
  | .iabs (h := h) .. => some h
  | .iand (h := h) .. => some h
  | .ior (h := h) .. => some h
  | .ixor (h := h) .. => some h
  | .inot (h := h) .. => some h
  | .ishl (h := h) .. => some h
  | .ishr (h := h) .. => some h
  | .isra (h := h) .. => some h
  | .ifunnel (h := h) .. => some h
  | .ipopc (h := h) .. => some h
  | .iclz (h := h) .. => some h
  | .ibfe (h := h) .. => some h
  | .ibfi (h := h) .. => some h
  | .idp4 (h := h) .. => some h
  | .idp2 (h := h) .. => some h
  | .icmp (h := h) .. => some h
  | .isel (h := h) .. => some h
  | .fadd (h := h) .. => some h
  | .fsub (h := h) .. => some h
  | .fmul (h := h) .. => some h
  | .ffma (h := h) .. => some h
  | .fmin (h := h) .. => some h
  | .fmax (h := h) .. => some h
  | .fcmp (h := h) .. => some h
  | .fclass (h := h) .. => some h
  | .frnd (h := h) .. => some h
  | .frcp (h := h) .. => some h
  | .frsq (h := h) .. => some h
  | .fsqrt (h := h) .. => some h
  | .fexp2 (h := h) .. => some h
  | .flog2 (h := h) .. => some h
  | .fsin (h := h) .. => some h
  | .fcos (h := h) .. => some h
  | .ftanh (h := h) .. => some h
  | .hadd2 (h := h) .. => some h
  | .hmul2 (h := h) .. => some h
  | .hfma2 (h := h) .. => some h
  | .hmin2 (h := h) .. => some h
  | .hmax2 (h := h) .. => some h
  | .fdot2 (h := h) .. => some h
  | .cvt (h := h) .. => some h
  | .cvtSr (h := h) .. => some h
  | .pack (h := h) .. => some h
  | .unpack (h := h) .. => some h
  | .qnt (h := h) .. => some h
  | .dqnt (h := h) .. => some h
  | .rng (h := h) .. => some h
  | .shfl (h := h) .. => some h
  | .vote (h := h) .. => some h
  | .wred (h := h) .. => some h
  | .wscan (h := h) .. => some h
  | .matchW (h := h) .. => some h
  | .kand (h := h) .. => some h
  | .kor (h := h) .. => some h
  | .kxor (h := h) .. => some h
  | .knot (h := h) .. => some h
  | .kmov (h := h) .. => some h
  | .kpop (h := h) .. => some h
  | .ld (h := h) .. => some h
  | .st (h := h) .. => some h
  | .ldfe (h := h) .. => some h
  | .stfe (h := h) .. => some h
  | .atom (h := h) .. => some h
  | .atomc (h := h) .. => some h
  | .red (h := h) .. => some h
  | .fence (h := h) .. => some h
  | .pref (h := h) .. => some h
  | .cctlL1ev (h := h) .. => some h
  | .cctlL2ev (h := h) .. => some h
  | .cctlZero (h := h) .. => some h
  | .ifence (h := h) .. => some h
  | .wld (h := h) .. => some h
  | .wflip (h := h) .. => some h
  | .mms (h := h) .. => some h
  | .mmsq (h := h) .. => some h
  | .aclr (h := h) .. => some h
  | .ald (h := h) .. => some h
  | .ast (h := h) .. => some h
  | .adrn (h := h) .. => some h
  | .amov (h := h) .. => some h
  | .smx (h := h) .. => some h
  | .smxrInit (h := h) .. => some h
  | .smxrNorm (h := h) .. => some h
  | .smxrRd (h := h) .. => some h
  | .smxrWr (h := h) .. => some h
  | .cbind (h := h) .. => some h
  | .cbindSw (h := h) .. => some h
  | .crel (h := h) .. => some h
  | .crelPin (h := h) .. => some h
  | .crelUnpin (h := h) .. => some h
  | .delta (h := h) .. => some h
  | .dqry (h := h) .. => some h
  | .cspill (h := h) .. => some h
  | .cfill (h := h) .. => some h
  | .cstat (h := h) .. => some h
  | .cstatH (h := h) .. => some h
  | .cpy (h := h) .. => some h
  | .cpyz (h := h) .. => some h
  | .cpyg (h := h) .. => some h
  | .cpys (h := h) .. => some h
  | .cpyb (h := h) .. => some h
  | .cpyxSend (h := h) .. => some h
  | .cpyxFetch (h := h) .. => some h
  | .spenter (h := h) .. => some h
  | .spleave (h := h) .. => some h
  | .spstream (h := h) .. => some h
  | .spparamBase (h := h) .. => some h
  | .spparamExt (h := h) .. => some h
  | .spdrain (h := h) .. => some h
  | .spstatRect (h := h) .. => some h
  | .spstatGen (h := h) .. => some h
  | .spstatPos (h := h) .. => some h
  | .trap (h := h) .. => some h
  | .xret (h := h) .. => some h
  | .bkpt (h := h) .. => some h
  | .halt (h := h) .. => some h
  | .pairWord p => some (pairHdr p)
  | _ => none

/-- The registers that a word names as destinations: vector, scalar and predicate. -/
structure Dests where
  v : List Nat
  s : List Nat
  k : List Nat

/-- A register, or the even-odd pair of a 64-bit destination (R78). -/
def regsFrom (wide : Bool) (d : Operand) : List Nat := if wide then [regOf d, regOf d + 1] else [regOf d]

def Dests.vec (wide : Bool) (d : Operand) : Dests := { v := regsFrom wide d, s := [], k := [] }
def Dests.sca (wide : Bool) (d : Operand) : Dests := { v := [], s := regsFrom wide d, k := [] }
def Dests.pred (k : KField) : Dests := { v := [], s := [], k := [k.idx.toNat] }

/-- The destinations of the arithmetic words of fixed latency (spec/05); none for any other instruction. -/
def destsOf (i : Instr) : Option Dests :=
  match i with
  | .smov (t := t) (d := d) .. => some (.sca (bitWide t) d)
  | .smovl (d := d) .. => some (.sca true d)
  | .sadd (t := t) (d := d) .. => some (.sca (intWide t) d)
  | .ssub (t := t) (d := d) .. => some (.sca (intWide t) d)
  | .smul (t := t) (d := d) .. => some (.sca (intWide t) d)
  | .smad (t := t) (d := d) .. => some (.sca (intWide t) d)
  | .sadd64 (d := d) .. => some (.sca true d)
  | .smad64 (d := d) .. => some (.sca true d)
  | .sand (t := t) (d := d) .. => some (.sca (bitWide t) d)
  | .sor (t := t) (d := d) .. => some (.sca (bitWide t) d)
  | .sxor (t := t) (d := d) .. => some (.sca (bitWide t) d)
  | .sshl (t := t) (d := d) .. => some (.sca (bitWide t) d)
  | .sshr (t := t) (d := d) .. => some (.sca (bitWide t) d)
  | .ssra (t := t) (d := d) .. => some (.sca (bitWide t) d)
  | .smin (t := t) (d := d) .. => some (.sca (intWide t) d)
  | .smax (t := t) (d := d) .. => some (.sca (intWide t) d)
  | .scmp (kD := kD) .. => some (.pred kD)
  | .ssel (t := t) (d := d) .. => some (.sca (bitWide t) d)
  | .sbfe (t := t) (d := d) .. => some (.sca (bitWide t) d)
  | .spopc (d := d) .. => some (.sca false d)
  | .sclz (d := d) .. => some (.sca false d)
  | .s2v (t := t) (d := d) .. => some (.vec (bitWide t) d)
  | .v2s (t := t) (d := d) .. => some (.sca (bitWide t) d)
  | .mov (t := t) (d := d) .. => some (.vec (bitWide t) d)
  | .iadd (t := t) (d := d) .. => some (.vec (intWide t) d)
  | .iaddc (t := t) (d := d) (kC := kC) .. => some { Dests.vec (t == .n64) d with k := [kC.idx.toNat] }
  | .isub (t := t) (d := d) .. => some (.vec (intWide t) d)
  | .imul (t := t) (d := d) .. => some (.vec (intWide t) d)
  | .imulh (t := t) (d := d) .. => some (.vec (intWide t) d)
  | .imad (t := t) (d := d) .. => some (.vec (intWide t) d)
  | .imin (t := t) (d := d) .. => some (.vec (intWide t) d)
  | .imax (t := t) (d := d) .. => some (.vec (intWide t) d)
  | .iabs (t := t) (d := d) .. => some (.vec (t == .i64) d)
  | .iand (t := t) (d := d) .. => some (.vec (bitWide t) d)
  | .ior (t := t) (d := d) .. => some (.vec (bitWide t) d)
  | .ixor (t := t) (d := d) .. => some (.vec (bitWide t) d)
  | .inot (t := t) (d := d) .. => some (.vec (bitWide t) d)
  | .ishl (t := t) (d := d) .. => some (.vec (bitWide t) d)
  | .ishr (t := t) (d := d) .. => some (.vec (bitWide t) d)
  | .isra (t := t) (d := d) .. => some (.vec (bitWide t) d)
  | .ifunnel (t := t) (d := d) .. => some (.vec (bitWide t) d)
  | .ipopc (d := d) .. => some (.vec false d)
  | .iclz (d := d) .. => some (.vec false d)
  | .ibfe (t := t) (d := d) .. => some (.vec (bitWide t) d)
  | .ibfi (t := t) (d := d) .. => some (.vec (bitWide t) d)
  | .idp4 (d := d) .. => some (.vec false d)
  | .idp2 (d := d) .. => some (.vec false d)
  | .icmp (kD := kD) .. => some (.pred kD)
  | .isel (t := t) (d := d) .. => some (.vec (bitWide t) d)
  | .fadd (t := t) (d := d) .. => some (.vec (t == .f64) d)
  | .fsub (t := t) (d := d) .. => some (.vec (t == .f64) d)
  | .fmul (t := t) (d := d) .. => some (.vec (t == .f64) d)
  | .ffma (t := t) (d := d) .. => some (.vec (t == .f64) d)
  | .fmin (t := t) (d := d) .. => some (.vec (t == .f64) d)
  | .fmax (t := t) (d := d) .. => some (.vec (t == .f64) d)
  | .fcmp (kD := kD) .. => some (.pred kD)
  | .fclass (d := d) .. => some (.vec false d)
  | .frnd (t := t) (d := d) .. => some (.vec (t == .f64) d)
  | .hadd2 (d := d) .. => some (.vec false d)
  | .hmul2 (d := d) .. => some (.vec false d)
  | .hfma2 (d := d) .. => some (.vec false d)
  | .hmin2 (d := d) .. => some (.vec false d)
  | .hmax2 (d := d) .. => some (.vec false d)
  | .fdot2 (d := d) .. => some (.vec false d)
  | .cvt (cv := cv) (d := d) .. => some (.vec (((CvtTy.ofBits cv.tgt).map cvtWide).getD false) d)
  | .cvtSr (tgt := tgt) (d := d) .. => some (.vec (cvtWide tgt) d)
  | .pack (t := t) (d := d) .. => some (.vec (t == .b32) d)
  | .unpack (d := d) .. => some (.vec false d)
  | .qnt (d := d) .. => some (.vec false d)
  | .dqnt (d := d) .. => some (.vec false d)
  | .rng (d := d) .. => some { v := (List.range 4).map (regOf d + ·), s := [], k := [] }
  | .shfl (d := d) .. => some (.vec false d)
  | .vote (v := v) .. => some (match v with
    | .all k => .pred k
    | .any k => .pred k
    | .eq k => .pred k
    | .ballot d => .sca false d)
  | .wred (d := d) .. => some (if isSreg d then .sca false d else .vec false d)
  | .wscan (d := d) .. => some (.vec false d)
  | .matchW (d := d) .. => some (.vec false d)
  | .kand (kD := kD) .. => some (.pred kD)
  | .kor (kD := kD) .. => some (.pred kD)
  | .kxor (kD := kD) .. => some (.pred kD)
  | .knot (kD := kD) .. => some (.pred kD)
  | .kmov (v := v) .. => some (match v with
    | .k k _ => .pred k
    | .s _ k _ => .pred k
    | .toS d _ => .sca false d)
  | .kpop (d := d) .. => some (.sca false d)
  | .pairWord p => some { v := [p.adst.toNat, p.bdst.toNat], s := [], k := [] }
  | _ => none

/-- A register write goes to one of the destinations, and in a vector register to lanes of the mask alone. -/
def Wr.within (D : Dests) (m : LaneMask) (x : Wr) : Prop :=
  match x with
  | .v r lanes _ => r ∈ D.v ∧ lanes &&& ~~~m = 0
  | .s r _ => r ∈ D.s
  | .k r _ _ => r ∈ D.k
  | .x _ _ => False

/-- From s to t nothing has changed but the acting warp, in the acting core. -/
structure OnlyActingWarp (s t : State) : Prop where
  rest : t = { s with cores := t.cores }
  cores : ∀ c, c ≠ s.cur.1 → t.core c = s.core c
  core : ∃ ws, t.core s.cur.1 = { s.core s.cur.1 with warps := ws }
  warps : ∀ j, j ≠ s.cur.2 → t.warpAt s.cur.1 j = s.warpAt s.cur.1 j

/-- The canonical form of memory: addresses strictly rise, and no entry holds what an unlisted address reads as. -/
def Memory.wf (m : List Host.Cell) : Bool := SMap.wf 0 m

end Sys2Proof.Machine
end

