-- ==== Sys2Proof/Certificates/Slice0/Obligations.lean ====
section
/-! DEFINITION. The statements for the provers. -/

open Sys2Proof Sys2Proof.Machine

/-! ### The scalar and vector arithmetic units -/

/-- R136, R131, R108: the scalar integer instructions write their result in Table AL-3 2 cycles after issue, or 4 for SMUL,
SMAD, SADD64 and SMAD64; SCMP writes all 32 bits of its predicate. -/
def Obligations.ScalarIntegerResults : Prop :=
  ∀ (s : Machine.State) (x : Ctx) (h : Hdr) (l : Bool) (d a c : Operand) (b : Src) (kD : KField),
    (∀ t : IntTy,
      let w := intWide t
      let ty := ityOf t
      let A := x.int ty a 0
      let B := x.intSrc ty b 0
      (ScalarReady s x h w w w d a b →
        (∀ sat, exec (.sadd h l t sat d a b) s =
          .next (s.later x h (lenOf l) 2 (sWriteW w (regOf d) (if sat then ty.sat (A + B) else ty.wrap (A + B))))) ∧
        (∀ sat, exec (.ssub h l t sat d a b) s =
          .next (s.later x h (lenOf l) 2 (sWriteW w (regOf d) (if sat then ty.sat (A - B) else ty.wrap (A - B))))) ∧
        exec (.smul h l t d a b) s = .next (s.later x h (lenOf l) 4 (sWriteW w (regOf d) (ty.wrap (A * B)))) ∧
        exec (.smin h l t d a b) s = .next (s.later x h (lenOf l) 2 (sWriteW w (regOf d) (ty.wrap (min A B)))) ∧
        exec (.smax h l t d a b) s = .next (s.later x h (lenOf l) 2 (sWriteW w (regOf d) (ty.wrap (max A B))))) ∧
      (ScalarReady3 s x h w w w w d a b c →
        exec (.smad h t d a b c) s =
          .next (s.later x h 16 4 (sWriteW w (regOf d) (ty.wrap (A * B + x.int ty c 0))))) ∧
      (Ready s x h (kOk kD && sSrc w a && sSrc1 w b) (Rd.of a w (x.w.eff h) :: Rd.src b w (x.w.eff h)) true →
        ∀ cc, exec (.scmp h t cc kD a b) s =
          .next (s.later x h 16 2 [.k kD.idx.toNat fullMask (if icond cc A B then fullMask else 0)]))) ∧
    (∀ t : WideTy,
      (ScalarReady s x h true true false d a b →
        exec (.sadd64 h l t d a b) s = .next (s.later x h (lenOf l) 4
          (sWriteW true (regOf d) (n64T.wrap (x.int n64T a 0 + x.intSrc (wideTy t) b 0))))) ∧
      (ScalarReady3 s x h true false false true d a b c →
        exec (.smad64 h t d a b c) s = .next (s.later x h 16 4
          (sWriteW true (regOf d) (n64T.wrap (x.int (wideTy t) a 0 * x.intSrc (wideTy t) b 0 + x.int n64T c 0))))))

/-- R136, R139, R108: the scalar moves, bit operations, shifts, selections, field extractions and counts write the result of
Table AL-3 2 cycles after issue. -/
def Obligations.ScalarBitResults : Prop :=
  ∀ (s : Machine.State) (x : Ctx) (h : Hdr) (l : Bool) (d a : Operand) (b : Src) (kC : KField) (imm : Word) (t : BitTy),
    let w := bitWide t
    let n := widthW w
    let A := x.read (rdW w) a 0
    let B := x.readSrc (rdW w) b 0
    let N := x.n32Src b
    (Ready s x h (sDst w d && sSrc1 w b) (Rd.src b w (x.w.eff h)) true →
      exec (.smov h l t d b) s = .next (s.later x h (lenOf l) 2 (sWriteW w (regOf d) B))) ∧
    (ScalarReady1 s x h true false d a →
      exec (.smovl h d a imm) s =
        .next (s.later x h 16 2 (pairWrites (regOf d) (imm ++ (x.read .i32 a 0).setWidth 32) .clean))) ∧
    (ScalarReady s x h w w w d a b →
      exec (.sand h l t d a b) s = .next (s.later x h (lenOf l) 2 (sWriteW w (regOf d) (A &&& B))) ∧
      exec (.sor h l t d a b) s = .next (s.later x h (lenOf l) 2 (sWriteW w (regOf d) (A ||| B))) ∧
      exec (.sxor h l t d a b) s = .next (s.later x h (lenOf l) 2 (sWriteW w (regOf d) (A ^^^ B))) ∧
      (kOk kC = true → exec (.ssel h t d a b kC) s =
        .next (s.later x h 16 2 (sWriteW w (regOf d) (if x.k kC ≠ 0 then A else B))))) ∧
    (ScalarReady s x h w w false d a b →
      exec (.sshl h l t d a b) s = .next (s.later x h (lenOf l) 2 (sWriteW w (regOf d) (shlW n A N))) ∧
      exec (.sshr h l t d a b) s = .next (s.later x h (lenOf l) 2 (sWriteW w (regOf d) (shrW n A N))) ∧
      exec (.ssra h l t d a b) s = .next (s.later x h (lenOf l) 2 (sWriteW w (regOf d) (sraW n A N))) ∧
      (∀ sx, exec (.sbfe h l t sx d a b) s = .next (s.later x h (lenOf l) 2 (sWriteW w (regOf d) (bfe n sx A N))))) ∧
    (ScalarReady1 s x h false w d a →
      exec (.spopc h t d a) s =
        .next (s.later x h 8 2 [.s (regOf d) { val := BitVec.ofNat 32 (popCount n A.toNat), tag := .clean }]) ∧
      exec (.sclz h t d a) s =
        .next (s.later x h 8 2 [.s (regOf d) { val := BitVec.ofNat 32 (clz n A.toNat), tag := .clean }]))

/-- R138, R108: the vector integer arithmetic writes the result of Table AL-4 on every lane of the effective mask, after the
latency of Table IU-1 (4, 6 for the multiplications, 8 in 64-bit types). -/
def Obligations.VectorIntegerResults : Prop :=
  ∀ (s : Machine.State) (x : Ctx) (h : Hdr) (l : Bool) (d a c : Operand) (b : Src) (kD kC : KField),
    let eff := x.w.eff h
    (∀ t : IntTy,
      let w := intWide t
      let ty := ityOf t
      let A := x.int ty a
      let B := x.intSrc ty b
      let L := if w then 8 else 4
      let M := if w then 8 else 6
      (VectorReady s x h (regsOf w) w w d a b →
        (∀ sat, exec (.iadd h l t sat d a b) s = .next (s.later x h (lenOf l) L
          (vWriteW w (regOf d) eff fun i => if sat then ty.sat (A i + B i) else ty.wrap (A i + B i)))) ∧
        (∀ sat, exec (.isub h l t sat d a b) s = .next (s.later x h (lenOf l) L
          (vWriteW w (regOf d) eff fun i => if sat then ty.sat (A i - B i) else ty.wrap (A i - B i)))) ∧
        exec (.imul h l t d a b) s = .next (s.later x h (lenOf l) M (vWriteW w (regOf d) eff fun i => ty.wrap (A i * B i))) ∧
        exec (.imulh h l t d a b) s = .next (s.later x h (lenOf l) M
          (vWriteW w (regOf d) eff fun i => ty.wrap (A i * B i / (2 ^ ty.width : Nat)))) ∧
        exec (.imin h l t d a b) s =
          .next (s.later x h (lenOf l) L (vWriteW w (regOf d) eff fun i => ty.wrap (min (A i) (B i)))) ∧
        exec (.imax h l t d a b) s =
          .next (s.later x h (lenOf l) L (vWriteW w (regOf d) eff fun i => ty.wrap (max (A i) (B i))))) ∧
      (VectorReady3 s x h (regsOf w) w w w d a b c →
        exec (.imad h t d a b c) s = .next (s.later x h 16 M
          (vWriteW w (regOf d) eff fun i => ty.wrap (A i * B i + x.int ty c i)))) ∧
      (Ready s x h (kOk kD && vSrc x.w.alloc w a && vSrc1 x.w.alloc w b) (Rd.of a w eff :: Rd.src b w eff) false →
        ∀ cc, exec (.icmp h t cc kD a b) s = .next (s.later x h 16 L
          [.k kD.idx.toNat eff (maskOf fun i => icond cc (A i) (B i))]))) ∧
    (∀ t : CarryTy,
      let w := t == .n64
      let ty : ITy := { width := widthW w, signed := false }
      let sum (i : Nat) : Int := x.int ty a i + x.intSrc ty b i + (if laneOn (x.k kC) i then 1 else 0)
      VectorReady s x h (regsOf w) w w d a b → kOk kC = true →
        exec (.iaddc h t d a b kC) s = .next (s.later x h 16 (if w then 8 else 4)
          (vWriteW w (regOf d) eff (fun i => ty.wrap (sum i)) ++
            [.k kC.idx.toNat eff (maskOf fun i => decide (sum i ≥ (2 ^ ty.width : Nat)))]))) ∧
    (∀ t : AbsTy,
      let w := t == .i64
      let ty : ITy := { width := widthW w, signed := true }
      VectorReady1 s x h (regsOf w) w d a →
        ∀ sat, exec (.iabs h l t sat d a) s = .next (s.later x h (lenOf l) (if w then 8 else 4)
          (vWriteW w (regOf d) eff fun i =>
            if sat then ty.sat (x.int ty a i).natAbs else ty.wrap (x.int ty a i).natAbs)))

/-- R138 to R140, R108: the vector moves, bit operations, shifts, fields, counts, selections and dot products write the result
of Table AL-4 on every lane of the effective mask. -/
def Obligations.VectorBitResults : Prop :=
  ∀ (s : Machine.State) (x : Ctx) (h : Hdr) (l : Bool) (d a c : Operand) (b : Src) (kC : KField),
    let eff := x.w.eff h
    (∀ t : BitTy,
      let w := bitWide t
      let n := widthW w
      let L := if w then 8 else 4
      let A := x.read (rdW w) a
      let B := x.readSrc (rdW w) b
      let N (i : Nat) : Nat := x.n32Src b i
      (Ready s x h (vDst x.w.alloc (regsOf w) d && vSrc1 x.w.alloc w b) (Rd.src b w eff) false →
        exec (.mov h l t d b) s = .next (s.later x h (lenOf l) L (vWriteW w (regOf d) eff B))) ∧
      (VectorReady s x h (regsOf w) w w d a b →
        exec (.iand h l t d a b) s = .next (s.later x h (lenOf l) L (vWriteW w (regOf d) eff fun i => A i &&& B i)) ∧
        exec (.ior h l t d a b) s = .next (s.later x h (lenOf l) L (vWriteW w (regOf d) eff fun i => A i ||| B i)) ∧
        exec (.ixor h l t d a b) s = .next (s.later x h (lenOf l) L (vWriteW w (regOf d) eff fun i => A i ^^^ B i)) ∧
        (kOk kC = true → exec (.isel h t d a b kC) s = .next (s.later x h 16 L
          (vWriteW w (regOf d) eff fun i => if laneOn (x.k kC) i then A i else B i)))) ∧
      (VectorReady s x h (regsOf w) w false d a b →
        exec (.ishl h l t d a b) s = .next (s.later x h (lenOf l) L (vWriteW w (regOf d) eff fun i => shlW n (A i) (N i))) ∧
        exec (.ishr h l t d a b) s = .next (s.later x h (lenOf l) L (vWriteW w (regOf d) eff fun i => shrW n (A i) (N i))) ∧
        exec (.isra h l t d a b) s = .next (s.later x h (lenOf l) L (vWriteW w (regOf d) eff fun i => sraW n (A i) (N i))) ∧
        (∀ sx, exec (.ibfe h l t sx d a b) s =
          .next (s.later x h (lenOf l) L (vWriteW w (regOf d) eff fun i => bfe n sx (A i) (N i))))) ∧
      (VectorReady3 s x h (regsOf w) w w false d a b c →
        exec (.ifunnel h t d a b c) s = .next (s.later x h 16 L
          (vWriteW w (regOf d) eff fun i => funnel n (A i) (B i) (x.n32 c i))) ∧
        exec (.ibfi h t d a b c) s = .next (s.later x h 16 L
          (vWriteW w (regOf d) eff fun i => bfi n (A i) (B i) (x.n32 c i)))) ∧
      (VectorReady1 s x h (regsOf w) w d a →
        exec (.inot h t d a) s = .next (s.later x h 8 L (vWriteW w (regOf d) eff fun i => ~~~(A i)))) ∧
      (VectorReady1 s x h 1 w d a →
        exec (.ipopc h t d a) s = .next (s.later x h 8 L
          (vWrite (regOf d) eff fun i => BitVec.ofNat 64 (popCount n (A i).toNat))) ∧
        exec (.iclz h t d a) s = .next (s.later x h 8 L
          (vWrite (regOf d) eff fun i => BitVec.ofNat 64 (clz n (A i).toNat))))) ∧
    (VectorReady3 s x h 1 false false false d a b c → ∀ sg sat,
      exec (.idp4 h sg sat d a b c) s = .next (s.later x h 16 6
        (vWrite (regOf d) eff fun i => dotProduct sg sat 4 8 (x.read .i32 a i) (x.readSrc .i32 b i) (x.read .i32 c i))) ∧
      exec (.idp2 h sg sat d a b c) s = .next (s.later x h 16 6
        (vWrite (regOf d) eff fun i => dotProduct sg sat 2 16 (x.read .i32 a i) (x.readSrc .i32 b i) (x.read .i32 c i))))

/-- R141 to R143, R131, R108: the vector float instructions of fixed latency. Under FLUSH, operands and results are flushed;
FCMP and FCLASS are not (R42). -/
def Obligations.VectorFloatResults : Prop :=
  ∀ (s : Machine.State) (x : Ctx) (h : Hdr) (l : Bool) (t : FTy) (d a c : Operand) (b : Src) (kD : KField),
    let f := fmtOfF t
    let w := f == .f64
    let eff := x.w.eff h
    let L := if w then 8 else 4
    let fl (n : Nat) : Nat := if x.w.mode.getLsbD 0 then f.flush n else n
    let A (i : Nat) : Nat := (x.read (.f f) a i).toNat
    let B (i : Nat) : Nat := (x.readSrc (.f f) b i).toNat
    let C (i : Nat) : Nat := (x.read (.f f) c i).toNat
    let val (n : Nat) : Ex := f.toEx (fl n)
    let out (rm : RM) (e : Ex) : DWord := BitVec.ofNat 64 (fl (round e f rm false))
    (VectorReady s x h (regsOf w) w w d a b →
      (∀ rm, exec (.fadd h l t rm d a b) s =
        .next (s.later x h (lenOf l) L (vWriteW w (regOf d) eff fun i => out rm (sumEx rm [val (A i), val (B i)])))) ∧
      (∀ rm, exec (.fsub h l t rm d a b) s =
        .next (s.later x h (lenOf l) L (vWriteW w (regOf d) eff fun i => out rm (sumEx rm [val (A i), (val (B i)).negate])))) ∧
      (∀ rm, exec (.fmul h l t rm d a b) s =
        .next (s.later x h (lenOf l) L (vWriteW w (regOf d) eff fun i => out rm ((val (A i)).mul (val (B i)))))) ∧
      exec (.fmin h l t d a b) s = .next (s.later x h (lenOf l) L
        (vWriteW w (regOf d) eff fun i => BitVec.ofNat 64 (fl (minMaxEnc f false (fl (A i)) (fl (B i)))))) ∧
      exec (.fmax h l t d a b) s = .next (s.later x h (lenOf l) L
        (vWriteW w (regOf d) eff fun i => BitVec.ofNat 64 (fl (minMaxEnc f true (fl (A i)) (fl (B i))))))) ∧
    (VectorReady3 s x h (regsOf w) w w w d a b c →
      ∀ rm, exec (.ffma h t rm d a b c) s = .next (s.later x h 16 L
        (vWriteW w (regOf d) eff fun i => out rm (sumEx rm [(val (A i)).mul (val (B i)), val (C i)])))) ∧
    (Ready s x h (kOk kD && vSrc x.w.alloc w a && vSrc1 x.w.alloc w b) (Rd.of a w eff :: Rd.src b w eff) false →
      ∀ cc, exec (.fcmp h t cc kD a b) s = .next (s.later x h 16 L
        [.k kD.idx.toNat eff (maskOf fun i => condEx cc (f.toEx (A i)) (f.toEx (B i)))])) ∧
    (VectorReady1 s x h (regsOf w) w d a →
      ∀ rm, exec (.frnd h l t rm d a) s = .next (s.later x h (lenOf l) L
        (vWriteW w (regOf d) eff fun i => BitVec.ofNat 64 (fl (roundIntegral f rm (fl (A i))))))) ∧
    (VectorReady1 s x h 1 w d a →
      exec (.fclass h t d a) s = .next (s.later x h 8 L (vWrite (regOf d) eff fun i => BitVec.ofNat 64 (classMask f (A i)))))

/-- R134, R141, R144: the float instructions of variable latency enter the queue of the lanes with their result of R54 on
every lane of the effective mask; when they complete is a choice. -/
def Obligations.SpecialFunctionResults : Prop :=
  ∀ (s : Machine.State) (x : Ctx) (h : Hdr) (l : Bool) (d a : Operand),
    let eff := x.w.eff h
    let queued (len : Nat) (ws : List Wr) : Machine.State :=
      let p := (s.past x h len).choose
      p.2.setCurCore { p.2.curCore with alu := p.2.curCore.alu ++
        [{ gid := x.w.gid, wid := x.w.wid, ord := x.w.order + 1, due := x.cycle + 1 + p.1, writes := ws, flag := h.set }] }
    let fl (f : Fmt) (n : Nat) : Nat := if x.w.mode.getLsbD 0 then f.flush n else n
    let res (f : Fmt) (g : Nat → Nat) : List Wr :=
      vWriteW (f == .f64) (regOf d) eff fun i => BitVec.ofNat 64 (fl f (g (fl f (x.read (.f f) a i).toNat)))
    (VectorReady1 s x h 1 false d a →
      exec (.frcp h d a) s = .next (queued 8 (res .f32 rcpAlg)) ∧
      exec (.frsq h d a) s = .next (queued 8 (res .f32 rsqrtAlg)) ∧
      exec (.fexp2 h d a) s = .next (queued 8 (res .f32 exp2Alg)) ∧
      exec (.flog2 h d a) s = .next (queued 8 (res .f32 log2Alg)) ∧
      exec (.fsin h d a) s = .next (queued 8 (res .f32 sinAlg)) ∧
      exec (.fcos h d a) s = .next (queued 8 (res .f32 cosAlg)) ∧
      exec (.ftanh h d a) s = .next (queued 8 (res .f32 tanhAlg))) ∧
    (∀ (t : SqTy) (rm : RM),
      let f := fmtOfSq t
      VectorReady1 s x h (regsOf (f == .f64)) (f == .f64) d a →
        exec (.fsqrt h l t rm d a) s = .next (queued (lenOf l) (res f fun n => sqrtRound f rm (f.toEx n))))

/-- R145, R108: the packed forms treat each half of their operands on its own, and FDOT2 rounds an exact sum of two products
and an FP32 value once; 4 cycles. -/
def Obligations.PackedResults : Prop :=
  ∀ (s : Machine.State) (x : Ctx) (h : Hdr) (l : Bool) (t : HTy) (d a c : Operand) (b : Src),
    let f := fmtOfH t
    let eff := x.w.eff h
    let fl (g : Fmt) (n : Nat) : Nat := if x.w.mode.getLsbD 0 then g.flush n else n
    let A (i : Nat) : Nat := (x.read (.pair f) a i).toNat
    let B (i : Nat) : Nat := (x.readSrc (.pair f) b i).toNat
    let C (i : Nat) : Nat := (x.read (.pair f) c i).toNat
    let val (n : Nat) : Ex := f.toEx (fl f n)
    let rnd (rm : RM) (e : Ex) : Nat := fl f (round e f rm false)
    let both (lo hi : Nat) : DWord := BitVec.ofNat 64 (lo + 65536 * hi)
    (VectorReady s x h 1 false false d a b →
      (∀ rm, exec (.hadd2 h l t rm d a b) s = .next (s.later x h (lenOf l) 4 (vWrite (regOf d) eff fun i =>
        both (rnd rm (sumEx rm [val (lo16 (A i)), val (lo16 (B i))])) (rnd rm (sumEx rm [val (hi16 (A i)), val (hi16 (B i))]))))) ∧
      (∀ rm, exec (.hmul2 h l t rm d a b) s = .next (s.later x h (lenOf l) 4 (vWrite (regOf d) eff fun i =>
        both (rnd rm ((val (lo16 (A i))).mul (val (lo16 (B i))))) (rnd rm ((val (hi16 (A i))).mul (val (hi16 (B i)))))))) ∧
      exec (.hmin2 h l t d a b) s = .next (s.later x h (lenOf l) 4 (vWrite (regOf d) eff fun i =>
        both (fl f (minMaxEnc f false (fl f (lo16 (A i))) (fl f (lo16 (B i)))))
          (fl f (minMaxEnc f false (fl f (hi16 (A i))) (fl f (hi16 (B i))))))) ∧
      exec (.hmax2 h l t d a b) s = .next (s.later x h (lenOf l) 4 (vWrite (regOf d) eff fun i =>
        both (fl f (minMaxEnc f true (fl f (lo16 (A i))) (fl f (lo16 (B i)))))
          (fl f (minMaxEnc f true (fl f (hi16 (A i))) (fl f (hi16 (B i)))))))) ∧
    (VectorReady3 s x h 1 false false false d a b c →
      (∀ rm, exec (.hfma2 h t rm d a b c) s = .next (s.later x h 16 4 (vWrite (regOf d) eff fun i =>
        both (rnd rm (sumEx rm [(val (lo16 (A i))).mul (val (lo16 (B i))), val (lo16 (C i))]))
          (rnd rm (sumEx rm [(val (hi16 (A i))).mul (val (hi16 (B i))), val (hi16 (C i))]))))) ∧
      (∀ rm, exec (.fdot2 h t rm d a b c) s = .next (s.later x h 16 4 (vWrite (regOf d) eff fun i =>
        BitVec.ofNat 64 (fl .f32 (round (sumEx rm [(val (lo16 (A i))).mul (val (lo16 (B i))),
          (val (hi16 (A i))).mul (val (hi16 (B i))), f32Ex (fl .f32 (x.read (.f .f32) c i).toNat)]) .f32 rm false))))))

/-- R146 to R149, R155, R108: conversions, packing, quantisation and random bits on every lane of the effective mask. That RNG
takes a special register as its key is the model's choice (log entry 22). -/
def Obligations.ConversionResults : Prop :=
  ∀ (s : Machine.State) (x : Ctx) (h : Hdr) (l : Bool) (d a p q : Operand) (b : Src) (imm : Word),
    let eff := x.w.eff h
    let A := x.w.alloc
    let bits (ty : ITy) (o : Operand) (i pos : Nat) : Int := ty.toInt (BitVec.ofNat 64 ((x.read .i32 o i).toNat / 2 ^ pos))
    (∀ (rm : RM) (sat : Bool) (src tgt : CvtTy), VectorReady1 s x h (regsOf (cvtWide tgt)) (cvtWide src) d a →
      exec (.cvt h rm { sat := sat, src := src.bits, tgt := tgt.bits } d a) s = .next (s.later x h 8 4
        (vWriteW (cvtWide tgt) (regOf d) eff fun i => cvtValue rm sat src tgt (x.read (cvtRd src) a i)))) ∧
    (∀ (half : RndHalf) (tgt src : CvtTy) (sat : Bool) (f g : Fmt), cvtKind tgt = .flt f → cvtKind src = .flt g →
      Ready s x h (vDst A (regsOf (f == .f64)) d && vSrc A (g == .f64) a && vSrc A false p)
        [Rd.of a (g == .f64) eff, Rd.of p false eff] false →
      exec (.cvtSr h half tgt src sat d a p) s = .next (s.later x h 16 4
        (vWriteW (f == .f64) (regOf d) eff fun i => BitVec.ofNat 64
          (roundSr (g.toEx (x.read (.f g) a i).toNat) f
            (if half = .lo then x.n32 p i % 65536 else x.n32 p i / 65536 % 65536) sat)))) ∧
    (VectorReady s x h 1 false false d a b →
      exec (.pack h l .b16 d a b) s = .next (s.later x h (lenOf l) 4 (vWrite (regOf d) eff fun i =>
        BitVec.ofNat 64 (x.n32Src b i % 65536 * 65536 + x.n32 a i % 65536))) ∧
      (∀ t : UnpackTy,
        let k := if t = .n16 ∨ t = .i16 then 16 else 8
        let ty : ITy := { width := k, signed := t == .i16 || t == .i8 }
        exec (.unpack h l t d a b) s = .next (s.later x h (lenOf l) 4 (vWrite (regOf d) eff fun i =>
          intResult ty (bits ty a i (k * (x.n32Src b i % (32 / k))))))) ∧
      (∀ t : QTy, exec (.qnt h l t d a b) s = .next (s.later x h (lenOf l) 6 (vWrite (regOf d) eff fun i =>
        i32T.wrap (quant (x.read (.f .f32) a i).toNat (qParam t (x.n32Src b i)).1 (qParam t (x.n32Src b i)).2 (qBits t)))))) ∧
    (VectorReady s x h 2 false false d a b →
      exec (.pack h l .b32 d a b) s = .next (s.later x h (lenOf l) 4 (vWrite64 (regOf d) eff fun i =>
        BitVec.ofNat 64 (x.n32Src b i * 2 ^ 32 + x.n32 a i)))) ∧
    (Ready s x h (vDst A 1 d && vSrc A false a && vSrc A false p && vSrc A false q)
        [Rd.of a false eff, Rd.of p false eff, Rd.of q false eff] false →
      ∀ t : QTy, exec (.dqnt h t d a p q) s = .next (s.later x h 16 6 (vWrite (regOf d) eff fun i =>
        BitVec.ofNat 64 (dequant (bits { width := qBits t, signed := true } a i (qBits t * (x.n32 q i % (32 / qBits t))))
          (qParam t (x.n32 p i)).2 (qParam t (x.n32 p i)).1)))) ∧
    (Ready s x h (vDst A 4 d && vSrc A true a && vSrc A false p) [Rd.of a true eff, Rd.of p false eff] false →
      exec (.rng h l d a p imm) s = .next (s.later x h (lenOf l) 8
        (let out (i : Nat) : BitVec 128 := rngBlock (x.read .i64 a i)
            (imm ++ (BitVec.ofNat 32 x.groupId ++ (BitVec.ofNat 32 (32 * x.w.wid + i) ++ BitVec.ofNat 32 (x.n32 p i))));
          [.v (regOf d) eff (tabVal fun i => (out i).extractLsb' 0 32),
           .v (regOf d + 1) eff (tabVal fun i => (out i).extractLsb' 32 32),
           .v (regOf d + 2) eff (tabVal fun i => (out i).extractLsb' 64 32),
           .v (regOf d + 3) eff (tabVal fun i => (out i).extractLsb' 96 32)])))

/-- R137, R150 to R153, R108: the moves between scalars and lanes and the lane operations. A source lane is read whether or
not it is active, and a tagged source lane traps (R170). A reduction or scan reads its source as its type, so that an inline
integer constant is converted for .F32 (R81, R129). What MIN and MAX give over lanes that are all NaN, one lane alone among them,
is the model's reading (log entry 23), and that S2V of LANEID gives the selected lane's number is its choice (log entry 15). -/
def Obligations.LaneOperationResults : Prop :=
  ∀ (s : Machine.State) (x : Ctx) (h : Hdr) (l : Bool) (d a : Operand) (b : Src) (kD kS : KField),
    let eff := x.w.eff h
    let A := x.w.alloc
    let val (ty : TypeField) (i : Nat) : Nat := (x.read (if ty.ty = 2 then .f .f32 else .i32) a i).toNat
    (∀ t : BitTy,
      let w := bitWide t
      let i := x.n32Src b % 32
      (Ready s x h (vDst A (regsOf w) d && !isVec a && vSrc A w a && sSrc1 false b)
          (Rd.of a w eff :: Rd.src b false eff) false →
        exec (.s2v h l t d a b) s = .next (s.later x h (lenOf l) 2
          (vWriteW w (regOf d) (eff &&& (1#32 <<< i)) fun _ => x.read (rdW w) a i))) ∧
      (Ready s x h (sDst w d && isVec a && vSrc A w a && sSrc1 false b) (Rd.src b false eff) false →
        (Rd.of a w (1#32 <<< i)).tags x.w = [] →
        exec (.v2s h l t d a b) s = .next (s.later x h (lenOf l) 6 (sWriteW w (regOf d) (x.read (rdW w) a i)))) ∧
      (VectorReady1 s x h 1 w d a →
        exec (.matchW h t d a) s = .next (s.later x h 8 6 (vWrite (regOf d) eff fun i =>
          (eff &&& maskOf fun j => x.read (rdW w) a j == x.read (rdW w) a i).setWidth 64)))) ∧
    (Ready s x h (vDst A 1 d && vSrc A false a && vSrc1 A false b) (Rd.src b false eff) false → ∀ m : ShflMode,
      let src (i : Nat) : Nat := (shflLane m i (x.n32Src b i)).getD i
      (∀ i ∈ lanesOf eff, ∀ r, a = .v r → (x.w.lane r.toNat (src i)).tag = .clean) →
      (∀ r, a = .s r → (x.w.sreg r.val).tag = .clean) →
        exec (.shfl h l m d a b) s = .next (s.later x h (lenOf l) 6 (vWrite (regOf d) eff fun i => x.read .i32 a (src i)))) ∧
    (Ready s x h (kOk kD && kOk kS) [] false →
      let m := x.k kS &&& eff
      exec (.vote h (.all kD) kS) s = .next (s.later x h 8 6 [.k kD.idx.toNat eff (if m = eff then fullMask else 0)]) ∧
      exec (.vote h (.any kD) kS) s = .next (s.later x h 8 6 [.k kD.idx.toNat eff (if m ≠ 0 then fullMask else 0)]) ∧
      exec (.vote h (.eq kD) kS) s = .next (s.later x h 8 6 [.k kD.idx.toNat eff (if m = 0 ∨ m = eff then fullMask else 0)])) ∧
    (Ready s x h (sDst false d && kOk kS) [] false →
      exec (.vote h (.ballot d) kS) s =
        .next (s.later x h 8 6 [.s (regOf d) { val := x.k kS &&& eff, tag := .clean }])) ∧
    (∀ (op : RedOp) (ty : TypeField), tyOk ty = true →
      (VectorReady1 s x h 1 false d a →
        exec (.wred h op ty d a) s = .next (s.later x h 8 10 (vWrite (regOf d) eff fun _ =>
          BitVec.ofNat 64 (combine op ty.ty.toNat ((lanesOf eff).map (val ty))))) ∧
        exec (.wscan h op ty d a) s = .next (s.later x h 8 10 (vWrite (regOf d) eff fun i =>
          BitVec.ofNat 64 (combine op ty.ty.toNat (((lanesOf eff).filter (· ≤ i)).map (val ty)))))) ∧
      (Ready s x h (sDst false d && vSrc A false a) [Rd.of a false eff] false →
        exec (.wred h op ty d a) s = .next (s.later x h 8 10
          [.s (regOf d) { val := BitVec.ofNat 32 (combine op ty.ty.toNat ((lanesOf eff).map (val ty))), tag := .clean }])))

/-- R154, R79, R156, R84, R108: the predicate instructions act on whole masks, and both halves of a pair word read the registers
from before the word. -/
def Obligations.PredicateAndPairResults : Prop :=
  ∀ (s : Machine.State) (x : Ctx) (h : Hdr),
    (∀ kD kA kB : KField,
      (Ready s x h (kOk kD && kOk kA && kOk kB) [] true →
        exec (.kand h kD kA kB) s = .next (s.later x h 8 2 [.k kD.idx.toNat fullMask (x.k kA &&& x.k kB)]) ∧
        exec (.kor h kD kA kB) s = .next (s.later x h 8 2 [.k kD.idx.toNat fullMask (x.k kA ||| x.k kB)]) ∧
        exec (.kxor h kD kA kB) s = .next (s.later x h 8 2 [.k kD.idx.toNat fullMask (x.k kA ^^^ x.k kB)])) ∧
      (Ready s x h (kOk kD && kOk kA) [] true →
        exec (.knot h kD kA) s = .next (s.later x h 8 2 [.k kD.idx.toNat fullMask (~~~(x.k kA))]) ∧
        exec (.kmov h (.k kD kA)) s = .next (s.later x h 8 2 [.k kD.idx.toNat fullMask (x.k kA)]))) ∧
    (∀ (kD : KField) (l : Bool) (b : Src), Ready s x h (kOk kD && sSrc1 false b) (Rd.src b false (x.w.eff h)) true →
      exec (.kmov h (.s l kD b)) s =
        .next (s.later x h (lenOf l) 2 [.k kD.idx.toNat fullMask (BitVec.ofNat 32 (x.n32Src b))])) ∧
    (∀ (d : Operand) (kA : KField), Ready s x h (sDst false d && kOk kA) [] true →
      exec (.kmov h (.toS d kA)) s = .next (s.later x h 8 2 [.s (regOf d) { val := x.k kA, tag := .clean }]) ∧
      exec (.kpop h d kA) s =
        .next (s.later x h 8 4 [.s (regOf d) { val := BitVec.ofNat 32 (popCount 32 (x.k kA).toNat), tag := .clean }])) ∧
    (∀ p : PairWord,
      let v (r : BitVec 8) (i : Nat) : Nat := (x.w.lane r.toNat i).val.toNat
      Ready s x (pairHdr p)
          (regOk x.w.alloc 1 p.adst.toNat && regOk x.w.alloc 1 p.asrc.toNat && regOk x.w.alloc 1 p.bdst.toNat &&
            regOk x.w.alloc 1 p.bsrc.toNat)
          (pairReads p.aop p.adst p.asrc x.w.act ++ pairReads p.bop p.bdst p.bsrc x.w.act) false →
        exec (.pairWord p) s = .next (s.later x (pairHdr p) 8 4
          (vWrite p.adst.toNat x.w.act (fun i => BitVec.ofNat 64 (pairOp p.aop x.flush (v p.adst i) (v p.asrc i))) ++
           vWrite p.bdst.toNat x.w.act (fun i => BitVec.ofNat 64 (pairOp p.bop x.flush (v p.bdst i) (v p.bsrc i))))))

/-! ### The issue unit -/

/-- R122 to R128, R114, R118, R231: NOP only advances; WAITF blocks until its flag is at or below min(n, 63); YIELD delays the
next word; REGX with a full mask and a legal delta and mask waits for the rendezvous; SRD writes the special register's
value 2 cycles later; SWR of PROBEF and the MODE instructions act at once; SWR of a trap register in handler state
writes it. -/
def Obligations.IssueUnitResults : Prop :=
  ∀ (s : Machine.State) (x : Ctx) (h : Hdr) (l : Bool) (f : FField) (n : Src) (dlt d a : Operand) (ix : SIdx),
    let eff := x.w.eff h
    let N := (s.ireadSrc x .i32 n).toNat
    let D := i32T.toInt (s.iread x .i32 dlt)
    let M := (s.ireadSrc x .i32 n).setWidth 32
    let W := srWide ix.idx
    let V := s.iread x (rdW W) a
    let bits := (s.iread x .i32 a).setWidth 3
    (Ready s x h true [] true → exec (.nop h) s = .next (s.past x h 8)) ∧
    (Ready s x h (fOk f && iSrc1 n) (Rd.src n false eff) true →
      exec (.waitf h l f n) s = .next ((s.past x h (lenOf l)).updWarp fun w =>
        w.block (.waitf f.idx.toNat (min N 63)) x.w.pc none).bump) ∧
    (Ready s x h (iSrc1 n) (Rd.src n false eff) true →
      exec (.yieldW h l n) s = .next ((s.past x h (lenOf l)).updWarp fun w =>
        { w with notBefore := x.cycle + 1 + max h.stall.toNat (min N 65535) }).bump) ∧
    (Ready s x h (iSrc false dlt && iSrc1 n) (Rd.of dlt false eff :: Rd.src n false eff) false →
      eff = fullMask → regxOk x.w.wid (((s.launchOf x.w).map (·.record.warps)).getD 0) D M = true →
      exec (.regx h l dlt n) s =
        .next ((s.past x h (lenOf l)).updWarp fun w => w.block (.regx D M) x.w.pc h.set).bump) ∧
    (∀ r, d = .s r → Ready s x h (sDst W d && (srAssigned ix.idx && ix.upper == 0 && ix.idx != 0)) [] true →
      exec (.srd h d ix) s = .next ((s.past x h 8).updWarp fun w =>
        (w.noteRead ix.idx).defer x.cycle 2 (sWriteW W (regOf d) (s.special x ix.idx 0)))) ∧
    (∀ r, d = .v r → Ready s x h (vDst x.w.alloc (regsOf W) d && (srAssigned ix.idx && ix.upper == 0)) [] false →
      exec (.srd h d ix) s = .next ((s.past x h 8).updWarp fun w =>
        (w.noteRead ix.idx).defer x.cycle 2 (vWriteW W (regOf d) eff fun i => s.special x ix.idx i))) ∧
    (Ready s x h (srWritable ix.idx && ix.upper == 0 && iSrc W a) [Rd.of a W eff] true →
      (ix.idx = 0x08 →
        exec (.swr h ix a) s = .next ((s.past x h 8).updWarp fun w => { w with probef := V.getLsbD 0 }).bump) ∧
      (ix.idx ≠ 0x08 → x.w.hstate = true →
        exec (.swr h ix a) s = .next ((s.past x h 8).updWarp fun w => w.defer x.cycle 2 [.x ix.idx V]).bump)) ∧
    (Ready s x h (iSrc false a) [Rd.of a false eff] true →
      exec (.modeSet h a) s = .next ((s.past x h 8).updWarp fun w => { w with mode := w.mode ||| bits }).bump ∧
      exec (.modeClr h a) s = .next ((s.past x h 8).updWarp fun w => { w with mode := w.mode &&& ~~~bits }).bump ∧
      exec (.modeWr h a) s = .next ((s.past x h 8).updWarp fun w => { w with mode := bits }).bump)

/-! ### The branch unit -/

/-- R200, R204, R212 to R216, R218: the uniform branch instructions under an effective mask equal to the active mask, with legal
targets, room on the stack and tokens that can be pushed or popped. How a token of the spill area is checked as it is read
back, and that tokens which a handler has spilled stay at their positions, are the model's choices (log entries 17, 25);
JOIN meets them where it reads tokens back. -/
def Obligations.UniformBranchResults : Prop :=
  ∀ (s : Machine.State) (x : Ctx) (h : Hdr) (off els : BitVec 27) (jn : BitVec 32) (a : Operand) (kC : KField),
    let eff := x.w.eff h
    let p := s.past x h 8 2
    let q := s.past x h 16 2
    let e := p.brEnv x eff
    let rel := x.rel off.toInt
    let reg : Int := (x.read .i64 a 0).toNat
    let tk := x.w.act &&& x.k kC
    let pk := x.w.act &&& ~~~(x.k kC)
    let join : Token := { kind := .join, depth := x.w.depth, pc := pcOf (x.rel jn.toInt), mask := x.w.act }
    let elseTok : Token := { kind := .els, depth := x.w.depth, pc := pcOf (x.rel els.toInt), mask := pk }
    let loop : Token := { kind := .loop, depth := x.w.depth, pc := pcOf rel, mask := 0 }
    let ret : Token := { kind := .call, depth := x.w.depth, pc := x.w.pc + 8, mask := x.w.act }
    eff = x.w.act →
    (Ready s x h true [] true →
      (legalTarget rel = true →
        exec (.bra h off) s = .next (p.updWarp fun w => { w with pc := pcOf rel }) ∧
        (∀ k, x.w.ntok < 256 → e.push (x.stk p) loop = .ok k → exec (.loopr h off) s = .next (k.commit id)) ∧
        (∀ k, x.w.depth ≠ 255 → x.w.ntok < 256 → e.push (x.stk p) ret = .ok k →
          exec (.call h off) s = .next (k.commit fun w => { w with depth := x.w.depth + 1, pc := pcOf rel }))) ∧
      (∀ k k1 t u rest, e.refill (x.stk p) 16 = .ok k → k.held = t :: rest → t.poison = false →
        t.kind = .join ∨ t.kind = .els →
        t.depth = x.w.depth → e.pop k = .ok (u, k1) →
        (u.mask ≠ 0 → exec (.join h) s = .next (k1.commit fun w => { w with act := u.mask, pc := u.pc })) ∧
        (∀ t', u.mask = 0 → e.finish k1 = .ok t' → exec (.join h) s = .next t'))) ∧
    (Ready s x h (sDst true a) [Rd.of a true eff] true → legalTarget reg = true →
      exec (.brx h a) s = .next (p.updWarp fun w => { w with pc := pcOf reg }) ∧
      (∀ k, x.w.depth ≠ 255 → x.w.ntok < 256 → e.push (x.stk p) ret = .ok k →
        exec (.callx h a) s = .next (k.commit fun w => { w with depth := x.w.depth + 1, pc := pcOf reg }))) ∧
    (Ready s x h (kOk kC) [] true → legalTarget (x.rel els.toInt) = true → legalTarget (x.rel jn.toInt) = true →
      ∀ k, (q.brEnv x eff).push (x.stk q) join = .ok k →
        (tk = 0 → x.w.ntok < 256 → exec (.split h els kC jn) s =
          .next (k.commit fun w => { w with act := pk, pc := pcOf (x.rel els.toInt) })) ∧
        (tk ≠ 0 → pk = 0 → x.w.ntok < 256 → exec (.split h els kC jn) s = .next (k.commit id)) ∧
        (∀ k2, tk ≠ 0 → pk ≠ 0 → x.w.ntok < 255 → (q.brEnv x eff).push k elseTok = .ok k2 →
          exec (.split h els kC jn) s = .next (k2.commit fun w => { w with act := tk })))

/-- R200, R204, R211, R217, R219, R220: BRK, RET and EXIT take the lanes of the effective mask out of the tokens above the one
they stop at and out of the active mask; when no active lane is left the warp goes on at the next token that holds lanes, or
retires. What the sweep reads before it writes is the model's choice (log entry 18). -/
def Obligations.RetiringBranchResults : Prop :=
  ∀ (s : Machine.State) (x : Ctx) (h : Hdr),
    let eff := x.w.eff h
    let p := s.past x h 8 2
    let e := p.brEnv x eff
    let act := x.w.act &&& ~~~eff
    let done (w : Sweep) (i : Instr) : Prop :=
      ∀ hs t, e.sweep w eff x.w.ntok x.w.held x.w.depth.toNat p = .ok (hs, t) →
        let k : Stk := { d := x.w.ntok, held := hs, force := x.w.depth.toNat, s := t }
        (act ≠ 0 → exec i s = .next (k.commit fun w => { w with act := act })) ∧
        (∀ t', act = 0 → e.finish k = .ok t' → exec i s = .next t')
    (Ready s x h true [] true → done .brk (.brk h) ∧ done .ret (.ret h)) ∧
    (Ready s x h true [] false → x.w.hstate = false → done .exit (.exit h))

/-- R208: a push on fewer than 16 tokens, all held in the unit, reads and writes no memory, and the pop after it gives the same
token, not one restored as poisoned, and the same stack back. The depth in force below a CALL token is the model's reading
(log entry 17). -/
def Obligations.PushThenPopReturnsToken : Prop :=
  ∀ (e : BrEnv) (k : Stk) (t : Token), t.poison = false → k.held.length = k.d → k.d < 16 → e.lo ≤ k.d →
    e.push k t = .ok { k with d := k.d + 1, held := t :: k.held } ∧
    e.pop { k with d := k.d + 1, held := t :: k.held } = .ok (t, { k with force := t.below k.force })

/-! ### The trap and context unit -/

/-- R238 to R241: TRAP and BKPT take their traps, HALT stops its warp and halts the context, and XRET with its checks passed
restores what the trap frame holds and goes on at the value last written to XPC. That this value is the last one written
in program order (`lastXpc`), and that s94 and s95 are restored at once and untagged, are the model's choices (log entries
26, 19). -/
def Obligations.TrapUnitResults : Prop :=
  ∀ (s : Machine.State) (x : Ctx) (h : Hdr) (l : Bool) (c : BitVec 6) (code : Src),
    let eff := x.w.eff h
    (∀ n : Nat, n < 16 → c = BitVec.ofNat 6 n → Ready s x h true [] true →
      exec (.trap h (.const c)) s = .next (s.takeTrapAt s.cur.1 s.cur.2 ((x.w.pc + 8).setWidth 64)
        { code := BitVec.ofNat 6 (0x30 + n), xaddr := 0, xmask := eff, origin := 0, unit := 0, detail := BitVec.ofNat 8 n
          wr := false })) ∧
    (∀ n : Nat, n < 32 → c = BitVec.ofNat 6 n → Ready s x h true [] true →
      exec (.bkpt h (.const c)) s = .next (s.takeTrapAt s.cur.1 s.cur.2 (x.w.pc.setWidth 64)
        { code := 0x15, xaddr := 0, xmask := eff, origin := 0, unit := 0, detail := BitVec.ofNat 8 n, wr := false })) ∧
    (Ready s x h (sSrc1 false code) (Rd.src code false eff) true →
      exec (.halt h l code) s = .next (((s.past x h (lenOf l)).updWarp fun w => { w with halted := true }).haltContext
        (s.asidOf x.w) { reason := 5, slot := s.cur.2, core := s.cur.1, code := x.n32Src code
                         pc := (x.w.pc + BitVec.ofNat 57 (lenOf l)).toNat, xcause := 0, xmask := 0, xaddr := 0
                         log := x.w.xcause ++ x.w.xpc.extractLsb' 0 32 })) ∧
    (∀ (sp : Machine.Space) (bs : List Byte), Ready s x h true [] true → x.w.hstate = true → eff = fullMask → x.w.act = fullMask →
      x.w.ntok = x.w.dmark → legalTarget x.w.lastXpc.toNat = true → s.spaceOf x.w = some sp →
      s.vread s.cur.1 (s.asidOf x.w) (trapArea sp s.cur.1 s.cur.2) 64 = .ok bs →
      let field (o n : Nat) : Nat := leNat ((bs.drop o).take n)
      let p := (s.past x h 8).vtouch s.cur.1 (s.asidOf x.w) (trapArea sp s.cur.1 s.cur.2) 64
      exec (.xret h) s = .next ((if x.w.wid = 0 then p.resumeGen x.w.gid else p).updWarp fun w =>
        { w.applyAll [.s 94 { val := BitVec.ofNat 32 (field 0 4), tag := .clean },
                      .s 95 { val := BitVec.ofNat 32 (field 4 4), tag := .clean }] with
          act := BitVec.ofNat 32 (field 8 4), depth := BitVec.ofNat 8 (field 12 1), mode := BitVec.ofNat 3 (field 13 1)
          hstate := false, pc := x.w.lastXpc.setWidth 57 }))

/-- R230, R232, R234 to R236, R471: a warp outside handler state whose register writes are complete enters a trap. All five trap
registers are written and the entry state is held. An entry that cannot be read, an absent one, one with HALT set, or a frame
that cannot be written halts the context; otherwise the frame stands in the trap area, s94:s95 name the bytes after it, all
lanes are active, MODE is zero, and the warp goes on at the entry's handler. A trap in handler state before both trap registers
have been read returns the warp to its state before the first trap and halts the context with reason 2; after both have been
read it writes the trap registers with NEST and halts with reason 3. The event of code 0x04 with NEST in its data, the tokens
that the return drops, and the held values written back untagged and at once are the model's choices (log entries 55, 25,
19). -/
def Obligations.TrapEntryAndNestedTrap : Prop :=
  (∀ (s : Machine.State) (c j : Nat) (w : Warp) (tw : TrapWait) (sp : Machine.Space),
      s.warpAt c j = some w → w.hstate = false → s.space (s.asidOf w) = some sp →
      let asid := s.asidOf w
      let w1 : Warp := { w with trapWait := none, xpc := tw.xpc, xcause := tw.trap.code.setWidth 32, xaddr := tw.trap.xaddr
                                xmask := tw.trap.xmask, xinfo := tw.trap.info
                                entry := { wa := tw.wa, s94 := w.sreg 94, s95 := w.sreg 95, act := w.act, depth := w.depth
                                           mode := w.mode } }
      let va := sp.tvtb + 16 * tw.trap.code.toNat
      let s0 := s.vtouch c asid va 16
      let halts (reason : Nat) : Prop :=
        let w2 : Warp := { w1 with halted := true, pc := tw.wa }
        s.enterTrap c j tw = (s0.setWarpAt c j w2).haltContext asid (w2.haltInfo c j reason 0 true)
      let entry := s.vread c asid va 16
      let area := trapArea sp c j
      (∀ f, entry = .error f → halts 2) ∧
      (∀ bs, entry = .ok bs → decodeVec (leNat bs) = none → halts 1) ∧
      (∀ bs v, entry = .ok bs → decodeVec (leNat bs) = some v → v.halt = true → halts 4) ∧
      (∀ bs v f, entry = .ok bs → decodeVec (leNat bs) = some v → v.halt = false →
        s0.vwrite c asid area (frameBytes w) = .error f → halts 2) ∧
      (∀ bs v t, entry = .ok bs → decodeVec (leNat bs) = some v → v.halt = false →
        s0.vwrite c asid area (frameBytes w) = .ok t →
        let w2 := w1.applyAll [.s 94 { val := BitVec.ofNat 32 (area + 64), tag := .clean },
                               .s 95 { val := BitVec.ofNat 32 ((area + 64) / 2 ^ 32), tag := .clean }]
        s.enterTrap c j tw = t.setWarpAt c j { w2 with
          act := fullMask, mode := 0, dmark := w.ntok, hstate := true, rdCause := false, rdAddr := false, pc := v.hpc })) ∧
  (∀ (s : Machine.State) (c j : Nat) (w : Warp) (tw : TrapWait),
      s.warpAt c j = some w → w.hstate = true →
      let code := 0x80000000#32 ||| tw.trap.code.setWidth 32
      ((w.rdCause && w.rdAddr) = true →
        (let w1 : Warp := { w with trapWait := none, xpc := tw.xpc, xcause := code, xaddr := tw.trap.xaddr
                                   xmask := tw.trap.xmask, xinfo := tw.trap.info, halted := true, pc := tw.wa }
         s.enterTrap c j tw = (s.setWarpAt c j w1).haltContext (s.asidOf w) (w1.haltInfo c j 3 0 true))) ∧
      ((w.rdCause && w.rdAddr) = false →
        (let w0 := w.applyAll [.s 94 w.entry.s94, .s 95 w.entry.s95]
         let w1 : Warp := { w0 with
           trapWait := none, act := w.entry.act, depth := w.entry.depth, mode := w.entry.mode, pc := w.entry.wa, hstate := false
           halted := true, held := w.held.drop (w.ntok - w.dmark), ntok := min w.ntok w.dmark }
         s.enterTrap c j tw = ((s.setWarpAt c j w1).logDie 4 (dieOf c) c (code ++ tw.xpc.extractLsb' 0 32)).haltContext
           (s.asidOf w) (w1.haltInfo c j 2 0 true))))

/-! ### The load-store unit -/

/-- R81, R158, R161, R168, R170 to R173, R176 to R178: loads, stores and read-modify-writes of every lane of the effective mask
whose addresses pass Table LS-6. All lanes read or write at ea, in increasing lane order; a load's destination holds what it read
with its tag, and ATOM, ATOMC and RED write the new value of Table LS-5 where the old one is clean, an inline constant of a float
operation being read as a float; RED records each lane that meets poison in the event log. A .CONST load returns for each byte its
newest value or one that it has held since the dispatch. That all accesses of a word are performed as it issues, so that a load
holds what it read then, and the fault of an access that meets a fenced die before its core has learnt of the fence, are the
model's choices (log entries 4, 27); so is the WR bit of a read-modify-write's trap (log entry 34). -/
def Obligations.LoadStoreResults : Prop :=
  ∀ (s : Machine.State) (x : Ctx) (h : Hdr) (l : Bool) (sz : Size) (sc : Scope) (od : Order) (hint : Hint) (scl : Bool)
    (d a b c : Operand) (disp : BitVec 32) (locs : List (Nat × Loc)),
    let eff := x.w.eff h
    let A := x.w.alloc
    let n := sizeBytes sz
    let p := s.past x h (lenOf l)
    let q := s.past x h 16
    let bad (t : Machine.State) := (locs.filter fun e => t.locErr e.2).map (·.1)
    (∀ (sp : Sys2Proof.Space) (sx : Bool) (v : BitVec 8), d = .v v → sp ≠ .const →
      Ready s x h (vDst A (dataRegs n) d && baseOk A (spOf sp) false a && vSrc A false b)
        [Rd.of a (spOf sp).wide eff, Rd.of b false eff] false →
      let ea := x.ea (spOf sp) n scl a (some b) disp
      p.lsCheckAll x.w (spOf sp) .read n (lanesOf eff) ea = .ok locs →
      let pw := p.lsWalks x.w (spOf sp) ((lanesOf eff).map ea)
      let gs := locs.map fun e => pw.lsRead e.1 n e.2
      exec (.ld h l sp sz sx sc od hint scl d a b disp) s =
        .next ((pw.locAccesses (hintParty pw.cur.1 hint) (locs.map (·.2)) n .read).pushLs x h (loadWrites d n sx gs) (locs.map (·.2))
          (gs.any fun g => g.tag == .fabric) none)) ∧
    (∀ (sp : Sys2Proof.Space) (sx : Bool) (r : Fin 96), d = .s r → sp ≠ .const →
      Ready s x h ((sDst (n == 8) d && decide (n ≤ 8)) && baseOk A (spOf sp) true a && sSrc false b)
        [Rd.of a (spOf sp).wide eff, Rd.of b false eff] true →
      let ea := x.ea (spOf sp) n scl a (some b) disp
      p.lsCheckAll x.w (spOf sp) .read n [lowestLane eff] ea = .ok locs →
      let pw := p.lsWalks x.w (spOf sp) [ea (lowestLane eff)]
      let gs := locs.map fun e => pw.lsRead e.1 n e.2
      exec (.ld h l sp sz sx sc od hint scl d a b disp) s =
        .next ((pw.locAccesses (hintParty pw.cur.1 hint) (locs.map (·.2)) n .read).pushLs x h (loadWrites d n sx gs) (locs.map (·.2))
          (gs.any fun g => g.tag == .fabric) none)) ∧
    (∀ (sx : Bool) (v : BitVec 8), d = .v v →
      Ready s x h (vDst A (dataRegs n) d && baseOk A .const false a && vSrc A false b)
        [Rd.of a true eff, Rd.of b false eff] false →
      let ea := x.ea .const n scl a (some b) disp
      p.lsCheckAll x.w .const .read n (lanesOf eff) ea = .ok locs →
      let r := (p.lsWalks x.w .const ((lanesOf eff).map ea)).constLanes x.w n locs
      exec (.ld h l .const sz sx sc od hint scl d a b disp) s =
        .next ((r.2.locAccesses (hintParty r.2.cur.1 hint) (locs.map (·.2)) n .read).pushLs x h (loadWrites d n sx r.1)
          (locs.map (·.2)) (r.1.any fun g => g.tag == .fabric) none)) ∧
    (∀ (sx : Bool) (v : Fin 96), d = .s v →
      Ready s x h ((sDst (n == 8) d && decide (n ≤ 8)) && baseOk A .const true a && sSrc false b)
        [Rd.of a true eff, Rd.of b false eff] true →
      let ea := x.ea .const n scl a (some b) disp
      p.lsCheckAll x.w .const .read n [lowestLane eff] ea = .ok locs →
      let r := (p.lsWalks x.w .const [ea (lowestLane eff)]).constLanes x.w n locs
      exec (.ld h l .const sz sx sc od hint scl d a b disp) s =
        .next ((r.2.locAccesses (hintParty r.2.cur.1 hint) (locs.map (·.2)) n .read).pushLs x h (loadWrites d n sx r.1)
          (locs.map (·.2)) (r.1.any fun g => g.tag == .fabric) none)) ∧
    (∀ (la : Launch) (t : Machine.State) (pa : Nat) (z : Bool) (lane k : Nat), t.launchOf x.w = some la →
      (t.lsRead lane k (.glob pa z)).tag = .clean → (t.constLane x.w lane k (.glob pa z)).1.tag = .clean ∧
        (∀ i < k, ∃ v ∈ t.constBytes la (pa + i),
          (leBytes k (t.constLane x.w lane k (.glob pa z)).1.val).getD i 0 = v)) ∧
    (∀ sp : RwSpace, Ready s x h (dataOk A n false d && baseOk A (spOfRw sp) false a && vSrc A false b)
        [Rd.data d n eff, Rd.of a (spOfRw sp).wide eff, Rd.of b false eff]
        (sSrc (n == 8) d && sSrc (spOfRw sp).wide a && sSrc false b) →
      let ea := x.ea (spOfRw sp) n scl a (some b) disp
      p.lsCheckAll x.w (spOfRw sp) .write n (p.lsLanes eff) ea = .ok locs →
      exec (.st h l sp sz sc od hint scl d a b disp) s =
        .next (((p.lsWalks x.w (spOfRw sp) ((p.lsLanes eff).map ea)).lsStore false hint
          (locs.map fun e => (e.1, e.2, leBytes n (x.data d n e.1)))).pushLs x h [] (locs.map (·.2))
          (!(bad p).isEmpty) (errFault eff ea (bad p)))) ∧
    (∀ sp : SramSpace, Ready s x h (dataOk A n false d && baseOk A (spOfSram sp) false a && vSrc A false b)
        [Rd.data d n eff, Rd.of a (spOfSram sp).wide eff, Rd.of b false eff] false →
      let ea := x.ea (spOfSram sp) n scl a (some b) disp
      p.lsCheckAll x.w (spOfSram sp) .write n (p.lsLanes eff) ea = .ok locs →
      exec (.stfe h l sp sz sc scl d a b disp) s =
        .next (((p.lsWalks x.w (spOfSram sp) ((p.lsLanes eff).map ea)).lsStore true .none
          (locs.map fun e => (e.1, e.2, leBytes n (x.data d n e.1)))).pushLs x h [] (locs.map (·.2))
          (!(bad p).isEmpty) (errFault eff ea (bad p)))) ∧
    (∀ (sp : RwSpace) (op : Aop), Ready s x h (vDst A (dataRegs n) d && baseOk A (spOfRw sp) false a && dataOk A n true b)
        [Rd.of a (spOfRw sp).wide eff, Rd.data b n eff] false →
      let ea := x.ea (spOfRw sp) n false a none disp
      q.lsCheckAll x.w (spOfRw sp) .rmw n (lanesOf eff) ea = .ok locs →
      let r := (q.lsWalks x.w (spOfRw sp) ((lanesOf eff).map ea)).lsRmwAll n locs fun i old =>
        some (aop op n old (x.data b n i (op == .fadd || op == .fmin || op == .fmax)))
      exec (.atom h sp sz sc od op d a b disp) s =
        .next (r.1.pushLs x h (loadWrites d n false r.2) (locs.map (·.2)) (r.2.any fun g => g.tag == .fabric) none)) ∧
    (∀ sp : RwSpace,
      Ready s x h (vDst A (dataRegs n) d && baseOk A (spOfRw sp) false a && dataOk A n true b && dataOk A n true c)
        [Rd.of a (spOfRw sp).wide eff, Rd.data b n eff, Rd.data c n eff] false →
      let ea := x.ea (spOfRw sp) n false a none disp
      q.lsCheckAll x.w (spOfRw sp) .rmw n (lanesOf eff) ea = .ok locs →
      let r := (q.lsWalks x.w (spOfRw sp) ((lanesOf eff).map ea)).lsRmwAll n locs fun i old =>
        if old = x.data c n i then some (x.data b n i) else none
      exec (.atomc h sp sz sc od d a b c disp) s =
        .next (r.1.pushLs x h (loadWrites d n false r.2) (locs.map (·.2)) (r.2.any fun g => g.tag == .fabric) none)) ∧
    (∀ (sp : RwSpace) (op : Aop), Ready s x h (baseOk A (spOfRw sp) false a && dataOk A n true b)
        [Rd.of a (spOfRw sp).wide eff, Rd.data b n eff] (sSrc (spOfRw sp).wide a && sSrc (n == 8) b) →
      let ea := x.ea (spOfRw sp) n false a none disp
      q.lsCheckAll x.w (spOfRw sp) .rmw n (q.lsLanes eff) ea = .ok locs →
      let r := (q.lsWalks x.w (spOfRw sp) ((q.lsLanes eff).map ea)).lsRmwAll n locs fun i old =>
        some (aop op n old (x.data b n i (op == .fadd || op == .fmin || op == .fmax)))
      let failed := (r.2.filter fun g => g.tag == .fabric).map (·.lane)
      exec (.red h sp sz sc od op a b disp) s =
        .next ((r.2.foldl (fun t g => if g.tag = .poison then
            t.logDie 3 (dieOf x.core) x.core (BitVec.ofInt 64 (ea g.lane)) else t) r.1).pushLs x h [] (locs.map (·.2))
          (!failed.isEmpty) (errFault eff ea failed)))

/-- R169, R179 to R182, R184: FENCE, PREF, CCTL.L1EV and CCTL.L2EV change no value; PREF and the evictions take no trap after
decode, whatever their registers hold, and touch the caches alone: PREF fetches the line of each lane whose address can be
reached into the L1 or the L2, an eviction takes it out; IFENCE discards the instruction words its core holds for the
address space; CCTL.ZERO writes zero to the 128-byte line of each lane and clears the line's poison. That accesses are
performed in order, so that FENCE only advances, and which lanes a hint passes over, are the model's choices (log entries 4,
57). -/
def Obligations.LineAndFenceResults : Prop :=
  ∀ (s : Machine.State) (x : Ctx) (h : Hdr) (l : Bool) (sc : Scope) (od : Order) (lv : PrefLevel) (scl : Bool) (a b : Operand)
    (disp : BitVec 32),
    let eff := x.w.eff h
    let p := s.past x h (lenOf l)
    (Ready s x h true [] true → exec (.fence h sc od) s = .next ((s.past x h 16).pushLs x h [] [] false none)) ∧
    (Ready s x h true [] false →
      exec (.ifence h) s = .next (((s.past x h 8).dropCode s.cur.1 (s.asidOf x.w) fun _ => false).pushLs x h [] [] false none)) ∧
    (Ready s x h (baseOk x.w.alloc .glob false a && vSrc x.w.alloc false b) [] false →
      let lines := (lanesOf eff).filterMap (p.hintAddr x scl a b disp)
      let walks := ((lanesOf eff).filter fun i => (p.hintAddr x scl a b disp i).isSome).map (x.ea .glob 128 scl a (some b) disp)
      let acts (f : Machine.State → Nat → Machine.State) : Machine.State :=
        (lines.foldl f (p.lsWalks x.w .glob walks)).pushLs x h [] [] false none
      exec (.pref h l .l1 scl a b disp) s = .next (acts fun t pa => t.access (.core t.cur.1) pa 128 .read) ∧
      exec (.pref h l .l2 scl a b disp) s =
        .next (acts fun t pa => t.access (.die ((homeDie pa).getD (dieOf t.cur.1))) pa 128 .read) ∧
      exec (.cctlL1ev h l scl a b disp) s = .next (acts fun t pa => t.l1Evicted t.cur.1 (pa / 128)) ∧
      exec (.cctlL2ev h l scl a b disp) s = .next (acts fun t pa => t.l2Evicted (dieOf t.cur.1) (pa / 128)) ∧
      (∀ i ∈ [Instr.pref h l lv scl a b disp, .cctlL1ev h l scl a b disp, .cctlL2ev h l scl a b disp],
        ∃ t : Machine.State, exec i s = .next t ∧ ∀ m, t.memByte m = s.memByte m)) ∧
    (Ready s x h (baseOk x.w.alloc .glob false a && vSrc x.w.alloc false b) [Rd.of a true eff, Rd.of b false eff] false →
      (∀ locs,
        let ea := x.ea .glob 128 scl a (some b) disp
        let bad := (locs.filter fun e => p.locErr e.2).map (·.1)
        p.lsCheckAll x.w .glob .write 128 (lanesOf eff) ea = .ok locs →
        exec (.cctlZero h l scl a b disp) s =
          .next ((locs.foldl (fun q e => if q.locErr e.2 then q else
            (q.locStore (.core q.cur.1) e.2 (List.replicate 128 0)).cleanLine e.2)
            (p.lsWalks x.w .glob ((lanesOf eff).map ea))).pushLs x h [] [] (!bad.isEmpty) (errFault eff ea bad))))

/-! ### The synchronisation and progress unit -/

/-- R259, R263, R264, R266 to R268, R174: the blocking instructions under a full mask, with legal operands. BAR and CBAR
arrive at their barrier and complete the phase that they fill; BARA counts its arrivals down and gives the old phase; BARW and
WAITM complete at their first read when it satisfies them; GBAR waits for its phase; LDFE serves the lanes whose granules are
full. -/
def Obligations.SynchronisationResults : Prop :=
  ∀ (s : Machine.State) (x : Ctx) (h : Hdr) (l : Bool) (d a b : Operand) (n : Src) (disp : BitVec 32) (tmo : Option KField),
    let eff := x.w.eff h
    let p := s.past x h (lenOf l)
    let at16 := s.past x h 16
    eff = fullMask →
    (∀ g : Group, s.groupOf x.w = some g → Ready s x h (sSrc false b && sSrc1 false n) (Rd.of b false eff :: Rd.src n false eff) false →
      let i := x.n32 b
      let cnt := x.n32Src n
      let old := g.bars.get Barrier.closed i
      let new : Barrier := { isOpen := true, n := cnt, arrived := old.arrived ||| (1#32 <<< x.w.wid) }
      i < 16 → cnt ≤ ((s.launchOf x.w).map (·.record.warps)).getD 0 → (old.isOpen = true → old.n = cnt) →
      exec (.bar h l b n) s =
        .next (((p.setGroup x.w.gid { g with bars := g.bars.set Barrier.closed i new }).updWarp fun w =>
            w.block (.bar i) x.w.pc h.set).completeBar x.w.gid i)) ∧
    (∀ (sp : SramSpace) (loc : Loc) (k e r : Nat) (ph : Bool),
      Ready s x h (sDst false d && sSrc false a && sSrc false b) [Rd.of a false eff, Rd.of b false eff] false →
      x.n32 b = k → 1 ≤ k → k ≤ r → r ≤ e → e ≤ 0xFFFF →
      p.lsCheck x.w (spOfSram sp) .rmw 8 (x.ea (spOfSram sp) 8 false a none disp 0) = .ok loc → p.locPoisoned loc 8 = false →
      leNat (p.locRead loc 8) = e + r * 2 ^ 16 + (if ph then 2 ^ 32 else 0) →
      let new := if k = r then e + e * 2 ^ 16 + (if ph then 0 else 2 ^ 32) else e + (r - k) * 2 ^ 16 + (if ph then 2 ^ 32 else 0)
      exec (.bara h l sp d a b disp) s =
        .next ((p.locWrite loc (leBytes 8 new)).pushLs x h [.s (regOf d) { val := if ph then 1 else 0, tag := .clean }]
          [loc] false none)) ∧
    (∀ (sp : SramSpace) (loc : Loc), Ready s x h (sSrc false a && sSrc false b && tmo.all kOk)
        [Rd.of a false eff, Rd.of b false eff] false →
      let ea := x.ea (spOfSram sp) 8 false a none disp 0
      p.syncLoc x.w eff (spOfSram sp) .read 8 ea = .ok loc →
      exec (.barw h l sp a b disp tmo) s =
        .next ((p.updWarp fun w => w.block (.barw loc ea (sp == .cmem) (x.n32 b % 2 == 1) (tmo.map (·.idx))) x.w.pc h.set).reread
          s.cur.1 s.cur.2)) ∧
    (∀ (sp : RwSpace) (sz : Size) (sgn : Bool) (sc : Scope) (peer : Peer) (cc : ICond) (loc : Loc),
      let wide := sz == .b64
      let ea := x.ea (spOfRw sp) (sizeBytes sz) false a none disp 0
      Ready s x h (sDst wide d && baseOk 0 (spOfRw sp) true a && sSrc wide b && tmo.all kOk)
        [Rd.of a (spOfRw sp).wide eff, Rd.of b wide eff] true →
      peerLegal peer (s.gclassOf x.w) = true → at16.syncLoc x.w eff (spOfRw sp) .read (sizeBytes sz) ea = .ok loc →
      exec (.waitm h sp sz sgn sc peer cc d a b disp tmo) s =
        (let m : WaitmState := { loc := loc, wide := wide, sgn := sgn, ea := ea, c := x.read (rdW wide) b 0, cc := cc
                                 peer := peer, d := regOf d, tmo := tmo.map (·.idx), lastRead := x.cycle, seen := at16.writes
                                 value := 0 }
         .next ((at16.updWarp fun w => w.block (.waitm m) x.w.pc h.set).reread s.cur.1 s.cur.2))) ∧
    (Ready s x h (sSrc false b) [Rd.of b false eff] false → x.n32 b < 4 →
      ∀ g, s.groupOf x.w = some g →
        exec (.cbar h b) s = .next (((s.past x h 8).updWarp fun w => w.block (.cbar (x.n32 b)) x.w.pc h.set).completeCbar
          g.launch (g.index / ((s.launch g.launch).map (·.record.clSize)).getD 1) (x.n32 b))) ∧
    (Ready s x h true [] false → s.gclassOf x.w = 0 →
      exec (.gbar h) s = .next ((s.past x h 8).updWarp fun w => w.block .gbar x.w.pc h.set)) ∧
    (∀ (sp : SramSpace) (sz : Size) (sx : Bool) (sc : Scope) (scl clr : Bool) (peer : Peer) (locs : List (Nat × Loc)),
      let ea := x.ea (spOfSram sp) (sizeBytes sz) scl a (some b) disp
      Ready s x h (vDst x.w.alloc (dataRegs (sizeBytes sz)) d && baseOk x.w.alloc (spOfSram sp) false a && vSrc x.w.alloc false b &&
          tmo.all kOk) [Rd.of a false eff, Rd.of b false eff] false →
      peerLegal peer (s.gclassOf x.w) = true →
      at16.lsCheckAll x.w (spOfSram sp) .read (sizeBytes sz) (lanesOf eff) ea = .ok locs →
      exec (.ldfe h sp sz sx sc scl peer clr d a b disp tmo) s =
        (let m : LdfeState := { n := sizeBytes sz, sx := sx, clr := clr, peer := peer, d := regOf d, tmo := tmo.map (·.idx)
                                eas := (List.range 32).map ea, locs := locs.map (·.2), pending := fullMask, results := []
                                emptied := [] }
         .next ((at16.updWarp fun w => w.block (.ldfe m) x.w.pc h.set).ldfeServe s.cur.1 s.cur.2)))

/-! ### The engines' words -/

/-- R185, R284, R286, R291, R293 to R298: a copy word whose checks pass, with no earlier request of its warp failed in its stream,
walks to the translations that it uses and leaves one request in its stream with them, with the elements of its walk and with
the granules it fills under .FE. Which of several failing accesses a check reports, and the address it reports for CPYB, are
the model's choices (log entry 68). -/
def Obligations.CopyWordsIssueRequests : Prop :=
  ∀ (s : Machine.State) (x : Ctx) (h : Hdr) (strm : Stream) (dsp ssp : RwSpace) (fe : Bool) (sc : Scope) (d a ds o : Operand)
    (nblk : BitVec 32),
    let eff := x.w.eff h
    let p := s.past x h 16
    let dp := spOfRw dsp
    let sp := spOfRw ssp
    let issues (cmd : CopyCmd) (ok : Bool) (reads : List Rd) (i : Instr) : Prop :=
      Ready s x h ok reads false → ∀ sh xs, p.copyCheck x.w cmd = .ok (sh, xs) → p.curCore.streamFailed x.w cmd.strm = false →
        let transl := p.translOf p.cur.1 (s.asidOf x.w) (cmd.addrs xs)
        exec i s = .next ((p.walkedAll p.cur.1 (s.asidOf x.w) (transl.map fun t => (t.1 : Int))).setCurCore { p.curCore with
          copy := p.curCore.copy ++ [{
             lid := ((s.groupOf x.w).map (·.launch)).getD 0, gid := x.w.gid, wid := x.w.wid, asid := s.asidOf x.w
             strm := strm, kind := cmd.kind, flag := h.set, es := sh.es, ep := cmd.ep, elems := xs
             grans := if cmd.fe then granuleStarts sh.es xs else []
             transl := transl, waiting := none, ended := none
             abandoned := false, stale := [] }] })
    let cmd (kind : CopyKind) (sp dp : Sp) (rows : Bool) : CopyCmd :=
      { strm := strm, kind := kind, ssp := sp, dsp := dp, fe := fe, sbase := x.base sp a, dbase := x.base dp d
        shape := x.shape ds rows, ix := 0, ranks := [], opOk := true, ep := 0 }
    let ok3 (sp dp : Sp) : Bool := copyBase dp d && copyBase sp a && blockReg ds
    let rd3 (sp dp : Sp) : List Rd := [Rd.of d dp.wide eff, Rd.of a sp.wide eff, { o := ds, n := 8, lanes := eff }]
    let m := x.n32 o
    let e := (x.read .i32 o 0).setWidth 32
    eff = fullMask →
    issues (cmd .cpy sp dp false) (ok3 sp dp) (rd3 sp dp) (.cpy h strm dsp ssp fe sc d a ds) ∧
    issues { cmd .cpyz .glob dp false with
             shape := some { es := 8, e0 := 64 * nblk.toNat, e1 := 1, e2 := 1, s1 := 0, s2 := 0, d1 := 0, d2 := 0 }
             opOk := decide (1 ≤ nblk.toNat ∧ nblk.toNat ≤ 1024) } (copyBase dp d && copyBase .glob a)
      [Rd.of d dp.wide eff, Rd.of a true eff] (.cpyz h strm dsp ssp fe sc d a nblk) ∧
    issues { cmd .gather .glob dp true with ix := m } (ok3 .glob dp && sSrc false o) (rd3 .glob dp ++ [Rd.of o false eff])
      (.cpyg h strm dsp ssp fe sc d a ds o) ∧
    issues { cmd .scatter sp .glob true with ix := m } (ok3 sp .glob && sSrc false o) (rd3 sp .glob ++ [Rd.of o false eff])
      (.cpys h strm dsp ssp fe sc d a ds o) ∧
    issues { cmd .bcast sp .cmem false with ranks := (List.range 4).filter (fun r => m / 2 ^ r % 2 == 1)
                                            opOk := decide (m ≠ 0 ∧ m < 16) } (ok3 sp .cmem && sSrc false o)
      (rd3 sp .cmem ++ [Rd.of o false eff]) (.cpyb h strm dsp ssp fe sc d a ds o) ∧
    issues { cmd .send .glob .glob false with fe := false, opOk := epOk e, ep := e } (ok3 .glob .glob && sSrc false o)
      (rd3 .glob .glob ++ [Rd.of o false eff]) (.cpyxSend h strm dsp ssp fe sc d a ds o) ∧
    issues { cmd .fetch .glob .glob false with fe := false, opOk := epOk e, ep := e } (ok3 .glob .glob && sSrc false o)
      (rd3 .glob .glob ++ [Rd.of o false eff]) (.cpyxFetch h strm dsp ssp fe sc d a ds o)

/-- R321, R324 to R328, R330 to R343: a matrix word whose checks pass places the request of Table MX-2 with the operands that
its control block names. -/
def Obligations.MatrixWordsIssueRequests : Prop :=
  ∀ (s : Machine.State) (x : Ctx) (h : Hdr) (a cb v : Operand) (pitch : BitVec 32) (ta : MTy) (tb zi : Bool) (q : QTy)
    (g : QGroup) (act : ActFn) (t : DrainTy) (bias sat clr : Bool) (args : MxArgs),
    let eff := x.w.eff h
    let places (len : Nat) (cmd : MxCmd) (ok : Bool) (reads : List Rd) (i : Instr) : Prop :=
      Ready s x h ok reads false → (s.past x h len).mxCheck x.w eff cmd = .ok args →
        exec i s = .next ((s.past x h len).pushArr x.w h (.mx cmd.op args))
    let block : List Rd := cbReads cb eff
    let base (wide : Bool) : Nat := (x.read (if wide then .i64 else .i32) a 0).toNat
    let mem (o : MxOp) (i : Instr) : Prop :=
      places 16 { op := o, cb := some (regOf cb), base := base false, pitch := pitch.toNat, reg := none, hasPitch := true }
        (sSrc false a && blockReg cb) (Rd.of a false eff :: block) i
    let mem0 (o : MxOp) (i : Instr) : Prop :=
      places 16 { op := o, cb := some (regOf cb), base := base false, pitch := 0, reg := none, hasPitch := false }
        (sSrc false a && blockReg cb) (Rd.of a false eff :: block) i
    let alone (o : MxOp) (i : Instr) : Prop :=
      places 16 { op := o, cb := some (regOf cb), base := 0, pitch := 0, reg := none, hasPitch := false } (blockReg cb) block i
    let regs (o : MxOp) (i : Instr) : Prop :=
      places 16 { op := o, cb := some (regOf cb), base := 0, pitch := 0, reg := some (regOf v), hasPitch := false }
        (evenV x.w.alloc v && blockReg cb)
        ({ o := v, n := 2 * x.tileRows cb, lanes := if eff = 0 then 0 else fullMask } :: block) i
    (mem (.wldB 16) (.wld h .b16 a cb pitch) ∧ mem (.wldB 8) (.wld h .b8 a cb pitch) ∧
      mem (.wldQ 8 (gsize g)) (.wld h (.q8 g) a cb pitch) ∧ mem (.wldQ 4 (gsize g)) (.wld h (.q4 g) a cb pitch)) ∧
    places 8 { op := .flip, cb := none, base := 0, pitch := 0, reg := none, hasPitch := false } true [] (.wflip h) ∧
    (mem (.mms ta (planeTy ta tb) zi false) (.mms h ta tb zi (.mem a pitch) cb) ∧
      regs (.mms ta (planeTy ta tb) zi true) (.mms h ta tb zi (.regs v) cb)) ∧
    mem (.mmsq (qwidth q) (gsize g) zi) (.mmsq h q g zi a cb pitch) ∧ alone .aclr (.aclr h cb) ∧
    (mem (.ald false) (.ald h (.mem a pitch) cb) ∧ regs (.ald true) (.ald h (.regs v) cb)) ∧
    (mem (.ast false) (.ast h .gmem a cb pitch) ∧
      ((∀ c, a ≠ .special c) →
        places 16 { op := .ast true, cb := some (regOf cb), base := base true, pitch := pitch.toNat, reg := none, hasPitch := true }
          (sSrc true a && blockReg cb) (Rd.of a true eff :: block) (.ast h .glob a cb pitch))) ∧
    (mem (.adrn act t bias sat clr false) (.adrn h act t bias sat clr (.mem a pitch) cb) ∧
      places 16 { op := .adrn act t bias sat clr true, cb := some (regOf cb), base := 0, pitch := 0, reg := some (regOf v)
                  hasPitch := false } (evenV x.w.alloc v && blockReg cb) block (.adrn h act t bias sat clr (.regs v) cb)) ∧
    alone .amov (.amov h cb) ∧ mem .smx (.smx h a cb pitch) ∧ alone .smxrInit (.smxrInit h cb) ∧
    alone .smxrNorm (.smxrNorm h cb) ∧ mem0 .smxrRd (.smxrRd h a cb) ∧ mem0 .smxrWr (.smxrWr h a cb)

/-- R351, R364 to R367, R370 to R377: a fast-weight word whose checks pass places its request, and changes nothing else: binding,
handle and retention change when the request takes effect at the port, where CBIND takes the slot's binding for its warp
and CREL ends it and sets the retention that it names. That the checks see a slot as the warp's own requests on their way
will leave it is the model's choice (log entry 36). -/
def Obligations.FastWeightWordsIssueRequests : Prop :=
  ∀ (s : Machine.State) (x : Ctx) (h : Hdr) (d cs hd cb : Operand) (rec : Bool) (a : FwArgs),
    let eff := x.w.eff h
    let p := s.past x h 8
    let slot := x.n32 cs
    let cslot := (x.w.sreg (regOf cb)).val.toNat % 4
    let places (cmd : FwCmd) (ok : Bool) (reads : List Rd) (i : Instr) : Prop :=
      Ready s x h ok reads false → p.fwCheck x.w eff cmd = .ok a →
        exec i s = .next (p.pushArr x.w h (.fw cmd.op a))
    let one (op : FwOp) (i : Instr) : Prop :=
      places { op := op, slot := slot, cb := none } (sSrc false cs) [Rd.of cs false eff] i
    let block (op : FwOp) (i : Instr) : Prop :=
      places { op := op, slot := cslot, cb := some (regOf cb) } (blockReg cb) (cbReads cb eff) i
    (one .bind (.cbind h cs) ∧
      places { op := .bindSw (x.n32 hd), slot := slot, cb := none } (sSrc false cs && sSrc false hd)
        [Rd.of cs false eff, Rd.of hd false eff] (.cbindSw h cs hd) ∧
      one (.rel none) (.crel h cs) ∧ one (.rel (some true)) (.crelPin h cs) ∧ one (.rel (some false)) (.crelUnpin h cs) ∧
      block (.delta rec) (.delta h rec cb) ∧ block .dqry (.dqry h cb) ∧ one .spill (.cspill h cs) ∧ one .fill (.cfill h cs) ∧
      places { op := .stat (regOf d) false, slot := slot, cb := none } (sDst false d && sSrc false cs) [Rd.of cs false eff]
        (.cstat h d cs) ∧
      places { op := .stat (regOf d) true, slot := slot, cb := none } (sDst false d && sSrc false cs) [Rd.of cs false eff]
        (.cstatH h d cs)) ∧
    (∀ (c n : Nat) (r : ArrReq) (g : Group), (s.core c).arr[n]? = some r → r.accepted = true → r.performed = false →
      (∀ q ∈ (s.core c).arr.take n, r.waitsFor q = false) → s.group r.gid = some g →
      let k := s.core c
      (r.op = .fw .bind a → (s.slotOf r.gid r.wid).isSome = true → exec (.accumulatorPortAccess c n) s =
        .next (((s.setCore c (k.setRegions a.regs fun o => { o with bound := true, bwarp := r.wid })).setGroup r.gid
          { g with binds := g.binds.put a.slot r.wid }).arrDone c n [] none)) ∧
      (∀ pin : Option Bool, r.op = .fw (.rel pin) a →
        let k1 := k.setRegions a.regs fun o => { o with pin := pin.getD o.pin }
        exec (.accumulatorPortAccess c n) s =
          .next (((s.setCore c (k1.setRegions a.regs fun o => { o with bound := false, bwarp := 0 })).setGroup r.gid
            { g with binds := g.binds.del a.slot }).arrDone c n [] none)))

/-- R398, R399, R401, R404 to R406, R408: the spatial words. SPENTER of the launch's rectangle parks the other warps and starts
the switch; SPLEAVE starts the switch back; SPDRAIN waits; SPSTREAM and SPPARAM place a command in the FIFO of the generator
that the selector names, and complete; SPSTAT gives the status of the rectangle or the generator, and completes. That SPSTAT,
SPSTREAM and SPPARAM complete in the cycle in which they issue is the model's choice (log entry 38). -/
def Obligations.SpatialWordsAct : Prop :=
  ∀ (s : Machine.State) (x : Ctx) (h : Hdr) (l : Bool) (shape : Rect) (d a gs : Operand) (n : Src),
    let eff := x.w.eff h
    let p := s.past x h 8
    let pl := s.past x h (lenOf l)
    eff = fullMask → x.w.wid = 0 →
    (∀ (g : Group) (la : Launch), (∀ c, a ≠ .special c) → s.groupOf x.w = some g → s.launchOf x.w = some la →
      la.record.rect = some shape → Ready s x h (sSrc true a) [Rd.of a true eff] true →
      let c := g.cores.headD 0
      let park (q : Machine.State) (e : Nat × Nat) : Machine.State :=
        let q1 := (q.rollbackAt c e.2).flushAt c e.2
        match q1.warpAt c e.2 with
        | some w => q1.setWarpAt c e.2 { w with parked := true }
        | none => q1
      exec (.spenter h shape a) s =
        .next ((((g.slots.foldl (fun q e => if e.1 = 0 then q else park q e) p).setModes g.cores .switching).flushAt
          s.cur.1 s.cur.2).updWarp fun w => w.block (.spenter shape (x.read .i64 a 0)) x.w.pc h.set)) ∧
    (s.spatial = true →
      (Ready s x h true [] true →
        (∀ g, s.groupOf x.w = some g → exec (.spleave h) s =
          .next ((p.setModes g.cores .switching).updWarp fun w => w.block .spleave x.w.pc h.set)) ∧
        exec (.spdrain h) s = .next (p.updWarp fun w => w.block .spdrain x.w.pc h.set)) ∧
      (∀ f, s.fabrics.find? x.w.gid = some f → Ready s x h (sDst false d) [] true →
        exec (.spstatRect h d) s = .next (p.spResult h d f.status)) ∧
      (∀ f k g, p.selGen x.w eff (x.n32 gs) false = .ok (f, k, g) → Ready s x h (sDst false d && sSrc false gs) [Rd.of gs false eff] true →
        exec (.spstatGen h d gs) s = .next (p.spResult h d g.status) ∧
        exec (.spstatPos h d gs) s = .next (p.spResult h d (if g.active then BitVec.ofNat 32 g.pos else 0))) ∧
      (∀ (ext : Bool) (f : Fabric) (k : Nat) (g : Gen), pl.selGen x.w eff (x.n32 gs) ext = .ok (f, k, g) →
        let sent (c : GCmd) : Host.Outcome Machine.State Fault Refusal :=
          .next ((pl.setFabric x.w.gid (f.setGen k { g with fifo := g.fifo ++ [c] })).updWarp fun w => w.decFlag h.set)
        let v := x.n32Src n
        (Ready s x h (sSrc false gs && sSrc1 false n) (Rd.of gs false eff :: Rd.src n false eff) true →
          (ext = false → 1 ≤ v → v ≤ 65535 → exec (.spstream h l gs n) s = sent (.stream v)) ∧
          (ext = true → 1 ≤ v → exec (.spparamExt h l gs n) s = sent (.ext (x.n32 gs / 256 % 4) v))) ∧
        (∀ (ok : Bool), (∀ c, n ≠ .op (.special c)) → ok = (sSrc false gs && sSrc1 true n) →
          Ready s x h ok (Rd.of gs false eff :: Rd.src n true eff) true → ext = false →
          (x.readSrc .i64 n 0).toNat < 2 ^ 57 →
          exec (.spparamBase h l gs n) s = sent (.base (x.readSrc .i64 n 0).toNat))))

/-! ### Events of a core -/

/-- R9, R115, R259, R261, R266, R267: barriers and REGX. A phase of BAR with enough arrivals closes the barrier and completes every
arrived warp; a phase of CBAR at which every live warp of the instance waits completes them; a grid barrier that every live
group has reached, with no group of the launch without a place, completes in the groups of the core that its completion
reaches first; on a core that it reaches later, the warps of each group that wait at GBAR complete, and no other wait does;
a rendezvous of REGX whose warps all wait, whose deltas sum to zero and leave every allocation between 8 and 256 changes
every allocation by its delta; one that does not, or that names a warp which has exited, traps every participant. The arrivals at
a grid barrier pass the links to the leader's die, and its completion passes those to the groups (R9). Which rows pass from a giver
to a taker, and who takes part where masks differ, is the model's reading (log entry 24). -/
def Obligations.BarrierAndExchangeEvents : Prop :=
  ∀ s : Machine.State,
    (∀ (gid : Nat) (b : BitVec 4) (g : Group), s.group gid = some g → g.barDone (g.bars.get Barrier.closed b.toNat) = true →
      exec (.barrierPhaseComplete gid b) s =
        .next ((s.setGroup gid { g with bars := g.bars.del b.toNat }).unblockWarps (g.cores.headD 0)
          ((lanesOf (g.bars.get Barrier.closed b.toNat).arrived).filterMap fun wid => g.slots.find? wid))) ∧
    (∀ (lid inst : Nat) (b : BitVec 2), s.allWait (liveSlots (s.instance_ lid inst)) (fun w => w == .cbar b.toNat) = true →
      exec (.cbarPhaseComplete lid inst b) s = .next (s.unblockAll (liveSlots (s.instance_ lid inst)))) ∧
    (∀ (lid c : Nat) (l : Launch), s.launch lid = some l →
      let here := s.groups.filter fun p => p.2.launch == lid
      let live := here.filter fun p => !p.2.slots.isEmpty
      let reached := ((s.groups.filter fun p => p.2.launch == lid && p.2.cores.contains c).map (·.1))
      let lead := (s.liveDies l).headD 4
      let told := live.foldl (fun (t : Machine.State) p => t.pass (dieOf (p.2.cores.headD 0)) lead) s
      (live ≠ [] → (∀ p ∈ live, p.2.gphase = l.gphase) → s.allWait (liveSlots live) (fun w => w == .gbar) = true →
        l.record.gx * l.record.gy * l.record.gz ≤ here.length + l.retired.length + l.lost.length →
        exec (.gbarCompletion lid c) s = .next (reached.foldl Machine.State.gbarArrive
          { told with launches := s.launches.put lid { l with gphase := l.gphase + 1 } })) ∧
      ((∃ p ∈ live, p.2.gphase ≠ l.gphase) →
        exec (.gbarCompletion lid c) s = .next (reached.foldl Machine.State.gbarArrive s) ∧
        (∀ gid g, reached = [gid] → s.group gid = some g → g.launch = lid → g.gphase < l.gphase →
          exec (.gbarCompletion lid c) s = .next (((g.slots.map fun q => (g.cores.headD 0, q.2)).filter fun p =>
              (s.warpAt p.1 p.2).any fun w => w.wait == .gbar).foldl (fun a p => a.unblockAt p.1 p.2)
            ((s.pass lead (dieOf (g.cores.headD 0))).setGroup gid { g with gphase := l.gphase }))))) ∧
    (∀ (c j : Nat) (w : Warp) (g : Group) (d : Int) (m : Word), s.warpAt c j = some w → w.wait = .regx d m →
      s.group w.gid = some g →
      let ps := s.regxParty c g m
      let trapped (q : Machine.State) (js : List Nat) : Machine.State := js.foldl (fun a i => a.trapWait c i
        { code := cRegx, xaddr := 0, xmask := fullMask, origin := 0, unit := 0, detail := 0, wr := false }) q
      ((∃ i ∈ maskMembers m, (g.retired.find? i).isSome = true) →
        exec (.regxCommit c j) s = .next (trapped s (ps.map (·.1)))) ∧
      ((∀ i ∈ maskMembers m, g.retired.find? i = none) → (maskMembers m).length ≤ ps.length → (∀ p ∈ ps, (s.core c).writesPending p.2.1 = false) →
      let s1 := s.flushAll c (ps.map (·.1))
      let qs := s1.regxParty c g m
      let commits := (∀ q ∈ qs, q.2.2.2 = m) ∧ (qs.map fun q => q.2.2.1).sum = 0 ∧
        (∀ q ∈ qs, 8 ≤ (q.2.1.alloc : Int) + 8 * q.2.2.1 ∧ (q.2.1.alloc : Int) + 8 * q.2.2.1 ≤ 256)
      (commits → exec (.regxCommit c j) s = .next ((s1.regxGive c qs []).1.regxTake c qs (s1.regxGive c qs []).2)) ∧
      (¬ commits → exec (.regxCommit c j) s = .next (trapped s1 (qs.map (·.1))))))

/-- R264, R268, R269, R271, R272, R407, R174, R175: waits. A read of WAITM that satisfies its comparison completes it with the value
read, one that does not is noted, one that meets poison or an error traps; an address of global memory is translated again
for each read (R185, R421), and that a translation which fails by then traps is the model's choice (log entry 66); BARW
completes when PHASE differs; a wait that is still unmet when its budget has run out takes the steep-timer trap, but under .TMO
it completes: BARW and WAITM write zero to the predicate, and LDFE writes the mask of the lanes that it has served, with their
data (R175); an LDFE completes when every lane is served. -/
def Obligations.WaitEvents : Prop :=
  ∀ (s : Machine.State) (c j : Nat) (w : Warp), s.warpAt c j = some w →
    (∀ m : WaitmState, w.wait = .waitm m →
      (∀ pa z f, m.loc = .glob pa z → s.probe c (s.asidOf w) m.ea.toNat .read = .error f →
        exec (.waitmReread c j) s = .next (s.trapWait c j (trapAt f.code fullMask f.detail (addrNat m.ea)))) ∧
      (∀ l : Loc, ((∃ pa z pa' z', m.loc = .glob pa z ∧ s.probe c (s.asidOf w) m.ea.toNat .read = .ok (pa', z') ∧
          l = .glob pa' z') ∨ (∃ g off, m.loc = .sram g off ∧ l = m.loc)) →
        (∀ t, s.waitRead l m.bytes m.ea = .error t → exec (.waitmReread c j) s = .next (s.trapWait c j t)) ∧
        (∀ v, s.waitRead l m.bytes m.ea = .ok v →
          let s1 := (s.walkLoc c (s.asidOf w) l m.ea).locAccess (.core c) l m.bytes .read
          (m.holds v = true →
            exec (.waitmReread c j) s = .next (s1.finishWait c j (sWriteW m.wide m.d v ++ tmoWrite m.tmo true))) ∧
          (m.holds v = false → exec (.waitmReread c j) s = .next (s1.setWarpAt c j
            { w with wait := .waitm { m with loc := l, value := v, lastRead := (s.core c).cycle, seen := s.writes } }))))) ∧
    (∀ loc ea cm p tmo, w.wait = .barw loc ea cm p tmo →
      (∀ t, s.waitRead loc 8 ea = .error t → exec (.waitmReread c j) s = .next (s.trapWait c j t)) ∧
      (∀ v, s.waitRead loc 8 ea = .ok v →
        (v.getLsbD 32 ≠ p → exec (.waitmReread c j) s = .next (s.finishWait c j (tmoWrite tmo true))) ∧
        (v.getLsbD 32 = p → exec (.waitmReread c j) s = .next s))) ∧
    (∀ w1 : Warp, w.wait.counts = true → s.budget w ≤ w.steep.toNat →
      let s1 := s.tryAnyWait c j
      s1.warpAt c j = some w1 → w1.wait.counts = true → s1.budget w1 ≤ w1.steep.toNat →
      let traps := exec (.steepTimerExpiry c j) s = .next (s1.trapWait c j (trapAt cSteep fullMask w1.wait.peer w1.wait.ea))
      (∀ loc ea cm p tmo, w1.wait = .barw loc ea cm p tmo → (tmo = none → traps) ∧ (∀ k, tmo = some k →
        exec (.steepTimerExpiry c j) s = .next (s1.finishWait c j [.k k.toNat fullMask 0]))) ∧
      (∀ m, w1.wait = .waitm m → (m.tmo = none → traps) ∧ (∀ k, m.tmo = some k →
        exec (.steepTimerExpiry c j) s =
          .next (s1.finishWait c j (sWriteW m.wide m.d m.value ++ [.k k.toNat fullMask 0])))) ∧
      (∀ l, w1.wait = .ldfe l → (l.tmo = none → traps) ∧ (∀ k, l.tmo = some k →
        exec (.steepTimerExpiry c j) s = .next (s1.finishWait c j l.writes))) ∧
      ((∀ l, w1.wait ≠ .ldfe l) → (∀ m, w1.wait ≠ .waitm m) → (∀ loc ea cm p tmo, w1.wait ≠ .barw loc ea cm p tmo) → traps)) ∧
    (∀ l : LdfeState, w.wait = .ldfe l →
      let r := s.serveLanes l l.todo 32
      (r.2.pending = 0 → exec (.ldfeServe c j) s =
        .next (r.1.setWarpAt c j ((w.complete (s.core c).cycle w.order r.2.writes).unblock (s.core c).cycle))) ∧
      (r.2.pending ≠ 0 → exec (.ldfeServe c j) s = .next (r.1.setWarpAt c j { w with wait := .ldfe r.2 })))

/-- R134, R183, R106, R457: the oldest float instruction of a warp, and a load-store instruction without an error, complete once
their time has come: they leave the unit, their destinations are written and their flag falls; so does, at its Err, a load
or an atomic of which a lane met an error reply, with the lanes' tags and no fault. -/
def Obligations.CompletionsWriteAndLowerFlag : Prop :=
  ∀ (s : Machine.State) (c : Nat),
    (∀ (j : Nat) (w : Warp) (before after : List AluOp) (o : AluOp), s.warpAt c j = some w →
      (s.core c).alu = before ++ o :: after → (∀ p ∈ before, ¬ (p.gid = w.gid ∧ p.wid = w.wid)) →
      o.gid = w.gid → o.wid = w.wid → o.due ≤ (s.core c).cycle →
      exec (.variableAluCompletion c j) s =
        .next ((s.setCore c { s.core c with alu := before ++ after }).setWarpAt c j ((w.complete (s.core c).cycle o.ord o.writes).decFlag o.flag))) ∧
    (∀ (before after : List LsOp) (o : LsOp) (g : Group) (j : Nat) (w : Warp), (s.core c).ls = before ++ o :: after →
      o.due ≤ (s.core c).cycle → o.fault = none → s.group o.gid = some g → g.cores.headD 0 = c →
      g.slots.find? o.wid = some j → s.warpAt c j = some w → w.gid = o.gid → w.wid = o.wid →
      let done := (s.setCore c { s.core c with ls := before ++ after }).setWarpAt c j
        ((w.complete (s.core c).cycle o.ord o.writes).decFlag o.flag)
      (o.err = false → exec (.lsCompletion c before.length) s = .next done) ∧
      (o.err = true → exec (.err (.access c before.length)) s = .next done))

/-- R13, R14, R68, R182, R185, R434: a core takes an instruction word that it does not hold into its L1 instruction cache, which
holds 8192 words, through its cluster's instruction cache, and a translation into its L1 TLB from the L2 TLB of its cluster,
which takes it from a walk that finds a page; R234, R305: a trap that waited is entered once its warp's engine requests have
written their registers, and a pending fault is delivered at the warp's next word once that may issue, or at the blocking
instruction in which it waits, which is rolled back. Which words a full cache gives up is the model's choice (log entry
57). -/
def Obligations.FetchWalkAndDelivery : Prop :=
  ∀ (s : Machine.State) (c j : Nat) (w : Warp), s.warpAt c j = some w →
    (∀ (va : BitVec 57) (x : DWord),
      let a := va.toNat / 8 * 8
      ∀ (pa : Nat) (z : Bool), s.fetchWord c (s.asidOf w) a = .ok x → s.probe c (s.asidOf w) a .fetch = .ok (pa, z) →
      (∀ e ∈ (s.core c).icache, ¬ (e.asid = s.asidOf w ∧ e.va = a)) →
      let s1 := (s.walked c (s.asidOf w) a).clusterFetch c pa
      exec (.instructionFetch c j va) s = .next (s1.setCore c { s1.core c with
        icache := ({ asid := s.asidOf w, va := a, word := x } :: (s1.core c).icache).take 8192 })) ∧
    (∀ (asid : BitVec 12) (va : BitVec 57) (t : Xlate), (s.core c).tlbFind asid.toNat va.toNat = none →
      let entry : TlbEntry := { asid := asid.toNat, va := va.toNat / t.size * t.size, tr := t }
      let held := tlbLookup (s.l2tlbOf (clusterOf c)) asid.toNat va.toNat
      let takes (q : Machine.State) : Machine.State := q.setCore c { q.core c with tlb := entry :: (q.core c).tlb }
      (held = some t → exec (.pageWalk c asid va) s = .next (takes s)) ∧
      (∀ sp : Machine.Space, held = none → s.space asid.toNat = some sp → s.walk sp va.toNat = .ok t →
        let s0 := s.walked c asid.toNat va.toNat
        exec (.pageWalk c asid va) s = .next (takes { s0 with l2tlb := (clusterOf c, entry) :: s0.l2tlb }))) ∧
    (∀ tw, w.trapWait = some tw → (s.core c).writesPending w = false →
      exec (.trapEntry c j) s = .next ((s.flushAt c j).enterTrap c j tw)) ∧
    (∀ t rest, w.faults = t :: rest → w.faultDue = true →
      let s1 := s.setWarpAt c j { w with faults := rest }
      (w.wait = .none → s.eligible c j = true →
        exec (.pendingFaultDelivery c j) s = .next (s1.takeTrapAt c j (w.pc.setWidth 64) t)) ∧
      (∀ g : Group, w.wait ≠ .none → (∀ f n, w.wait ≠ .waitf f n) → s.groupOf w = some g → g.run = .running →
        (w.wait = .gbar → s.gbarDue w.gid = false) →
        exec (.pendingFaultDelivery c j) s = .next (s1.trapWait c j t)))

/-! ### Events of the engines -/

/-- R290, R298 to R305, R310, R312: the copy engine. The oldest request of a stream copies its next element, with poison as zeros
and a poisoned destination, or ends in error where an access meets an error reply or a link is down; a CPYZ asks the home for each
block of device HBM before it reads it, with one request, and a dirty line that the home then has written back is merged with its
block; CPYX sends a write or a read to its port over its die's link and waits; a granule whose writes are all performed becomes full; a request with
nothing left completes. That only the oldest request of a stream acts, that its elements act in walk order, that a CPYX has one
element outstanding, and that the local access is the failing one where a link is down, are the model's choices (log entries 31,
67). -/
def Obligations.CopyEvents : Prop :=
  ∀ (s : Machine.State) (c : Nat) (strm : Stream) (before after : List CopyReq) (r : CopyReq),
    headOf strm (s.core c).copy = some (before, r, after) →
    (∀ (x : CopyElem) (rest : List CopyElem), r.elems = x :: rest → r.waiting = none →
      (∀ a b, x.src = some a → x.dst = some b →
        let g := s.lsRead 0 r.es a
        (g.tag = .fabric → exec (.copyElement c strm) s = .next (s.copyFail c strm 8 x.sa false)) ∧
        (g.tag ≠ .fabric → s.locErr b = true → exec (.copyElement c strm) s = .next (s.copyFail c strm 8 x.da true)) ∧
        let eng : Party := .die (dieOf c)
        let s1 := s.copySource c r x a
        ((r.kind ≠ .cpyz ∨ (∃ pa z, a = .glob pa z ∧ 2 ^ 41 ≤ pa)) → s1 = s.locAccess eng a r.es .read) ∧
        (∀ pa z, r.kind = .cpyz → a = .glob pa z → pa < 2 ^ 41 → s1 = if x.e % 64 = 0 then s.blockRead (dieOf c) pa else s) ∧
        (g.tag = .poison → s.locErr b = false → exec (.copyElement c strm) s =
          .next (((s1.locStore eng b (leBytes r.es 0)).locPoison b).setHead c strm fun q => { q with elems := rest })) ∧
        (g.tag = .clean → s.locErr b = false → exec (.copyElement c strm) s =
          .next ((s1.locStore eng b (leBytes r.es g.val)).setHead c strm fun q => { q with elems := rest }))) ∧
      (∀ a, x.src = some a → x.dst = none →
        let g := s.lsRead 0 r.es a
        let t := s.linkTag c strm (epPort r.ep)
        (g.tag = .fabric → exec (.copyElement c strm) s = .next (s.copyFail c strm 8 x.sa false)) ∧
        (g.tag ≠ .fabric → (s.port (epPort r.ep)).st ≠ .up →
          exec (.copyElement c strm) s = .next (s.copyFail c strm 0x10 x.sa false)) ∧
        (g.tag ≠ .fabric → (s.port (epPort r.ep)).st = .up → exec (.copyElement c strm) s =
          .next ((((s.copySource c r x a).pass (dieOf c) 4).sendFlit (epPort r.ep)
            (.write t (epWin r.ep) (addrNat x.da) (leBytes r.es g.val) (g.tag == .poison))).setHead c strm fun q =>
              { q with waiting := some t }))) ∧
      (∀ b, x.src = none → x.dst = some b →
        let t := s.linkTag c strm (epPort r.ep)
        ((s.port (epPort r.ep)).st ≠ .up → exec (.copyElement c strm) s = .next (s.copyFail c strm 0x10 x.da true)) ∧
        ((s.port (epPort r.ep)).st = .up → exec (.copyElement c strm) s =
          .next (((s.pass (dieOf c) 4).sendFlit (epPort r.ep) (.read t (epWin r.ep) (addrNat x.sa) r.es)).setHead c strm
            fun q => { q with waiting := some t })))) ∧
    (∀ d line : Nat, (s.line line).idle = true → (s.line line).dir = .x ∨ (s.line line).dir = .o →
      (s.line line).recallBit = false → (s.line line).agent (s.line line).owner = .m → (s.line line).owner < 4 →
      s.tagOf (line / 4) = 0x08#8 → s.compLines.has line = false →
      (s.homeServes line d .blk).hbm = putBytes s.hbm (128 * line) (s.memRead (128 * line) 128) ∧
        (s.transact line d .blk).hbm = putBytes s.hbm (128 * line) (s.memRead (128 * line) 128)) ∧
    (∀ d pa : Nat, let n := pa / 512 * 4
      (∀ k < 4, (s.line (n + k)).idle = true) → s.blockRead d pa =
        ((List.range 4).foldl (fun (t : Machine.State) k => t.homeServes (n + k) d .blk) (s.passOn d (homeOf n) 0)).passOn
          (homeOf n) d 3) ∧
    (∀ (n : Nat) (g : Loc) (rest : List Loc), takeAt n r.grans = some (g, rest) → granuleDone r.es r.elems g = true →
      exec (.copyGranuleFull c strm n) s = .next ((s.setFull g true).setHead c strm fun q => { q with grans := rest })) ∧
    (r.elems = [] → r.grans = [] → r.waiting = none → r.ended = none →
      exec (.copyRequestCompletion c strm) s =
        .next ((s.setCore c { s.core c with copy := before ++ after }).completeOf r.gid r.wid 0 [] r.flag)) ∧
    (∀ t, r.elems = [] → r.grans = [] → r.waiting = none → r.ended = some t → (s.core c).streamPending strm = false →
      exec (.copyRequestCompletion c strm) s =
        .next (((s.setCore c { s.core c with copy := before ++ after }).completeOf r.gid r.wid 0 [] r.flag).pendFault
          r.lid r.gid r.wid t))

/-- R306 to R308, R310: a written-back line of a raw block leaves the block raw; one of a block that reads as poisoned leaves it
raw with its other sectors poisoned; otherwise the block is expanded, the line's bytes replace its own, and the block is
stored in the first format of R308 that can hold it when the line is marked compressed, and raw when it is not. -/
def Obligations.BlockMergeRetags : Prop :=
  ∀ (s : Machine.State) (line : BitVec 34),
    let n := line.toNat
    let blk := n / 4
    let secs := [2 * n, 2 * n + 1]
    let hbm := putBytes s.hbm (128 * n) (s.memRead (128 * n) 128)
    let marks := secs.foldl (fun a k => a.assign k (s.secPoisoned k)) s.hbmPoison
    let old := decodeBlock ((s.tagOf blk).toNat / 32) (bytesAt s.hbm (512 * blk) 512)
    let new := old.take (128 * (n % 4)) ++ s.memRead (128 * n) 128 ++ old.drop (128 * (n % 4) + 128)
    (s.tagOf blk = 0x08#8 → s.compLines.has n = false →
      exec (.blockMerge line) s = .next { s with hbm := hbm, hbmPoison := marks }) ∧
    ((s.tagOf blk ≠ 0x08#8 ∨ s.compLines.has n = true) → s.blockPoisoned blk = true →
      exec (.blockMerge line) s = .next { s with
        hbm := hbm, tags := s.tags.put blk 0x08#8
        hbmPoison := (((List.range 8).map (· + 8 * blk)).filter fun k => !secs.contains k).foldl NSet.add marks }) ∧
    (s.compLines.has n = true → s.blockPoisoned blk = false →
      exec (.blockMerge line) s = .next { s with
        hbm := putBytes s.hbm (512 * blk) (encodeBlock (chooseFormat new) new), hbmPoison := marks
        tags := s.tags.put blk (tagFor (chooseFormat new)) }) ∧
    (s.tagOf blk ≠ 0x08#8 → s.compLines.has n = false → s.blockPoisoned blk = false →
      exec (.blockMerge line) s = .next { s with
        hbm := putBytes s.hbm (512 * blk) new, hbmPoison := marks, tags := s.tags.put blk 0x08#8 })

/-- R16, R17, R32, R320, R321, R329, R367: the requests of the matrix engine and the fast-weight unit. A request is accepted at an
array-cycle boundary, which every second core cycle is; at the accumulator port it takes effect whole, if it waits for no
earlier one, and one that meets poison changes nothing and has a pending fault; one that has taken effect completes. Which
of two cycles is the boundary, the order in which poisoned inputs are looked for, and that an effect is one step are the
model's choices (log entries 60, 35); so is what a fast-weight request does that meets an error (log entries 36, 37). -/
def Obligations.ArrayRequestEvents : Prop :=
  ∀ (s : Machine.State) (c n : Nat) (r : ArrReq),
    ((s.core c).arr[n]? = some r → ((s.core c).cycle + (s.core c).phase) % 2 = 0 →
      exec (.arrayRequestAccept c n) s = .next (s.setArr c n { r with accepted := true })) ∧
    ((s.core c).arr[n]? = some r → ((s.core c).cycle + (s.core c).phase) % 2 = 1 →
      exec (.arrayRequestAccept c n) s = .next s) ∧
    ((s.core c).arr[n]? = some r → r.accepted = true → r.performed = false →
      (∀ q ∈ (s.core c).arr.take n, r.waitsFor q = false) →
      (∀ o a, r.op = .mx o a →
        (∀ t, s.mxPoison c r.gid o a = some t → exec (.accumulatorPortAccess c n) s = .next (s.arrDone c n [] (some t))) ∧
        (s.mxPoison c r.gid o a = none →
          let e := s.mxEffect c r.gid o a
          exec (.accumulatorPortAccess c n) s = .next (e.1.arrDone c n e.2.1 e.2.2))) ∧
      (∀ o a, r.op = .fw o a → exec (.accumulatorPortAccess c n) s = .next (s.fwPerform c n r o a))) ∧
    (∀ rest, takeAt n (s.core c).arr = some (r, rest) → r.performed = true → r.abandoned = false →
      let s1 := (s.setCore c { s.core c with arr := rest }).completeOf r.gid r.wid r.ord r.writes r.flag
      (r.fault = none →
        (r.isFw = false → exec (.matrixRequestCompletion c n) s = .next s1) ∧
        (r.isFw = true → exec (.fwRequestCompletion c n) s = .next s1)) ∧
      (∀ t, r.fault = some t →
        (r.isFw = false → exec (.matrixRequestCompletion c n) s = .next (s1.pendFault r.lid r.gid r.wid t)) ∧
        (r.isFw = true → exec (.fwRequestCompletion c n) s = .next (s1.pendFault r.lid r.gid r.wid t))))

/-- R355 to R357, R361, R362, R370, R378: the spill and the fill of a culture, and an eviction. A spilling culture is written to
its record and its regions are freed, a failed spill being logged, or given as its fault to the CBIND.SW that asked for it,
whether it spills its old culture or the new one's pinned copy; a filling culture is loaded and owned, FERR telling whether the
fill failed, and a CBIND.SW then binds the slot and gives it the handle; every region of a pinned culture of which one is reserved
starts to spill. That the bytes of a record are written or read in one step, and that a CBIND.SW whose spill fails loses the old
culture, are the model's choices (log entries 36, 37). -/
def Obligations.CultureEvents : Prop :=
  ∀ (s : Machine.State) (c : Nat) (i : BitVec 4) (sp : Machine.Space),
    let o := (s.core c).ownAt i.toNat
    let regs := (s.core c).sameCulture i.toNat
    s.space o.asid = some sp →
    (o.st = .spilling → (s.core c).swapAt i.toNat .spillOld = none → s.copySpiller o.asid o.handle = none →
      let sw := s.walkedPages c o.asid (recordVa sp o.handle) (recordSize (16 * o.dv16) (16 * o.dk16))
      let p := sw.spill c (s.liveTr c o.asid .write) (recordVa sp o.handle) regs (16 * o.dv16) (16 * o.dk16) o.handle o.asid
      let s1 := p.1.setCore c ((p.1.core c).setRegions regs Own.release)
      (p.2 = none → exec (.cultureSpill c i) s = .next s1) ∧
      (∀ bad, p.2 = some bad → exec (.cultureSpill c i) s = .next (s1.logDie 6 (dieOf c) c (BitVec.ofNat 64 o.handle)))) ∧
    (∀ n r a, o.st = .spilling → (s.core c).swapAt i.toNat .spillOld = some (n, r, a) →
      let p := s.spill c (heldTr a.pages) (recordVa sp o.handle) regs (16 * o.dv16) (16 * o.dk16) o.handle o.asid
      let s1 := p.1.setCore c ((p.1.core c).setRegions regs Own.release)
      (p.2 = none → exec (.cultureSpill c i) s = .next (s1.setArr c n { r with stage := .spillNew })) ∧
      (∀ bad, p.2 = some bad → exec (.cultureSpill c i) s = .next (s1.arrDone c n [] (some
        { code := cFabric, xaddr := BitVec.ofNat 64 bad, xmask := fullMask, origin := 6, unit := 0, detail := 3, wr := true })))) ∧
    (∀ d n r a, o.st = .spilling → (s.core c).swapAt i.toNat .spillOld = none →
      s.copySpiller o.asid o.handle = some (d, n, r, a) →
      let p := s.spill c (heldTr a.pages) (recordVa sp o.handle) regs (16 * o.dv16) (16 * o.dk16) o.handle o.asid
      let s1 := p.1.setCore c ((p.1.core c).setRegions regs Own.release)
      (p.2 = none → exec (.cultureSpill c i) s = .next (s1.setArr d n { r with stage := .spillNew })) ∧
      (∀ bad, p.2 = some bad → exec (.cultureSpill c i) s = .next (s1.arrDone d n [] (some
        { code := cFabric, xaddr := BitVec.ofNat 64 bad, xmask := fullMask, origin := 6, unit := 0, detail := 3, wr := true })))) ∧
    (o.st = .filling → (s.core c).swapAt i.toNat .fill = none →
      let sw := s.walkedPages c o.asid (recordVa sp o.handle) (recordSize (16 * o.dv16) (16 * o.dk16))
      let p := sw.fill c (s.liveTr c o.asid .read) (recordVa sp o.handle) regs (16 * o.dv16) (16 * o.dk16) o.handle o.asid true
      exec (.cultureFill c i) s = .next (p.1.setCore c ((p.1.core c).setRegions regs fun x =>
        { x with st := .owned, ferr := p.2, resv := none }))) ∧
    (∀ n r a, o.st = .filling → (s.core c).swapAt i.toNat .fill = some (n, r, a) →
      let p := s.fill c (heldTr a.pages) (recordVa sp o.handle) regs (16 * o.dv16) (16 * o.dk16) o.handle o.asid true
      let s1 := p.1.setCore c ((p.1.core c).setRegions regs fun x => { x with st := .owned, ferr := p.2, resv := none })
      exec (.cultureFill c i) s = .next (((s1.bindSlot c r.gid a.slot regs
        (if (s1.slotOf r.gid r.wid).isSome then some r.wid else none)).setHandle r.gid a.slot o.handle).arrDone c n [] none)) ∧
    (o.st = .pinned → (∃ j ∈ regs, ((s.core c).ownAt j).resv.isSome = true) →
      exec (.cultureEviction c i) s =
        .next (s.setCore c ((s.core c).setRegions regs fun x => { x with st := .spilling })))

/-- R386, R387, R393 to R395, R401 to R404, R406, R410: the spatial fabric. SPENTER commits when the rectangle is empty, its image
is well formed and the queues fit, or is rolled back with a trap; SPLEAVE commits and SPDRAIN completes when the rectangle is
empty; a node fires; a generator starts its round, reads its next element or ends its round; a generator's fault is delivered to
the control thread, at its next word once that may issue or at the spatial word in which it waits. That an image is read in one
step, in which order its faults are reported, how the cases of R388 to R390 combine, and the code of the fault kinds are the
model's choices (log entries 38, 62, 39, 40). -/
def Obligations.SpatialEvents : Prop :=
  ∀ (s : Machine.State) (c j gid idx k : Nat) (w : Warp) (g : Group) (f : Fabric),
    (s.warpAt c j = some w → s.group w.gid = some g →
      (∀ r image, w.wait = .spenter r image → (∀ old, s.fabrics.find? w.gid = some old → old.empty = true) →
        (∀ t, s.loadImage c (s.asidOf w) r image.toNat = .error t → exec (.spenterCommit c j) s = .next (s.trapWait c j t)) ∧
        (∀ bs, s.loadImage c (s.asidOf w) r image.toNat = .ok bs →
          let new := fabricOf r image bs
          (∀ q, s.shortQuad g.cores new.nodes new.depth = some q → exec (.spenterCommit c j) s =
            .next (s.trapWait c j (trapAt cConfig (BitVec.ofNat 32 q) 0x11 image.toNat))) ∧
          (s.shortQuad g.cores new.nodes new.depth = none → exec (.spenterCommit c j) s =
            .next (((((s.walkedPages c (s.asidOf w) image.toNat bs.length).readThrough (.core c) (s.liveTr c (s.asidOf w) .read)
              image.toNat bs.length).setFabric w.gid new).setModes g.cores .spatial).unblockAt c j)))) ∧
      (s.rectEmpty w.gid = true →
        (w.wait = .spleave → exec (.spleaveCommit c j) s =
          .next ((({ s with fabrics := s.fabrics.del w.gid }.setModes g.cores .simt).unpark g).unblockAt c j)) ∧
        (w.wait = .spdrain → exec (.spdrainComplete c j) s = .next (s.unblockAt c j)))) ∧
    (s.fabrics.find? gid = some f →
      (∀ n f', f.nodes[idx]? = some n → n.op ≠ 0x00 → n.op ≠ 0x15 → n.op ≠ 0x16 →
        (f.fire (s.groupIndex gid) idx n = some f' → exec (.nodeFiring gid idx) s = .next (s.setFabric gid f')) ∧
        (f.fireEoi idx n = some f' → exec (.eoiFiring gid idx) s = .next (s.setFabric gid f'))) ∧
      (∀ gn n t, f.nodes[idx]? = some n → n.op = 0x16 → f.genOf idx = some (k, gn) → f.input n 0 = some t → gn.active = true →
        gn.fault = none → exec (.nodeFiring gid idx) s = .next (s.sinkFire gid f n k gn t)) ∧
      (∀ gn n rest, f.gens.find? k = some gn → f.nodes[gn.node]? = some n → n.port = none → gn.active = false →
        gn.fault = none → ∀ m, (gn.applyCmds gn.fifo).fifo = .stream m :: rest →
        exec (.generatorRoundStart gid k) s = .next (s.setFabric gid (f.setGen k { gn.applyCmds gn.fifo with
          active := true, pwait := false, ready := false, pos := 0, fifo := .stream (m - 1) :: rest }))) ∧
      (∀ gn n, f.gens.find? k = some gn → f.nodes[gn.node]? = some n → gn.sink = false → gn.active = true → gn.fault = none →
        f.roomFor n 1 = true →
        (gn.total ≤ gn.pos → exec (.genElementRead gid k) s = .next (s.setFabric gid ((f.emit n eoiTok).setGen k gn.endRound))) ∧
        (gn.pos < gn.total →
          let p := s.genPlace gid gn
          (∀ e, s.genProbe p.1 p.2 k gn = .error e → exec (.genElementRead gid k) s =
            .next (s.failGen gid f k { gn with fault := some e, taken := false })) ∧
          (∀ pa comp, s.genProbe p.1 p.2 k gn = .ok (pa, comp) → exec (.genElementRead gid k) s =
            .next (((s.walkedAll p.1 p.2 [gn.addr gn.pos]).access (.core p.1) pa gn.esize .read).setFabric gid
              ((f.emit n (valueTok (s.memPoisoned pa gn.esize) (BitVec.ofNat 32 (leNat (s.memRead pa gn.esize))))).setGen k
                { gn with pos := gn.pos + 1 })))))) ∧
    (∀ (gn : Gen) (t : Trap), s.warpAt c j = some w → s.fabrics.find? w.gid = some f → f.pending = some (k, gn) →
      gn.fault = some t → w.wid = 0 → w.genFaultDue = true →
      let s1 := s.setFabric w.gid { f.setGen k { gn with taken := true } with handling := some k }
      (w.wait = .none → s.eligible c j = true →
        exec (.generatorFaultDelivery c j) s = .next (s1.takeTrapAt c j (w.pc.setWidth 64) t)) ∧
      (∀ g' : Group, w.wait ≠ .none → s.groupOf w = some g' → g'.run = .running →
        exec (.generatorFaultDelivery c j) s = .next (s1.trapWait c j t)))

/-! ### Placement and contexts -/

/-- R160, R221, R249, R275 to R278, R281, R355: a placed group starts with its peers once it may start, every member that starts
with it has its place, and every peer's cultures are ready on cores that take groups; the cultures of a group without warps leave
once its requests have completed, pinned ones to stay and the others to spill; a group without warps, requests or cultures, whose
memory nothing reaches, retires. -/
def Obligations.GroupLifeEvents : Prop :=
  ∀ (s : Machine.State) (gid : Nat) (g : Group) (l : Launch), s.group gid = some g → s.launch g.launch = some l →
    (g.run = .placed →
      let s1 := s.prepare gid g l
      let ps := s1.peers g l
      (s1.mayStart g l = true → allPlaced g l ps = true → (∀ p ∈ ps, s1.startOpen p.2 l = true ∧ s1.culturesReady p.1 p.2 l = true) →
        exec (.groupDispatch gid) s = .next (ps.foldl (fun a p => match a.launch g.launch with
          | some l' => a.startGroup p.1 p.2 l'
          | none => a) s1)) ∧
      (s1.mayStart g l = false ∨ allPlaced g l ps = false ∨ (∃ p ∈ ps, s1.startOpen p.2 l = false ∨ s1.culturesReady p.1 p.2 l = false) →
        exec (.groupDispatch gid) s = .next s1)) ∧
    (g.run = .running → g.slots = [] → (s.core (g.cores.headD 0)).arrIdle gid = true →
      let mine (o : Own) : Bool := o.gid == some gid && o.st == OwnState.owned
      ((∀ i < 16, mine ((s.core (g.cores.headD 0)).ownAt i) = false) → exec (.groupDeparture gid) s = .next s) ∧
      ((∃ i < 16, mine ((s.core (g.cores.headD 0)).ownAt i) = true) →
        exec (.groupDeparture gid) s = .next ({ s with seq := s.seq + 1 }.setCore (g.cores.headD 0)
          ((s.core (g.cores.headD 0)).mapOwn mine fun o =>
            if o.pin then { o with st := .pinned, gid := none, bound := false, bwarp := 0, since := s.seq }
            else { o with st := .spilling, gid := none, bound := false, bwarp := 0 })))) ∧
    (g.run = .running → g.slots = [] → (s.core (g.cores.headD 0)).idleFor gid = true →
      (∀ r < 16, ((s.core (g.cores.headD 0)).ownAt r).gid ≠ some gid) → (l.record.clSize ≠ 1 → s.accessed gid = false) →
      exec (.groupRetire gid) s =
        .next (((s.pass (dieOf (g.cores.headD 0)) 4).vacate gid g).updLaunch g.launch fun l => { l with retired := l.retired.add g.index }))

/-- R243, R244, R246, R279 to R283, R428, R429: pre-emption. The arbiter asks for the least prefix of the cores it may name that
makes room, while no request of its is outstanding; the drain step ends when its budget has run out or the core has learnt that a
gang core saves, its groups stop, and the other gang cores learn of it; a placed group that has not started gives up its place,
with those that must not start before it, which its die tells the leader; a quiet group whose gang has stopped is saved and
leaves, or is reset when its record cannot be written; a group whose save budget has run out is not saved any more, and is reset
with its gang; the saved unit that the order names is placed and
restored. Which die acts first is the model's reading (log 41), and so is what a poisoned byte or mark of a record restores (log
42); the model's choices are that a record's writes take one step (log 37), that a restored parameter fault has a free payload
(log 43), that the groups of `unstarted` give up their places and are placed again (log 71), and what a record's dmark outside a
handler and HALTREC.SLOT hold (logs 73, 74), that a failed save leaves no byte written (log 76), what a forced reset clears (log 77)
and which bytes of a record count (log 75). -/
def Obligations.ContextEvents : Prop :=
  ∀ s : Machine.State,
    (∀ (d : BitVec 2) (u : WorkUnit) (l : Launch) (xs : List Nat), (∀ p ∈ s.cores, ∀ r ∈ p.2.pre, r.arb ≠ some d.toNat) →
      s.blockedOn d.toNat = some (u, l) → l.preempt = true →
      s.enough d.toNat u (s.victims d.toNat l.prio) 1 (s.victims d.toNat l.prio).length = some xs →
      exec (.preemptionRequest d) s = .next (s.request xs none false (some d.toNat))) ∧
    (∀ (c n : Nat) (r : PreReq), (s.core c).pre[n]? = some r → r.step = .drain →
      (r.budget ≤ (s.core c).cycle - r.since ∨ r.told = true) →
      exec (.drainBudgetExpiry c n) s =
        .next (r.gids.foldl (fun a g => a.stopGroup g) ((s.setCore c { s.core c with
          pre := (s.core c).pre.set n { r with step := .save, since := (s.core c).cycle } }).tellGangs c r.gids))) ∧
    (∀ (gid : Nat) (g : Group) (l : Launch), s.group gid = some g → s.launch g.launch = some l → s.saving gid g = true →
      g.run = .placed → g.resumed = false → (∀ p ∈ s.unstarted g l, s.quiet p.1 p.2 = true) → exec (.groupSave gid) s =
        .next ((s.unstarted g l).foldl (fun (a : Machine.State) p =>
          (((a.pass (dieOf (p.2.cores.headD 0)) ((a.liveDies l).headD 4)).depart (p.2.cores.headD 0) p.1).vacate p.1 p.2).updLaunch
            g.launch fun k =>
            k.putBack (dieOf (p.2.cores.headD 0)) p.2.index) s).rejudge) ∧
    (∀ (gid : Nat) (g g1 : Group) (l : Launch) (sp : Machine.Space), s.group gid = some g → s.launch g.launch = some l →
      s.saving gid g = true → (g.run ≠ .placed ∨ g.resumed = true) →
      let late : Prop := ∃ c ∈ g.cores, ∃ r ∈ (s.core c).pre, r.step = .save ∧ gid ∈ r.gids ∧
        ∃ sp0, s.space l.asid = some sp0 ∧ sp0.saveb ≤ (s.core c).cycle - r.since
      (late → exec (.groupSave gid) s = .next (s.resetGang gid)) ∧
      (¬ late → (∀ p ∈ s.gangOf g, p.2.run ≠ .running) → s.quiet gid g = true → (l.record.clSize ≠ 1 → s.accessed gid = false) →
      let s1 := s.boundaryFaults gid g
      s1.group gid = some g1 → s1.space l.asid = some sp →
      (∀ s2 i, s1.writeRecord gid g1 l sp = some (s2, i) → exec (.groupSave gid) s = .next (s2.leaveSaved gid g1 i)) ∧
      (s1.writeRecord gid g1 l sp = none → exec (.groupSave gid) s = .next (s1.resetGang gid)))) ∧
    (∀ (c n : Nat) (r : PreReq), (s.core c).pre[n]? = some r → r.step = .save →
      (∀ gid ∈ r.gids, ∃ g l sp, s.group gid = some g ∧ s.launch g.launch = some l ∧ s.space l.asid = some sp ∧
        sp.saveb ≤ (s.core c).cycle - r.since) →
      exec (.saveBudgetExpiry c n) s = .next (r.gids.foldl (fun a g => a.resetGang g) s)) ∧
    (∀ (d : BitVec 2) (p : Picked) (l : Launch), let s0 := s.noteBlocked d.toNat
      s0.pick d.toNat = some p → p.unit.saved = true → s0.launch p.unit.lid = some l →
      (∀ t, p.after.restoreAll p.unit.lid l p.unit.idxs = .ok t → exec (.groupResume d) s =
        .next ((p.unit.idxs.foldl (fun (a : Machine.State) i => match l.saved.find? i with
          | some sv => (a.freeRecord l.asid sv.rec_).updLaunch p.unit.lid fun x => { x with saved := x.saved.del i }
          | none => a) t).countBypass s0 p)) ∧
      (∀ addr slot pc i c, p.after.restoreAll p.unit.lid l p.unit.idxs = .error (.fault addr slot pc, i, c) →
        exec (.groupResume d) s = .next (s0.haltContext l.asid (resumeHalt c slot pc addr))))

/-! ### The launch engine -/

/-- R414 to R419: the registers of a queue once the device runs. Setting ENABLE reads and checks the descriptor, and halts the queue
with ERR 5 when it cannot be read, ERR 8 when it is malformed or its ASID is in use under another descriptor, and ERR 2 when
LOG2SZ is outside 12 to 26; clearing it stops the queue after its packet in progress, until which STATE is what it was; a write pointer that is not a multiple
of 64 below the ring's size halts the queue with ERR 3; RESET clears the queue and RESUME enables a halted one again, but one that is stopping. The order
of the checks at enabling, the zero ERRDET of ERR 2 and ERR 3, which descriptor's values are used, that RESET discards a packet
in progress other than a LAUNCH and that RESUME keeps the error fields are the model's reading (log 45); which descriptors are
malformed (descOk) is its choice for bases at or above 2^57, a CSAS that is no multiple of 4096, a CSAN above 65536 and a SAVEB of
0 (log 72). -/
def Obligations.QueueRegisterEvents : Prop :=
  ∀ (s : Machine.State) (q : BitVec 7) (v : BitVec 32), s.boot = .on →
    let i := q.toNat
    let x := s.queue i
    let on : Queue := { x.withCfg v with enable := true, stopping := false, st := .enabled, err := 0, errdet := 0, erroff := 0 }
    ((x.enable = false ∨ x.stopping = true) →
      let t := s.setQueue i on
      let pa := x.desc.toNat * 128
      let read := t.access .hub pa 96 .read
      let fails (err : Nat) : Prop := exec (.qcfgEnableSet q v) s =
        .next ((read.setQueue i { on with asid := none }).haltQueue i err 0 x.rp.toNat)
      (read.hubRead pa 96 = none → fails 5) ∧
      (∀ b, read.hubRead pa 96 = some b →
        let a := field b 0 2 % 4096
        let bound := ((if read.asidUsed a i = true then read else { read.forgetAsid a with
            spaces := read.spaces.put a (spaceOfDesc pa b) }).setQueue i
          { on with asid := some a, space := some (spaceOfDesc pa b) })
        (descOk b = false ∨ (∃ o, read.asidUsed a i = true ∧ read.space a = some o ∧ o.desc ≠ pa) → fails 8) ∧
        (descOk b = true → (∀ o, read.asidUsed a i = true → read.space a = some o → o.desc = pa) →
          ((x.log2sz.toNat < 12 ∨ 26 < x.log2sz.toNat) →
            exec (.qcfgEnableSet q v) s = .next (bound.haltQueue i 2 0 x.rp.toNat)) ∧
          (∀ sp, 12 ≤ x.log2sz.toNat → x.log2sz.toNat ≤ 26 → (bound.queue i).asid = some a → bound.space a = some sp →
            (bound.haltReason sp ≠ 0 → exec (.qcfgEnableSet q v) s = .next (bound.haltQueue i 7 0 x.rp.toNat)) ∧
            (bound.haltReason sp = 0 → exec (.qcfgEnableSet q v) s = .next bound))))) ∧
    (x.enable = true → exec (.qcfgEnableClear q v) s = .next (s.setQueue i (
      if x.work ≠ .none then { x with enable := false, stopping := true }
      else { x with enable := false, stopping := false, st := .disabled }))) ∧
    (x.enable = false → exec (.qcfgEnableClear q v) s = .next (s.setQueue i (x.withCfg v))) ∧
    (let wp := v.extractLsb' 0 26
     (wp.toNat % 64 = 0 → wp.toNat < 2 ^ x.log2sz.toNat → exec (.qwpWrite q v) s = .next (s.setQueue i { x with wp := wp })) ∧
     (wp.toNat % 64 ≠ 0 ∨ 2 ^ x.log2sz.toNat ≤ wp.toNat → exec (.qwpWrite q v) s = .next (s.haltQueue i 3 0 wp.toNat))) ∧
    (let cleared (w : QWork) : Machine.State := (s.setQueue i { x with
       enable := false, stopping := false, st := .disabled, rp := 0, wp := 0, seq := 0, err := 0, errdet := 0, erroff := 0
       work := w }).dropStale i
     ((∀ l, x.work ≠ .launch l) → exec (.qctlReset q) s = .next (cleared .none)) ∧
     (∀ l, x.work = .launch l → exec (.qctlReset q) s = .next (cleared (.launch l)))) ∧
    (x.st = .halted → x.stopping = true → exec (.qctlResume q) s = .next s) ∧
    (x.st = .halted → x.stopping = false → (x.err ≠ 7 ∨ ∀ a sp, x.asid = some a → s.space a = some sp → s.haltReason sp = 0) →
      exec (.qctlResume q) s = .next ((s.setQueue i { x with st := .enabled }).bindQueue i true).1) ∧
    exec (.qstatIrqClear q) s = .next (s.setQueue i { x with irq := false })

/-- R248, R357, R424, R429, R430: PREQ. A pre-emption reaches every core that runs groups of the address space, or the one named;
with a hold the address space is held as well; a release ends the hold. A kill is the forced reset of the address space: every
resident group loses its warps, its requests in flight and its accumulator regions, which become zero and free, gives up its
place and counts as not retired; saved groups' records are set free; pinned cultures are zeroed and freed; the hold ends; every
launch of the address space starts nothing more and is complete, for its completion record, once nothing is in flight for it;
and every queue bound to the address space stops as a cleared ENABLE stops it. -/
def Obligations.PreemptionRegisterEvents : Prop :=
  ∀ (s : Machine.State) (asid : BitVec 12) (all : Bool) (core : BitVec 9), s.boot = .on →
    let cores := (if all then List.range 512 else [core.toNat]).filter fun c => !(s.concerned c (some asid.toNat)).isEmpty
    let asked := s.request cores (some asid.toNat) false
    exec (.preqPreempt asid all core) s = .next asked ∧
    exec (.preqPreemptHold asid all core) s = .next { asked with heldAsids := asked.heldAsids.add asid.toNat } ∧
    exec (.preqReleaseHold asid) s = .next { s with heldAsids := s.heldAsids.remove asid.toNat } ∧
    let A := asid.toNat
    let s0 := (List.range 4).foldl (fun (t : Machine.State) d => t.exchange 4 d) s
    let mine := (s.groups.filter fun p => (s.launch p.2.launch).any fun l => l.asid == A).map (·.1)
    let s1 := mine.foldl (fun t gid => t.resetGroup gid false) s0
    let s2 := ((s1.launches.filter fun p => p.2.asid == A).map (·.1)).foldl (fun t lid => match t.launch lid with
      | some l => (l.saved.foldl (fun u p => u.freeRecord A p.2.rec_) t).updLaunch lid fun x =>
          { x with saved := [], again := [], grants := [], back := [], killed := true }
      | none => t) s1
    let zeroed (k : Machine.Core) : Machine.Core :=
      let regs := (List.range 16).filter fun i => (k.ownAt i).st == .pinned && (k.ownAt i).asid == A
      { k with own := regs.foldl (fun m i => m.set Own.free i (k.ownAt i).release) k.own
               acc := k.acc.filter fun p => !regs.contains (p.1 / 4096)
               accPoison := k.accPoison.filter fun row => !regs.contains (row / 64) }
    let s3 := { s2 with cores := s2.cores.map (fun p => (p.1, zeroed p.2)), heldAsids := s2.heldAsids.remove A }
    exec (.preqKill asid) s = .next ((List.range 128).foldl (fun t i =>
      let x := t.queue i
      let busy := x.work != .none
      if x.asid = some A ∧ x.enable = true then
        t.setQueue i { x with enable := false, stopping := busy, st := if busy = true then x.st else .disabled }
      else t) s3) ∧
    (∀ (t : Machine.State) (gid : Nat) (g : Group), t.group gid = some g →
      let c := g.cores.headD 0
      let k := t.core c
      let regs := (List.range 16).filter fun i => (k.ownAt i).gid == some gid
      let rows := (List.range 16).filter fun i => (k.ownAt i).gid == some gid || (k.ownAt i).resv.any fun r => r.1 == gid
      let k1 := { k with
        warps := k.warps.filter fun p => p.2.gid != gid
        ls := k.ls.filter fun o => o.gid != gid, alu := k.alu.filter fun o => o.gid != gid
        copy := k.copy.filter fun r => r.gid != gid, arr := k.arr.filter fun r => r.gid != gid
        own := (List.range 16).foldl (fun m i => m.set Own.free i (if regs.contains i then ((k.ownAt i).unreserve gid).release
          else (k.ownAt i).unreserve gid)) k.own
        acc := k.acc.filter fun p => !regs.contains (p.1 / 4096)
        accPoison := k.accPoison.filter fun row => !regs.contains (row / 64) }
      let k2 := { k1 with active := Plane.zero, shadow := Plane.zero
                          sideM := k.sideM.filter fun p => !rows.contains (p.1 / 64)
                          sideL := k.sideL.filter fun p => !rows.contains (p.1 / 64)
                          sidePoison := k.sidePoison.filter fun r => !rows.contains (r / 64) }
      t.resetGroup gid false = ((t.setCore c (if t.matrixGroup gid = true then k2 else k1)).vacate gid g).updLaunch g.launch fun l =>
        { l with lost := l.lost.add g.index, saved := l.saved.del g.index, again := l.again.remove g.index }) ∧
    (∀ (t : Machine.State) (lid : Nat) (l : Launch), l.killed = true → l.saved = [] → t.busyFor lid = false →
      t.launchDone lid l = true)

/-- R185, R268, R416, R420 to R423, R426: packets. A packet at the head of a queue that passes its checks moves RP past it. NOP
completes; WAIT reads its location, completes when the comparison holds, and halts the queue when its timeout has passed; SIGNAL
writes or adds its value; INVAL removes translations and completes once no request of its marking holds one; IFLUSH discards
code on its dies; LAUNCH makes its record a pending launch. A record that fails its checks halts the queue with ERR 4. A WAIT
translates its address anew at each read; that a failing translation then ends it as a failing read does is the model's reading
(log 66), and so are the bytes that a failing check names (log 45). The model's choices are that the hub holds no translations
(log 44) and that each access takes one step (log 4). -/
def Obligations.PacketEvents : Prop :=
  ∀ (s : Machine.State) (q : BitVec 7),
    let i := q.toNat
    let t := s.ringRead i
    let x := t.queue i
    let asid := x.asid.getD 0
    let s1 := t.advance i
    let waited (s : Machine.State) : Machine.State := s.waitStep i
    (∀ b, s.headOf i = .packet b →
      (field b 0 1 = 0 → exec (.nopPacket q) s = .next (s1.endPacket i true (field b 1 1 == 1))) ∧
      (field b 0 1 = 2 →
        (∀ f, t.hubXlate x.space (field b 8 8) .read = .error f →
          exec (.waitPacket q) s = .next ((t.hubWalked x.space (field b 8 8)).haltQueue i 5 8 x.rp.toNat)) ∧
        (∀ pa comp, t.hubXlate x.space (field b 8 8) .read = .ok (pa, comp) →
          exec (.waitPacket q) s = .next (waited (s1.setQueue i { s1.queue i with
            work := .wait x.rp.toNat (field b 8 8) (2 ^ field b 3 1) (field b 2 1) (BitVec.ofNat 64 (field b 16 8)) s1.hub s1.hub
              (field b 4 4) (field b 1 1 == 1) })))) ∧
      (field b 0 1 = 3 →
        let sg := (t.hubWalked x.space (field b 8 8)).advance i
        ∀ pa comp,
        (field b 2 1 = 0 → t.hubXlate x.space (field b 8 8) .write = .ok (pa, comp) → sg.errReply pa = false →
          exec (.signal q) s =
            .next ((sg.store .hub pa (leBytes 8 (field b 16 8)) comp).endPacket i true (field b 1 1 == 1))) ∧
        (field b 2 1 = 1 → t.hubXlate x.space (field b 8 8) .rmw = .ok (pa, comp) → sg.errReply pa = false →
          sg.memPoisoned pa 8 = false → exec (.signal q) s =
            .next ((sg.store .hub pa (leBytes 8 (sg.memNat pa 8 + field b 16 8)) comp).endPacket i true (field b 1 1 == 1)))) ∧
      (field b 0 1 = 5 →
        let dies := (List.range 4).filter fun d => field b 2 1 / 2 ^ d % 2 == 1
        exec (.iflush q) s = .next (((coresOf dies).foldl (fun a c => a.dropCode c (s1.asidOfQueue i) fun va =>
          !(decide (field b 8 8 ≤ va) && decide (va < field b 8 8 + field b 16 4)))
          (dies.foldl (fun a d => a.exchange 4 d) s1)).endPacket i true (field b 1 1 == 1))) ∧
      (field b 0 1 = 1 →
        let tw := t.hubWalked x.space (field b 8 8)
        ∀ pa comp, tw.hubProbe x.space (field b 8 8) .read = .ok (pa, comp) →
        let u := tw.access .hub pa 256 .read
        u.memPoisoned pa 256 = false →
        let rb := u.memRead pa 256
        (∀ o, firstBad (recordChecks rb) = some o → exec (.launch q) s = .next (u.haltQueue i 4 o (u.queue i).rp.toNat)) ∧
        (firstBad (recordChecks rb) = none →
          let r := recordOf rb
          let l : Launch :=
            { id := BitVec.ofNat 64 (2 ^ 56 * i + x.seq.toNat), queue := i, asid := asid, space := x.space, off := x.rp.toNat
              record := r
              prio := min r.prio x.qprio.toNat
              dies := r.dieSet.filter fun d => !u.fenced.has d && (u.dies.get DieSt.initial d).mode == .running
              readAt := u.hub, preempt := x.preempt, irq := field b 1 1 == 1, constAt := u.writes, gphase := 0, fault := false
              next := 0, grants := [], back := [], started := [], retired := [], lost := [], again := [], saved := []
              freshDone := [], unadmit := false, killed := false }
          let v := u.advance i
          let s2 := { v with seq := v.seq + 1 }
          let s3 := s2.setQueue i { s2.queue i with work := .launch v.seq }
          exec (.launch q) s = .next ({ s3 with launches := s3.launches.put v.seq l }.judge v.seq)))) ∧
    (∀ b, s.headOf i = .packet b → field b 0 1 = 4 → (s.queue i).work = .none →
      let s2 := s1.invalidate i (s1.asidOfQueue i) (field b 8 8 / 4096) (field b 16 4)
      let s3 := s2.setQueue i { s2.queue i with work := .inval (field b 1 1 == 1) }
      (s3.staleLeft i = true → exec (.inval q) s = .next s3) ∧
      (s3.staleLeft i = false → exec (.inval q) s = .next (s3.endPacket i true (field b 1 1 == 1)))) ∧
    (∀ irq, (s.queue i).work = .inval irq → s.staleLeft i = false → exec (.inval q) s = .next (s.endPacket i true irq)) ∧
    (∀ off va n cond value start last timeout irq, (s.queue i).work = .wait off va n cond value start last timeout irq →
      let late := timeout ≠ 0 ∧ 1024 * timeout < s.hub - start
      let sw := s.hubWalked (s.queue i).space va
      (late → exec (.waitReread q) s = .next (s.failPacket i off 6 0)) ∧
      (∀ f, ¬ late → s.hubXlate (s.queue i).space va .read = .error f → exec (.waitReread q) s = .next (sw.failPacket i off 5 8)) ∧
      (∀ pa comp, ¬ late → s.hubXlate (s.queue i).space va .read = .ok (pa, comp) →
        let u := sw.access .hub pa n .read
        (u.errReply pa = true ∨ u.memPoisoned pa n = true → exec (.waitReread q) s = .next (u.failPacket i off 5 8)) ∧
        (u.errReply pa = false → u.memPoisoned pa n = false →
          (waitHolds cond (u.memNat pa n) value.toNat = true → exec (.waitReread q) s = .next (u.endPacket i true irq)) ∧
          (waitHolds cond (u.memNat pa n) value.toNat = false → exec (.waitReread q) s =
            .next (u.setQueue i { u.queue i with work := .wait off va n cond value start s.hub timeout irq })))) ∧
      (timeout ≠ 0 → 1024 * timeout ≤ s.hub - start → exec (.waitTimeout q) s = .next (s.failPacket i off 6 0)))

/-- R424, R427, R428, R431, R432: a die takes the fresh unit that its order names, and the dies on which it is placed count a
bypass of a launch blocked there; a leader grants a die that can take more of the launch a chunk of at most 64 indices rounded down
to whole cluster instances; a grant
is live once the leader has heard of it from every live die and the front end; a launch that is complete writes its completion
record with the descriptor's values of its packet, and its queue goes on, or halts with ERR 9
when a write fails. Which die acts first, when a die can take more, and that the leader takes a concurrent grid, are the model's reading (log 41); that
the writes of the completion record take one step is its choice (logs 4 and 37). -/
def Obligations.AdmissionAndCompletion : Prop :=
  ∀ s : Machine.State,
    (∀ (d : BitVec 2) (p : Picked), let s0 := s.noteBlocked d.toNat
      s0.pick d.toNat = some p → p.unit.saved = false →
      exec (.launchAdmission d) s =
        .next ((p.after.updLaunch p.unit.lid fun l => l.took d.toNat).countBypass s0 p)) ∧
    (∀ (lid : Nat) (d : BitVec 2) (l : Launch), s.launch lid = some l → l.unadmit = false → l.killed = false →
      l.record.gclass ≠ 0 → (∀ g ∈ l.grants, g.die ≠ d.toNat) → (s.liveDies l).has d.toNat = true →
      let takes : Prop := ∃ u, s.freshUnit lid l d.toNat = some u ∧ (s.placeWork d.toNat u).isSome = true
      (¬ takes → exec (.chunkRequest lid d) s = .next s) ∧
      (takes → l.back = [] → l.next < l.record.count →
        let hi := min l.record.count (l.next + l.record.clSize * (64 / l.record.clSize))
        exec (.chunkRequest lid d) s = .next { s.exchange d.toNat ((s.liveDies l).headD 4) with
          launches := s.launches.put lid { l with next := hi
                                                  grants := l.grants ++ [{ die := d.toNat, lo := l.next, hi := hi, live := false }] } }) ∧
      (l.back = [] → l.record.count ≤ l.next → exec (.chunkRequest lid d) s = .next s)) ∧
    (∀ (lid n : Nat) (l : Launch) (g : Grant), s.launch lid = some l → l.grants[n]? = some g →
      let heard := (s.liveDies l ++ [4]).foldl (fun (a : Machine.State) d => a.exchange ((s.liveDies l).headD 4) d) s
      (g.live = false → exec (.grantAcknowledged lid n) s = .next { heard with
        launches := heard.launches.put lid { l with grants := l.grants.set n { g with live := true } } }) ∧
      (g.live = true → exec (.grantAcknowledged lid n) s = .next s)) ∧
    (∀ (lid : Nat) (l : Launch), s.launch lid = some l → s.launchDone lid l = true →
      let w := s.hubWrites l.space l.completion
      let s1 := { w.1 with launches := w.1.launches.del lid }
      (w.2 = true → exec (.launchCompletion lid) s = .next (s1.endPacket l.queue true l.irq)) ∧
      (w.2 = false → exec (.launchCompletion lid) s = .next (s1.failPacket l.queue l.off 9 0 true)))

/-! ### Coherence between the dies -/

/-- R442 to R444, R446, R447, R457, R459: a caching agent of a die sends RdS or RdX from I, or from S or E after dropping its
clean copy, and Upg from S or O, and holds the transient state of its request; an atomic, a block request or a flush leaves a
stable state as it is. The home takes a request that has arrived, behind the line's earlier ones, and those that arrive in one
home cycle in increasing die number; in a later cycle, when no transaction is in progress, it begins the first one. A Blk asks for
a block, of which the home serves one line after another. A fenced home takes none but serves those that it has taken. When a message takes its step, and that each agent has one request
outstanding per line, and that a Blk stands at one line at a time, are the model's choices (logs 10 and 46). -/
def Obligations.CoherenceRequests : Prop :=
  ∀ (s : Machine.State) (line : BitVec 34) (a : BitVec 2),
    let A := a.toNat
    let sends (L : Nat) (i : Instr) (r : Req) (old new : AgentSt) : Prop :=
      s.fenced.has (homeOf L) = false → s.fenced.has A = false → s.asked L A r = false → (s.line L).agent A = old →
        exec i s = .next ((s.setAgent L A new).send A (homeOf L) L (.req r))
    let rereads (L : Nat) (i : Instr) (r : Req) (old new : AgentSt) : Prop :=
      s.fenced.has (homeOf L) = false → s.fenced.has A = false → s.asked L A r = false → (s.line L).agent A = old →
        exec i s = .next (((s.l1Drop A L).setAgent L A new).send A (homeOf L) L (.req r))
    let taken (L : Nat) (i : Instr) (r : Req) : Prop :=
      let h := homeOf L
      (s.asked L A r = false → s.fenced.has h = true → exec i s = .next s) ∧
      (s.asked L A r = true →
        (s.fenced.has h = true ∨ s.deliver A h L (.req r) = none →
          (∀ q rest sn, (s.line L).txn = none → (s.line L).queue = q :: rest → q.a = A → q.req = r → q.at_ < (s.die h).clk →
            sn = snoops (s.line L) A r →
            let t : Txn := { a := A, req := r, phase := .hs, awaiting := (sn.map (·.1)).foldl NSet.add [], wbWait := [], wbGot := []
                             bi := [], kept := false, dirty := false }
            let s1 := s.touchL2 L
            let e1 : LineSt := { s.line L with queue := rest, resv := (s1.line L).resv }
            (sn = [] → exec i s = .next ((s1.setLine L e1).finishTxn L t true)) ∧
            (sn ≠ [] → exec i s =
              .next (sn.foldl (fun b p => b.send h p.1 L p.2) (s1.setLine L { e1 with txn := some t })))) ∧
          ((∀ q ∈ (s.line L).queue.head?, q.a ≠ A ∨ q.req ≠ r ∨ (s.die h).clk ≤ q.at_) → exec i s = .next s)) ∧
        (s.fenced.has h = false → ∀ s1 before after, s.deliver A h L (.req r) = some s1 → (s1.line L).queue = before ++ after →
          (∀ q ∈ before, q.at_ < (s1.die h).clk ∨ q.at_ = (s1.die h).clk ∧ q.a ≤ A) →
          (∀ q ∈ after.head?, ¬ (q.at_ < (s1.die h).clk ∨ q.at_ = (s1.die h).clk ∧ q.a ≤ A)) →
          exec i s = .next (s1.setLine L { s1.line L with
            queue := before ++ { a := A, req := r, at_ := (s1.die h).clk } :: after })))
    let L := line.toNat
    let lines := (List.range 4).map (· + L / 4 * 4)
    let stands (k : Nat) : Bool := (s.line k).queue.any (fun q => q.a == A && q.req == .blk) ||
      (s.line k).txn.any fun t => t.a == A && t.req == .blk
    let B := (lines.find? stands).getD (L / 4 * 4)
    (rereads L (.rds line a) .rdS .i .is ∧ rereads L (.rds line a) .rdS .s .is ∧ rereads L (.rds line a) .rdS .e .is ∧
      rereads L (.rdx line a) .rdX .i .ix ∧ rereads L (.rdx line a) .rdX .s .ix ∧ rereads L (.rdx line a) .rdX .e .ix ∧
      sends L (.upg line a) .upg .s .sx ∧ sends L (.upg line a) .upg .o .sx ∧
      (∀ x ∈ [AgentSt.i, .s, .e, .m, .o], (∀ ret, sends L (.atomRequest line a ret) (.atom ret) x x) ∧
        sends B (.blk line a) .blk x x ∧ sends L (.flush line a) .flush x x)) ∧
    (taken L (.rds line a) .rdS ∧ taken L (.rdx line a) .rdX ∧ taken L (.upg line a) .upg ∧
      (∀ ret, taken L (.atomRequest line a ret) (.atom ret)) ∧ taken B (.blk line a) .blk ∧ taken L (.flush line a) .flush) ∧
    (∀ (t : Machine.State) (k : Nat) (x : Txn) (m : Msg), x.req = .blk →
      (k % 4 = 3 → t.replies k x m = t.send (homeOf k) x.a (k / 4 * 4) m) ∧
      (k % 4 ≠ 3 → (t.line (k + 1)).queue = [] → t.replies k x m = t.setLine (k + 1) { t.line (k + 1) with
        queue := [{ a := x.a, req := .blk, at_ := (t.die (homeOf k)).clk }] }))


/-- R443, R444, R454, Table PF-7: an agent's answer to a snoop and what it holds afterwards, and what its L1 data caches keep. A
clean copy may have been dropped before: the choice 1 says so. The host's agent answers through the back-invalidates of both
sectors. -/
def Obligations.SnoopEvents : Prop :=
  ∀ (s s1 : Machine.State) (line : BitVec 34) (b : BitVec 3),
    let L := line.toNat
    let B := b.toNat
    let h := homeOf L
    let x := (s1.line L).agent B
    let turns (i : Instr) (r : Msg) (new : AgentSt) : Prop :=
      exec i s = .next ((((if r = .rspI ∨ new = .i then s1.l1Drop B L else s1.l1Share B L)).setAgent L B new).send B h L r)
    let chosen (i : Instr) (r : Msg) (new : AgentSt) : Prop :=
      let c := s1.choose
      exec i s = .next (if c.1 = 1 then ((c.2.l1Drop B L).setAgent L B .i).send B h L .rspI
        else ((if r = .rspI then c.2.l1Drop B L else c.2.l1Share B L).setAgent L B new).send B h L r)
    (B ≠ 4 → s.deliver h B L .snpS = some s1 →
      (x = .i → turns (.snps line b) .rspI .i) ∧ (x = .s ∨ x = .e → chosen (.snps line b) .rspS .s) ∧
      (x = .m ∨ x = .o → turns (.snps line b) .snpD .o) ∧ (x = .xw → turns (.snps line b) .rspWbP .xw) ∧
      (x = .is ∨ x = .ix → turns (.snps line b) .rspI x) ∧ (x = .sx → turns (.snps line b) .rspS .sx)) ∧
    (B ≠ 4 → s.deliver h B L .snpC = some s1 →
      (x = .i → turns (.snpc line b) .rspI .i) ∧ (x = .s ∨ x = .e → chosen (.snpc line b) .rspS .s) ∧
      (x = .m ∨ x = .o → turns (.snpc line b) .snpD .s) ∧ (x = .xw → turns (.snpc line b) .rspWbP .xw) ∧
      (x = .is ∨ x = .ix → turns (.snpc line b) .rspI x) ∧ (x = .sx → turns (.snpc line b) .rspS .sx)) ∧
    (B ≠ 4 → s.deliver h B L .snpI = some s1 →
      (x = .i → turns (.snpi line b) .rspI .i) ∧ (x = .s ∨ x = .e → chosen (.snpi line b) .rspI .i) ∧
      (x = .m ∨ x = .o → turns (.snpi line b) .snpD .i) ∧
      (x = .xw → exec (.snpi line b) s = .next (((s1.l1Drop B L).setAgent L B .xw).send B h L .rspWbP)) ∧
      (x = .is ∨ x = .ix → turns (.snpi line b) .rspI x) ∧ (x = .sx → turns (.snpi line b) .rspI .ix)) ∧
    (B = 4 →
      let asked : Machine.State := s1.setLine L { s1.line L with
        txn := (s1.line L).txn.map fun t => { t with bi := [2 * L, 2 * L + 1], kept := false } }
      (s.deliver h B L .snpS = some s1 → exec (.snps line b) s = .next asked) ∧
      (s.deliver h B L .snpC = some s1 → exec (.snpc line b) s = .next asked) ∧
      (s.deliver h B L .snpI = some s1 → exec (.snpi line b) s = .next asked))

/-- R442, R443, R445: answers at the home. RspI takes the agent out of the directory, SnpD marks the data dirty, RspWbP waits for
the write-back or joins the one that came first, and the transaction goes on when nothing is outstanding; Ack ends it. A
write-back of an owner merges the line with its block, takes the owner out of the directory and is acknowledged. One that comes
while a transaction of the line is in progress and waits for it lets that go on; one whose agent has yet to answer a snoop is
written to memory, and acknowledged with that answer. -/
def Obligations.HomeAnswers : Prop :=
  ∀ (s s1 : Machine.State) (line : BitVec 34) (a : BitVec 2) (t : Txn),
    let L := line.toNat
    let A := a.toNat
    let h := homeOf L
    let e := s1.line L
    let t1 := { t with awaiting := t.awaiting.remove A }
    (e.txn = some t → t.awaiting.has A = true →
      (s.deliver A h L .rspI = some s1 →
        exec (.rspi line a) s = .next ((s1.setLine L { e.clear A with txn := some t1 }).advanceTxn L)) ∧
      (s.deliver A h L .rspS = some s1 →
        exec (.rsps line a) s = .next ((s1.setLine L { e with txn := some t1 }).advanceTxn L)) ∧
      (s.deliver A h L .snpD = some s1 → snoopKind t.req e.recallBit A ≠ .snpI →
        exec (.snpd line a) s = .next ((s1.setLine L { e with txn := some { t1 with dirty := true } }).advanceTxn L)) ∧
      (s.deliver A h L .snpD = some s1 → snoopKind t.req e.recallBit A = .snpI →
        exec (.snpd line a) s = .next ((s1.setLine L { e.clear A with txn := some { t1 with dirty := true } }).advanceTxn L)) ∧
      (s.deliver A h L .rspWbP = some s1 → t.wbGot.has A = false →
        exec (.rspwbp line a) s =
          .next (s1.setLine L { e with txn := some { t1 with wbWait := t1.wbWait.add A, phase := .hd } })) ∧
      (s.deliver A h L .rspWbP = some s1 → t.wbGot.has A = true →
        exec (.rspwbp line a) s = .next (((s1.setLine L { e.clear A with
          txn := some { t1 with wbGot := t.wbGot.remove A } }).send h A L .wbAck).advanceTxn L))) ∧
    (∀ b : BitVec 3, s.deliver b.toNat h L .ack = some s1 → e.txn = some t → t.phase = .ha → t.a = b.toNat →
      exec (.ack line b) s = .next (s1.setLine L { e with txn := none })) ∧
    (s.deliver A h L .wbD = none → ((s.line L).agent A = .m ∨ (s.line L).agent A = .o) → s.fenced.has A = false →
      exec (.wbd line a) s = .next (((s.l1Drop A L).setAgent L A .xw).send A h L .wbD)) ∧
    (s.deliver A h L .wbD = some s1 → e.txn = none →
      (e.dir = .x ∨ e.dir = .o → e.owner = A →
        exec (.wbd line a) s = .next (((s1.mergeLine L).setLine L (e.clear A)).send h A L .wbAck)) ∧
      (e.owner ≠ A → exec (.wbd line a) s = .next (s1.send h A L .wbAck))) ∧
    (s.deliver A h L .wbD = some s1 → e.txn = some t →
      let merged := s1.mergeLine L
      (t.wbWait.has A = true → exec (.wbd line a) s = .next (((merged.setLine L { e.clear A with
        txn := some { t with wbWait := t.wbWait.remove A } }).send h A L .wbAck).advanceTxn L)) ∧
      (t.wbWait.has A = false → t.awaiting.has A = true → exec (.wbd line a) s =
        .next (merged.setLine L { e with txn := some { t with wbGot := t.wbGot.add A } })) ∧
      (t.wbWait.has A = false → t.awaiting.has A = false →
        ((e.dir = .x ∨ e.dir = .o) → e.owner = A → exec (.wbd line a) s =
          .next ((merged.setLine L (e.clear A)).send h A L .wbAck)) ∧
        (e.owner ≠ A → exec (.wbd line a) s = .next (s1.send h A L .wbAck))))

/-- R439, R444, R457: replies at the requester. DatS gives S, DatE gives E after RdS and M after RdX, DatM and GntX give M, each
with an Ack to the home; Cmp and AtomD need none; WbAck takes the agent from XW to I; an access that meets a fenced home completes
with the fault of its error reply, or, where it has none, with its registers tagged; and an agent whose request the fenced home
has not taken holds what it held before: an upgrade was asked for from O where the directory names the agent as the owner, and
from S elsewhere. How soon a core learns of the fence (log 27), and what a refused upgrade gives back (log 47), are the model's
reading. -/
def Obligations.RequesterReplies : Prop :=
  ∀ (s s1 : Machine.State) (line : BitVec 34) (a : BitVec 2),
    let L := line.toNat
    let A := a.toNat
    let h := homeOf L
    let granted (i : Instr) (m : Msg) (new : AgentSt) : Prop :=
      s.deliver h A L m = some s1 → exec i s = .next ((s1.setAgent L A new).send A h L .ack)
    (granted (.dats line a) .datS .s ∧ ((s1.line L).agent A = .is → granted (.date line a) .datE .e) ∧
      ((s1.line L).agent A ≠ .is → granted (.date line a) .datE .m) ∧ granted (.datm line a) .datM .m ∧
      granted (.gntx line a) .gntX .m) ∧
    (s.deliver h A L .cmp = some s1 → exec (.cmp line a) s = .next s1) ∧
    (s.deliver h A L .atomD = some s1 → exec (.atomd line a) s = .next s1) ∧
    (s.deliver h A L .wbAck = some s1 → (s1.line L).agent A = .xw → exec (.wback line a) s = .next (s1.setAgent L A .i)) ∧
    (∀ (c : Nat) (before after : List LsOp) (o : LsOp) (t : Trap), (s.core c).ls = before ++ o :: after →
      o.due ≤ (s.core c).cycle → o.err = true → o.fault = some t →
      exec (.err (.access c before.length)) s = .next (((s.setCore c { s.core c with ls := before ++ after }).completeOf
        o.gid o.wid o.ord o.writes o.flag).pendFault o.lid o.gid o.wid t)) ∧
    (∀ (c : Nat) (before after : List LsOp) (o : LsOp), (s.core c).ls = before ++ o :: after →
      o.due ≤ (s.core c).cycle → o.err = true → o.fault = none →
      exec (.err (.access c before.length)) s = .next ((s.setCore c { s.core c with ls := before ++ after }).completeOf
        o.gid o.wid o.ord o.writes o.flag)) ∧
    (∀ b : BitVec 3, let B := b.toNat
      s.fenced.has h = true → (∃ f ∈ (s.chan B h 0).slots, f.line = L ∧ f.msg.chan = 0) →
      let mine (f : FMsg) : Bool := f.line == L && f.msg.chan == 0
      let s2 := s.setChan B h 0 { slots := (s.chan B h 0).slots.filter fun f => !mine f
                                  wait := (s.chan B h 0).wait.filter fun f => !mine f }
      exec (.err (.agent line b)) s = .next (s2.setAgent L B (match (s2.line L).agent B with
        | .is => .i
        | .ix => .i
        | .sx => if (s2.line L).dir = .o ∧ (s2.line L).owner = B then .o else .s
        | x => x)))

/-! ### Links, dies and the warm reset -/

/-- R449, R450: a link sleeps after 8192 cycles without a message, wakes when a message waits for it, and then sends what waited;
a wake that has not succeeded in 60,000 cycles is logged with code 8 and begins again, while the snoop that waits for it at either
end keeps waiting. A die that runs, or whose planned reset has not got beyond its
cleaning, and has been silent for 5,000,000 hub cycles while a request of the hub waited for it is dead, and so is
the higher of two dies whose link has not woken for 6,000,000 cycles of one of them; a dead die is reset abruptly. Whose clock
each count uses, that a snoop is what the timeout looks at, and which steps of a reset count, are the model's reading (logs 48 and
49). -/
def Obligations.LinkAndDieEvents : Prop :=
  ∀ (s : Machine.State) (a b : BitVec 3),
    let A := a.toNat
    let B := b.toNat
    let x := s.link A B
    (A ≠ B → A < 5 → B < 5 → x.mode = .awake → s.dirBusy A B = false → s.dirBusy B A = false →
      8192 ≤ s.dieClk (min A B) - x.last → exec (.linkSleep a b) s = .next (s.setLink A B { x with mode := .asleep })) ∧
    (A ≠ B → x.mode = .asleep → s.dirWaits A B = true → exec (.linkWake a b) s =
      .next (s.setLink A B { x with mode := .waking, sinceLo := s.dieClk (min A B), sinceHi := s.dieClk (max A B)
                                    firstLo := s.dieClk (min A B), firstHi := s.dieClk (max A B) })) ∧
    (x.mode = .waking → exec (.linkAwake a b) s = .next ((List.range 4).foldl (fun t n => (t.refill A B n).refill B A n)
      (s.setLink A B { x with mode := .awake, last := s.dieClk (min A B) }))) ∧
    (x.mode = .waking → (s.chan A B 1).wait ≠ [] →
      let told (t : Machine.State) : Machine.State := if B = 4 then t.logEvent 8 A 0xFFFF (BitVec.ofNat 64 B)
        else t.logDie 8 A 0xFFFF (BitVec.ofNat 64 B)
      (A ≤ B → 60000 ≤ s.dieClk A - x.sinceLo → exec (.wakeTimeout a b) s =
        .next (told (s.setLink A B { x with sinceLo := s.dieClk A }))) ∧
      (B < A → 60000 ≤ s.dieClk A - x.sinceHi → exec (.wakeTimeout a b) s =
        .next (told (s.setLink A B { x with sinceHi := s.dieClk A })))) ∧
    (∀ d : BitVec 2, let y := s.die d.toNat
      (y.mode = .running ∨ y.mode = .warm ∧ y.abrupt = false ∧ y.step ∈ [ResetStep.save, .quiesce, .cleanup]) → 5000000 ≤ s.hub - y.lastHub → (∃ u ∈ y.unanswered, 5000000 ≤ s.hub - u.2) →
      exec (.deadDieDetection d) s = .next ((s.setDie d.toNat { y with dead := true }).abruptReset d.toNat)) ∧
    (∀ d c : BitVec 2, d.toNat < c.toNat → (s.link d.toNat c.toNat).mode = .waking →
      (6000000 ≤ s.dieClk d.toNat - (s.link d.toNat c.toNat).firstLo ∨
        6000000 ≤ s.dieClk c.toNat - (s.link d.toNat c.toNat).firstHi) →
      (s.die d.toNat).answers s.hub = true → (s.die c.toNat).answers s.hub = true →
      let late := 6000000 ≤ s.dieClk d.toNat - (s.link d.toNat c.toNat).firstLo
      let s1 := s.pass (if late then d.toNat else c.toNat) 4
      exec (.linkWakeFailureReport d c) s =
        .next ((s1.setDie c.toNat { s1.die c.toNat with dead := true }).abruptReset c.toNat))

/-- R432, R454, R456, R458 to R460, R466, R468, R469: the warm reset. A planned one asks the die's cores to save their groups at
once, fences the die when no core holds a group, begins the cleaning when the transactions accepted at its home have ended,
with the recall of the host's copies, completes it when these have come back, retrains, and readmits the die, which the hub
tells the others: no core sees
the die fenced, its clusters wait for their release, and code 10 is logged. A die that is to be gated is gated after the
cleaning, its cores in reset, and a wake continues with the retraining and keeps its place among the wakes. After 6,000,000
cycles of cleaning the reset is abrupt; an abrupt reset loses the die's groups, quiesces as well, recalls nothing and resets
its memory domain too. What the cleaning leaves is the model's reading (log 49). -/
def Obligations.WarmResetEvents : Prop :=
  ∀ (s : Machine.State) (d : BitVec 2),
    let D := d.toNat
    let x := s.die D
    (s.boot = .on → x.mode = .running →
      let begun (gate : Bool) : Machine.State := (((s.setDie D { x with
        mode := .warm, step := .save, abrupt := false, gate := gate, since := x.clk }).exchange 4 D).request (coresOf [D]) none true).logEvent
          9 D 0xFFFF 0
      exec (.dctlWarmReset d) s = .next (begun false) ∧ exec (.dctlGate d) s = .next (begun true)) ∧
    (x.mode = .warm →
      (x.step = .save → s.dieHoldsGroups D = false →
        exec (.warmResetQuiesce d) s = .next ((s.fenceDie D).setDie D { x with step := .quiesce, since := x.clk })) ∧
      (x.step = .quiesce → s.quiesced D = true →
        (x.abrupt = true → exec (.warmResetCleanup d) s = .next (s.setDie D { x with step := .cleanup, since := x.clk })) ∧
        (x.abrupt = false → exec (.warmResetCleanup d) s =
          .next ((s.recallHostAll D).setDie D { (s.recallHostAll D).die D with step := .cleanup, since := x.clk }))) ∧
      (x.step = .quiesce → s.quiesced D = false → exec (.warmResetCleanup d) s = .next s) ∧
      (x.step = .cleanup →
        (x.abrupt = true → exec (.warmResetCleanup d) s =
          .next ((s.cleanDie D true).setDie D { x with step := .cleaned, since := x.clk })) ∧
        (x.abrupt = false → s.quiesced D = false → exec (.warmResetCleanup d) s = .next s) ∧
        (x.gate = false → x.abrupt = false → s.quiesced D = true → exec (.warmResetCleanup d) s =
          .next ((s.cleanDie D false).setDie D { x with step := .cleaned, since := x.clk })) ∧
        (x.gate = true → x.abrupt = false → s.quiesced D = true → exec (.warmResetCleanup d) s =
          .next (((s.cleanDie D false).resetCores D).setDie D { x with mode := .gated, step := .none })) ∧
        (x.abrupt = false → 6000000 ≤ x.clk - x.since →
          exec (.plannedResetTimeout d) s = .next (s.setDie D { x with abrupt := true })))) ∧
    (s.boot = .on → x.mode = .gated → exec (.dctlWake d) s =
      .next ((s.exchange 4 D).setDie D { x with
        mode := .waking, step := .cleaned, since := x.clk, wakeRank := 8 * s.hub + D + 1 })) ∧
    (s.boot = .on → x.mode = .running → s.fenced.has D = false →
      let s1 := (s.fenceDie D).loseDie D
      exec (.abruptWarmReset d) s = .next ((s1.setDie D { x with
        mode := .warm, step := .quiesce, abrupt := true, since := x.clk }).logEvent 9 D 0xFFFF 1)) ∧
    (x.step = .cleaned →
      let s1 := if x.abrupt then (s.resetCores D).resetMemory D else s.resetCores D
      let s2 := (List.range 5).foldl (fun (t : Machine.State) b => if b = D then t
        else t.setLink D b { LinkSt.initial with last := t.dieClk (min D b) }) s1
      exec (.warmResetRetrain d) s = .next (s2.setDie D { x with step := .retrained, since := x.clk })) ∧
    (x.step = .retrained →
      let s1 := s.setDie D { x with mode := .running, step := .none, abrupt := false, gate := false, since := x.clk
                                    dead := false, lastHub := s.hub, unanswered := [], hostBits := x.abrupt || x.hostBits }
      exec (.warmResetReadmit d) s = .next (({ s1 with
        fenced := s.fenced.remove D
        cores := s.cores.map fun (p : Nat × Core) => (p.1, { p.2 with fenceSeen := p.2.fenceSeen.remove D })
        release := s.release.put (if x.mode = DieMode.waking then x.wakeRank else 8 * s.hub + D + 1) ((List.range 32).map (· + 32 * D))
        msix := s.msix ++ [0] }.tellOthers D |>.admitDie D).logEvent 10 D 0xFFFF 0))

/-! ### The host link and the ports -/

/-- R198, R448, R453 to R457: a read of the host is sent to the home of its sector's line unless the host holds the line, whose
data reply gives the host its sector and is acknowledged; a write goes to the home, after what the host holds of the line. The hub
answers for the home of a fenced die, but for a request that the home has taken, which it serves: a read with no data and poison,
a write with an event of code 7. The host answers a back-invalidate sector by sector: the line counts as answered with the second
one, the host keeps a copy if it keeps one of either sector, and dirty data that it does not keep is passed on to a request that
takes the line, or written back. A
die's request of host memory ends with what Table PF-10 lets it hold, an exclusive copy with no die but one, and a host snoop gets
the die's data if it was dirty. The model's choices are that a host store has its place in the coherence order when the host
stores it (log 46), that what it stores sets the sector's poison to what comes with it (log 78), and the rows put together from
Tables PF-6 and PF-7 (log 47); SRC and UNIT of the event (log 55), and that the host keeps its dirty data over an abrupt reset (log
49), are its reading. -/
def Obligations.HostEvents : Prop :=
  ∀ (s : Machine.State), s.boot = .on →
    (∀ sec : BitVec 35,
      let S := sec.toNat
      let L := S / 2
      let h := homeOf L
      let put (t : Machine.State) (bs : List Byte) (p : Bool) : Machine.State :=
        ((t.memWrite (64 * S) (bs.take 64)).setSec S p).setAgent L 4 .m
      let stored (t : Machine.State) (data : Option (List Byte)) : Machine.State := match data with
        | some bs => put t bs false
        | none => t
      let got (t : Machine.State) (excl : Bool) (data : Option (List Byte)) : Machine.State :=
        { stored t data with reply := some (.hostData S (t.memRead (64 * S) 64) (t.secPoisoned S) excl) }
      (s.fenced.has h = true → s.hostReply L = none → s.hostTaken L = false →
        let u := s.errAgent L 4
        exec (.hostM2sRequest sec .shared) s = .next { u with reply := some (.hostData S [] true false) } ∧
        (∀ data, exec (.hostM2sRequest sec (.exclusive data)) s = .next { u with reply := some (.hostData S [] true false) }) ∧
        (∀ bs p, exec (.hostM2sRequest sec (.write bs p)) s =
          .next { (u.logEvent 7 4 0xFFFF (BitVec.ofNat 64 (64 * S))) with reply := some (.hostDone S) })) ∧
      (s.fenced.has h = true → s.hostReply L = none → s.hostTaken L = true → ∀ k,
        (s.asked L 4 (m2sReq k S) = true → exec (.hostM2sRequest sec k) s = .next (s.ask L 4 (m2sReq k S))) ∧
        (s.asked L 4 (m2sReq k S) = false → s.asked L 4 .flush = true →
          exec (.hostM2sRequest sec k) s = .next (s.ask L 4 .flush))) ∧
      (s.fenced.has h = false → s.hostReply L = none → s.asked L 4 .flush = false →
        let x := (s.line L).agent 4
        let asks (i : Instr) (t : Machine.State) (new : AgentSt) (r : Req) : Prop :=
          exec i s = .next ((t.setAgent L 4 new).send 4 h L (.req r))
        (s.asked L 4 .rdS = false →
          (x = .i ∨ x = .s → asks (.hostM2sRequest sec .shared) s .is .rdS) ∧
          (x = .e ∨ x = .m → exec (.hostM2sRequest sec .shared) s = .next (got s true none)) ∧
          (x = .o → exec (.hostM2sRequest sec .shared) s = .next (got s false none))) ∧
        (s.asked L 4 .rdX = false → ∀ data,
          (x = .i ∨ x = .s → asks (.hostM2sRequest sec (.exclusive data)) s .ix .rdX) ∧
          (x = .o → asks (.hostM2sRequest sec (.exclusive data)) (s.mergeLine L) .ix .rdX) ∧
          (x = .e ∨ x = .m → exec (.hostM2sRequest sec (.exclusive data)) s = .next (got s true data))) ∧
        (∀ bs p, s.asked L 4 (.hostWr S bs p) = false →
          (x = .i → exec (.hostM2sRequest sec (.write bs p)) s = .next (s.send 4 h L (.req (.hostWr S bs p)))) ∧
          (x = .s → asks (.hostM2sRequest sec (.write bs p)) s .i (.hostWr S bs p)) ∧
          (x = .o → asks (.hostM2sRequest sec (.write bs p)) (s.mergeLine L) .i (.hostWr S bs p)) ∧
          (x = .e ∨ x = .m → asks (.hostM2sRequest sec (.write bs p)) ((put s bs p).mergeLine L) .i .flush))) ∧
      (∀ s1,
        let grants (t : Machine.State) (new : AgentSt) : Machine.State := (t.setAgent L 4 new).send 4 h L .ack
        (s.hostReply L = some (.datS, s1) → ∀ k, exec (.hostM2sRequest sec k) s = .next (got (grants s1 .s) false none)) ∧
        (s.hostReply L = some (.datE, s1) → (s1.line L).agent 4 = .is →
          exec (.hostM2sRequest sec .shared) s = .next (got (grants s1 .e) true none)) ∧
        (s.hostReply L = some (.datE, s1) → (s1.line L).agent 4 = .ix → ∀ data,
          exec (.hostM2sRequest sec (.exclusive data)) s = .next (got (grants s1 .m) true data)) ∧
        (s.hostReply L = some (.datM, s1) → ∀ data,
          exec (.hostM2sRequest sec (.exclusive data)) s = .next (got (grants s1 .m) true data)) ∧
        (s.hostReply L = some (.cmp, s1) → ∀ k,
          exec (.hostM2sRequest sec k) s = .next { s1 with reply := some (.hostDone S) })) ∧
      (∀ (t : Txn) (keep : Bool) (data : Option (List Byte)), (s.line L).txn = some t → t.bi.has S = true →
        let x := (s.line L).agent 4
        let s0 := s.pass 4 h
        let s1 := if x = .m ∨ x = .e then stored s0 data else s0
        let e := s1.line L
        let kept := t.kept || keep
        (t.bi.remove S ≠ [] → exec (.birsp sec keep data) s =
          .next (s1.setLine L { e with txn := some { t with bi := t.bi.remove S, kept := kept } })) ∧
        (t.bi.remove S = [] →
          let kind := snoopKind t.req e.recallBit 4
          let dirty := e.agent 4 == .m || e.agent 4 == .o
          let ends (d : Bool) (new : AgentSt) : Machine.State := s1.setLine L (({ e with
            txn := some { t with bi := [], kept := kept, dirty := d } } : LineSt).setAgent 4 new)
          (kind = .snpI → (dirty = false ∨ snoopKind t.req false 4 = .snpI) →
            exec (.birsp sec keep data) s = .next ((ends (t.dirty || dirty) .i).answered L 4 .rspI)) ∧
          (kind = .snpI → dirty = true → snoopKind t.req false 4 ≠ .snpI →
            exec (.birsp sec keep data) s = .next (((ends t.dirty .i).mergeLine L).answered L 4 .rspI)) ∧
          (kind ≠ .snpI → kept = true → dirty = false →
            exec (.birsp sec keep data) s = .next ((ends t.dirty .s).answered L 4 .rspS)) ∧
          (kind = .snpS → kept = true → dirty = true →
            exec (.birsp sec keep data) s = .next ((ends true .o).answered L 4 .snpD)) ∧
          (kind = .snpC → kept = true → dirty = true →
            exec (.birsp sec keep data) s = .next ((ends true .s).answered L 4 .snpD)) ∧
          (kind ≠ .snpI → kept = false → dirty = false →
            exec (.birsp sec keep data) s = .next ((ends t.dirty .i).answered L 4 .rspI)) ∧
          (kind ≠ .snpI → kept = false → dirty = true →
            exec (.birsp sec keep data) s = .next (((ends t.dirty .i).mergeLine L).answered L 4 .rspI))))) ∧
    (∀ (d : BitVec 2) (sec : BitVec 46), 2 ^ 45 ≤ sec.toNat →
      let S := sec.toNat
      let D := d.toNat
      let key := 4 * S + D
      let st := s.hostSec.get .i key
      let others := (List.range 4).filter fun b => b != D && s.hostSec.get .i (4 * S + b) != .i
      let data := if st = .m then some (s.memRead (64 * S) 64) else none
      let given : Machine.State := { (s.exchange D 4).l1Drop D (S / 2) with hostSec := s.hostSec.del key }
      let snooped (x : AgentSt) (t : Machine.State) : Machine.State :=
        { t with hostSec := s.hostSec.set .i key x, reply := some (.snooped S st data (s.secPoisoned S)) }
      let a := s.exchange 4 D
      (s.fenced.has D = false →
        (st ≠ .i → exec (.cxlCacheResponse d sec .rdShared) s = .next s) ∧
        (st = .i →
          let t := others.foldl (fun (t0 : Machine.State) b =>
            let t := t0.exchange 4 b
            { t.l1Share b (S / 2) with hostSec := t.hostSec.put (4 * S + b) .s }) s
          exec (.cxlCacheResponse d sec .rdShared) s = .next { t.exchange D 4 with hostSec := t.hostSec.put key .s }) ∧
        (st = .m → exec (.cxlCacheResponse d sec .rdOwn) s = .next s) ∧
        (st ≠ .m →
          let t := others.foldl (fun (t0 : Machine.State) b =>
            let t := t0.exchange 4 b
            { t.l1Drop b (S / 2) with hostSec := t.hostSec.del (4 * S + b) }) s
          exec (.cxlCacheResponse d sec .rdOwn) s = .next { t.exchange D 4 with hostSec := t.hostSec.put key .m }) ∧
        exec (.cxlCacheResponse d sec .rdCurr) s = .next (s.exchange D 4) ∧
        (st = .m → exec (.cxlCacheResponse d sec .dirtyEvict) s = .next given) ∧
        (st ≠ .m → exec (.cxlCacheResponse d sec .dirtyEvict) s = .next s) ∧
        (st = .s → exec (.cxlCacheResponse d sec .cleanEvict) s = .next given) ∧
        (st ≠ .s → exec (.cxlCacheResponse d sec .cleanEvict) s = .next s)) ∧
      (st = .i → exec (.hostSnpdata d sec) s = .next (snooped .i (a.l1Drop D (S / 2)))) ∧
      (st ≠ .i → exec (.hostSnpdata d sec) s = .next (snooped .s (a.l1Share D (S / 2)))) ∧
      (let t := snooped .i (a.l1Drop D (S / 2))
       exec (.hostSnpinv d sec none) s = .next t ∧
       (∀ bs, (∃ b < 4, t.hostSec.get .i (4 * S + b) ≠ .i) → exec (.hostSnpinv d sec (some bs)) s = .next t) ∧
       (∀ bs, (∀ b < 4, t.hostSec.get .i (4 * S + b) = .i) → exec (.hostSnpinv d sec (some bs)) s =
         .next ((t.memWrite (64 * S) (bs.take 64)).setSec S false))) ∧
      (st ≠ .i → st ≠ .s → exec (.hostSnpcur d sec) s = .next (snooped st a)) ∧
      (st = .i → exec (.hostSnpcur d sec) s = .next (snooped st (a.l1Drop D (S / 2)))) ∧
      (st = .s → exec (.hostSnpcur d sec) s = .next (snooped st (a.l1Share D (S / 2)))))

/-- R461 to R463: Glicharun. A flit with a good CRC and the next sequence number is delivered and the flits before its
acknowledgement are freed; a request to replay counts the flits sent again; any other flit delivers nothing. A flit unacknowledged
for 1,000,000 hub cycles ends its request; training brings a port up with its peer's number; a port that goes down forgets what it
held, and each request that waits on it ends with DETAIL 0x10 at its present element. An element received from the peer is refused
outside what its window allows, answered with a memory error where memory gives one, and performed otherwise. How REPLAY counts,
and that an element whose poison flag is set stores zeros and poisons every sector that it reaches, are the model's reading (log 54); that WR of
DETAIL 0x10 is that of the local access is its choice (log 67). -/
def Obligations.PortEvents : Prop :=
  ∀ (s : Machine.State) (p : BitVec 5),
    let P := p.toNat
    let x := s.port P
    (x.st = .up → ∀ seq ack : Nat,
      let x1 := { x with tx := x.tx.filter fun f => !decide (f.seq < ack) }
      let x2 := { x1 with replay := BitVec.ofNat 16 (min 0xFFFF (x.replay.toNat + x1.tx.length)) }
      exec (.glicharunFlitReceived p seq ack true false none) s = .next (s.setPort P x1) ∧
      exec (.glicharunFlitReceived p seq ack true true none) s = .next (s.setPort P x2) ∧
      (∀ nack m, exec (.glicharunFlitReceived p seq ack false nack m) s = .next s) ∧
      (∀ (nack : Bool) (g : GMsg), let y := if nack then x2 else x1
        (seq = x.nextRx → gAnswer g = false → exec (.glicharunFlitReceived p seq ack true nack (some g)) s =
          .next (s.setPort P { y with nextRx := x.nextRx + 1, rx := x.rx ++ [g] })) ∧
        (seq = x.nextRx → gAnswer g = true → exec (.glicharunFlitReceived p seq ack true nack (some g)) s =
          .next ((s.setPort P { y with nextRx := x.nextRx + 1 }).copyAnswer (gTag g) g)) ∧
        (seq ≠ x.nextRx → exec (.glicharunFlitReceived p seq ack true nack (some g)) s = .next (s.setPort P y)))) ∧
    (∀ n f, x.tx[n]? = some f → 1000000 ≤ s.hub - f.sent → gAnswer f.msg = false →
      exec (.flitAckTimeout p n) s = .next (s.failFlit f.msg)) ∧
    (∀ peer, s.boot = .on → P < 18 → UnitRef.port p ∉ s.fencedUnits →
      (x.st = .down → exec (.glicharunLinkTraining p peer) s = .next (s.setPort P { x with st := .training })) ∧
      (x.st = .training → exec (.glicharunLinkTraining p peer) s =
        .next (s.setPort P { x with st := .up, peer := peer, nextTx := 0, nextRx := 0, tx := [], rx := [] }))) ∧
    (x.st ≠ .down →
      let s1 := s.setPort P { x with st := .down, nextTx := 0, nextRx := 0, tx := [], rx := [] }
      let ends (t : Machine.State) (c : Nat) (strm : Stream) : Machine.State := match headOf strm (t.core c).copy with
        | some (_, r, _) => match r.elems with
          | y :: _ => t.copyFail c strm 0x10 (if r.kind = .send then y.sa else y.da) (r.kind != .send)
          | [] => t
        | none => t
      exec (.glicharunPortDown p) s = .next ((s.portWaiters P).foldl (fun t q => ends t q.1 q.2) s1)) ∧
    (x.st = .down → exec (.glicharunPortDown p) s = .next s) ∧
    (∀ v, exec (.gpstReplayClear p v) s = .next (s.setPort P { x with replay := x.replay &&& ~~~v })) ∧
    (∀ (rest : List GMsg) (t win off : Nat),
      let w := s.window win
      let pa := 4096 * w.base.toNat + off
      let s1 := s.setPort P { x with rx := rest }
      (∀ bs poison, x.rx = .write t win off bs poison :: rest →
        (w.accepts P off bs.length true = false → exec (.peerWindowAccess p) s = .next (s1.sendFlit P (.refused t))) ∧
        (w.accepts P off bs.length true = true → s.errReply pa = true →
          exec (.peerWindowAccess p) s = .next (s1.sendFlit P (.memErr t))) ∧
        (w.accepts P off bs.length true = true → s.errReply pa = false → poison = false →
          exec (.peerWindowAccess p) s = .next ((s1.store .hub pa bs).sendFlit P (.done t))) ∧
        (w.accepts P off bs.length true = true → s.errReply pa = false → poison = true →
          exec (.peerWindowAccess p) s =
            .next (((sectorsOf pa bs.length).foldl (fun (u : Machine.State) k => u.setSec k true)
              (s1.store .hub pa (List.replicate bs.length 0))).sendFlit P (.done t)))) ∧
      (∀ n, x.rx = .read t win off n :: rest →
        (w.accepts P off n false = false → exec (.peerWindowAccess p) s = .next (s1.sendFlit P (.refused t))) ∧
        (w.accepts P off n false = true → s.errReply pa = true →
          exec (.peerWindowAccess p) s = .next (s1.sendFlit P (.memErr t))) ∧
        (w.accepts P off n false = true → s.errReply pa = false → exec (.peerWindowAccess p) s =
          .next ((s1.access .hub pa n .read).sendFlit P (.data t (s.memRead pa n) (s.memPoisoned pa n))))))

/-! ### The management controller -/

/-- R306, R468, R475, R476: POWER_UP. With a valid image, the factory's or one that an update has written, the device runs it with
no queue enabled, no work and no core released, every cluster waits for its release, the fence list is in force, and of memory the
host's part stays; without one, or with one that does not verify, it is in recovery. R468: a cluster is released no sooner than
4,000 hub cycles after the one before, its four cores leave reset together, and the dies that wake together take turns in the
order of their wakes. That memory reads as zero after power-up and that the host's memory stays are the model's choices (logs 2
and 52), and so are the zeros of what has no reset value (log 1). -/
def Obligations.PowerUpAndRelease : Prop :=
  ∀ s : Machine.State,
    (s.flash.all imageOk = true → ∃ t : Machine.State, exec (.powerUp true) s = .next t ∧ t.boot = .on ∧
      t.running = s.flash ∧ t.release = [(0, List.range 128)] ∧ t.releaseTurn = 0 ∧
      (∀ c, (t.core c).released = false ∧ (t.core c).warps = []) ∧ t.queues = [] ∧ t.groups = [] ∧ t.launches = [] ∧
      t.tags = [] ∧ t.fenced = [] ∧ t.fenceList = s.fenceList.filter (fun u => !s.fenceDrop.contains u) ∧
      t.fencedUnits = t.fenceList ∧ t.flash = s.flash ∧ t.agenda = s.agenda ∧
      (∀ pa, pa < 2 ^ 51 → t.memByte pa = 0) ∧ (∀ pa, 2 ^ 51 ≤ pa → t.memByte pa = s.memByte pa)) ∧
    (∀ found : Bool, (found = false ∨ s.flash.all imageOk = false) → ∃ t : Machine.State, exec (.powerUp found) s = .next t ∧
      t.boot = .recovery ∧ t.cores = [] ∧ t.release = [] ∧ t.flash = s.flash) ∧
    (s.boot = .on → (∀ t, s.lastRelease = some t → 4000 ≤ s.hub - t) →
      (∀ r k ks before after, s.release = before ++ (r, k :: ks) :: after →
        ((∀ p ∈ before, p.2 = [] ∨ p.1 < s.releaseTurn) ∧ s.releaseTurn ≤ r ∨
          (∀ p ∈ s.release, p.2 = [] ∨ p.1 < s.releaseTurn) ∧ (∀ p ∈ before, p.2 = [])) →
        ∃ t : Machine.State, exec .clusterRelease s = .next t ∧ t.lastRelease = some s.hub ∧ t.releaseTurn = r + 1 ∧
          t.release = (if ks = [] then SMap.del s.release r else SMap.put s.release r ks) ∧
          (∀ c, 4 * k ≤ c → c < 4 * k + 4 → (s.core c).fenced = false →
            t.core c = { s.core c with released := true, phase := (s.die (dieOf c)).clk % 2 }) ∧
          (∀ c, c < 4 * k ∨ 4 * k + 4 ≤ c ∨ (s.core c).fenced = true → t.core c = s.core c)) ∧
      ((∀ p ∈ s.release, p.2 = []) → exec .clusterRelease s = .next s)) ∧
    (∀ t, s.lastRelease = some t → s.hub - t < 4000 → exec .clusterRelease s = .next s)

/-- R414, R451, R453, R463, R466, R467, R470 to R472, R476 to R478: the end of a control interval controls the four dies in turn
by the rules of R467, logs the corrected errors and advances the controller's clock; a register write changes the register at
its offset, and one of DCTL the cap with the action that ACT names, unless the die's STATE ignores it; DSTAT, DCTL, MLOGHEAD and
the event log's window read as their tables lay them out, but for the recovery mailbox at 0x7000, which reads as zero outside
recovery, and in recovery BAR 0 reads as zero; DBGDATA shows the entry that
DBGSEL names, and zero for a fenced core or a die that does not run; errors are counted up to the counter's largest value, for
their unit within the last hour, and logged with codes 1 and 2; a unit past its threshold is fenced, a fenced core that holds no
group goes into reset, and an entry of the fence list can be removed for the next cold reset. The counts of an interval, the
codes of units, SRC, UNIT and DATA of the entries, and what an ignored write of DCTL leaves, are the model's reading (logs 50,
53, 55 and 63). -/
def Obligations.ManagementEvents : Prop :=
  ∀ s : Machine.State,
    (s.boot = .on →
      (∀ r0 r1 r2 r3, let s1 := (((s.controlDie 0 r0).controlDie 1 r1).controlDie 2 r2).controlDie 3 r3
        exec (.controlInterval r0 r1 r2 r3) s = .next { s1.logCorrected with mclk := s.mclk + 1 }) ∧
      (∀ (off : BitVec 32) (v : BitVec 64),
        (∀ d : BitVec 2, off.toNat = 0x5000 + 16 * d.toNat →
          let t := s.setDie d.toNat { s.die d.toNat with pcap := v.extractLsb' 20 12 }
          let act := v.extractLsb' 2 2
          let mode := (s.die d.toNat).mode
          (act = 0#2 → exec (.registerWrite off v) s = .next t) ∧
          (act = 1#2 → mode = .running → exec (.registerWrite off v) s = exec (.dctlWarmReset d) t) ∧
          (act = 2#2 → mode = .running → exec (.registerWrite off v) s = exec (.dctlGate d) t) ∧
          (act = 3#2 → mode = .gated → exec (.registerWrite off v) s = exec (.dctlWake d) t) ∧
          (act ≠ 0#2 → mode ≠ .running → mode ≠ .gated → exec (.registerWrite off v) s = .next s) ∧
          (act = 1#2 ∨ act = 2#2 → mode = .gated → exec (.registerWrite off v) s = .next s) ∧
          (act = 3#2 → mode = .running → exec (.registerWrite off v) s = .next s)) ∧
        (off.toNat = 0x5100 → exec (.registerWrite off v) s = .next { s with dbgsel := v.extractLsb' 0 13 }) ∧
        (∀ q < 128, (s.queue q).enable = false →
          (off.toNat = 0x100000 + 64 * q → exec (.registerWrite off v) s =
            .next (s.setQueue q { s.queue q with base := v.extractLsb' 12 40, log2sz := v.extractLsb' 0 5 })) ∧
          (off.toNat = 0x100008 + 64 * q →
            exec (.registerWrite off v) s = .next (s.setQueue q { s.queue q with desc := v.extractLsb' 7 45 }))) ∧
        (∀ i < 64, let r := s.residency.get Residency.initial i
          (off.toNat = 0x2000 + 16 * i → exec (.registerWrite off v) s =
            .next { s with residency := s.residency.set Residency.initial i { r with base := v.extractLsb' 12 40 } }) ∧
          (off.toNat = 0x2008 + 16 * i → exec (.registerWrite off v) s =
            .next { s with residency := s.residency.set Residency.initial i { r with
              en := v.getLsbD 63, limit := v.extractLsb' 12 40, ratio := v.extractLsb' 7 5, ways := v.extractLsb' 0 4 } })) ∧
        (∀ w < 256, off.toNat = 0x20000 + 32 * w → exec (.registerWrite off v) s = .next { s with
          windows := s.windows.set Window.initial w { s.window w with base := v.extractLsb' 12 40 } }) ∧
        (∀ w < 256, off.toNat = 0x20008 + 32 * w → exec (.registerWrite off v) s = .next { s with
          windows := s.windows.set Window.initial w { s.window w with size := v.extractLsb' 0 28 } }) ∧
        (∀ w < 256, off.toNat = 0x20010 + 32 * w → exec (.registerWrite off v) s = .next { s with
          windows := s.windows.set Window.initial w { s.window w with
            en := v.getLsbD 31, rd := v.getLsbD 30, wr := v.getLsbD 29, ports := v.extractLsb' 0 18 } }) ∧
        ((∀ d < 4, off.toNat ≠ 0x5000 + 16 * d) → off.toNat ≠ 0x5100 → ¬ (0x2000 ≤ off.toNat ∧ off.toNat < 0x2400) →
          ¬ (0x20000 ≤ off.toNat ∧ off.toNat < 0x22000) → ¬ (0x100000 ≤ off.toNat ∧ off.toNat < 0x102000) →
          exec (.registerWrite off v) s = .next s)) ∧
      (∀ d < 4, let x := s.die d
        s.readReg (0x5000 + 16 * d) = (0 : BitVec 32) ++ (x.pcap ++ (0 : BitVec 20)) ∧
        s.readReg (0x5008 + 16 * d) = x.power ++ x.temp ++ x.vmin ++ x.freq ++ (0 : BitVec 8) ++ BitVec.ofNat 8 (s.nfc d) ++
          BitVec.ofNat 8 (dieModeCode x.mode)) ∧
      s.readReg 0x5200 = s.logLost ++ s.logNext ∧
      (∀ i < 4096,
        (∀ e, s.log.find? i = some e → (i ≠ 256 → s.readReg (0x6000 + 16 * i) = e.unit ++ e.src ++ e.code ++ e.seq) ∧
          s.readReg (0x6008 + 16 * i) = e.data) ∧
        (s.log.find? i = none → s.readReg (0x6000 + 16 * i) = 0 ∧ s.readReg (0x6008 + 16 * i) = 0)) ∧
      s.readReg 0x7000 = 0 ∧
      (∀ off, off < 0x2000 → s.readReg off = 0) ∧
      (let c := s.dbgsel.toNat / 16
       let v := ((s.core c).ownAt (s.dbgsel.toNat % 16)).word
       exec .dbgdataRead s = .next { s with reply := some (.dbgData (
         if (s.core c).fenced = true ∨ (s.die (dieOf c)).mode ≠ .running then 0 else v)) })) ∧
    (s.boot ≠ .on → ∀ off, s.readReg off = 0) ∧
    (∀ (x : DieSt) (r : Reading),
      let hot := 105 ≤ r.temp.toNat ∨ (x.hot = true ∧ 100 ≤ r.temp.toNat)
      let cap := if x.pcap = 0 then 780 else min x.pcap.toNat 780
      let P := r.power.toNat
      let before := if x.hot = true then 0 else x.good
      let after (freq : BitVec 8) (good : Nat) : DieSt :=
        { x with power := r.power, temp := r.temp, vmin := r.vmin, hot := false, freq := freq, good := good }
      (hot → x.control r = { x with power := r.power, temp := r.temp, vmin := r.vmin, hot := true, freq := 16, good := 0 }) ∧
      (¬ hot → cap < P → x.control r = after (if x.freq.toNat ≤ 16 then 16 else x.freq - 2) 0) ∧
      (¬ hot → P ≤ cap → 10 * P < 9 * cap →
        (9 ≤ before → x.control r = after (if 48 ≤ x.freq.toNat then 48 else x.freq + 2) 0) ∧
        (before < 9 → x.control r = after x.freq (before + 1))) ∧
      (¬ hot → P ≤ cap → 9 * cap ≤ 10 * P → x.control r = after x.freq 0)) ∧
    (∀ (d : Nat) (r : Reading),
      let x := s.die d
      let y := x.control r
      let s1 := s.setDie d y
      let s2 := if y.freq = x.freq then s1 else (s1.pass 4 d).logEvent 0x0B d 0xFFFF (y.freq.setWidth 64)
      (x.mode = .gated → s.controlDie d r = s.setDie d { x with power := r.power, temp := r.temp, vmin := r.vmin }) ∧
      (x.mode ≠ .gated → (r.temp.toNat < 115 ∨ x.mode ≠ .running) → s.controlDie d r = s2) ∧
      (115 ≤ r.temp.toNat → x.mode = .running →
        s.controlDie d r = { s2.beginReset d true with msix := (s2.beginReset d true).msix ++ [0] })) ∧
    (∀ (d : BitVec 2) (cls : BitVec 3),
      let k := 8 * d.toNat + cls.toNat
      let x := s.errs.get ErrCount.zero k
      let t := s.pass d.toNat 4
      let total := if x.total = 0xFFFFFFFF#32 then x.total else x.total + 1
      let counted : Machine.State := { t with errs := t.errs.set ErrCount.zero k { total := total, recent := x.recent + 1 } }
      exec (.correctedError d cls none) s = .next counted ∧
      (∀ u, let e := s.unitErr u
        exec (.correctedError d cls (some u)) s = .next (counted.setUnitErr u { e with
          corrected := (s.mclk :: e.corrected.filter fun n => decide (s.mclk - n < 3600000)).take 1025 }))) ∧
    (∀ e, let s1 := (s.strike e).logDie 2 (siteSrc e) (((siteUnit e).map unitIndex).getD 0xFFFF) (BitVec.ofNat 64 (siteData e))
      (siteUnit e = none → exec (.uncorrectedError e) s = .next s1) ∧
      (∀ u, siteUnit e = some u → exec (.uncorrectedError e) s =
        .next (s1.setUnitErr u { s1.unitErr u with uncorrected := (s1.unitErr u).uncorrected + 1 }))) ∧
    (∀ u, (u ∉ s.fencedUnits →
        (s.pastThreshold u = true → exec (.unitFence u) s = .next (s.fenceUnit u)) ∧
        (s.pastThreshold u = false → exec (.unitFence u) s = .next s)) ∧
      (u ∈ s.fenceList → exec (.fenceListRemove u) s = .next { s with
        fenceDrop := if s.fenceDrop.contains u then s.fenceDrop else u :: s.fenceDrop, reply := some .pldmDone }) ∧
      (u ∉ s.fenceList → exec (.fenceListRemove u) s = .next { s with reply := some .pldmRefused })) ∧
    (∀ c : BitVec 9, UnitRef.core c ∈ s.fencedUnits →
      ((s.core c.toNat).fenced = true → s.groupsOn c.toNat = [] →
        exec (.unitFence (.core c)) s = .next (s.setCore c.toNat { Machine.Core.initial with fenced := true })) ∧
      (((s.core c.toNat).fenced = false ∨ s.groupsOn c.toNat ≠ []) → exec (.unitFence (.core c)) s = .next s)) ∧
    (∀ (d : BitVec 2) (n : BitVec 6), UnitRef.slice d n ∈ s.fencedUnits → exec (.unitFence (.slice d n)) s = .next s) ∧
    (∀ p : BitVec 5, UnitRef.port p ∈ s.fencedUnits → exec (.unitFence (.port p)) s = .next s)

/-- R465, R470, R473, R474, R477: attestation answers in SPDM 1.3 for certificate slot 0, and refuses another version; the
measurement blocks are those of the last cold reset. PLDM names Types 0, 2 and 5, reads the sensors of Table MC-2 and the counters
of corrected errors, and reads and marks entries of the event log; MCTP assigns the endpoint ID. None of them changes anything
else but its answer. What a signature, a digest and the certificate chain hold is left open (log 7), and that slot 0 alone answers
is the model's reading (log 51). -/
def Obligations.AttestationAndSensors : Prop :=
  ∀ s : Machine.State,
    let ans (i : Instr) (r : Reply) : Prop := exec i s = .next { s with reply := some r }
    let all := [1, 2, 3, 4, 5].map fun n => (n, Config.measurement n s.running (s.bootFences.map fun u => 65536 * unitKind u + unitIndex u))
    (ans .getVersion (.spdmVersion 0x13#8) ∧ ans (.getCapabilities 0x13#8) .spdmCapabilities ∧
      ans (.negotiateAlgorithms 0x13#8 true true) (.spdmAlgorithms true true) ∧
      ans (.getDigests 0x13#8) (.spdmDigests 0 Config.certificateDigest) ∧
      (∀ off len, ans (.getCertificate 0x13#8 0#4 off len) (.spdmCertificate ((Config.certificates.drop off).take len))) ∧
      (∀ nonce, ans (.challenge 0x13#8 0#4 nonce) (.spdmSigned nonce (Config.sign nonce (all.map (·.2)))) ∧ (Config.sign nonce (all.map (·.2))).length = 29792) ∧
      ans (.getMeasurements 0x13#8 none) (.spdmMeasurements all) ∧
      (∀ n m, (n, m) ∈ all → ans (.getMeasurements 0x13#8 (some n)) (.spdmMeasurements [(n, m)]))) ∧
    (∀ v : BitVec 8, v ≠ 0x13#8 →
      ans (.getCapabilities v) .spdmUnsupported ∧ (∀ p q, ans (.negotiateAlgorithms v p q) .spdmUnsupported) ∧
      ans (.getDigests v) .spdmUnsupported ∧ (∀ sl off len, ans (.getCertificate v sl off len) .spdmUnsupported) ∧
      (∀ sl nonce, ans (.challenge v sl nonce) .spdmUnsupported) ∧ (∀ n, ans (.getMeasurements v n) .spdmUnsupported)) ∧
    (ans .pldmBaseDiscovery (.pldmTypes [0, 2, 5]) ∧
      (∀ d : BitVec 2, let x := s.die d.toNat
        ans (.pldmSensorRead d .power) (.pldmValue x.power.toNat) ∧ ans (.pldmSensorRead d .temp) (.pldmValue x.temp.toNat) ∧
        ans (.pldmSensorRead d .vmin) (.pldmValue x.vmin.toNat) ∧ ans (.pldmSensorRead d .freq) (.pldmValue x.freq.toNat) ∧
        ans (.pldmSensorRead d .nfc) (.pldmValue (s.nfc d.toNat)) ∧
        ans (.pldmSensorRead d .state) (.pldmValue (dieModeCode x.mode)) ∧
        ∀ cls : BitVec 3, ans (.pldmSensorRead d (.errors cls))
          (.pldmValue (s.errs.get ErrCount.zero (8 * d.toNat + cls.toNat)).total.toNat)) ∧
      (∀ (first : BitVec 32) (n : Nat),
        let wanted (e : LogEntry) : Bool := decide ((e.seq - first).toNat < n)
        exec (.pldmEventLogRead first n) s = .next { s with
          log := s.log.map fun p => (p.1, if wanted p.2 then { p.2 with read := true } else p.2)
          reply := some (.pldmLog ((s.log.map (·.2)).filter wanted)) }) ∧
      (∀ e, exec (.endpointIdAssignment e) s = .next { s with eid := e }))

/-- R475, R476: a firmware update takes its commands in order and refuses one out of order; a second session is refused; an image
that does not verify is refused before any byte of flash is written, and logged with code 0x0D; a verified one is written
to flash, and runs from the next cold reset. In recovery the mailbox takes an image that verifies, and the device restarts
with it. Where the version and the security version number lie, and whether a signature verifies, is left open (log 7); when
code 0x0D is logged, with the version as DATA, and that one order of the commands is the only one, are the model's reading
(log 51). -/
def Obligations.FirmwareUpdateSequence : Prop :=
  ∀ s : Machine.State,
    let goes (i : Instr) (u : Update) : Prop := exec i s = .next { s with update := some u, reply := some .pldmDone }
    let refused (i : Instr) : Prop := exec i s = .next { s with reply := some .pldmRefused }
    let logged (b : List Byte) : Machine.State := s.logEvent 0x0D 4 0xFFFF (BitVec.ofNat 64 (Config.imageVersion b))
    (s.update = none → goes .requestUpdate { step := .requested, image := [] } ∧ refused .passComponentTable ∧
      refused .updateComponent ∧ (∀ b, refused (.firmwareTransfer b)) ∧ refused .firmwareVerify ∧ refused .firmwareApply ∧
      refused .activateFirmware) ∧
    (∀ u, s.update = some u →
      exec .requestUpdate s = .next { s with reply := some .pldmAlreadyUpdating } ∧
      (u.step = .requested → goes .passComponentTable { u with step := .table }) ∧
      (u.step ≠ .requested → refused .passComponentTable) ∧
      (u.step = .table → goes .updateComponent { step := .component, image := [] }) ∧
      (u.step ≠ .table → refused .updateComponent) ∧
      (u.step = .component →
        (∀ b, goes (.firmwareTransfer b) { step := .component, image := u.image ++ b }) ∧
        (imageOk u.image = true → goes .firmwareVerify { u with step := .verified }) ∧
        (imageOk u.image = false →
          exec .firmwareVerify s = .next { logged u.image with update := none, reply := some .pldmRefused })) ∧
      (u.step ≠ .component → refused .firmwareVerify ∧ ∀ b, refused (.firmwareTransfer b)) ∧
      (u.step = .verified → exec .firmwareApply s = .next { s with
        update := some { u with step := .applied }, flash := some u.image, reply := some .pldmDone }) ∧
      (u.step ≠ .verified → refused .firmwareApply) ∧
      (u.step = .applied →
        exec .activateFirmware s = .next { logged u.image with update := none, reply := some .pldmDone }) ∧
      (u.step ≠ .applied → refused .activateFirmware)) ∧
    (s.boot = .recovery → ∀ image : List Byte,
      (imageOk image = true → ∃ t : Machine.State, exec (.recoveryMailboxWrite image) s = .next t ∧ t.boot = .on ∧
        t.flash = some image ∧ t.running = some image) ∧
      (imageOk image = false → exec (.recoveryMailboxWrite image) s = .next (logged image)))

/-! ### Words, steps and the whole machine -/

/-- R16, R68, R104, R105: a step takes the agenda's next event. With an empty agenda, the issue turn of a quadrant runs the first
eligible warp in its order: the instruction that its words decode to, by its own meaning, in the machine with that warp acting
and its words fetched; a word that is no instruction is rejected, and a fetch that fails traps. An issue turn in which no warp
can issue changes nothing but the schedule. The agenda, the schedule of turns and that an event of the agenda is no word are
the model's choices (logs 3 and 5); so are that a quadrant issues one word in a cycle, before the quadrants of higher number
(log 33), and that an event or a word whose access has to wait does not happen yet, so that the next warp of the order issues
(log 46); the trap of a rejected word is its reading (log 20). -/
def Obligations.StepRunsDecodedInstruction : Prop :=
  ∀ s : Machine.State,
    let now : Machine.State := { s with stalled := false }
    let unlessWaits (r other : Host.Outcome Machine.State Fault Refusal) : Host.Outcome Machine.State Fault Refusal :=
      match r with
      | .next t => if t.stalled then other else .next t
      | r => r
    (∀ i rest, s.agenda = i :: rest →
      let s0 : Machine.State := { now with agenda := rest }
      (isWord i = false → step s = unlessWaits (exec i s0) (.next s0)) ∧ (isWord i = true → step s = .next s0)) ∧
    (∀ c q rest, s.agenda = [] → s.sched = .issue c q :: rest →
      let s0 : Machine.State := { now with sched := rest }
      let waits (j : Nat) : Prop := ∃ t : Machine.State, s0.issueWarp c j = .next t ∧ t.stalled = true
      ((∀ j ∈ s0.issueSlots c q, waits j) → step s = .next s0) ∧
      (∀ before j after w, s0.issueSlots c q = before ++ j :: after → (∀ i ∈ before, waits i) →
        let s1 := s0.issueFrom c j
        s1.warpAt c j = some w → w.faultDue = false → s1.genFaultReady w = false →
        let s2 := s1.touchWords c w
        let runs (r : Host.Outcome Machine.State Fault Refusal) : Prop := step s = unlessWaits r (s0.issueFirst c after)
        (∀ w0 w1, s1.fetchWords c w = .ok (w0, w1) →
          (∀ i, decodeWords w0 w1 = .ok i → runs (exec i s2)) ∧
          (∀ e, decodeWords w0 w1 = .error e → runs (.next (rejectWord e w0 s2)))) ∧
        (∀ f va, s1.fetchWords c w = .error (f, va) → runs (.next (s2.takeTrap (fetchTrap w f va))))))

/-- R69, R85: the words that the spec prints with their encodings, and the canonical NOP, decode to the instructions that they
stand for: one of the vector, scalar, load-store, synchronisation, copy, matrix, fast-weight, spatial, trap and branch units
each, and a pair word. The all-zero word is an illegal encoding, and a first word alone of a long instruction is none. -/
def Obligations.DecodedWords : Prop :=
  let h : Hdr := { stall := 0, wait := 0, set := none, pneg := false, pidx := 0 }
  decodeWords 0x00003C0000000000#64 none = .ok (.nop h) ∧
  decodeWords 0x0000000000000000#64 none = .error .illegalEncoding ∧
  decodeWords 0x04007E9C00280705#64 none =
    .ok (.fadd { h with stall := 1, wait := 1, pneg := true, pidx := 2 } false .f32 .rne (.v 10) (.v 3) (.op (.s 5))) ∧
  decodeWords 0x04003C0084101000#64 none = .ok (.srd { h with stall := 1 } (.s 4) { idx := 8, upper := 0 }) ∧
  decodeWords 0x44003C208132060B#64 none =
    .ok (.pairWord { stall := 1, wait := 0, aop := 0x01, adst := 4, asrc := 9, bop := 0x12, bdst := 6, bsrc := 11 }) ∧
  decodeWords 0x88003C1C60200504#64 (some 0xC124000000000000#64) =
    .ok (.ffma { h with stall := 2 } .f32 .rz (.v 8) (.v 2) (.op (.s 4)) (.v 9)) ∧
  decodeWords 0x8000043400120407#64 (some 0xC00D510000000040#64) =
    .ok (.ld { h with set := some 1 } true .glob .b64 false .device .acq .none true (.v 4) (.s 2) (.v 7) 64) ∧
  decodeWords 0x8000043400120407#64 none = .error .tooShort ∧
  decodeWords 0x80003C06A4221580#64 (some 0xC00940420000023C#64) =
    .ok (.waitm h .glob .b32 false .device .lower .ne (.s 8) (.s 10) (.const 0) 0x23C none) ∧
  decodeWords 0x8000083D04520508#64 (some 0xC009400000000000#64) =
    .ok (.cpy { h with set := some 2 } .sa .gmem .glob true .group (.s 20) (.s 2) (.s 8)) ∧
  decodeWords 0x80007C3A48020118#64 (some 0xC00A000000000040#64) =
    .ok (.mms { h with wait := 1 } .f16 true true (.mem (.s 0) 0x40) (.s 24)) ∧
  decodeWords 0x0000483C48000108#64 none = .ok (.delta { h with wait := 1, set := some 2 } true (.s 8)) ∧
  decodeWords 0x00003C3E00022800#64 none = .ok (.spenter h .s11 (.s 20)) ∧
  decodeWords 0x00003C7F00000183#64 none = .ok (.trap { h with pidx := 1 } (.const 3)) ∧
  decodeWords 0x80003C0240000007#64 (some 0xC020000000000009#64) = .ok (.split h 7 { idx := 1, upper := 0 } 9) ∧
  decodeWords 0x00003C0207FFFFF3#64 none = .ok (.bra h (-13))

/-- R67, R69, R85, R88: the decoder reads every well-formed word back from the bytes that the encoder gives it, with every field,
and leaves the bytes after it. -/
def Obligations.DecodeOfEncode : Prop :=
  ∀ (i : Instr) (rest : List Byte), isWord i = true → WellFormed i = true → decode (encodeBytes i ++ rest) = .ok (i, rest)

/-- R414, R461, R463, R466, R468: at reset no core is released, no warp, group or launch exists, every queue is disabled with its
ring size field at 0x0C, every port is down, every window is closed, no cap is set, and memory is in its canonical form; its
bytes read as zero, which is the model's choice (log entry 2), as is the zero of every register without a reset value (log
entry 1). -/
def Obligations.ResetValues : Prop :=
  let s := State.reset
  Memory.wf s.mem = true ∧ (∀ pa, s.memByte pa = 0) ∧ s.boot = .off ∧ (∀ c, (s.core c).released = false ∧ (s.core c).warps = []) ∧
  s.groups = [] ∧ s.launches = [] ∧
  (∀ q, (s.queue q).st = .disabled ∧ (s.queue q).enable = false ∧ (s.queue q).log2sz = 0x0C#5 ∧ (s.queue q).base = 0#40 ∧
    (s.queue q).rp = 0#26 ∧ (s.queue q).wp = 0#26) ∧
  (∀ p, (s.port p).st = .down) ∧ (∀ w, (s.window w).en = false) ∧ (∀ d, (s.die d).pcap = 0#12 ∧ (s.die d).mode = .running)

/-- R170, R183, R310: every step keeps global memory in its canonical form, whatever acts in it. That a byte which nothing has
written reads as zero, and is not listed, is the model's choice (log 2). -/
def Obligations.StepKeepsMemoryCanonical : Prop :=
  ∀ s t : Machine.State, Memory.wf s.mem = true → step s = .next t → Memory.wf t.mem = true

/-- R76, R88, R90: whatever the word, an empty effective mask leaves it no effect but its schedule fields: the pc moves past it and
STALL counts, and so under every empty mask and the same register allocation; or else an operand check of the word fails, and
then the word takes that same trap, with the same field in DETAIL, in every state with the same register allocation, whatever
its mask (a blocking word's trap sets STEEP to zero). -/
def Obligations.EmptyMaskOnlyAdvances : Prop :=
  ∀ (i : Instr) (h : Hdr) (s : Machine.State) (x : Ctx), hdrOf i = some h → s.ctx = some x → x.w.eff h = 0 →
    let same (t : Machine.State) (y : Ctx) : Prop := t.ctx = some y ∧ y.w.alloc = x.w.alloc
    let advances (t : Machine.State) (y : Ctx) : Prop :=
      exec i t = .next (t.setWarp (y.w.issued h (8 * (encode i).length) y.cycle 0))
    (advances s x ∧ ∀ t y, same t y → y.w.eff h = 0 → advances t y) ∨
    ∃ z field, exec i s = .next (s.takeWordTrap z (trapAt cIllegalOperand 0 field)) ∧
      ∀ t y, same t y → exec i t = .next (t.takeWordTrap z (trapAt cIllegalOperand (y.w.eff h) field))

/-- R75: the effective mask is the active mask and the predicate: k0 selects every lane, or none when inverted; another predicate
its own lanes, or the others. A pair word has the active mask. -/
def Obligations.EffectiveMask : Prop :=
  ∀ (w : Warp) (h : Hdr),
    (h.pidx = 0#3 → h.pneg = false → w.eff h = w.act) ∧
    (h.pidx = 0#3 → h.pneg = true → w.eff h = 0) ∧
    (h.pidx ≠ 0#3 → h.pneg = false → w.eff h = w.act &&& w.k.get 0 h.pidx.toNat) ∧
    (h.pidx ≠ 0#3 → h.pneg = true → w.eff h = w.act &&& ~~~(w.k.get 0 h.pidx.toNat)) ∧
    w.kreg 0 = fullMask ∧ (∀ r, r ≠ 0 → w.kreg r = w.k.get 0 r) ∧
    ∀ p : PairWord, w.eff (pairHdr p) = w.act

/-- R110: of the writes by one warp to one register, whatever their number, the one that takes effect last remains, and of those
that take effect in one cycle the one latest in program order. So a load that completes after a later word's write has taken
effect in an earlier cycle leaves the loaded value, and one that completes in the cycle of a later word's write does not. -/
def Obligations.LastWriteStays : Prop :=
  ∀ (w : Warp) (T : Nat),
    let last (before after : List Pend) (p : Pend) (hits : Wr → Prop) : Prop :=
      w.pend = before ++ p :: after ∧ p.due ≤ T ∧ (∀ q ∈ before, hits q.wr → q.due ≤ T → q.due ≤ p.due) ∧
        ∀ q ∈ after, hits q.wr → q.due ≤ T → q.due < p.due
    let kept (ord : Nat) (before after : List Pend) (p : Pend) (hits : Wr → Prop) : Prop :=
      w.settled = before ++ p :: after ∧ ord < p.ord ∧ (∀ q ∈ before, hits q.wr → q.ord ≤ p.ord) ∧
        ∀ q ∈ after, hits q.wr → q.ord < p.ord
    (∀ (r : Nat), SMap.wf RegVal.zero w.s = true →
      let hits (q : Wr) : Prop := ∃ y, q = .s r y
      ((∀ q ∈ w.pend, q.due ≤ T → ¬ hits q.wr) → (w.settle T).sreg r = w.sreg r) ∧
      (∀ before after p x, p.wr = .s r x → last before after p hits → (w.settle T).sreg r = x) ∧
      (∀ ord x before after p y, p.wr = .s r y → kept ord before after p hits → (w.complete T ord [.s r x]).sreg r = y) ∧
      (∀ ord x, (∀ q ∈ w.settled, hits q.wr → q.ord ≤ ord) → (w.complete T ord [.s r x]).sreg r = x)) ∧
    (∀ (r l : Nat), l < 32 → SMap.wf zeroLanes w.v = true →
      let hits (q : Wr) : Prop := ∃ m ys, q = .v r m ys ∧ laneOn m l = true
      ((∀ q ∈ w.pend, q.due ≤ T → ¬ hits q.wr) → (w.settle T).lane r l = w.lane r l) ∧
      (∀ before after p m xs, p.wr = .v r m xs → laneOn m l = true → last before after p hits →
        (w.settle T).lane r l = xs.getD l RegVal.zero) ∧
      (∀ ord m xs before after p n ys, laneOn m l = true → p.wr = .v r n ys → laneOn n l = true → kept ord before after p hits →
        (w.complete T ord [.v r m xs]).lane r l = ys.getD l RegVal.zero) ∧
      (∀ ord m xs, laneOn m l = true → (∀ q ∈ w.settled, hits q.wr → q.ord ≤ ord) →
        (w.complete T ord [.v r m xs]).lane r l = xs.getD l RegVal.zero)) ∧
    (∀ (r l : Nat), l < 32 → r ≠ 0 → SMap.wf (0 : Word) w.k = true →
      let hits (q : Wr) : Prop := ∃ m y, q = .k r m y ∧ laneOn m l = true
      ((∀ q ∈ w.pend, q.due ≤ T → ¬ hits q.wr) → laneOn ((w.settle T).kreg r) l = laneOn (w.kreg r) l) ∧
      (∀ before after p m x, p.wr = .k r m x → laneOn m l = true → last before after p hits →
        laneOn ((w.settle T).kreg r) l = laneOn x l) ∧
      (∀ ord m x before after p n y, laneOn m l = true → p.wr = .k r n y → laneOn n l = true → kept ord before after p hits →
        laneOn ((w.complete T ord [.k r m x]).kreg r) l = laneOn y l) ∧
      (∀ ord m x, laneOn m l = true → (∀ q ∈ w.settled, hits q.wr → q.ord ≤ ord) →
        laneOn ((w.complete T ord [.k r m x]).kreg r) l = laneOn x l))

/-- R76, R108, R129: the frame of the arithmetic words of fixed latency. Unless the word traps, nothing changes but the acting
warp, and of it the pc, the count of words, the earliest next issue, the counter of the flag that SET names, and the
writes to come: these go to the word's destinations alone, and in a vector register to lanes of the effective mask alone.
Every register, all memory and every other warp, core and unit is as before. -/
def Obligations.ArithmeticFrame : Prop :=
  ∀ (i : Instr) (h : Hdr) (D : Dests) (s t : Machine.State) (x : Ctx), hdrOf i = some h → destsOf i = some D → s.ctx = some x →
    exec i s = .next t →
    (∃ tr, t = s.takeTrap tr) ∨
    (OnlyActingWarp s t ∧ (∀ pa, t.memByte pa = s.memByte pa) ∧ ∃ w ws, t.warp = some w ∧
      w = { x.w with pc := w.pc, order := w.order, notBefore := w.notBefore, flags := w.flags, pend := x.w.pend ++ ws } ∧
      (∀ f : Nat, (∀ k, h.set = some k → k.val ≠ f) → w.flag f = x.w.flag f) ∧
      ∀ p ∈ ws, p.wr.within D (x.w.eff h))

/-- R158, R162, R168, R172, R173, R176 to R178, R181, R284, R290: the frame of what stores. Unless the word traps, a store, an
atomic or a CCTL.ZERO leaves every register of its warp as it is (a destination is written at completion), every byte of global
memory outside the bytes at the locations of its lanes, and every byte of the group memory of a core that has been released
outside those bytes there; it touches no group, launch, queue or configuration. The locations are those of the checks that the
meaning makes, on the effective addresses that it computes. A copy word stores nothing: its request does so element by element,
and an element changes no byte outside its destination and no warp. -/
def Obligations.StoreFrame : Prop :=
  ∀ (s t : Machine.State) (x : Ctx) (h : Hdr) (l scl : Bool) (sz : Size) (sc : Scope) (od : Order) (hint : Hint) (op : Aop)
    (d a b c o : Operand) (disp nblk : BitVec 32) (rw ssp : RwSpace) (sr : SramSpace) (strm : Stream) (fe : Bool), s.ctx = some x →
    let n := sizeBytes sz
    let eff := x.w.eff h
    let still (places : Loc → Prop) (n : Nat) : Prop :=
      (∀ pa : Nat, (∀ r z, places (.glob r z) → ¬ (r ≤ pa ∧ pa < r + n)) → t.memByte pa = s.memByte pa) ∧
      ∀ k i : Nat, (s.core k).released = true →
        (∀ g off, places (.sram g off) → (s.sramAt g off).1 = k → ¬ ((s.sramAt g off).2 ≤ i ∧ i < (s.sramAt g off).2 + n)) →
        byteAt (t.core k).sram i = byteAt (s.core k).sram i
    let quiet : Prop :=
      (∃ w, t.warp = some w ∧
        w = { x.w with pc := w.pc, order := w.order, notBefore := w.notBefore, flags := w.flags, faults := w.faults } ∧
        (∀ f : Nat, (∀ k, h.set = some k → k.val ≠ f) → w.flag f = x.w.flag f)) ∧
      (t.groups = s.groups ∧ t.launches = s.launches ∧ t.fabrics = s.fabrics ∧ t.spaces = s.spaces ∧ t.queues = s.queues) ∧
      ∀ j, j ≠ s.cur.2 → t.warpAt s.cur.1 j = s.warpAt s.cur.1 j
    let frame (i : Instr) (len n : Nat) (sp : Sp) (acc : Access) (lanes : Machine.State → List Nat) (ea : Nat → Int) : Prop :=
      let p := s.past x h len
      exec i s = .next t →
      (∃ tr, t = s.takeTrap tr) ∨
      (quiet ∧ (∀ w, t.warp = some w → w.faults = x.w.faults) ∧
        still (fun q => ∀ locs, p.lsCheckAll x.w sp acc n (lanes p) ea = .ok locs → ∃ i, (i, q) ∈ locs) n)
    let request (i : Instr) : Prop := exec i s = .next t → (∃ tr, t = s.takeTrap tr) ∨ (quiet ∧ still (fun _ => False) 0)
    (frame (.st h l rw sz sc od hint scl d a b disp) (lenOf l) n (spOfRw rw) .write (·.lsLanes eff)
        (x.ea (spOfRw rw) n scl a (some b) disp) ∧
      frame (.stfe h l sr sz sc scl d a b disp) (lenOf l) n (spOfSram sr) .write (·.lsLanes eff)
        (x.ea (spOfSram sr) n scl a (some b) disp) ∧
      frame (.atom h rw sz sc od op d a b disp) 16 n (spOfRw rw) .rmw (fun _ => lanesOf eff)
        (x.ea (spOfRw rw) n false a none disp) ∧
      frame (.atomc h rw sz sc od d a b c disp) 16 n (spOfRw rw) .rmw (fun _ => lanesOf eff)
        (x.ea (spOfRw rw) n false a none disp) ∧
      frame (.red h rw sz sc od op a b disp) 16 n (spOfRw rw) .rmw (·.lsLanes eff) (x.ea (spOfRw rw) n false a none disp) ∧
      frame (.cctlZero h l scl a b disp) (lenOf l) 128 .glob .write (fun _ => lanesOf eff)
        (x.ea .glob 128 scl a (some b) disp)) ∧
    (request (.cpy h strm rw ssp fe sc d a b) ∧ request (.cpyz h strm rw ssp fe sc d a nblk) ∧
      request (.cpyg h strm rw ssp fe sc d a b o) ∧ request (.cpys h strm rw ssp fe sc d a b o) ∧
      request (.cpyb h strm rw ssp fe sc d a b o) ∧ request (.cpyxSend h strm rw ssp fe sc d a b o) ∧
      request (.cpyxFetch h strm rw ssp fe sc d a b o)) ∧
    (∀ (k : Nat) (before after : List CopyReq) (r : CopyReq) (y : CopyElem) (rest : List CopyElem),
      headOf strm (s.core k).copy = some (before, r, after) → r.elems = y :: rest → exec (.copyElement k strm) s = .next t →
      still (fun q => y.dst = some q) r.es ∧
      ∀ j, (s.core j).released = true → (t.core j).warps = (s.core j).warps)
end

