-- ==== Sys2Proof/Laws/Fabric.lean ====
section
/-! SUPPORT. What a message, a snoop, a fill or a whole access changes: nothing but caches, directories, links and the stored
forms of blocks. Every lemma about a value of memory goes through `FabricOnly`. -/

namespace Sys2Proof.Machine

/-- Two states that differ in caches, directories, links, dies, stored blocks, and whether the step waits, alone. -/
def FabricOnly (s t : State) : Prop :=
  t = { s with stalled := t.stalled, l1 := t.l1, l1stream := t.l1stream, dieDir := t.dieDir, dies := t.dies, links := t.links, chans := t.chans, lines := t.lines
               hostSec := t.hostSec, residency := t.residency, hbm := t.hbm, hbmPoison := t.hbmPoison, tags := t.tags }

theorem FabricOnly.refl (s : State) : FabricOnly s s := rfl

theorem FabricOnly.trans {s t u : State} (h : FabricOnly s t) (k : FabricOnly t u) : FabricOnly s u := by
  unfold FabricOnly at *
  rw [k, h]

theorem FabricOnly.mem {s t : State} (h : FabricOnly s t) : t.mem = s.mem := by rw [h]
theorem FabricOnly.memPoison {s t : State} (h : FabricOnly s t) : t.memPoison = s.memPoison := by rw [h]
theorem FabricOnly.cores {s t : State} (h : FabricOnly s t) : t.cores = s.cores := by rw [h]
theorem FabricOnly.groups {s t : State} (h : FabricOnly s t) : t.groups = s.groups := by rw [h]
theorem FabricOnly.cur {s t : State} (h : FabricOnly s t) : t.cur = s.cur := by rw [h]

theorem FabricOnly.ite {s t u : State} {p : Prop} [Decidable p] (h : FabricOnly s t) (k : FabricOnly s u) :
    FabricOnly s (if p then t else u) := by split <;> assumption

theorem FabricOnly.foldl {α : Type} (f : State → α → State) (h : ∀ s x, FabricOnly s (f s x)) (s : State) (xs : List α) :
    FabricOnly s (xs.foldl f s) := by
  induction xs generalizing s with
  | nil => exact .refl s
  | cons x xs ih => exact (h s x).trans (ih _)

theorem fabricOnly_setLine (s : State) (l : Nat) (e : LineSt) : FabricOnly s (s.setLine l e) := rfl
theorem fabricOnly_l1Drop (s : State) (d l : Nat) (k : Option Nat) : FabricOnly s (s.l1Drop d l k) := rfl
theorem fabricOnly_l1Share (s : State) (d l : Nat) : FabricOnly s (s.l1Share d l) := rfl

theorem fabricOnly_mergeLine (s : State) (l : Nat) : FabricOnly s (s.mergeLine l) := by
  unfold State.mergeLine
  dsimp only
  split
  · rfl
  · split <;> rfl

theorem FabricOnly.merge {s t : State} {p : Prop} [Decidable p] (h : FabricOnly s t) (l : Nat) :
    FabricOnly s (if p then t.mergeLine l else t) := FabricOnly.ite (h.trans (fabricOnly_mergeLine t l)) h

theorem fabricOnly_stall (s : State) : FabricOnly s s.stall := rfl

theorem fabricOnly_noteSend (s : State) (a b : Nat) (fs : List FMsg) : FabricOnly s (s.noteSend a b fs) := by
  unfold State.noteSend
  dsimp only
  split <;> split <;> rfl

theorem fabricOnly_refill (s : State) (a b n : Nat) : FabricOnly s (s.refill a b n) := by
  unfold State.refill
  dsimp only
  split
  · exact FabricOnly.trans (t := s.setChan _ _ _ _) rfl (fabricOnly_noteSend _ _ _ _)
  · rfl

theorem fabricOnly_pass (s : State) (a b : Nat) : FabricOnly s (s.pass a b) := by
  unfold State.pass
  dsimp only
  split
  · rfl
  · refine FabricOnly.trans ?_ (fabricOnly_noteSend _ _ _ _)
    split
    · rfl
    · exact FabricOnly.trans (t := s.setLink a b _) rfl
        (FabricOnly.foldl _ (fun t n => (fabricOnly_refill t _ _ _).trans (fabricOnly_refill _ _ _ _)) _ _)

theorem fabricOnly_exchange (s : State) (a b : Nat) : FabricOnly s (s.exchange a b) :=
  (fabricOnly_pass s a b).trans (fabricOnly_pass _ b a)

theorem fabricOnly_passOn (s : State) (a b ch : Nat) : FabricOnly s (s.passOn a b ch) :=
  FabricOnly.ite (fabricOnly_pass s a b) (fabricOnly_stall s)

theorem fabricOnly_passSnoop (s : State) (e : LineSt) (h b : Nat) (m : Msg) : FabricOnly s (s.passSnoop e h b m) :=
  (fabricOnly_passOn s h b 1).trans (fabricOnly_passOn _ _ _ _)

theorem fabricOnly_touchL2 (s : State) (l : Nat) : FabricOnly s (s.touchL2 l) := by
  unfold State.touchL2
  dsimp only
  split <;> rfl

theorem fabricOnly_homeServes (s : State) (l a : Nat) (r : Req) : FabricOnly s (s.homeServes l a r) := by
  unfold State.homeServes
  dsimp only
  have snooped (t : State) (q : Nat × Msg) :
      FabricOnly t ((if q.2 = .snpI then t.l1Drop q.1 l else t.l1Share q.1 l).passSnoop (s.line l) (homeOf l) q.1 q.2) :=
    FabricOnly.trans (FabricOnly.ite (fabricOnly_l1Drop _ _ _ _) (fabricOnly_l1Share _ _ _)) (fabricOnly_passSnoop _ _ _ _ _)
  exact FabricOnly.merge (((fabricOnly_setLine s l _).trans (fabricOnly_touchL2 _ _)).trans (FabricOnly.foldl _ snooped _ _)) l

theorem fabricOnly_transact (s : State) (l a : Nat) (r : Req) : FabricOnly s (s.transact l a r) := by
  unfold State.transact
  dsimp only
  have h := ((fabricOnly_passOn s a (homeOf l) 0).trans (fabricOnly_homeServes _ l a r)).trans
    (fabricOnly_passOn _ (homeOf l) a ((s.line l).served a r).2.1.chan)
  exact FabricOnly.ite (h.trans (fabricOnly_passOn _ _ _ _)) h

/-- Messages to the dies of some cores change no byte, no register and no group. -/
theorem fabricOnly_passTo (s : State) (a : Nat) (cs : List Nat) : FabricOnly s (s.passTo a cs) :=
  FabricOnly.foldl _ (fun t d => fabricOnly_pass t _ _) s _

theorem fabricOnly_reportFrom (s : State) (cs : List Nat) : FabricOnly s (s.reportFrom cs) :=
  FabricOnly.foldl _ (fun _ _ => fabricOnly_pass _ _ _) _ _

theorem fabricOnly_tellOthers (s : State) (d : Nat) : FabricOnly s (s.tellOthers d) :=
  FabricOnly.foldl _ (fun _ _ => fabricOnly_pass _ _ _) _ _

theorem fabricOnly_toldStart (s : State) (g : Group) (l : Launch) : FabricOnly s (s.toldStart g l) :=
  FabricOnly.ite (fabricOnly_exchange _ _ _)
    (((fabricOnly_exchange _ _ _).trans (fabricOnly_pass _ _ _)).trans (fabricOnly_pass _ _ _))

theorem fabricOnly_awaySends (s : State) (d l : Nat) (e : LineSt) (dirty abrupt : Bool) :
    FabricOnly s (s.awaySends d l e dirty abrupt) :=
  FabricOnly.ite (.refl s) (FabricOnly.ite (fabricOnly_exchange _ _ _)
    (FabricOnly.foldl _ (fun _ _ => fabricOnly_exchange _ _ _) _ _))

theorem fabricOnly_blockRead (s : State) (d pa : Nat) : FabricOnly s (s.blockRead d pa) :=
  FabricOnly.ite (((fabricOnly_passOn _ _ _ _).trans
    (FabricOnly.foldl _ (fun _ _ => fabricOnly_homeServes _ _ _ _) _ _)).trans (fabricOnly_passOn _ _ _ _)) (fabricOnly_stall s)

theorem fabricOnly_devEvicted (s : State) (d l : Nat) : FabricOnly s (s.devEvicted d l) := by
  unfold State.devEvicted
  dsimp only
  refine FabricOnly.ite (.refl s) (FabricOnly.ite (fabricOnly_stall s) (FabricOnly.trans ?_ (fabricOnly_passOn _ _ _ _)))
  refine FabricOnly.merge (FabricOnly.trans ?_ (FabricOnly.foldl _ (fun _ _ => fabricOnly_l1Drop _ _ _ _) _ _)) l
  exact ((fabricOnly_setLine _ _ _).trans (fabricOnly_passOn _ _ _ _)).trans
    (FabricOnly.foldl _ (fun _ _ => fabricOnly_passSnoop _ _ _ _ _) _ _)

theorem fabricOnly_lineAccess (s : State) (d l : Nat) (wr : Bool) : FabricOnly s (s.lineAccess d l wr) := by
  unfold State.lineAccess
  dsimp only
  have h0 : FabricOnly s (if homeOf l = d then s.touchL2 l else s) := FabricOnly.ite (fabricOnly_touchL2 s l) (.refl s)
  split
  · exact fabricOnly_stall s
  · split <;> first | exact h0 | exact h0.trans rfl | exact fabricOnly_transact _ _ _ _

theorem fabricOnly_homeAccess (s : State) (a l : Nat) : FabricOnly s (s.homeAccess a l) := by
  unfold State.homeAccess
  exact FabricOnly.ite ((fabricOnly_transact _ _ _ _).trans (fabricOnly_mergeLine _ _)) (fabricOnly_stall s)

theorem fabricOnly_l1Evict (s : State) (c : Nat) (l : Option Nat) : FabricOnly s (s.l1Evict c l) := rfl

theorem fabricOnly_l1Mark (s : State) (c l : Nat) : FabricOnly s (s.l1Mark c l) := FabricOnly.ite (.refl s) rfl

theorem fabricOnly_l1Fill (s : State) (c l : Nat) (x : AgentSt) : FabricOnly s (s.l1Fill c l x) :=
  FabricOnly.trans (t := { s with l1 := _, l1stream := _, dieDir := _ }) rfl (fabricOnly_l1Evict _ _ _)

theorem fabricOnly_coreLine (s : State) (c l : Nat) (wr : Bool) {f : State → State} (ex : State → Bool)
    (h : FabricOnly s (f s)) : FabricOnly s (s.coreLine c l wr f ex) := by
  unfold State.coreLine
  dsimp only
  split
  · rfl
  · split
    · exact h
    · split
      · exact h.trans ((fabricOnly_l1Drop _ _ _ _).trans (fabricOnly_l1Fill _ _ _ _))
      · exact h.trans ((fabricOnly_l1Share _ _ _).trans (fabricOnly_l1Fill _ _ _ _))

theorem fabricOnly_coreHbm (s : State) (c l : Nat) (wr : Bool) : FabricOnly s (s.coreHbm c l wr) :=
  fabricOnly_coreLine _ _ _ _ _ (fabricOnly_lineAccess _ _ _ _)

theorem fabricOnly_hostAccess (s : State) (d k : Nat) (wr : Bool) : FabricOnly s (s.hostAccess d k wr) := by
  unfold State.hostAccess
  dsimp only
  split
  · rfl
  · refine FabricOnly.trans ?_ (FabricOnly.trans (fabricOnly_exchange _ d 4) rfl)
    refine FabricOnly.foldl _ (fun t b => ?_) s _
    cases wr <;> exact (fabricOnly_exchange t 4 b).trans rfl

theorem fabricOnly_coreHost (s : State) (c k : Nat) (wr : Bool) : FabricOnly s (s.coreHost c k wr) :=
  (fabricOnly_hostAccess _ _ _ _).trans (fabricOnly_coreLine _ _ _ _ _ (.refl _))

theorem fabricOnly_devAccess (s : State) (p : Party) (l : Nat) (x : Access) : FabricOnly s (s.devAccess p l x) := by
  unfold State.devAccess
  split
  · rfl
  · split
    · exact (fabricOnly_homeAccess _ _ _).trans rfl
    · exact (fabricOnly_homeAccess _ _ _).trans rfl
    · exact fabricOnly_coreHbm _ _ _ _
    · exact (fabricOnly_coreHbm _ _ _ _).trans (fabricOnly_l1Mark _ _ _)
    · exact (fabricOnly_homeAccess _ _ _).trans rfl
    · exact (fabricOnly_lineAccess _ _ _ _).trans rfl
    · exact (fabricOnly_lineAccess _ _ _ _).trans rfl
    · exact (FabricOnly.ite ((fabricOnly_homeAccess _ _ _).trans (fabricOnly_l1Drop _ _ _ _))
          ((fabricOnly_lineAccess _ _ _ _).trans (fabricOnly_l1Share _ _ _))).trans
        (fabricOnly_exchange _ _ _)

theorem fabricOnly_hostLine (s : State) (p : Party) (k : Nat) (x : Access) : FabricOnly s (s.hostLine p k x) := by
  have l2 (d : Nat) : FabricOnly s (if x.writes then (s.hostAccess d k x.writes).l1Drop d (k / 2)
      else (s.hostAccess d k x.writes).l1Share d (k / 2)) :=
    FabricOnly.ite ((fabricOnly_hostAccess _ _ _ _).trans rfl) ((fabricOnly_hostAccess _ _ _ _).trans rfl)
  unfold State.hostLine
  dsimp only
  split
  · exact FabricOnly.ite (l2 _) (fabricOnly_coreHost _ _ _ _)
  · exact FabricOnly.ite (l2 _) ((fabricOnly_coreHost _ _ _ _).trans (fabricOnly_l1Mark _ _ _))
  · exact l2 _
  · split
    · refine FabricOnly.foldl _ (fun t b => ?_) s _
      split
      · exact .refl t
      · exact (fabricOnly_exchange t 4 b).trans rfl
    · rfl

/-- An access changes no byte, no register and no group. -/
theorem fabricOnly_access (s : State) (p : Party) (pa n : Nat) (x : Access) : FabricOnly s (s.access p pa n x) := by
  unfold State.access
  split
  · exact FabricOnly.foldl _ (fun t l => fabricOnly_devAccess t p l x) s _
  · exact FabricOnly.foldl _ (fun t l => fabricOnly_hostLine t p l x) s _

theorem fabricOnly_locAccess (s : State) (p : Party) (l : Loc) (n : Nat) (x : Access) : FabricOnly s (s.locAccess p l n x) := by
  cases l with
  | glob pa comp => exact fabricOnly_access _ _ _ _ _
  | sram g off => rfl

theorem fabricOnly_locAccesses (s : State) (p : Party) (ls : List Loc) (n : Nat) (x : Access) :
    FabricOnly s (s.locAccesses p ls n x) :=
  FabricOnly.foldl _ (fun t l => fabricOnly_locAccess t p l n x) s ls

/-- The walk of an access changes no byte, no register and no group. -/
theorem fabricOnly_walked (s : State) (c asid va : Nat) : FabricOnly s (s.walked c asid va) := by
  unfold State.walked
  split
  · rfl
  · split
    · rfl
    · exact FabricOnly.foldl _ (fun t pa => fabricOnly_access t _ _ _ _) s _

theorem fabricOnly_walkedAll (s : State) (c asid : Nat) (eas : List Int) : FabricOnly s (s.walkedAll c asid eas) :=
  FabricOnly.foldl _ (fun t _ => FabricOnly.ite (fabricOnly_walked t _ _ _) (.refl t)) s eas

theorem fabricOnly_walkLoc (s : State) (c asid : Nat) (l : Loc) (ea : Int) : FabricOnly s (s.walkLoc c asid l ea) := by
  cases l with
  | glob pa comp => exact fabricOnly_walkedAll _ _ _ _
  | sram g off => rfl

theorem fabricOnly_walkedPages (s : State) (c asid va n : Nat) : FabricOnly s (s.walkedPages c asid va n) :=
  fabricOnly_walkedAll _ _ _ _

theorem fabricOnly_hubWalked (s : State) (sp : Option Machine.Space) (va : Nat) : FabricOnly s (s.hubWalked sp va) := by
  unfold State.hubWalked
  split
  · rfl
  · exact FabricOnly.ite (.refl s) (FabricOnly.foldl _ (fun t pa => fabricOnly_access t _ _ _ _) s _)

/-- A read of the trap unit or the branch unit changes no byte. -/
theorem fabricOnly_vtouch (s : State) (c asid va n : Nat) : FabricOnly s (s.vtouch c asid va n) := by
  unfold State.vtouch
  dsimp only
  split
  · exact fabricOnly_walked _ _ _ _
  · exact (fabricOnly_walked _ _ _ _).trans (fabricOnly_access _ _ _ _ _)

/-! The fields that statements name. -/

@[simp] theorem State.access_mem (s : State) (p : Party) (pa n : Nat) (x : Access) : (s.access p pa n x).mem = s.mem :=
  (fabricOnly_access s p pa n x).mem
@[simp] theorem State.access_cores (s : State) (p : Party) (pa n : Nat) (x : Access) : (s.access p pa n x).cores = s.cores :=
  (fabricOnly_access s p pa n x).cores
@[simp] theorem State.locAccess_mem (s : State) (p : Party) (l : Loc) (n : Nat) (x : Access) :
    (s.locAccess p l n x).mem = s.mem := (fabricOnly_locAccess s p l n x).mem
@[simp] theorem State.locAccess_cores (s : State) (p : Party) (l : Loc) (n : Nat) (x : Access) :
    (s.locAccess p l n x).cores = s.cores := (fabricOnly_locAccess s p l n x).cores
@[simp] theorem State.store_mem (s : State) (p : Party) (pa : Nat) (bs : List Byte) (comp : Bool) :
    (s.store p pa bs comp).mem = putBytes s.mem pa bs := State.access_mem _ _ _ _ _

end Sys2Proof.Machine
end

