-- ==== Sys2Proof/Laws/Issue.lean ====
section
/-! SUPPORT. What the common course of a word's issue answers. -/

namespace Sys2Proof.Machine

theorem firstFail_eq_none {cs : Checks} : firstFail cs = none ↔ cs.all (fun c => c.2) = true := by
  induction cs with
  | nil => simp [firstFail]
  | cons c cs ih =>
    obtain ⟨d, ok⟩ := c
    cases ok <;> simp [firstFail, ih]

theorem poisonTrap_clean {w : Warp} {eff : LaneMask} {rs : List Rd} (h : ∀ r ∈ rs, r.tags w = []) :
    poisonTrap w eff rs = none := by
  have : rs.flatMap (Rd.tags w) = [] := by
    rw [List.flatMap_eq_nil_iff]; exact h
  simp [poisonTrap, this]

/-- A word that nothing stands in the way of does what its body answers. -/
theorem issue_ready {s : State} {x : Ctx} {h : Hdr} {ok ctl : Bool} {reads : List Rd} {f : Form}
    {body : Ctx → LaneMask → State → Except Trap State} (r : Ready s x h ok reads ctl)
    (hc : (f.checks x.w.alloc).all (fun c => c.2) = ok) (hr : f.reads (x.w.eff h) = reads) (hs : f.spatialOk = ctl) :
    issue h f body s = match body x (x.w.eff h) (s.past x h f.len f.extra) with
      | .ok t => .next t
      | .error t => .next (s.takeWordTrap f.zeroSteep t) := by
  have hm : (s.spatial && !f.spatialOk) = false := by
    cases hsp : s.spatial with
    | false => rfl
    | true => simp [hs, r.mode hsp]
  simp only [issue, r.ctx, firstFail_eq_none.2 (hc.trans r.operands), r.lanes, ↓reduceIte, hr,
    poisonTrap_clean r.clean, hm, Bool.false_eq_true, State.past]
  all_goals (cases body x (x.w.eff h) (s.setWarp ((x.w.issued h f.len x.cycle f.extra).incFlag h.set)) <;> rfl)

/-- A word whose only effect is register writes. -/
theorem alu_ready {s : State} {x : Ctx} {h : Hdr} {ok ctl : Bool} {reads : List Rd} {f : Form} {lat : Nat}
    {wr : Ctx → LaneMask → List Wr} (r : Ready s x h ok reads ctl)
    (hc : (f.checks x.w.alloc).all (fun c => c.2) = ok) (hr : f.reads (x.w.eff h) = reads) (hs : f.spatialOk = ctl)
    (he : f.extra = 0) :
    alu h f lat wr s = .next (s.later x h f.len lat (wr x (x.w.eff h))) := by
  rw [alu, issue_ready r hc hr hs, he]; rfl

/-- Everything that the course of a word can answer when a warp acts. -/
theorem issue_cases {s t : State} {x : Ctx} {h : Hdr} {f : Form} {body : Ctx → LaneMask → State → Except Trap State}
    (hx : s.ctx = some x) (ht : issue h f body s = .next t) :
    (∃ d, firstFail (f.checks x.w.alloc) = some d ∧ t = s.takeWordTrap f.zeroSteep (trapAt cIllegalOperand (x.w.eff h) d)) ∨
    (x.w.eff h = 0 ∧ t = s.setWarp (x.w.issued h f.len x.cycle 0)) ∨
    (∃ tr, poisonTrap x.w (x.w.eff h) (f.reads (x.w.eff h)) = some tr ∧ t = s.takeWordTrap f.zeroSteep tr) ∨
    (s.spatial = true ∧ f.spatialOk = false ∧ t = s.takeWordTrap f.zeroSteep (spatialTrap (x.w.eff h))) ∨
    body x (x.w.eff h) (s.past x h f.len f.extra) = .ok t ∨
    ∃ tr, body x (x.w.eff h) (s.past x h f.len f.extra) = .error tr ∧
      t = s.takeWordTrap f.zeroSteep tr := by
  simp only [issue, hx] at ht
  split at ht
  · rename_i d hd; cases ht; exact .inl ⟨d, hd, rfl⟩
  · split at ht
    · rename_i he; cases ht; exact .inr (.inl ⟨he, rfl⟩)
    · split at ht
      · rename_i tr hp; cases ht; exact .inr (.inr (.inl ⟨tr, hp, rfl⟩))
      · split at ht
        · rename_i hs
          cases ht
          simp only [Bool.and_eq_true, Bool.not_eq_true'] at hs
          exact .inr (.inr (.inr (.inl ⟨hs.1, hs.2, rfl⟩)))
        · split at ht
          · rename_i hb; cases ht; exact .inr (.inr (.inr (.inr (.inl hb))))
          · rename_i tr hb; cases ht; exact .inr (.inr (.inr (.inr (.inr ⟨tr, hb, rfl⟩))))

/-- R76, R90: under an empty effective mask a word takes the trap of the first failing operand check, or only advances. -/
theorem issue_empty {s : State} {x : Ctx} {h : Hdr} {f : Form} {body : Ctx → LaneMask → State → Except Trap State}
    (hx : s.ctx = some x) (he : x.w.eff h = 0) :
    issue h f body s = .next (s.setWarp (x.w.issued h f.len x.cycle 0)) ∨
    ∃ d, issue h f body s = .next (s.takeWordTrap f.zeroSteep (trapAt cIllegalOperand 0 d)) := by
  simp only [issue, hx, he]
  split
  · exact .inr ⟨_, rfl⟩
  · exact .inl rfl

end Sys2Proof.Machine
end

