-- ==== Sys2Proof/Laws/State.lean ====
section
/-! SUPPORT. What each update of the state and of a warp leaves unchanged, and what it writes: one lemma per field. -/

namespace Sys2Proof.Machine

@[simp] theorem State.setCore_agenda (s : State) (c : Nat) (x : Core) : (s.setCore c x).agenda = s.agenda := rfl
@[simp] theorem State.setCore_choices (s : State) (c : Nat) (x : Core) : (s.setCore c x).choices = s.choices := rfl
@[simp] theorem State.setCore_freeCtr (s : State) (c : Nat) (x : Core) : (s.setCore c x).freeCtr = s.freeCtr := rfl
@[simp] theorem State.setCore_seq (s : State) (c : Nat) (x : Core) : (s.setCore c x).seq = s.seq := rfl
@[simp] theorem State.setCore_cur (s : State) (c : Nat) (x : Core) : (s.setCore c x).cur = s.cur := rfl
@[simp] theorem State.setCore_groups (s : State) (c : Nat) (x : Core) : (s.setCore c x).groups = s.groups := rfl
@[simp] theorem State.setCore_launches (s : State) (c : Nat) (x : Core) : (s.setCore c x).launches = s.launches := rfl
@[simp] theorem State.setCore_fabrics (s : State) (c : Nat) (x : Core) : (s.setCore c x).fabrics = s.fabrics := rfl
@[simp] theorem State.setCore_spaces (s : State) (c : Nat) (x : Core) : (s.setCore c x).spaces = s.spaces := rfl
@[simp] theorem State.setCore_mem (s : State) (c : Nat) (x : Core) : (s.setCore c x).mem = s.mem := rfl
@[simp] theorem State.setCore_memPoison (s : State) (c : Nat) (x : Core) : (s.setCore c x).memPoison = s.memPoison := rfl
@[simp] theorem State.setCore_poisonDies (s : State) (c : Nat) (x : Core) : (s.setCore c x).poisonDies = s.poisonDies := rfl
@[simp] theorem State.setCore_compLines (s : State) (c : Nat) (x : Core) : (s.setCore c x).compLines = s.compLines := rfl
@[simp] theorem State.setCore_history (s : State) (c : Nat) (x : Core) : (s.setCore c x).history = s.history := rfl
@[simp] theorem State.setCore_writes (s : State) (c : Nat) (x : Core) : (s.setCore c x).writes = s.writes := rfl
@[simp] theorem State.setCore_touched (s : State) (c : Nat) (x : Core) : (s.setCore c x).touched = s.touched := rfl
@[simp] theorem State.setCore_stalled (s : State) (c : Nat) (x : Core) : (s.setCore c x).stalled = s.stalled := rfl
@[simp] theorem State.setCore_l1 (s : State) (c : Nat) (x : Core) : (s.setCore c x).l1 = s.l1 := rfl
@[simp] theorem State.setCore_l1stream (s : State) (c : Nat) (x : Core) : (s.setCore c x).l1stream = s.l1stream := rfl
@[simp] theorem State.setCore_dieDir (s : State) (c : Nat) (x : Core) : (s.setCore c x).dieDir = s.dieDir := rfl
@[simp] theorem State.setCore_clIc (s : State) (c : Nat) (x : Core) : (s.setCore c x).clIc = s.clIc := rfl
@[simp] theorem State.setCore_l2tlb (s : State) (c : Nat) (x : Core) : (s.setCore c x).l2tlb = s.l2tlb := rfl
@[simp] theorem State.setCore_hbm (s : State) (c : Nat) (x : Core) : (s.setCore c x).hbm = s.hbm := rfl
@[simp] theorem State.setCore_hbmPoison (s : State) (c : Nat) (x : Core) : (s.setCore c x).hbmPoison = s.hbmPoison := rfl
@[simp] theorem State.setCore_tags (s : State) (c : Nat) (x : Core) : (s.setCore c x).tags = s.tags := rfl
@[simp] theorem State.setCore_fenced (s : State) (c : Nat) (x : Core) : (s.setCore c x).fenced = s.fenced := rfl
@[simp] theorem State.setCore_queues (s : State) (c : Nat) (x : Core) : (s.setCore c x).queues = s.queues := rfl
@[simp] theorem State.setCore_bypass (s : State) (c : Nat) (x : Core) : (s.setCore c x).bypass = s.bypass := rfl
@[simp] theorem State.setCore_heldAsids (s : State) (c : Nat) (x : Core) : (s.setCore c x).heldAsids = s.heldAsids := rfl
@[simp] theorem State.setCore_msix (s : State) (c : Nat) (x : Core) : (s.setCore c x).msix = s.msix := rfl
@[simp] theorem State.setCore_hub (s : State) (c : Nat) (x : Core) : (s.setCore c x).hub = s.hub := rfl
@[simp] theorem State.setCore_ports (s : State) (c : Nat) (x : Core) : (s.setCore c x).ports = s.ports := rfl
@[simp] theorem State.setCore_windows (s : State) (c : Nat) (x : Core) : (s.setCore c x).windows = s.windows := rfl
@[simp] theorem State.setCore_log (s : State) (c : Nat) (x : Core) : (s.setCore c x).log = s.log := rfl
@[simp] theorem State.setCore_logNext (s : State) (c : Nat) (x : Core) : (s.setCore c x).logNext = s.logNext := rfl
@[simp] theorem State.setCore_logLost (s : State) (c : Nat) (x : Core) : (s.setCore c x).logLost = s.logLost := rfl
@[simp] theorem State.setCore_boot (s : State) (c : Nat) (x : Core) : (s.setCore c x).boot = s.boot := rfl
@[simp] theorem State.setCore_dies (s : State) (c : Nat) (x : Core) : (s.setCore c x).dies = s.dies := rfl
@[simp] theorem State.setCore_links (s : State) (c : Nat) (x : Core) : (s.setCore c x).links = s.links := rfl
@[simp] theorem State.setCore_chans (s : State) (c : Nat) (x : Core) : (s.setCore c x).chans = s.chans := rfl
@[simp] theorem State.setCore_lines (s : State) (c : Nat) (x : Core) : (s.setCore c x).lines = s.lines := rfl
@[simp] theorem State.setCore_hostSec (s : State) (c : Nat) (x : Core) : (s.setCore c x).hostSec = s.hostSec := rfl
@[simp] theorem State.setCore_residency (s : State) (c : Nat) (x : Core) : (s.setCore c x).residency = s.residency := rfl
@[simp] theorem State.setCore_release (s : State) (c : Nat) (x : Core) : (s.setCore c x).release = s.release := rfl
@[simp] theorem State.setCore_releaseTurn (s : State) (c : Nat) (x : Core) : (s.setCore c x).releaseTurn = s.releaseTurn := rfl
@[simp] theorem State.setCore_lastRelease (s : State) (c : Nat) (x : Core) : (s.setCore c x).lastRelease = s.lastRelease := rfl
@[simp] theorem State.setCore_mclk (s : State) (c : Nat) (x : Core) : (s.setCore c x).mclk = s.mclk := rfl
@[simp] theorem State.setCore_errs (s : State) (c : Nat) (x : Core) : (s.setCore c x).errs = s.errs := rfl
@[simp] theorem State.setCore_unitErrs (s : State) (c : Nat) (x : Core) : (s.setCore c x).unitErrs = s.unitErrs := rfl
@[simp] theorem State.setCore_fenceList (s : State) (c : Nat) (x : Core) : (s.setCore c x).fenceList = s.fenceList := rfl
@[simp] theorem State.setCore_fenceDrop (s : State) (c : Nat) (x : Core) : (s.setCore c x).fenceDrop = s.fenceDrop := rfl
@[simp] theorem State.setCore_fencedUnits (s : State) (c : Nat) (x : Core) : (s.setCore c x).fencedUnits = s.fencedUnits := rfl
@[simp] theorem State.setCore_flash (s : State) (c : Nat) (x : Core) : (s.setCore c x).flash = s.flash := rfl
@[simp] theorem State.setCore_running (s : State) (c : Nat) (x : Core) : (s.setCore c x).running = s.running := rfl
@[simp] theorem State.setCore_bootFences (s : State) (c : Nat) (x : Core) : (s.setCore c x).bootFences = s.bootFences := rfl
@[simp] theorem State.setCore_update (s : State) (c : Nat) (x : Core) : (s.setCore c x).update = s.update := rfl
@[simp] theorem State.setCore_eid (s : State) (c : Nat) (x : Core) : (s.setCore c x).eid = s.eid := rfl
@[simp] theorem State.setCore_dbgsel (s : State) (c : Nat) (x : Core) : (s.setCore c x).dbgsel = s.dbgsel := rfl
@[simp] theorem State.setCore_reply (s : State) (c : Nat) (x : Core) : (s.setCore c x).reply = s.reply := rfl
@[simp] theorem State.setCore_sched (s : State) (c : Nat) (x : Core) : (s.setCore c x).sched = s.sched := rfl
@[simp] theorem State.setCore_turn (s : State) (c : Nat) (x : Core) : (s.setCore c x).turn = s.turn := rfl

@[simp] theorem State.setWarpAt_agenda (s : State) (c j : Nat) (w : Warp) : (s.setWarpAt c j w).agenda = s.agenda := rfl
@[simp] theorem State.setWarpAt_choices (s : State) (c j : Nat) (w : Warp) : (s.setWarpAt c j w).choices = s.choices := rfl
@[simp] theorem State.setWarpAt_freeCtr (s : State) (c j : Nat) (w : Warp) : (s.setWarpAt c j w).freeCtr = s.freeCtr := rfl
@[simp] theorem State.setWarpAt_seq (s : State) (c j : Nat) (w : Warp) : (s.setWarpAt c j w).seq = s.seq := rfl
@[simp] theorem State.setWarpAt_cur (s : State) (c j : Nat) (w : Warp) : (s.setWarpAt c j w).cur = s.cur := rfl
@[simp] theorem State.setWarpAt_groups (s : State) (c j : Nat) (w : Warp) : (s.setWarpAt c j w).groups = s.groups := rfl
@[simp] theorem State.setWarpAt_launches (s : State) (c j : Nat) (w : Warp) : (s.setWarpAt c j w).launches = s.launches := rfl
@[simp] theorem State.setWarpAt_fabrics (s : State) (c j : Nat) (w : Warp) : (s.setWarpAt c j w).fabrics = s.fabrics := rfl
@[simp] theorem State.setWarpAt_spaces (s : State) (c j : Nat) (w : Warp) : (s.setWarpAt c j w).spaces = s.spaces := rfl
@[simp] theorem State.setWarpAt_mem (s : State) (c j : Nat) (w : Warp) : (s.setWarpAt c j w).mem = s.mem := rfl
@[simp] theorem State.setWarpAt_memPoison (s : State) (c j : Nat) (w : Warp) : (s.setWarpAt c j w).memPoison = s.memPoison := rfl
@[simp] theorem State.setWarpAt_poisonDies (s : State) (c j : Nat) (w : Warp) : (s.setWarpAt c j w).poisonDies = s.poisonDies := rfl
@[simp] theorem State.setWarpAt_compLines (s : State) (c j : Nat) (w : Warp) : (s.setWarpAt c j w).compLines = s.compLines := rfl
@[simp] theorem State.setWarpAt_history (s : State) (c j : Nat) (w : Warp) : (s.setWarpAt c j w).history = s.history := rfl
@[simp] theorem State.setWarpAt_writes (s : State) (c j : Nat) (w : Warp) : (s.setWarpAt c j w).writes = s.writes := rfl
@[simp] theorem State.setWarpAt_touched (s : State) (c j : Nat) (w : Warp) : (s.setWarpAt c j w).touched = s.touched := rfl
@[simp] theorem State.setWarpAt_stalled (s : State) (c j : Nat) (w : Warp) : (s.setWarpAt c j w).stalled = s.stalled := rfl
@[simp] theorem State.setWarpAt_l1 (s : State) (c j : Nat) (w : Warp) : (s.setWarpAt c j w).l1 = s.l1 := rfl
@[simp] theorem State.setWarpAt_l1stream (s : State) (c j : Nat) (w : Warp) : (s.setWarpAt c j w).l1stream = s.l1stream := rfl
@[simp] theorem State.setWarpAt_dieDir (s : State) (c j : Nat) (w : Warp) : (s.setWarpAt c j w).dieDir = s.dieDir := rfl
@[simp] theorem State.setWarpAt_clIc (s : State) (c j : Nat) (w : Warp) : (s.setWarpAt c j w).clIc = s.clIc := rfl
@[simp] theorem State.setWarpAt_l2tlb (s : State) (c j : Nat) (w : Warp) : (s.setWarpAt c j w).l2tlb = s.l2tlb := rfl
@[simp] theorem State.setWarpAt_hbm (s : State) (c j : Nat) (w : Warp) : (s.setWarpAt c j w).hbm = s.hbm := rfl
@[simp] theorem State.setWarpAt_hbmPoison (s : State) (c j : Nat) (w : Warp) : (s.setWarpAt c j w).hbmPoison = s.hbmPoison := rfl
@[simp] theorem State.setWarpAt_tags (s : State) (c j : Nat) (w : Warp) : (s.setWarpAt c j w).tags = s.tags := rfl
@[simp] theorem State.setWarpAt_fenced (s : State) (c j : Nat) (w : Warp) : (s.setWarpAt c j w).fenced = s.fenced := rfl
@[simp] theorem State.setWarpAt_queues (s : State) (c j : Nat) (w : Warp) : (s.setWarpAt c j w).queues = s.queues := rfl
@[simp] theorem State.setWarpAt_bypass (s : State) (c j : Nat) (w : Warp) : (s.setWarpAt c j w).bypass = s.bypass := rfl
@[simp] theorem State.setWarpAt_heldAsids (s : State) (c j : Nat) (w : Warp) : (s.setWarpAt c j w).heldAsids = s.heldAsids := rfl
@[simp] theorem State.setWarpAt_msix (s : State) (c j : Nat) (w : Warp) : (s.setWarpAt c j w).msix = s.msix := rfl
@[simp] theorem State.setWarpAt_hub (s : State) (c j : Nat) (w : Warp) : (s.setWarpAt c j w).hub = s.hub := rfl
@[simp] theorem State.setWarpAt_ports (s : State) (c j : Nat) (w : Warp) : (s.setWarpAt c j w).ports = s.ports := rfl
@[simp] theorem State.setWarpAt_windows (s : State) (c j : Nat) (w : Warp) : (s.setWarpAt c j w).windows = s.windows := rfl
@[simp] theorem State.setWarpAt_log (s : State) (c j : Nat) (w : Warp) : (s.setWarpAt c j w).log = s.log := rfl
@[simp] theorem State.setWarpAt_logNext (s : State) (c j : Nat) (w : Warp) : (s.setWarpAt c j w).logNext = s.logNext := rfl
@[simp] theorem State.setWarpAt_logLost (s : State) (c j : Nat) (w : Warp) : (s.setWarpAt c j w).logLost = s.logLost := rfl
@[simp] theorem State.setWarpAt_boot (s : State) (c j : Nat) (w : Warp) : (s.setWarpAt c j w).boot = s.boot := rfl
@[simp] theorem State.setWarpAt_dies (s : State) (c j : Nat) (w : Warp) : (s.setWarpAt c j w).dies = s.dies := rfl
@[simp] theorem State.setWarpAt_links (s : State) (c j : Nat) (w : Warp) : (s.setWarpAt c j w).links = s.links := rfl
@[simp] theorem State.setWarpAt_chans (s : State) (c j : Nat) (w : Warp) : (s.setWarpAt c j w).chans = s.chans := rfl
@[simp] theorem State.setWarpAt_lines (s : State) (c j : Nat) (w : Warp) : (s.setWarpAt c j w).lines = s.lines := rfl
@[simp] theorem State.setWarpAt_hostSec (s : State) (c j : Nat) (w : Warp) : (s.setWarpAt c j w).hostSec = s.hostSec := rfl
@[simp] theorem State.setWarpAt_residency (s : State) (c j : Nat) (w : Warp) : (s.setWarpAt c j w).residency = s.residency := rfl
@[simp] theorem State.setWarpAt_release (s : State) (c j : Nat) (w : Warp) : (s.setWarpAt c j w).release = s.release := rfl
@[simp] theorem State.setWarpAt_releaseTurn (s : State) (c j : Nat) (w : Warp) : (s.setWarpAt c j w).releaseTurn = s.releaseTurn := rfl
@[simp] theorem State.setWarpAt_lastRelease (s : State) (c j : Nat) (w : Warp) : (s.setWarpAt c j w).lastRelease = s.lastRelease := rfl
@[simp] theorem State.setWarpAt_mclk (s : State) (c j : Nat) (w : Warp) : (s.setWarpAt c j w).mclk = s.mclk := rfl
@[simp] theorem State.setWarpAt_errs (s : State) (c j : Nat) (w : Warp) : (s.setWarpAt c j w).errs = s.errs := rfl
@[simp] theorem State.setWarpAt_unitErrs (s : State) (c j : Nat) (w : Warp) : (s.setWarpAt c j w).unitErrs = s.unitErrs := rfl
@[simp] theorem State.setWarpAt_fenceList (s : State) (c j : Nat) (w : Warp) : (s.setWarpAt c j w).fenceList = s.fenceList := rfl
@[simp] theorem State.setWarpAt_fenceDrop (s : State) (c j : Nat) (w : Warp) : (s.setWarpAt c j w).fenceDrop = s.fenceDrop := rfl
@[simp] theorem State.setWarpAt_fencedUnits (s : State) (c j : Nat) (w : Warp) : (s.setWarpAt c j w).fencedUnits = s.fencedUnits := rfl
@[simp] theorem State.setWarpAt_flash (s : State) (c j : Nat) (w : Warp) : (s.setWarpAt c j w).flash = s.flash := rfl
@[simp] theorem State.setWarpAt_running (s : State) (c j : Nat) (w : Warp) : (s.setWarpAt c j w).running = s.running := rfl
@[simp] theorem State.setWarpAt_bootFences (s : State) (c j : Nat) (w : Warp) : (s.setWarpAt c j w).bootFences = s.bootFences := rfl
@[simp] theorem State.setWarpAt_update (s : State) (c j : Nat) (w : Warp) : (s.setWarpAt c j w).update = s.update := rfl
@[simp] theorem State.setWarpAt_eid (s : State) (c j : Nat) (w : Warp) : (s.setWarpAt c j w).eid = s.eid := rfl
@[simp] theorem State.setWarpAt_dbgsel (s : State) (c j : Nat) (w : Warp) : (s.setWarpAt c j w).dbgsel = s.dbgsel := rfl
@[simp] theorem State.setWarpAt_reply (s : State) (c j : Nat) (w : Warp) : (s.setWarpAt c j w).reply = s.reply := rfl
@[simp] theorem State.setWarpAt_sched (s : State) (c j : Nat) (w : Warp) : (s.setWarpAt c j w).sched = s.sched := rfl
@[simp] theorem State.setWarpAt_turn (s : State) (c j : Nat) (w : Warp) : (s.setWarpAt c j w).turn = s.turn := rfl

@[simp] theorem State.dropWarpAt_agenda (s : State) (c j : Nat) : (s.dropWarpAt c j).agenda = s.agenda := rfl
@[simp] theorem State.dropWarpAt_choices (s : State) (c j : Nat) : (s.dropWarpAt c j).choices = s.choices := rfl
@[simp] theorem State.dropWarpAt_freeCtr (s : State) (c j : Nat) : (s.dropWarpAt c j).freeCtr = s.freeCtr := rfl
@[simp] theorem State.dropWarpAt_seq (s : State) (c j : Nat) : (s.dropWarpAt c j).seq = s.seq := rfl
@[simp] theorem State.dropWarpAt_cur (s : State) (c j : Nat) : (s.dropWarpAt c j).cur = s.cur := rfl
@[simp] theorem State.dropWarpAt_groups (s : State) (c j : Nat) : (s.dropWarpAt c j).groups = s.groups := rfl
@[simp] theorem State.dropWarpAt_launches (s : State) (c j : Nat) : (s.dropWarpAt c j).launches = s.launches := rfl
@[simp] theorem State.dropWarpAt_fabrics (s : State) (c j : Nat) : (s.dropWarpAt c j).fabrics = s.fabrics := rfl
@[simp] theorem State.dropWarpAt_spaces (s : State) (c j : Nat) : (s.dropWarpAt c j).spaces = s.spaces := rfl
@[simp] theorem State.dropWarpAt_mem (s : State) (c j : Nat) : (s.dropWarpAt c j).mem = s.mem := rfl
@[simp] theorem State.dropWarpAt_memPoison (s : State) (c j : Nat) : (s.dropWarpAt c j).memPoison = s.memPoison := rfl
@[simp] theorem State.dropWarpAt_poisonDies (s : State) (c j : Nat) : (s.dropWarpAt c j).poisonDies = s.poisonDies := rfl
@[simp] theorem State.dropWarpAt_compLines (s : State) (c j : Nat) : (s.dropWarpAt c j).compLines = s.compLines := rfl
@[simp] theorem State.dropWarpAt_history (s : State) (c j : Nat) : (s.dropWarpAt c j).history = s.history := rfl
@[simp] theorem State.dropWarpAt_writes (s : State) (c j : Nat) : (s.dropWarpAt c j).writes = s.writes := rfl
@[simp] theorem State.dropWarpAt_touched (s : State) (c j : Nat) : (s.dropWarpAt c j).touched = s.touched := rfl
@[simp] theorem State.dropWarpAt_stalled (s : State) (c j : Nat) : (s.dropWarpAt c j).stalled = s.stalled := rfl
@[simp] theorem State.dropWarpAt_l1 (s : State) (c j : Nat) : (s.dropWarpAt c j).l1 = s.l1 := rfl
@[simp] theorem State.dropWarpAt_l1stream (s : State) (c j : Nat) : (s.dropWarpAt c j).l1stream = s.l1stream := rfl
@[simp] theorem State.dropWarpAt_dieDir (s : State) (c j : Nat) : (s.dropWarpAt c j).dieDir = s.dieDir := rfl
@[simp] theorem State.dropWarpAt_clIc (s : State) (c j : Nat) : (s.dropWarpAt c j).clIc = s.clIc := rfl
@[simp] theorem State.dropWarpAt_l2tlb (s : State) (c j : Nat) : (s.dropWarpAt c j).l2tlb = s.l2tlb := rfl
@[simp] theorem State.dropWarpAt_hbm (s : State) (c j : Nat) : (s.dropWarpAt c j).hbm = s.hbm := rfl
@[simp] theorem State.dropWarpAt_hbmPoison (s : State) (c j : Nat) : (s.dropWarpAt c j).hbmPoison = s.hbmPoison := rfl
@[simp] theorem State.dropWarpAt_tags (s : State) (c j : Nat) : (s.dropWarpAt c j).tags = s.tags := rfl
@[simp] theorem State.dropWarpAt_fenced (s : State) (c j : Nat) : (s.dropWarpAt c j).fenced = s.fenced := rfl
@[simp] theorem State.dropWarpAt_queues (s : State) (c j : Nat) : (s.dropWarpAt c j).queues = s.queues := rfl
@[simp] theorem State.dropWarpAt_bypass (s : State) (c j : Nat) : (s.dropWarpAt c j).bypass = s.bypass := rfl
@[simp] theorem State.dropWarpAt_heldAsids (s : State) (c j : Nat) : (s.dropWarpAt c j).heldAsids = s.heldAsids := rfl
@[simp] theorem State.dropWarpAt_msix (s : State) (c j : Nat) : (s.dropWarpAt c j).msix = s.msix := rfl
@[simp] theorem State.dropWarpAt_hub (s : State) (c j : Nat) : (s.dropWarpAt c j).hub = s.hub := rfl
@[simp] theorem State.dropWarpAt_ports (s : State) (c j : Nat) : (s.dropWarpAt c j).ports = s.ports := rfl
@[simp] theorem State.dropWarpAt_windows (s : State) (c j : Nat) : (s.dropWarpAt c j).windows = s.windows := rfl
@[simp] theorem State.dropWarpAt_log (s : State) (c j : Nat) : (s.dropWarpAt c j).log = s.log := rfl
@[simp] theorem State.dropWarpAt_logNext (s : State) (c j : Nat) : (s.dropWarpAt c j).logNext = s.logNext := rfl
@[simp] theorem State.dropWarpAt_logLost (s : State) (c j : Nat) : (s.dropWarpAt c j).logLost = s.logLost := rfl
@[simp] theorem State.dropWarpAt_boot (s : State) (c j : Nat) : (s.dropWarpAt c j).boot = s.boot := rfl
@[simp] theorem State.dropWarpAt_dies (s : State) (c j : Nat) : (s.dropWarpAt c j).dies = s.dies := rfl
@[simp] theorem State.dropWarpAt_links (s : State) (c j : Nat) : (s.dropWarpAt c j).links = s.links := rfl
@[simp] theorem State.dropWarpAt_chans (s : State) (c j : Nat) : (s.dropWarpAt c j).chans = s.chans := rfl
@[simp] theorem State.dropWarpAt_lines (s : State) (c j : Nat) : (s.dropWarpAt c j).lines = s.lines := rfl
@[simp] theorem State.dropWarpAt_hostSec (s : State) (c j : Nat) : (s.dropWarpAt c j).hostSec = s.hostSec := rfl
@[simp] theorem State.dropWarpAt_residency (s : State) (c j : Nat) : (s.dropWarpAt c j).residency = s.residency := rfl
@[simp] theorem State.dropWarpAt_release (s : State) (c j : Nat) : (s.dropWarpAt c j).release = s.release := rfl
@[simp] theorem State.dropWarpAt_releaseTurn (s : State) (c j : Nat) : (s.dropWarpAt c j).releaseTurn = s.releaseTurn := rfl
@[simp] theorem State.dropWarpAt_lastRelease (s : State) (c j : Nat) : (s.dropWarpAt c j).lastRelease = s.lastRelease := rfl
@[simp] theorem State.dropWarpAt_mclk (s : State) (c j : Nat) : (s.dropWarpAt c j).mclk = s.mclk := rfl
@[simp] theorem State.dropWarpAt_errs (s : State) (c j : Nat) : (s.dropWarpAt c j).errs = s.errs := rfl
@[simp] theorem State.dropWarpAt_unitErrs (s : State) (c j : Nat) : (s.dropWarpAt c j).unitErrs = s.unitErrs := rfl
@[simp] theorem State.dropWarpAt_fenceList (s : State) (c j : Nat) : (s.dropWarpAt c j).fenceList = s.fenceList := rfl
@[simp] theorem State.dropWarpAt_fenceDrop (s : State) (c j : Nat) : (s.dropWarpAt c j).fenceDrop = s.fenceDrop := rfl
@[simp] theorem State.dropWarpAt_fencedUnits (s : State) (c j : Nat) : (s.dropWarpAt c j).fencedUnits = s.fencedUnits := rfl
@[simp] theorem State.dropWarpAt_flash (s : State) (c j : Nat) : (s.dropWarpAt c j).flash = s.flash := rfl
@[simp] theorem State.dropWarpAt_running (s : State) (c j : Nat) : (s.dropWarpAt c j).running = s.running := rfl
@[simp] theorem State.dropWarpAt_bootFences (s : State) (c j : Nat) : (s.dropWarpAt c j).bootFences = s.bootFences := rfl
@[simp] theorem State.dropWarpAt_update (s : State) (c j : Nat) : (s.dropWarpAt c j).update = s.update := rfl
@[simp] theorem State.dropWarpAt_eid (s : State) (c j : Nat) : (s.dropWarpAt c j).eid = s.eid := rfl
@[simp] theorem State.dropWarpAt_dbgsel (s : State) (c j : Nat) : (s.dropWarpAt c j).dbgsel = s.dbgsel := rfl
@[simp] theorem State.dropWarpAt_reply (s : State) (c j : Nat) : (s.dropWarpAt c j).reply = s.reply := rfl
@[simp] theorem State.dropWarpAt_sched (s : State) (c j : Nat) : (s.dropWarpAt c j).sched = s.sched := rfl
@[simp] theorem State.dropWarpAt_turn (s : State) (c j : Nat) : (s.dropWarpAt c j).turn = s.turn := rfl

@[simp] theorem State.setWarp_agenda (s : State) (w : Warp) : (s.setWarp w).agenda = s.agenda := rfl
@[simp] theorem State.setWarp_choices (s : State) (w : Warp) : (s.setWarp w).choices = s.choices := rfl
@[simp] theorem State.setWarp_freeCtr (s : State) (w : Warp) : (s.setWarp w).freeCtr = s.freeCtr := rfl
@[simp] theorem State.setWarp_seq (s : State) (w : Warp) : (s.setWarp w).seq = s.seq := rfl
@[simp] theorem State.setWarp_cur (s : State) (w : Warp) : (s.setWarp w).cur = s.cur := rfl
@[simp] theorem State.setWarp_groups (s : State) (w : Warp) : (s.setWarp w).groups = s.groups := rfl
@[simp] theorem State.setWarp_launches (s : State) (w : Warp) : (s.setWarp w).launches = s.launches := rfl
@[simp] theorem State.setWarp_fabrics (s : State) (w : Warp) : (s.setWarp w).fabrics = s.fabrics := rfl
@[simp] theorem State.setWarp_spaces (s : State) (w : Warp) : (s.setWarp w).spaces = s.spaces := rfl
@[simp] theorem State.setWarp_mem (s : State) (w : Warp) : (s.setWarp w).mem = s.mem := rfl
@[simp] theorem State.setWarp_memPoison (s : State) (w : Warp) : (s.setWarp w).memPoison = s.memPoison := rfl
@[simp] theorem State.setWarp_poisonDies (s : State) (w : Warp) : (s.setWarp w).poisonDies = s.poisonDies := rfl
@[simp] theorem State.setWarp_compLines (s : State) (w : Warp) : (s.setWarp w).compLines = s.compLines := rfl
@[simp] theorem State.setWarp_history (s : State) (w : Warp) : (s.setWarp w).history = s.history := rfl
@[simp] theorem State.setWarp_writes (s : State) (w : Warp) : (s.setWarp w).writes = s.writes := rfl
@[simp] theorem State.setWarp_touched (s : State) (w : Warp) : (s.setWarp w).touched = s.touched := rfl
@[simp] theorem State.setWarp_stalled (s : State) (w : Warp) : (s.setWarp w).stalled = s.stalled := rfl
@[simp] theorem State.setWarp_l1 (s : State) (w : Warp) : (s.setWarp w).l1 = s.l1 := rfl
@[simp] theorem State.setWarp_l1stream (s : State) (w : Warp) : (s.setWarp w).l1stream = s.l1stream := rfl
@[simp] theorem State.setWarp_dieDir (s : State) (w : Warp) : (s.setWarp w).dieDir = s.dieDir := rfl
@[simp] theorem State.setWarp_clIc (s : State) (w : Warp) : (s.setWarp w).clIc = s.clIc := rfl
@[simp] theorem State.setWarp_l2tlb (s : State) (w : Warp) : (s.setWarp w).l2tlb = s.l2tlb := rfl
@[simp] theorem State.setWarp_hbm (s : State) (w : Warp) : (s.setWarp w).hbm = s.hbm := rfl
@[simp] theorem State.setWarp_hbmPoison (s : State) (w : Warp) : (s.setWarp w).hbmPoison = s.hbmPoison := rfl
@[simp] theorem State.setWarp_tags (s : State) (w : Warp) : (s.setWarp w).tags = s.tags := rfl
@[simp] theorem State.setWarp_fenced (s : State) (w : Warp) : (s.setWarp w).fenced = s.fenced := rfl
@[simp] theorem State.setWarp_queues (s : State) (w : Warp) : (s.setWarp w).queues = s.queues := rfl
@[simp] theorem State.setWarp_bypass (s : State) (w : Warp) : (s.setWarp w).bypass = s.bypass := rfl
@[simp] theorem State.setWarp_heldAsids (s : State) (w : Warp) : (s.setWarp w).heldAsids = s.heldAsids := rfl
@[simp] theorem State.setWarp_msix (s : State) (w : Warp) : (s.setWarp w).msix = s.msix := rfl
@[simp] theorem State.setWarp_hub (s : State) (w : Warp) : (s.setWarp w).hub = s.hub := rfl
@[simp] theorem State.setWarp_ports (s : State) (w : Warp) : (s.setWarp w).ports = s.ports := rfl
@[simp] theorem State.setWarp_windows (s : State) (w : Warp) : (s.setWarp w).windows = s.windows := rfl
@[simp] theorem State.setWarp_log (s : State) (w : Warp) : (s.setWarp w).log = s.log := rfl
@[simp] theorem State.setWarp_logNext (s : State) (w : Warp) : (s.setWarp w).logNext = s.logNext := rfl
@[simp] theorem State.setWarp_logLost (s : State) (w : Warp) : (s.setWarp w).logLost = s.logLost := rfl
@[simp] theorem State.setWarp_boot (s : State) (w : Warp) : (s.setWarp w).boot = s.boot := rfl
@[simp] theorem State.setWarp_dies (s : State) (w : Warp) : (s.setWarp w).dies = s.dies := rfl
@[simp] theorem State.setWarp_links (s : State) (w : Warp) : (s.setWarp w).links = s.links := rfl
@[simp] theorem State.setWarp_chans (s : State) (w : Warp) : (s.setWarp w).chans = s.chans := rfl
@[simp] theorem State.setWarp_lines (s : State) (w : Warp) : (s.setWarp w).lines = s.lines := rfl
@[simp] theorem State.setWarp_hostSec (s : State) (w : Warp) : (s.setWarp w).hostSec = s.hostSec := rfl
@[simp] theorem State.setWarp_residency (s : State) (w : Warp) : (s.setWarp w).residency = s.residency := rfl
@[simp] theorem State.setWarp_release (s : State) (w : Warp) : (s.setWarp w).release = s.release := rfl
@[simp] theorem State.setWarp_releaseTurn (s : State) (w : Warp) : (s.setWarp w).releaseTurn = s.releaseTurn := rfl
@[simp] theorem State.setWarp_lastRelease (s : State) (w : Warp) : (s.setWarp w).lastRelease = s.lastRelease := rfl
@[simp] theorem State.setWarp_mclk (s : State) (w : Warp) : (s.setWarp w).mclk = s.mclk := rfl
@[simp] theorem State.setWarp_errs (s : State) (w : Warp) : (s.setWarp w).errs = s.errs := rfl
@[simp] theorem State.setWarp_unitErrs (s : State) (w : Warp) : (s.setWarp w).unitErrs = s.unitErrs := rfl
@[simp] theorem State.setWarp_fenceList (s : State) (w : Warp) : (s.setWarp w).fenceList = s.fenceList := rfl
@[simp] theorem State.setWarp_fenceDrop (s : State) (w : Warp) : (s.setWarp w).fenceDrop = s.fenceDrop := rfl
@[simp] theorem State.setWarp_fencedUnits (s : State) (w : Warp) : (s.setWarp w).fencedUnits = s.fencedUnits := rfl
@[simp] theorem State.setWarp_flash (s : State) (w : Warp) : (s.setWarp w).flash = s.flash := rfl
@[simp] theorem State.setWarp_running (s : State) (w : Warp) : (s.setWarp w).running = s.running := rfl
@[simp] theorem State.setWarp_bootFences (s : State) (w : Warp) : (s.setWarp w).bootFences = s.bootFences := rfl
@[simp] theorem State.setWarp_update (s : State) (w : Warp) : (s.setWarp w).update = s.update := rfl
@[simp] theorem State.setWarp_eid (s : State) (w : Warp) : (s.setWarp w).eid = s.eid := rfl
@[simp] theorem State.setWarp_dbgsel (s : State) (w : Warp) : (s.setWarp w).dbgsel = s.dbgsel := rfl
@[simp] theorem State.setWarp_reply (s : State) (w : Warp) : (s.setWarp w).reply = s.reply := rfl
@[simp] theorem State.setWarp_sched (s : State) (w : Warp) : (s.setWarp w).sched = s.sched := rfl
@[simp] theorem State.setWarp_turn (s : State) (w : Warp) : (s.setWarp w).turn = s.turn := rfl

@[simp] theorem State.setGroup_agenda (s : State) (g : Nat) (x : Group) : (s.setGroup g x).agenda = s.agenda := rfl
@[simp] theorem State.setGroup_choices (s : State) (g : Nat) (x : Group) : (s.setGroup g x).choices = s.choices := rfl
@[simp] theorem State.setGroup_freeCtr (s : State) (g : Nat) (x : Group) : (s.setGroup g x).freeCtr = s.freeCtr := rfl
@[simp] theorem State.setGroup_seq (s : State) (g : Nat) (x : Group) : (s.setGroup g x).seq = s.seq := rfl
@[simp] theorem State.setGroup_cur (s : State) (g : Nat) (x : Group) : (s.setGroup g x).cur = s.cur := rfl
@[simp] theorem State.setGroup_cores (s : State) (g : Nat) (x : Group) : (s.setGroup g x).cores = s.cores := rfl
@[simp] theorem State.setGroup_launches (s : State) (g : Nat) (x : Group) : (s.setGroup g x).launches = s.launches := rfl
@[simp] theorem State.setGroup_fabrics (s : State) (g : Nat) (x : Group) : (s.setGroup g x).fabrics = s.fabrics := rfl
@[simp] theorem State.setGroup_spaces (s : State) (g : Nat) (x : Group) : (s.setGroup g x).spaces = s.spaces := rfl
@[simp] theorem State.setGroup_mem (s : State) (g : Nat) (x : Group) : (s.setGroup g x).mem = s.mem := rfl
@[simp] theorem State.setGroup_memPoison (s : State) (g : Nat) (x : Group) : (s.setGroup g x).memPoison = s.memPoison := rfl
@[simp] theorem State.setGroup_poisonDies (s : State) (g : Nat) (x : Group) : (s.setGroup g x).poisonDies = s.poisonDies := rfl
@[simp] theorem State.setGroup_compLines (s : State) (g : Nat) (x : Group) : (s.setGroup g x).compLines = s.compLines := rfl
@[simp] theorem State.setGroup_history (s : State) (g : Nat) (x : Group) : (s.setGroup g x).history = s.history := rfl
@[simp] theorem State.setGroup_writes (s : State) (g : Nat) (x : Group) : (s.setGroup g x).writes = s.writes := rfl
@[simp] theorem State.setGroup_touched (s : State) (g : Nat) (x : Group) : (s.setGroup g x).touched = s.touched := rfl
@[simp] theorem State.setGroup_stalled (s : State) (g : Nat) (x : Group) : (s.setGroup g x).stalled = s.stalled := rfl
@[simp] theorem State.setGroup_l1 (s : State) (g : Nat) (x : Group) : (s.setGroup g x).l1 = s.l1 := rfl
@[simp] theorem State.setGroup_l1stream (s : State) (g : Nat) (x : Group) : (s.setGroup g x).l1stream = s.l1stream := rfl
@[simp] theorem State.setGroup_dieDir (s : State) (g : Nat) (x : Group) : (s.setGroup g x).dieDir = s.dieDir := rfl
@[simp] theorem State.setGroup_clIc (s : State) (g : Nat) (x : Group) : (s.setGroup g x).clIc = s.clIc := rfl
@[simp] theorem State.setGroup_l2tlb (s : State) (g : Nat) (x : Group) : (s.setGroup g x).l2tlb = s.l2tlb := rfl
@[simp] theorem State.setGroup_hbm (s : State) (g : Nat) (x : Group) : (s.setGroup g x).hbm = s.hbm := rfl
@[simp] theorem State.setGroup_hbmPoison (s : State) (g : Nat) (x : Group) : (s.setGroup g x).hbmPoison = s.hbmPoison := rfl
@[simp] theorem State.setGroup_tags (s : State) (g : Nat) (x : Group) : (s.setGroup g x).tags = s.tags := rfl
@[simp] theorem State.setGroup_fenced (s : State) (g : Nat) (x : Group) : (s.setGroup g x).fenced = s.fenced := rfl
@[simp] theorem State.setGroup_queues (s : State) (g : Nat) (x : Group) : (s.setGroup g x).queues = s.queues := rfl
@[simp] theorem State.setGroup_bypass (s : State) (g : Nat) (x : Group) : (s.setGroup g x).bypass = s.bypass := rfl
@[simp] theorem State.setGroup_heldAsids (s : State) (g : Nat) (x : Group) : (s.setGroup g x).heldAsids = s.heldAsids := rfl
@[simp] theorem State.setGroup_msix (s : State) (g : Nat) (x : Group) : (s.setGroup g x).msix = s.msix := rfl
@[simp] theorem State.setGroup_hub (s : State) (g : Nat) (x : Group) : (s.setGroup g x).hub = s.hub := rfl
@[simp] theorem State.setGroup_ports (s : State) (g : Nat) (x : Group) : (s.setGroup g x).ports = s.ports := rfl
@[simp] theorem State.setGroup_windows (s : State) (g : Nat) (x : Group) : (s.setGroup g x).windows = s.windows := rfl
@[simp] theorem State.setGroup_log (s : State) (g : Nat) (x : Group) : (s.setGroup g x).log = s.log := rfl
@[simp] theorem State.setGroup_logNext (s : State) (g : Nat) (x : Group) : (s.setGroup g x).logNext = s.logNext := rfl
@[simp] theorem State.setGroup_logLost (s : State) (g : Nat) (x : Group) : (s.setGroup g x).logLost = s.logLost := rfl
@[simp] theorem State.setGroup_boot (s : State) (g : Nat) (x : Group) : (s.setGroup g x).boot = s.boot := rfl
@[simp] theorem State.setGroup_dies (s : State) (g : Nat) (x : Group) : (s.setGroup g x).dies = s.dies := rfl
@[simp] theorem State.setGroup_links (s : State) (g : Nat) (x : Group) : (s.setGroup g x).links = s.links := rfl
@[simp] theorem State.setGroup_chans (s : State) (g : Nat) (x : Group) : (s.setGroup g x).chans = s.chans := rfl
@[simp] theorem State.setGroup_lines (s : State) (g : Nat) (x : Group) : (s.setGroup g x).lines = s.lines := rfl
@[simp] theorem State.setGroup_hostSec (s : State) (g : Nat) (x : Group) : (s.setGroup g x).hostSec = s.hostSec := rfl
@[simp] theorem State.setGroup_residency (s : State) (g : Nat) (x : Group) : (s.setGroup g x).residency = s.residency := rfl
@[simp] theorem State.setGroup_release (s : State) (g : Nat) (x : Group) : (s.setGroup g x).release = s.release := rfl
@[simp] theorem State.setGroup_releaseTurn (s : State) (g : Nat) (x : Group) : (s.setGroup g x).releaseTurn = s.releaseTurn := rfl
@[simp] theorem State.setGroup_lastRelease (s : State) (g : Nat) (x : Group) : (s.setGroup g x).lastRelease = s.lastRelease := rfl
@[simp] theorem State.setGroup_mclk (s : State) (g : Nat) (x : Group) : (s.setGroup g x).mclk = s.mclk := rfl
@[simp] theorem State.setGroup_errs (s : State) (g : Nat) (x : Group) : (s.setGroup g x).errs = s.errs := rfl
@[simp] theorem State.setGroup_unitErrs (s : State) (g : Nat) (x : Group) : (s.setGroup g x).unitErrs = s.unitErrs := rfl
@[simp] theorem State.setGroup_fenceList (s : State) (g : Nat) (x : Group) : (s.setGroup g x).fenceList = s.fenceList := rfl
@[simp] theorem State.setGroup_fenceDrop (s : State) (g : Nat) (x : Group) : (s.setGroup g x).fenceDrop = s.fenceDrop := rfl
@[simp] theorem State.setGroup_fencedUnits (s : State) (g : Nat) (x : Group) : (s.setGroup g x).fencedUnits = s.fencedUnits := rfl
@[simp] theorem State.setGroup_flash (s : State) (g : Nat) (x : Group) : (s.setGroup g x).flash = s.flash := rfl
@[simp] theorem State.setGroup_running (s : State) (g : Nat) (x : Group) : (s.setGroup g x).running = s.running := rfl
@[simp] theorem State.setGroup_bootFences (s : State) (g : Nat) (x : Group) : (s.setGroup g x).bootFences = s.bootFences := rfl
@[simp] theorem State.setGroup_update (s : State) (g : Nat) (x : Group) : (s.setGroup g x).update = s.update := rfl
@[simp] theorem State.setGroup_eid (s : State) (g : Nat) (x : Group) : (s.setGroup g x).eid = s.eid := rfl
@[simp] theorem State.setGroup_dbgsel (s : State) (g : Nat) (x : Group) : (s.setGroup g x).dbgsel = s.dbgsel := rfl
@[simp] theorem State.setGroup_reply (s : State) (g : Nat) (x : Group) : (s.setGroup g x).reply = s.reply := rfl
@[simp] theorem State.setGroup_sched (s : State) (g : Nat) (x : Group) : (s.setGroup g x).sched = s.sched := rfl
@[simp] theorem State.setGroup_turn (s : State) (g : Nat) (x : Group) : (s.setGroup g x).turn = s.turn := rfl

@[simp] theorem State.setQueue_agenda (s : State) (q : Nat) (x : Queue) : (s.setQueue q x).agenda = s.agenda := rfl
@[simp] theorem State.setQueue_choices (s : State) (q : Nat) (x : Queue) : (s.setQueue q x).choices = s.choices := rfl
@[simp] theorem State.setQueue_freeCtr (s : State) (q : Nat) (x : Queue) : (s.setQueue q x).freeCtr = s.freeCtr := rfl
@[simp] theorem State.setQueue_seq (s : State) (q : Nat) (x : Queue) : (s.setQueue q x).seq = s.seq := rfl
@[simp] theorem State.setQueue_cur (s : State) (q : Nat) (x : Queue) : (s.setQueue q x).cur = s.cur := rfl
@[simp] theorem State.setQueue_cores (s : State) (q : Nat) (x : Queue) : (s.setQueue q x).cores = s.cores := rfl
@[simp] theorem State.setQueue_groups (s : State) (q : Nat) (x : Queue) : (s.setQueue q x).groups = s.groups := rfl
@[simp] theorem State.setQueue_launches (s : State) (q : Nat) (x : Queue) : (s.setQueue q x).launches = s.launches := rfl
@[simp] theorem State.setQueue_fabrics (s : State) (q : Nat) (x : Queue) : (s.setQueue q x).fabrics = s.fabrics := rfl
@[simp] theorem State.setQueue_spaces (s : State) (q : Nat) (x : Queue) : (s.setQueue q x).spaces = s.spaces := rfl
@[simp] theorem State.setQueue_mem (s : State) (q : Nat) (x : Queue) : (s.setQueue q x).mem = s.mem := rfl
@[simp] theorem State.setQueue_memPoison (s : State) (q : Nat) (x : Queue) : (s.setQueue q x).memPoison = s.memPoison := rfl
@[simp] theorem State.setQueue_poisonDies (s : State) (q : Nat) (x : Queue) : (s.setQueue q x).poisonDies = s.poisonDies := rfl
@[simp] theorem State.setQueue_compLines (s : State) (q : Nat) (x : Queue) : (s.setQueue q x).compLines = s.compLines := rfl
@[simp] theorem State.setQueue_history (s : State) (q : Nat) (x : Queue) : (s.setQueue q x).history = s.history := rfl
@[simp] theorem State.setQueue_writes (s : State) (q : Nat) (x : Queue) : (s.setQueue q x).writes = s.writes := rfl
@[simp] theorem State.setQueue_touched (s : State) (q : Nat) (x : Queue) : (s.setQueue q x).touched = s.touched := rfl
@[simp] theorem State.setQueue_stalled (s : State) (q : Nat) (x : Queue) : (s.setQueue q x).stalled = s.stalled := rfl
@[simp] theorem State.setQueue_l1 (s : State) (q : Nat) (x : Queue) : (s.setQueue q x).l1 = s.l1 := rfl
@[simp] theorem State.setQueue_l1stream (s : State) (q : Nat) (x : Queue) : (s.setQueue q x).l1stream = s.l1stream := rfl
@[simp] theorem State.setQueue_dieDir (s : State) (q : Nat) (x : Queue) : (s.setQueue q x).dieDir = s.dieDir := rfl
@[simp] theorem State.setQueue_clIc (s : State) (q : Nat) (x : Queue) : (s.setQueue q x).clIc = s.clIc := rfl
@[simp] theorem State.setQueue_l2tlb (s : State) (q : Nat) (x : Queue) : (s.setQueue q x).l2tlb = s.l2tlb := rfl
@[simp] theorem State.setQueue_hbm (s : State) (q : Nat) (x : Queue) : (s.setQueue q x).hbm = s.hbm := rfl
@[simp] theorem State.setQueue_hbmPoison (s : State) (q : Nat) (x : Queue) : (s.setQueue q x).hbmPoison = s.hbmPoison := rfl
@[simp] theorem State.setQueue_tags (s : State) (q : Nat) (x : Queue) : (s.setQueue q x).tags = s.tags := rfl
@[simp] theorem State.setQueue_fenced (s : State) (q : Nat) (x : Queue) : (s.setQueue q x).fenced = s.fenced := rfl
@[simp] theorem State.setQueue_bypass (s : State) (q : Nat) (x : Queue) : (s.setQueue q x).bypass = s.bypass := rfl
@[simp] theorem State.setQueue_heldAsids (s : State) (q : Nat) (x : Queue) : (s.setQueue q x).heldAsids = s.heldAsids := rfl
@[simp] theorem State.setQueue_msix (s : State) (q : Nat) (x : Queue) : (s.setQueue q x).msix = s.msix := rfl
@[simp] theorem State.setQueue_hub (s : State) (q : Nat) (x : Queue) : (s.setQueue q x).hub = s.hub := rfl
@[simp] theorem State.setQueue_ports (s : State) (q : Nat) (x : Queue) : (s.setQueue q x).ports = s.ports := rfl
@[simp] theorem State.setQueue_windows (s : State) (q : Nat) (x : Queue) : (s.setQueue q x).windows = s.windows := rfl
@[simp] theorem State.setQueue_log (s : State) (q : Nat) (x : Queue) : (s.setQueue q x).log = s.log := rfl
@[simp] theorem State.setQueue_logNext (s : State) (q : Nat) (x : Queue) : (s.setQueue q x).logNext = s.logNext := rfl
@[simp] theorem State.setQueue_logLost (s : State) (q : Nat) (x : Queue) : (s.setQueue q x).logLost = s.logLost := rfl
@[simp] theorem State.setQueue_boot (s : State) (q : Nat) (x : Queue) : (s.setQueue q x).boot = s.boot := rfl
@[simp] theorem State.setQueue_dies (s : State) (q : Nat) (x : Queue) : (s.setQueue q x).dies = s.dies := rfl
@[simp] theorem State.setQueue_links (s : State) (q : Nat) (x : Queue) : (s.setQueue q x).links = s.links := rfl
@[simp] theorem State.setQueue_chans (s : State) (q : Nat) (x : Queue) : (s.setQueue q x).chans = s.chans := rfl
@[simp] theorem State.setQueue_lines (s : State) (q : Nat) (x : Queue) : (s.setQueue q x).lines = s.lines := rfl
@[simp] theorem State.setQueue_hostSec (s : State) (q : Nat) (x : Queue) : (s.setQueue q x).hostSec = s.hostSec := rfl
@[simp] theorem State.setQueue_residency (s : State) (q : Nat) (x : Queue) : (s.setQueue q x).residency = s.residency := rfl
@[simp] theorem State.setQueue_release (s : State) (q : Nat) (x : Queue) : (s.setQueue q x).release = s.release := rfl
@[simp] theorem State.setQueue_releaseTurn (s : State) (q : Nat) (x : Queue) : (s.setQueue q x).releaseTurn = s.releaseTurn := rfl
@[simp] theorem State.setQueue_lastRelease (s : State) (q : Nat) (x : Queue) : (s.setQueue q x).lastRelease = s.lastRelease := rfl
@[simp] theorem State.setQueue_mclk (s : State) (q : Nat) (x : Queue) : (s.setQueue q x).mclk = s.mclk := rfl
@[simp] theorem State.setQueue_errs (s : State) (q : Nat) (x : Queue) : (s.setQueue q x).errs = s.errs := rfl
@[simp] theorem State.setQueue_unitErrs (s : State) (q : Nat) (x : Queue) : (s.setQueue q x).unitErrs = s.unitErrs := rfl
@[simp] theorem State.setQueue_fenceList (s : State) (q : Nat) (x : Queue) : (s.setQueue q x).fenceList = s.fenceList := rfl
@[simp] theorem State.setQueue_fenceDrop (s : State) (q : Nat) (x : Queue) : (s.setQueue q x).fenceDrop = s.fenceDrop := rfl
@[simp] theorem State.setQueue_fencedUnits (s : State) (q : Nat) (x : Queue) : (s.setQueue q x).fencedUnits = s.fencedUnits := rfl
@[simp] theorem State.setQueue_flash (s : State) (q : Nat) (x : Queue) : (s.setQueue q x).flash = s.flash := rfl
@[simp] theorem State.setQueue_running (s : State) (q : Nat) (x : Queue) : (s.setQueue q x).running = s.running := rfl
@[simp] theorem State.setQueue_bootFences (s : State) (q : Nat) (x : Queue) : (s.setQueue q x).bootFences = s.bootFences := rfl
@[simp] theorem State.setQueue_update (s : State) (q : Nat) (x : Queue) : (s.setQueue q x).update = s.update := rfl
@[simp] theorem State.setQueue_eid (s : State) (q : Nat) (x : Queue) : (s.setQueue q x).eid = s.eid := rfl
@[simp] theorem State.setQueue_dbgsel (s : State) (q : Nat) (x : Queue) : (s.setQueue q x).dbgsel = s.dbgsel := rfl
@[simp] theorem State.setQueue_reply (s : State) (q : Nat) (x : Queue) : (s.setQueue q x).reply = s.reply := rfl
@[simp] theorem State.setQueue_sched (s : State) (q : Nat) (x : Queue) : (s.setQueue q x).sched = s.sched := rfl
@[simp] theorem State.setQueue_turn (s : State) (q : Nat) (x : Queue) : (s.setQueue q x).turn = s.turn := rfl

@[simp] theorem State.memWrite_agenda (s : State) (pa : Nat) (bs : List Byte) (k : Bool) : (s.memWrite pa bs k).agenda = s.agenda := rfl
@[simp] theorem State.memWrite_choices (s : State) (pa : Nat) (bs : List Byte) (k : Bool) : (s.memWrite pa bs k).choices = s.choices := rfl
@[simp] theorem State.memWrite_freeCtr (s : State) (pa : Nat) (bs : List Byte) (k : Bool) : (s.memWrite pa bs k).freeCtr = s.freeCtr := rfl
@[simp] theorem State.memWrite_seq (s : State) (pa : Nat) (bs : List Byte) (k : Bool) : (s.memWrite pa bs k).seq = s.seq := rfl
@[simp] theorem State.memWrite_cur (s : State) (pa : Nat) (bs : List Byte) (k : Bool) : (s.memWrite pa bs k).cur = s.cur := rfl
@[simp] theorem State.memWrite_cores (s : State) (pa : Nat) (bs : List Byte) (k : Bool) : (s.memWrite pa bs k).cores = s.cores := rfl
@[simp] theorem State.memWrite_groups (s : State) (pa : Nat) (bs : List Byte) (k : Bool) : (s.memWrite pa bs k).groups = s.groups := rfl
@[simp] theorem State.memWrite_launches (s : State) (pa : Nat) (bs : List Byte) (k : Bool) : (s.memWrite pa bs k).launches = s.launches := rfl
@[simp] theorem State.memWrite_fabrics (s : State) (pa : Nat) (bs : List Byte) (k : Bool) : (s.memWrite pa bs k).fabrics = s.fabrics := rfl
@[simp] theorem State.memWrite_spaces (s : State) (pa : Nat) (bs : List Byte) (k : Bool) : (s.memWrite pa bs k).spaces = s.spaces := rfl
@[simp] theorem State.memWrite_memPoison (s : State) (pa : Nat) (bs : List Byte) (k : Bool) : (s.memWrite pa bs k).memPoison = s.memPoison := rfl
@[simp] theorem State.memWrite_poisonDies (s : State) (pa : Nat) (bs : List Byte) (k : Bool) : (s.memWrite pa bs k).poisonDies = s.poisonDies := rfl
@[simp] theorem State.memWrite_hbm (s : State) (pa : Nat) (bs : List Byte) (k : Bool) : (s.memWrite pa bs k).hbm = s.hbm := rfl
@[simp] theorem State.memWrite_hbmPoison (s : State) (pa : Nat) (bs : List Byte) (k : Bool) : (s.memWrite pa bs k).hbmPoison = s.hbmPoison := rfl
@[simp] theorem State.memWrite_tags (s : State) (pa : Nat) (bs : List Byte) (k : Bool) : (s.memWrite pa bs k).tags = s.tags := rfl
@[simp] theorem State.memWrite_fenced (s : State) (pa : Nat) (bs : List Byte) (k : Bool) : (s.memWrite pa bs k).fenced = s.fenced := rfl
@[simp] theorem State.memWrite_queues (s : State) (pa : Nat) (bs : List Byte) (k : Bool) : (s.memWrite pa bs k).queues = s.queues := rfl
@[simp] theorem State.memWrite_bypass (s : State) (pa : Nat) (bs : List Byte) (k : Bool) : (s.memWrite pa bs k).bypass = s.bypass := rfl
@[simp] theorem State.memWrite_heldAsids (s : State) (pa : Nat) (bs : List Byte) (k : Bool) : (s.memWrite pa bs k).heldAsids = s.heldAsids := rfl
@[simp] theorem State.memWrite_msix (s : State) (pa : Nat) (bs : List Byte) (k : Bool) : (s.memWrite pa bs k).msix = s.msix := rfl
@[simp] theorem State.memWrite_hub (s : State) (pa : Nat) (bs : List Byte) (k : Bool) : (s.memWrite pa bs k).hub = s.hub := rfl
@[simp] theorem State.memWrite_stalled (s : State) (pa : Nat) (bs : List Byte) (k : Bool) : (s.memWrite pa bs k).stalled = s.stalled := rfl
@[simp] theorem State.memWrite_l1 (s : State) (pa : Nat) (bs : List Byte) (k : Bool) : (s.memWrite pa bs k).l1 = s.l1 := rfl
@[simp] theorem State.memWrite_l1stream (s : State) (pa : Nat) (bs : List Byte) (k : Bool) : (s.memWrite pa bs k).l1stream = s.l1stream := rfl
@[simp] theorem State.memWrite_dieDir (s : State) (pa : Nat) (bs : List Byte) (k : Bool) : (s.memWrite pa bs k).dieDir = s.dieDir := rfl
@[simp] theorem State.memWrite_l2tlb (s : State) (pa : Nat) (bs : List Byte) (k : Bool) : (s.memWrite pa bs k).l2tlb = s.l2tlb := rfl
@[simp] theorem State.memWrite_ports (s : State) (pa : Nat) (bs : List Byte) (k : Bool) : (s.memWrite pa bs k).ports = s.ports := rfl
@[simp] theorem State.memWrite_windows (s : State) (pa : Nat) (bs : List Byte) (k : Bool) : (s.memWrite pa bs k).windows = s.windows := rfl
@[simp] theorem State.memWrite_log (s : State) (pa : Nat) (bs : List Byte) (k : Bool) : (s.memWrite pa bs k).log = s.log := rfl
@[simp] theorem State.memWrite_logNext (s : State) (pa : Nat) (bs : List Byte) (k : Bool) : (s.memWrite pa bs k).logNext = s.logNext := rfl
@[simp] theorem State.memWrite_logLost (s : State) (pa : Nat) (bs : List Byte) (k : Bool) : (s.memWrite pa bs k).logLost = s.logLost := rfl
@[simp] theorem State.memWrite_boot (s : State) (pa : Nat) (bs : List Byte) (k : Bool) : (s.memWrite pa bs k).boot = s.boot := rfl
@[simp] theorem State.memWrite_dies (s : State) (pa : Nat) (bs : List Byte) (k : Bool) : (s.memWrite pa bs k).dies = s.dies := rfl
@[simp] theorem State.memWrite_links (s : State) (pa : Nat) (bs : List Byte) (k : Bool) : (s.memWrite pa bs k).links = s.links := rfl
@[simp] theorem State.memWrite_chans (s : State) (pa : Nat) (bs : List Byte) (k : Bool) : (s.memWrite pa bs k).chans = s.chans := rfl
@[simp] theorem State.memWrite_lines (s : State) (pa : Nat) (bs : List Byte) (k : Bool) : (s.memWrite pa bs k).lines = s.lines := rfl
@[simp] theorem State.memWrite_hostSec (s : State) (pa : Nat) (bs : List Byte) (k : Bool) : (s.memWrite pa bs k).hostSec = s.hostSec := rfl
@[simp] theorem State.memWrite_residency (s : State) (pa : Nat) (bs : List Byte) (k : Bool) : (s.memWrite pa bs k).residency = s.residency := rfl
@[simp] theorem State.memWrite_release (s : State) (pa : Nat) (bs : List Byte) (k : Bool) : (s.memWrite pa bs k).release = s.release := rfl
@[simp] theorem State.memWrite_releaseTurn (s : State) (pa : Nat) (bs : List Byte) (k : Bool) : (s.memWrite pa bs k).releaseTurn = s.releaseTurn := rfl
@[simp] theorem State.memWrite_lastRelease (s : State) (pa : Nat) (bs : List Byte) (k : Bool) : (s.memWrite pa bs k).lastRelease = s.lastRelease := rfl
@[simp] theorem State.memWrite_mclk (s : State) (pa : Nat) (bs : List Byte) (k : Bool) : (s.memWrite pa bs k).mclk = s.mclk := rfl
@[simp] theorem State.memWrite_errs (s : State) (pa : Nat) (bs : List Byte) (k : Bool) : (s.memWrite pa bs k).errs = s.errs := rfl
@[simp] theorem State.memWrite_unitErrs (s : State) (pa : Nat) (bs : List Byte) (k : Bool) : (s.memWrite pa bs k).unitErrs = s.unitErrs := rfl
@[simp] theorem State.memWrite_fenceList (s : State) (pa : Nat) (bs : List Byte) (k : Bool) : (s.memWrite pa bs k).fenceList = s.fenceList := rfl
@[simp] theorem State.memWrite_fenceDrop (s : State) (pa : Nat) (bs : List Byte) (k : Bool) : (s.memWrite pa bs k).fenceDrop = s.fenceDrop := rfl
@[simp] theorem State.memWrite_fencedUnits (s : State) (pa : Nat) (bs : List Byte) (k : Bool) : (s.memWrite pa bs k).fencedUnits = s.fencedUnits := rfl
@[simp] theorem State.memWrite_flash (s : State) (pa : Nat) (bs : List Byte) (k : Bool) : (s.memWrite pa bs k).flash = s.flash := rfl
@[simp] theorem State.memWrite_running (s : State) (pa : Nat) (bs : List Byte) (k : Bool) : (s.memWrite pa bs k).running = s.running := rfl
@[simp] theorem State.memWrite_bootFences (s : State) (pa : Nat) (bs : List Byte) (k : Bool) : (s.memWrite pa bs k).bootFences = s.bootFences := rfl
@[simp] theorem State.memWrite_update (s : State) (pa : Nat) (bs : List Byte) (k : Bool) : (s.memWrite pa bs k).update = s.update := rfl
@[simp] theorem State.memWrite_eid (s : State) (pa : Nat) (bs : List Byte) (k : Bool) : (s.memWrite pa bs k).eid = s.eid := rfl
@[simp] theorem State.memWrite_dbgsel (s : State) (pa : Nat) (bs : List Byte) (k : Bool) : (s.memWrite pa bs k).dbgsel = s.dbgsel := rfl
@[simp] theorem State.memWrite_reply (s : State) (pa : Nat) (bs : List Byte) (k : Bool) : (s.memWrite pa bs k).reply = s.reply := rfl
@[simp] theorem State.memWrite_sched (s : State) (pa : Nat) (bs : List Byte) (k : Bool) : (s.memWrite pa bs k).sched = s.sched := rfl
@[simp] theorem State.memWrite_turn (s : State) (pa : Nat) (bs : List Byte) (k : Bool) : (s.memWrite pa bs k).turn = s.turn := rfl

@[simp] theorem State.setSec_agenda (s : State) (n : Nat) (b : Bool) : (s.setSec n b).agenda = s.agenda := rfl
@[simp] theorem State.setSec_choices (s : State) (n : Nat) (b : Bool) : (s.setSec n b).choices = s.choices := rfl
@[simp] theorem State.setSec_freeCtr (s : State) (n : Nat) (b : Bool) : (s.setSec n b).freeCtr = s.freeCtr := rfl
@[simp] theorem State.setSec_seq (s : State) (n : Nat) (b : Bool) : (s.setSec n b).seq = s.seq := rfl
@[simp] theorem State.setSec_cur (s : State) (n : Nat) (b : Bool) : (s.setSec n b).cur = s.cur := rfl
@[simp] theorem State.setSec_cores (s : State) (n : Nat) (b : Bool) : (s.setSec n b).cores = s.cores := rfl
@[simp] theorem State.setSec_groups (s : State) (n : Nat) (b : Bool) : (s.setSec n b).groups = s.groups := rfl
@[simp] theorem State.setSec_launches (s : State) (n : Nat) (b : Bool) : (s.setSec n b).launches = s.launches := rfl
@[simp] theorem State.setSec_fabrics (s : State) (n : Nat) (b : Bool) : (s.setSec n b).fabrics = s.fabrics := rfl
@[simp] theorem State.setSec_spaces (s : State) (n : Nat) (b : Bool) : (s.setSec n b).spaces = s.spaces := rfl
@[simp] theorem State.setSec_mem (s : State) (n : Nat) (b : Bool) : (s.setSec n b).mem = s.mem := rfl
@[simp] theorem State.setSec_poisonDies (s : State) (n : Nat) (b : Bool) : (s.setSec n b).poisonDies = s.poisonDies := rfl
@[simp] theorem State.setSec_compLines (s : State) (n : Nat) (b : Bool) : (s.setSec n b).compLines = s.compLines := rfl
@[simp] theorem State.setSec_history (s : State) (n : Nat) (b : Bool) : (s.setSec n b).history = s.history := rfl
@[simp] theorem State.setSec_writes (s : State) (n : Nat) (b : Bool) : (s.setSec n b).writes = s.writes := rfl
@[simp] theorem State.setSec_touched (s : State) (n : Nat) (b : Bool) : (s.setSec n b).touched = s.touched := rfl
@[simp] theorem State.setSec_stalled (s : State) (n : Nat) (b : Bool) : (s.setSec n b).stalled = s.stalled := rfl
@[simp] theorem State.setSec_l1 (s : State) (n : Nat) (b : Bool) : (s.setSec n b).l1 = s.l1 := rfl
@[simp] theorem State.setSec_l1stream (s : State) (n : Nat) (b : Bool) : (s.setSec n b).l1stream = s.l1stream := rfl
@[simp] theorem State.setSec_dieDir (s : State) (n : Nat) (b : Bool) : (s.setSec n b).dieDir = s.dieDir := rfl
@[simp] theorem State.setSec_clIc (s : State) (n : Nat) (b : Bool) : (s.setSec n b).clIc = s.clIc := rfl
@[simp] theorem State.setSec_l2tlb (s : State) (n : Nat) (b : Bool) : (s.setSec n b).l2tlb = s.l2tlb := rfl
@[simp] theorem State.setSec_hbm (s : State) (n : Nat) (b : Bool) : (s.setSec n b).hbm = s.hbm := rfl
@[simp] theorem State.setSec_hbmPoison (s : State) (n : Nat) (b : Bool) : (s.setSec n b).hbmPoison = s.hbmPoison := rfl
@[simp] theorem State.setSec_tags (s : State) (n : Nat) (b : Bool) : (s.setSec n b).tags = s.tags := rfl
@[simp] theorem State.setSec_fenced (s : State) (n : Nat) (b : Bool) : (s.setSec n b).fenced = s.fenced := rfl
@[simp] theorem State.setSec_queues (s : State) (n : Nat) (b : Bool) : (s.setSec n b).queues = s.queues := rfl
@[simp] theorem State.setSec_bypass (s : State) (n : Nat) (b : Bool) : (s.setSec n b).bypass = s.bypass := rfl
@[simp] theorem State.setSec_heldAsids (s : State) (n : Nat) (b : Bool) : (s.setSec n b).heldAsids = s.heldAsids := rfl
@[simp] theorem State.setSec_msix (s : State) (n : Nat) (b : Bool) : (s.setSec n b).msix = s.msix := rfl
@[simp] theorem State.setSec_hub (s : State) (n : Nat) (b : Bool) : (s.setSec n b).hub = s.hub := rfl
@[simp] theorem State.setSec_ports (s : State) (n : Nat) (b : Bool) : (s.setSec n b).ports = s.ports := rfl
@[simp] theorem State.setSec_windows (s : State) (n : Nat) (b : Bool) : (s.setSec n b).windows = s.windows := rfl
@[simp] theorem State.setSec_log (s : State) (n : Nat) (b : Bool) : (s.setSec n b).log = s.log := rfl
@[simp] theorem State.setSec_logNext (s : State) (n : Nat) (b : Bool) : (s.setSec n b).logNext = s.logNext := rfl
@[simp] theorem State.setSec_logLost (s : State) (n : Nat) (b : Bool) : (s.setSec n b).logLost = s.logLost := rfl
@[simp] theorem State.setSec_boot (s : State) (n : Nat) (b : Bool) : (s.setSec n b).boot = s.boot := rfl
@[simp] theorem State.setSec_dies (s : State) (n : Nat) (b : Bool) : (s.setSec n b).dies = s.dies := rfl
@[simp] theorem State.setSec_links (s : State) (n : Nat) (b : Bool) : (s.setSec n b).links = s.links := rfl
@[simp] theorem State.setSec_chans (s : State) (n : Nat) (b : Bool) : (s.setSec n b).chans = s.chans := rfl
@[simp] theorem State.setSec_lines (s : State) (n : Nat) (b : Bool) : (s.setSec n b).lines = s.lines := rfl
@[simp] theorem State.setSec_hostSec (s : State) (n : Nat) (b : Bool) : (s.setSec n b).hostSec = s.hostSec := rfl
@[simp] theorem State.setSec_residency (s : State) (n : Nat) (b : Bool) : (s.setSec n b).residency = s.residency := rfl
@[simp] theorem State.setSec_release (s : State) (n : Nat) (b : Bool) : (s.setSec n b).release = s.release := rfl
@[simp] theorem State.setSec_releaseTurn (s : State) (n : Nat) (b : Bool) : (s.setSec n b).releaseTurn = s.releaseTurn := rfl
@[simp] theorem State.setSec_lastRelease (s : State) (n : Nat) (b : Bool) : (s.setSec n b).lastRelease = s.lastRelease := rfl
@[simp] theorem State.setSec_mclk (s : State) (n : Nat) (b : Bool) : (s.setSec n b).mclk = s.mclk := rfl
@[simp] theorem State.setSec_errs (s : State) (n : Nat) (b : Bool) : (s.setSec n b).errs = s.errs := rfl
@[simp] theorem State.setSec_unitErrs (s : State) (n : Nat) (b : Bool) : (s.setSec n b).unitErrs = s.unitErrs := rfl
@[simp] theorem State.setSec_fenceList (s : State) (n : Nat) (b : Bool) : (s.setSec n b).fenceList = s.fenceList := rfl
@[simp] theorem State.setSec_fenceDrop (s : State) (n : Nat) (b : Bool) : (s.setSec n b).fenceDrop = s.fenceDrop := rfl
@[simp] theorem State.setSec_fencedUnits (s : State) (n : Nat) (b : Bool) : (s.setSec n b).fencedUnits = s.fencedUnits := rfl
@[simp] theorem State.setSec_flash (s : State) (n : Nat) (b : Bool) : (s.setSec n b).flash = s.flash := rfl
@[simp] theorem State.setSec_running (s : State) (n : Nat) (b : Bool) : (s.setSec n b).running = s.running := rfl
@[simp] theorem State.setSec_bootFences (s : State) (n : Nat) (b : Bool) : (s.setSec n b).bootFences = s.bootFences := rfl
@[simp] theorem State.setSec_update (s : State) (n : Nat) (b : Bool) : (s.setSec n b).update = s.update := rfl
@[simp] theorem State.setSec_eid (s : State) (n : Nat) (b : Bool) : (s.setSec n b).eid = s.eid := rfl
@[simp] theorem State.setSec_dbgsel (s : State) (n : Nat) (b : Bool) : (s.setSec n b).dbgsel = s.dbgsel := rfl
@[simp] theorem State.setSec_reply (s : State) (n : Nat) (b : Bool) : (s.setSec n b).reply = s.reply := rfl
@[simp] theorem State.setSec_sched (s : State) (n : Nat) (b : Bool) : (s.setSec n b).sched = s.sched := rfl
@[simp] theorem State.setSec_turn (s : State) (n : Nat) (b : Bool) : (s.setSec n b).turn = s.turn := rfl

@[simp] theorem Warp.issued_wid (w : Warp) (h : Hdr) (len cyc extra : Nat) : (w.issued h len cyc extra).wid = w.wid := rfl
@[simp] theorem Warp.issued_gid (w : Warp) (h : Hdr) (len cyc extra : Nat) : (w.issued h len cyc extra).gid = w.gid := rfl
@[simp] theorem Warp.issued_pc (w : Warp) (h : Hdr) (len cyc extra : Nat) : (w.issued h len cyc extra).pc = w.pc + BitVec.ofNat 57 len := rfl
@[simp] theorem Warp.issued_act (w : Warp) (h : Hdr) (len cyc extra : Nat) : (w.issued h len cyc extra).act = w.act := rfl
@[simp] theorem Warp.issued_depth (w : Warp) (h : Hdr) (len cyc extra : Nat) : (w.issued h len cyc extra).depth = w.depth := rfl
@[simp] theorem Warp.issued_ntok (w : Warp) (h : Hdr) (len cyc extra : Nat) : (w.issued h len cyc extra).ntok = w.ntok := rfl
@[simp] theorem Warp.issued_held (w : Warp) (h : Hdr) (len cyc extra : Nat) : (w.issued h len cyc extra).held = w.held := rfl
@[simp] theorem Warp.issued_alloc (w : Warp) (h : Hdr) (len cyc extra : Nat) : (w.issued h len cyc extra).alloc = w.alloc := rfl
@[simp] theorem Warp.issued_rows (w : Warp) (h : Hdr) (len cyc extra : Nat) : (w.issued h len cyc extra).rows = w.rows := rfl
@[simp] theorem Warp.issued_v (w : Warp) (h : Hdr) (len cyc extra : Nat) : (w.issued h len cyc extra).v = w.v := rfl
@[simp] theorem Warp.issued_s (w : Warp) (h : Hdr) (len cyc extra : Nat) : (w.issued h len cyc extra).s = w.s := rfl
@[simp] theorem Warp.issued_k (w : Warp) (h : Hdr) (len cyc extra : Nat) : (w.issued h len cyc extra).k = w.k := rfl
@[simp] theorem Warp.issued_order (w : Warp) (h : Hdr) (len cyc extra : Nat) : (w.issued h len cyc extra).order = w.order + 1 := rfl
@[simp] theorem Warp.issued_pend (w : Warp) (h : Hdr) (len cyc extra : Nat) : (w.issued h len cyc extra).pend = w.pend := rfl
@[simp] theorem Warp.issued_settled (w : Warp) (h : Hdr) (len cyc extra : Nat) : (w.issued h len cyc extra).settled = w.settled := rfl
@[simp] theorem Warp.issued_flags (w : Warp) (h : Hdr) (len cyc extra : Nat) : (w.issued h len cyc extra).flags = w.flags := rfl
@[simp] theorem Warp.issued_mode (w : Warp) (h : Hdr) (len cyc extra : Nat) : (w.issued h len cyc extra).mode = w.mode := rfl
@[simp] theorem Warp.issued_probef (w : Warp) (h : Hdr) (len cyc extra : Nat) : (w.issued h len cyc extra).probef = w.probef := rfl
@[simp] theorem Warp.issued_steep (w : Warp) (h : Hdr) (len cyc extra : Nat) : (w.issued h len cyc extra).steep = w.steep := rfl
@[simp] theorem Warp.issued_notBefore (w : Warp) (h : Hdr) (len cyc extra : Nat) : (w.issued h len cyc extra).notBefore = cyc + 1 + max h.stall.toNat extra := rfl
@[simp] theorem Warp.issued_wait (w : Warp) (h : Hdr) (len cyc extra : Nat) : (w.issued h len cyc extra).wait = w.wait := rfl
@[simp] theorem Warp.issued_waitPc (w : Warp) (h : Hdr) (len cyc extra : Nat) : (w.issued h len cyc extra).waitPc = w.waitPc := rfl
@[simp] theorem Warp.issued_waitSet (w : Warp) (h : Hdr) (len cyc extra : Nat) : (w.issued h len cyc extra).waitSet = w.waitSet := rfl
@[simp] theorem Warp.issued_parked (w : Warp) (h : Hdr) (len cyc extra : Nat) : (w.issued h len cyc extra).parked = w.parked := rfl
@[simp] theorem Warp.issued_halted (w : Warp) (h : Hdr) (len cyc extra : Nat) : (w.issued h len cyc extra).halted = w.halted := rfl
@[simp] theorem Warp.issued_xpc (w : Warp) (h : Hdr) (len cyc extra : Nat) : (w.issued h len cyc extra).xpc = w.xpc := rfl
@[simp] theorem Warp.issued_xcause (w : Warp) (h : Hdr) (len cyc extra : Nat) : (w.issued h len cyc extra).xcause = w.xcause := rfl
@[simp] theorem Warp.issued_xaddr (w : Warp) (h : Hdr) (len cyc extra : Nat) : (w.issued h len cyc extra).xaddr = w.xaddr := rfl
@[simp] theorem Warp.issued_xmask (w : Warp) (h : Hdr) (len cyc extra : Nat) : (w.issued h len cyc extra).xmask = w.xmask := rfl
@[simp] theorem Warp.issued_xinfo (w : Warp) (h : Hdr) (len cyc extra : Nat) : (w.issued h len cyc extra).xinfo = w.xinfo := rfl
@[simp] theorem Warp.issued_hstate (w : Warp) (h : Hdr) (len cyc extra : Nat) : (w.issued h len cyc extra).hstate = w.hstate := rfl
@[simp] theorem Warp.issued_rdCause (w : Warp) (h : Hdr) (len cyc extra : Nat) : (w.issued h len cyc extra).rdCause = w.rdCause := rfl
@[simp] theorem Warp.issued_rdAddr (w : Warp) (h : Hdr) (len cyc extra : Nat) : (w.issued h len cyc extra).rdAddr = w.rdAddr := rfl
@[simp] theorem Warp.issued_dmark (w : Warp) (h : Hdr) (len cyc extra : Nat) : (w.issued h len cyc extra).dmark = w.dmark := rfl
@[simp] theorem Warp.issued_entry (w : Warp) (h : Hdr) (len cyc extra : Nat) : (w.issued h len cyc extra).entry = w.entry := rfl
@[simp] theorem Warp.issued_trapWait (w : Warp) (h : Hdr) (len cyc extra : Nat) : (w.issued h len cyc extra).trapWait = w.trapWait := rfl
@[simp] theorem Warp.issued_faults (w : Warp) (h : Hdr) (len cyc extra : Nat) : (w.issued h len cyc extra).faults = w.faults := rfl

@[simp] theorem Warp.defer_wid (w : Warp) (t lat : Nat) (xs : List Wr) : (w.defer t lat xs).wid = w.wid := rfl
@[simp] theorem Warp.defer_gid (w : Warp) (t lat : Nat) (xs : List Wr) : (w.defer t lat xs).gid = w.gid := rfl
@[simp] theorem Warp.defer_pc (w : Warp) (t lat : Nat) (xs : List Wr) : (w.defer t lat xs).pc = w.pc := rfl
@[simp] theorem Warp.defer_act (w : Warp) (t lat : Nat) (xs : List Wr) : (w.defer t lat xs).act = w.act := rfl
@[simp] theorem Warp.defer_depth (w : Warp) (t lat : Nat) (xs : List Wr) : (w.defer t lat xs).depth = w.depth := rfl
@[simp] theorem Warp.defer_ntok (w : Warp) (t lat : Nat) (xs : List Wr) : (w.defer t lat xs).ntok = w.ntok := rfl
@[simp] theorem Warp.defer_held (w : Warp) (t lat : Nat) (xs : List Wr) : (w.defer t lat xs).held = w.held := rfl
@[simp] theorem Warp.defer_alloc (w : Warp) (t lat : Nat) (xs : List Wr) : (w.defer t lat xs).alloc = w.alloc := rfl
@[simp] theorem Warp.defer_rows (w : Warp) (t lat : Nat) (xs : List Wr) : (w.defer t lat xs).rows = w.rows := rfl
@[simp] theorem Warp.defer_v (w : Warp) (t lat : Nat) (xs : List Wr) : (w.defer t lat xs).v = w.v := rfl
@[simp] theorem Warp.defer_s (w : Warp) (t lat : Nat) (xs : List Wr) : (w.defer t lat xs).s = w.s := rfl
@[simp] theorem Warp.defer_k (w : Warp) (t lat : Nat) (xs : List Wr) : (w.defer t lat xs).k = w.k := rfl
@[simp] theorem Warp.defer_order (w : Warp) (t lat : Nat) (xs : List Wr) : (w.defer t lat xs).order = w.order := rfl
@[simp] theorem Warp.defer_pend (w : Warp) (t lat : Nat) (xs : List Wr) : (w.defer t lat xs).pend = w.pend ++ xs.map fun x => { due := t + lat, ord := w.order, wr := x } := rfl
@[simp] theorem Warp.defer_settled (w : Warp) (t lat : Nat) (xs : List Wr) : (w.defer t lat xs).settled = w.settled := rfl
@[simp] theorem Warp.defer_flags (w : Warp) (t lat : Nat) (xs : List Wr) : (w.defer t lat xs).flags = w.flags := rfl
@[simp] theorem Warp.defer_mode (w : Warp) (t lat : Nat) (xs : List Wr) : (w.defer t lat xs).mode = w.mode := rfl
@[simp] theorem Warp.defer_probef (w : Warp) (t lat : Nat) (xs : List Wr) : (w.defer t lat xs).probef = w.probef := rfl
@[simp] theorem Warp.defer_steep (w : Warp) (t lat : Nat) (xs : List Wr) : (w.defer t lat xs).steep = w.steep := rfl
@[simp] theorem Warp.defer_notBefore (w : Warp) (t lat : Nat) (xs : List Wr) : (w.defer t lat xs).notBefore = w.notBefore := rfl
@[simp] theorem Warp.defer_wait (w : Warp) (t lat : Nat) (xs : List Wr) : (w.defer t lat xs).wait = w.wait := rfl
@[simp] theorem Warp.defer_waitPc (w : Warp) (t lat : Nat) (xs : List Wr) : (w.defer t lat xs).waitPc = w.waitPc := rfl
@[simp] theorem Warp.defer_waitSet (w : Warp) (t lat : Nat) (xs : List Wr) : (w.defer t lat xs).waitSet = w.waitSet := rfl
@[simp] theorem Warp.defer_parked (w : Warp) (t lat : Nat) (xs : List Wr) : (w.defer t lat xs).parked = w.parked := rfl
@[simp] theorem Warp.defer_halted (w : Warp) (t lat : Nat) (xs : List Wr) : (w.defer t lat xs).halted = w.halted := rfl
@[simp] theorem Warp.defer_xpc (w : Warp) (t lat : Nat) (xs : List Wr) : (w.defer t lat xs).xpc = w.xpc := rfl
@[simp] theorem Warp.defer_xcause (w : Warp) (t lat : Nat) (xs : List Wr) : (w.defer t lat xs).xcause = w.xcause := rfl
@[simp] theorem Warp.defer_xaddr (w : Warp) (t lat : Nat) (xs : List Wr) : (w.defer t lat xs).xaddr = w.xaddr := rfl
@[simp] theorem Warp.defer_xmask (w : Warp) (t lat : Nat) (xs : List Wr) : (w.defer t lat xs).xmask = w.xmask := rfl
@[simp] theorem Warp.defer_xinfo (w : Warp) (t lat : Nat) (xs : List Wr) : (w.defer t lat xs).xinfo = w.xinfo := rfl
@[simp] theorem Warp.defer_hstate (w : Warp) (t lat : Nat) (xs : List Wr) : (w.defer t lat xs).hstate = w.hstate := rfl
@[simp] theorem Warp.defer_rdCause (w : Warp) (t lat : Nat) (xs : List Wr) : (w.defer t lat xs).rdCause = w.rdCause := rfl
@[simp] theorem Warp.defer_rdAddr (w : Warp) (t lat : Nat) (xs : List Wr) : (w.defer t lat xs).rdAddr = w.rdAddr := rfl
@[simp] theorem Warp.defer_dmark (w : Warp) (t lat : Nat) (xs : List Wr) : (w.defer t lat xs).dmark = w.dmark := rfl
@[simp] theorem Warp.defer_entry (w : Warp) (t lat : Nat) (xs : List Wr) : (w.defer t lat xs).entry = w.entry := rfl
@[simp] theorem Warp.defer_trapWait (w : Warp) (t lat : Nat) (xs : List Wr) : (w.defer t lat xs).trapWait = w.trapWait := rfl
@[simp] theorem Warp.defer_faults (w : Warp) (t lat : Nat) (xs : List Wr) : (w.defer t lat xs).faults = w.faults := rfl

@[simp] theorem Warp.block_wid (w : Warp) (x : Wait) (pc : BitVec 57) (flag : Option (Fin 12)) : (w.block x pc flag).wid = w.wid := rfl
@[simp] theorem Warp.block_gid (w : Warp) (x : Wait) (pc : BitVec 57) (flag : Option (Fin 12)) : (w.block x pc flag).gid = w.gid := rfl
@[simp] theorem Warp.block_pc (w : Warp) (x : Wait) (pc : BitVec 57) (flag : Option (Fin 12)) : (w.block x pc flag).pc = w.pc := rfl
@[simp] theorem Warp.block_act (w : Warp) (x : Wait) (pc : BitVec 57) (flag : Option (Fin 12)) : (w.block x pc flag).act = w.act := rfl
@[simp] theorem Warp.block_depth (w : Warp) (x : Wait) (pc : BitVec 57) (flag : Option (Fin 12)) : (w.block x pc flag).depth = w.depth := rfl
@[simp] theorem Warp.block_ntok (w : Warp) (x : Wait) (pc : BitVec 57) (flag : Option (Fin 12)) : (w.block x pc flag).ntok = w.ntok := rfl
@[simp] theorem Warp.block_held (w : Warp) (x : Wait) (pc : BitVec 57) (flag : Option (Fin 12)) : (w.block x pc flag).held = w.held := rfl
@[simp] theorem Warp.block_alloc (w : Warp) (x : Wait) (pc : BitVec 57) (flag : Option (Fin 12)) : (w.block x pc flag).alloc = w.alloc := rfl
@[simp] theorem Warp.block_rows (w : Warp) (x : Wait) (pc : BitVec 57) (flag : Option (Fin 12)) : (w.block x pc flag).rows = w.rows := rfl
@[simp] theorem Warp.block_v (w : Warp) (x : Wait) (pc : BitVec 57) (flag : Option (Fin 12)) : (w.block x pc flag).v = w.v := rfl
@[simp] theorem Warp.block_s (w : Warp) (x : Wait) (pc : BitVec 57) (flag : Option (Fin 12)) : (w.block x pc flag).s = w.s := rfl
@[simp] theorem Warp.block_k (w : Warp) (x : Wait) (pc : BitVec 57) (flag : Option (Fin 12)) : (w.block x pc flag).k = w.k := rfl
@[simp] theorem Warp.block_order (w : Warp) (x : Wait) (pc : BitVec 57) (flag : Option (Fin 12)) : (w.block x pc flag).order = w.order := rfl
@[simp] theorem Warp.block_pend (w : Warp) (x : Wait) (pc : BitVec 57) (flag : Option (Fin 12)) : (w.block x pc flag).pend = w.pend := rfl
@[simp] theorem Warp.block_settled (w : Warp) (x : Wait) (pc : BitVec 57) (flag : Option (Fin 12)) : (w.block x pc flag).settled = w.settled := rfl
@[simp] theorem Warp.block_flags (w : Warp) (x : Wait) (pc : BitVec 57) (flag : Option (Fin 12)) : (w.block x pc flag).flags = w.flags := rfl
@[simp] theorem Warp.block_mode (w : Warp) (x : Wait) (pc : BitVec 57) (flag : Option (Fin 12)) : (w.block x pc flag).mode = w.mode := rfl
@[simp] theorem Warp.block_probef (w : Warp) (x : Wait) (pc : BitVec 57) (flag : Option (Fin 12)) : (w.block x pc flag).probef = w.probef := rfl
@[simp] theorem Warp.block_steep (w : Warp) (x : Wait) (pc : BitVec 57) (flag : Option (Fin 12)) : (w.block x pc flag).steep = w.steep := rfl
@[simp] theorem Warp.block_notBefore (w : Warp) (x : Wait) (pc : BitVec 57) (flag : Option (Fin 12)) : (w.block x pc flag).notBefore = w.notBefore := rfl
@[simp] theorem Warp.block_wait (w : Warp) (x : Wait) (pc : BitVec 57) (flag : Option (Fin 12)) : (w.block x pc flag).wait = x := rfl
@[simp] theorem Warp.block_waitPc (w : Warp) (x : Wait) (pc : BitVec 57) (flag : Option (Fin 12)) : (w.block x pc flag).waitPc = pc := rfl
@[simp] theorem Warp.block_waitSet (w : Warp) (x : Wait) (pc : BitVec 57) (flag : Option (Fin 12)) : (w.block x pc flag).waitSet = flag := rfl
@[simp] theorem Warp.block_parked (w : Warp) (x : Wait) (pc : BitVec 57) (flag : Option (Fin 12)) : (w.block x pc flag).parked = w.parked := rfl
@[simp] theorem Warp.block_halted (w : Warp) (x : Wait) (pc : BitVec 57) (flag : Option (Fin 12)) : (w.block x pc flag).halted = w.halted := rfl
@[simp] theorem Warp.block_xpc (w : Warp) (x : Wait) (pc : BitVec 57) (flag : Option (Fin 12)) : (w.block x pc flag).xpc = w.xpc := rfl
@[simp] theorem Warp.block_xcause (w : Warp) (x : Wait) (pc : BitVec 57) (flag : Option (Fin 12)) : (w.block x pc flag).xcause = w.xcause := rfl
@[simp] theorem Warp.block_xaddr (w : Warp) (x : Wait) (pc : BitVec 57) (flag : Option (Fin 12)) : (w.block x pc flag).xaddr = w.xaddr := rfl
@[simp] theorem Warp.block_xmask (w : Warp) (x : Wait) (pc : BitVec 57) (flag : Option (Fin 12)) : (w.block x pc flag).xmask = w.xmask := rfl
@[simp] theorem Warp.block_xinfo (w : Warp) (x : Wait) (pc : BitVec 57) (flag : Option (Fin 12)) : (w.block x pc flag).xinfo = w.xinfo := rfl
@[simp] theorem Warp.block_hstate (w : Warp) (x : Wait) (pc : BitVec 57) (flag : Option (Fin 12)) : (w.block x pc flag).hstate = w.hstate := rfl
@[simp] theorem Warp.block_rdCause (w : Warp) (x : Wait) (pc : BitVec 57) (flag : Option (Fin 12)) : (w.block x pc flag).rdCause = w.rdCause := rfl
@[simp] theorem Warp.block_rdAddr (w : Warp) (x : Wait) (pc : BitVec 57) (flag : Option (Fin 12)) : (w.block x pc flag).rdAddr = w.rdAddr := rfl
@[simp] theorem Warp.block_dmark (w : Warp) (x : Wait) (pc : BitVec 57) (flag : Option (Fin 12)) : (w.block x pc flag).dmark = w.dmark := rfl
@[simp] theorem Warp.block_entry (w : Warp) (x : Wait) (pc : BitVec 57) (flag : Option (Fin 12)) : (w.block x pc flag).entry = w.entry := rfl
@[simp] theorem Warp.block_trapWait (w : Warp) (x : Wait) (pc : BitVec 57) (flag : Option (Fin 12)) : (w.block x pc flag).trapWait = w.trapWait := rfl
@[simp] theorem Warp.block_faults (w : Warp) (x : Wait) (pc : BitVec 57) (flag : Option (Fin 12)) : (w.block x pc flag).faults = w.faults := rfl

@[simp] theorem Warp.incFlag_wid (w : Warp) (i : Option (Fin 12)) : (w.incFlag i).wid = w.wid := by cases i <;> rfl
@[simp] theorem Warp.incFlag_gid (w : Warp) (i : Option (Fin 12)) : (w.incFlag i).gid = w.gid := by cases i <;> rfl
@[simp] theorem Warp.incFlag_pc (w : Warp) (i : Option (Fin 12)) : (w.incFlag i).pc = w.pc := by cases i <;> rfl
@[simp] theorem Warp.incFlag_act (w : Warp) (i : Option (Fin 12)) : (w.incFlag i).act = w.act := by cases i <;> rfl
@[simp] theorem Warp.incFlag_depth (w : Warp) (i : Option (Fin 12)) : (w.incFlag i).depth = w.depth := by cases i <;> rfl
@[simp] theorem Warp.incFlag_ntok (w : Warp) (i : Option (Fin 12)) : (w.incFlag i).ntok = w.ntok := by cases i <;> rfl
@[simp] theorem Warp.incFlag_held (w : Warp) (i : Option (Fin 12)) : (w.incFlag i).held = w.held := by cases i <;> rfl
@[simp] theorem Warp.incFlag_alloc (w : Warp) (i : Option (Fin 12)) : (w.incFlag i).alloc = w.alloc := by cases i <;> rfl
@[simp] theorem Warp.incFlag_rows (w : Warp) (i : Option (Fin 12)) : (w.incFlag i).rows = w.rows := by cases i <;> rfl
@[simp] theorem Warp.incFlag_v (w : Warp) (i : Option (Fin 12)) : (w.incFlag i).v = w.v := by cases i <;> rfl
@[simp] theorem Warp.incFlag_s (w : Warp) (i : Option (Fin 12)) : (w.incFlag i).s = w.s := by cases i <;> rfl
@[simp] theorem Warp.incFlag_k (w : Warp) (i : Option (Fin 12)) : (w.incFlag i).k = w.k := by cases i <;> rfl
@[simp] theorem Warp.incFlag_order (w : Warp) (i : Option (Fin 12)) : (w.incFlag i).order = w.order := by cases i <;> rfl
@[simp] theorem Warp.incFlag_pend (w : Warp) (i : Option (Fin 12)) : (w.incFlag i).pend = w.pend := by cases i <;> rfl
@[simp] theorem Warp.incFlag_settled (w : Warp) (i : Option (Fin 12)) : (w.incFlag i).settled = w.settled := by cases i <;> rfl
@[simp] theorem Warp.incFlag_mode (w : Warp) (i : Option (Fin 12)) : (w.incFlag i).mode = w.mode := by cases i <;> rfl
@[simp] theorem Warp.incFlag_probef (w : Warp) (i : Option (Fin 12)) : (w.incFlag i).probef = w.probef := by cases i <;> rfl
@[simp] theorem Warp.incFlag_steep (w : Warp) (i : Option (Fin 12)) : (w.incFlag i).steep = w.steep := by cases i <;> rfl
@[simp] theorem Warp.incFlag_notBefore (w : Warp) (i : Option (Fin 12)) : (w.incFlag i).notBefore = w.notBefore := by cases i <;> rfl
@[simp] theorem Warp.incFlag_wait (w : Warp) (i : Option (Fin 12)) : (w.incFlag i).wait = w.wait := by cases i <;> rfl
@[simp] theorem Warp.incFlag_waitPc (w : Warp) (i : Option (Fin 12)) : (w.incFlag i).waitPc = w.waitPc := by cases i <;> rfl
@[simp] theorem Warp.incFlag_waitSet (w : Warp) (i : Option (Fin 12)) : (w.incFlag i).waitSet = w.waitSet := by cases i <;> rfl
@[simp] theorem Warp.incFlag_parked (w : Warp) (i : Option (Fin 12)) : (w.incFlag i).parked = w.parked := by cases i <;> rfl
@[simp] theorem Warp.incFlag_halted (w : Warp) (i : Option (Fin 12)) : (w.incFlag i).halted = w.halted := by cases i <;> rfl
@[simp] theorem Warp.incFlag_xpc (w : Warp) (i : Option (Fin 12)) : (w.incFlag i).xpc = w.xpc := by cases i <;> rfl
@[simp] theorem Warp.incFlag_xcause (w : Warp) (i : Option (Fin 12)) : (w.incFlag i).xcause = w.xcause := by cases i <;> rfl
@[simp] theorem Warp.incFlag_xaddr (w : Warp) (i : Option (Fin 12)) : (w.incFlag i).xaddr = w.xaddr := by cases i <;> rfl
@[simp] theorem Warp.incFlag_xmask (w : Warp) (i : Option (Fin 12)) : (w.incFlag i).xmask = w.xmask := by cases i <;> rfl
@[simp] theorem Warp.incFlag_xinfo (w : Warp) (i : Option (Fin 12)) : (w.incFlag i).xinfo = w.xinfo := by cases i <;> rfl
@[simp] theorem Warp.incFlag_hstate (w : Warp) (i : Option (Fin 12)) : (w.incFlag i).hstate = w.hstate := by cases i <;> rfl
@[simp] theorem Warp.incFlag_rdCause (w : Warp) (i : Option (Fin 12)) : (w.incFlag i).rdCause = w.rdCause := by cases i <;> rfl
@[simp] theorem Warp.incFlag_rdAddr (w : Warp) (i : Option (Fin 12)) : (w.incFlag i).rdAddr = w.rdAddr := by cases i <;> rfl
@[simp] theorem Warp.incFlag_dmark (w : Warp) (i : Option (Fin 12)) : (w.incFlag i).dmark = w.dmark := by cases i <;> rfl
@[simp] theorem Warp.incFlag_entry (w : Warp) (i : Option (Fin 12)) : (w.incFlag i).entry = w.entry := by cases i <;> rfl
@[simp] theorem Warp.incFlag_trapWait (w : Warp) (i : Option (Fin 12)) : (w.incFlag i).trapWait = w.trapWait := by cases i <;> rfl
@[simp] theorem Warp.incFlag_faults (w : Warp) (i : Option (Fin 12)) : (w.incFlag i).faults = w.faults := by cases i <;> rfl

@[simp] theorem Warp.decFlag_wid (w : Warp) (i : Option (Fin 12)) : (w.decFlag i).wid = w.wid := by cases i <;> rfl
@[simp] theorem Warp.decFlag_gid (w : Warp) (i : Option (Fin 12)) : (w.decFlag i).gid = w.gid := by cases i <;> rfl
@[simp] theorem Warp.decFlag_pc (w : Warp) (i : Option (Fin 12)) : (w.decFlag i).pc = w.pc := by cases i <;> rfl
@[simp] theorem Warp.decFlag_act (w : Warp) (i : Option (Fin 12)) : (w.decFlag i).act = w.act := by cases i <;> rfl
@[simp] theorem Warp.decFlag_depth (w : Warp) (i : Option (Fin 12)) : (w.decFlag i).depth = w.depth := by cases i <;> rfl
@[simp] theorem Warp.decFlag_ntok (w : Warp) (i : Option (Fin 12)) : (w.decFlag i).ntok = w.ntok := by cases i <;> rfl
@[simp] theorem Warp.decFlag_held (w : Warp) (i : Option (Fin 12)) : (w.decFlag i).held = w.held := by cases i <;> rfl
@[simp] theorem Warp.decFlag_alloc (w : Warp) (i : Option (Fin 12)) : (w.decFlag i).alloc = w.alloc := by cases i <;> rfl
@[simp] theorem Warp.decFlag_rows (w : Warp) (i : Option (Fin 12)) : (w.decFlag i).rows = w.rows := by cases i <;> rfl
@[simp] theorem Warp.decFlag_v (w : Warp) (i : Option (Fin 12)) : (w.decFlag i).v = w.v := by cases i <;> rfl
@[simp] theorem Warp.decFlag_s (w : Warp) (i : Option (Fin 12)) : (w.decFlag i).s = w.s := by cases i <;> rfl
@[simp] theorem Warp.decFlag_k (w : Warp) (i : Option (Fin 12)) : (w.decFlag i).k = w.k := by cases i <;> rfl
@[simp] theorem Warp.decFlag_order (w : Warp) (i : Option (Fin 12)) : (w.decFlag i).order = w.order := by cases i <;> rfl
@[simp] theorem Warp.decFlag_pend (w : Warp) (i : Option (Fin 12)) : (w.decFlag i).pend = w.pend := by cases i <;> rfl
@[simp] theorem Warp.decFlag_settled (w : Warp) (i : Option (Fin 12)) : (w.decFlag i).settled = w.settled := by cases i <;> rfl
@[simp] theorem Warp.decFlag_mode (w : Warp) (i : Option (Fin 12)) : (w.decFlag i).mode = w.mode := by cases i <;> rfl
@[simp] theorem Warp.decFlag_probef (w : Warp) (i : Option (Fin 12)) : (w.decFlag i).probef = w.probef := by cases i <;> rfl
@[simp] theorem Warp.decFlag_steep (w : Warp) (i : Option (Fin 12)) : (w.decFlag i).steep = w.steep := by cases i <;> rfl
@[simp] theorem Warp.decFlag_notBefore (w : Warp) (i : Option (Fin 12)) : (w.decFlag i).notBefore = w.notBefore := by cases i <;> rfl
@[simp] theorem Warp.decFlag_wait (w : Warp) (i : Option (Fin 12)) : (w.decFlag i).wait = w.wait := by cases i <;> rfl
@[simp] theorem Warp.decFlag_waitPc (w : Warp) (i : Option (Fin 12)) : (w.decFlag i).waitPc = w.waitPc := by cases i <;> rfl
@[simp] theorem Warp.decFlag_waitSet (w : Warp) (i : Option (Fin 12)) : (w.decFlag i).waitSet = w.waitSet := by cases i <;> rfl
@[simp] theorem Warp.decFlag_parked (w : Warp) (i : Option (Fin 12)) : (w.decFlag i).parked = w.parked := by cases i <;> rfl
@[simp] theorem Warp.decFlag_halted (w : Warp) (i : Option (Fin 12)) : (w.decFlag i).halted = w.halted := by cases i <;> rfl
@[simp] theorem Warp.decFlag_xpc (w : Warp) (i : Option (Fin 12)) : (w.decFlag i).xpc = w.xpc := by cases i <;> rfl
@[simp] theorem Warp.decFlag_xcause (w : Warp) (i : Option (Fin 12)) : (w.decFlag i).xcause = w.xcause := by cases i <;> rfl
@[simp] theorem Warp.decFlag_xaddr (w : Warp) (i : Option (Fin 12)) : (w.decFlag i).xaddr = w.xaddr := by cases i <;> rfl
@[simp] theorem Warp.decFlag_xmask (w : Warp) (i : Option (Fin 12)) : (w.decFlag i).xmask = w.xmask := by cases i <;> rfl
@[simp] theorem Warp.decFlag_xinfo (w : Warp) (i : Option (Fin 12)) : (w.decFlag i).xinfo = w.xinfo := by cases i <;> rfl
@[simp] theorem Warp.decFlag_hstate (w : Warp) (i : Option (Fin 12)) : (w.decFlag i).hstate = w.hstate := by cases i <;> rfl
@[simp] theorem Warp.decFlag_rdCause (w : Warp) (i : Option (Fin 12)) : (w.decFlag i).rdCause = w.rdCause := by cases i <;> rfl
@[simp] theorem Warp.decFlag_rdAddr (w : Warp) (i : Option (Fin 12)) : (w.decFlag i).rdAddr = w.rdAddr := by cases i <;> rfl
@[simp] theorem Warp.decFlag_dmark (w : Warp) (i : Option (Fin 12)) : (w.decFlag i).dmark = w.dmark := by cases i <;> rfl
@[simp] theorem Warp.decFlag_entry (w : Warp) (i : Option (Fin 12)) : (w.decFlag i).entry = w.entry := by cases i <;> rfl
@[simp] theorem Warp.decFlag_trapWait (w : Warp) (i : Option (Fin 12)) : (w.decFlag i).trapWait = w.trapWait := by cases i <;> rfl
@[simp] theorem Warp.decFlag_faults (w : Warp) (i : Option (Fin 12)) : (w.decFlag i).faults = w.faults := by cases i <;> rfl

end Sys2Proof.Machine
end

