-- ==== Sys2Proof/Laws/Store.lean ====
section
/-! SUPPORT. Sparse stores: what a read gives after a write, and that writes keep the canonical form. -/

namespace Sys2Proof.Machine

variable {α : Type}

@[simp] theorem SMap.find?_put_self (m : SMap α) (k : Nat) (a : α) : (m.put k a).find? k = some a := by
  induction m with
  | nil => simp [SMap.put, SMap.find?]
  | cons p m ih =>
    obtain ⟨i, b⟩ := p
    simp only [SMap.put]
    split
    · simp [SMap.find?]
    · split
      · simp [SMap.find?]
      · simp [SMap.find?, *]

theorem SMap.find?_put_of_ne (m : SMap α) {k j : Nat} (a : α) (h : j ≠ k) : (m.put k a).find? j = m.find? j := by
  induction m with
  | nil => simp [SMap.put, SMap.find?, Ne.symm h]
  | cons p m ih =>
    obtain ⟨i, b⟩ := p
    simp only [SMap.put]
    split
    · rename_i e; subst e; simp [SMap.find?, Ne.symm h]
    · split
      · simp [SMap.find?, Ne.symm h]
      · simp only [SMap.find?, ih]

theorem SMap.find?_del_of_ne (m : SMap α) {k j : Nat} (h : j ≠ k) : (m.del k).find? j = m.find? j := by
  induction m with
  | nil => rfl
  | cons p m ih =>
    obtain ⟨i, b⟩ := p
    simp only [SMap.del]
    split
    · rename_i e; subst e; simp [SMap.find?, Ne.symm h]
    · simp only [SMap.find?, ih]

theorem SMap.put_ne_nil (m : SMap α) (k : Nat) (a : α) : m.put k a ≠ [] := by
  cases m with
  | nil => simp [SMap.put]
  | cons p m => obtain ⟨i, b⟩ := p; simp only [SMap.put]; split <;> (try split) <;> simp

theorem SMap.above_mono {m : SMap α} {lo lo' : Nat} (hl : lo' ≤ lo) (h : m.above lo = true) : m.above lo' = true := by
  cases m with
  | nil => rfl
  | cons p m =>
    obtain ⟨i, b⟩ := p
    simp only [SMap.above, Bool.and_eq_true, decide_eq_true_eq] at h ⊢
    exact ⟨by omega, h.2⟩

/-- A sorted store lists no key below its bound. -/
theorem SMap.find?_below {m : SMap α} {lo k : Nat} (h : m.above lo = true) (hk : k < lo) : m.find? k = none := by
  induction m generalizing lo with
  | nil => rfl
  | cons p m ih =>
    obtain ⟨i, b⟩ := p
    simp only [SMap.above, Bool.and_eq_true, decide_eq_true_eq] at h
    have : i ≠ k := by omega
    simp only [SMap.find?, this, ↓reduceIte]
    exact ih h.2 (by omega)

theorem SMap.above_put {m : SMap α} {lo k : Nat} (a : α) (h : m.above lo = true) (hk : lo ≤ k) :
    (m.put k a).above lo = true := by
  induction m generalizing lo with
  | nil => simp [SMap.put, SMap.above, hk]
  | cons p m ih =>
    obtain ⟨i, b⟩ := p
    simp only [SMap.above, Bool.and_eq_true, decide_eq_true_eq] at h
    simp only [SMap.put]
    split
    · rename_i e; subst e; simp [SMap.above, h.2, hk]
    · split
      · rename_i e; simp [SMap.above, hk, h.2]; omega
      · rename_i e1 e2
        simp only [SMap.above, Bool.and_eq_true, decide_eq_true_eq]
        exact ⟨h.1, ih h.2 (by omega)⟩

theorem SMap.above_del {m : SMap α} {lo k : Nat} (h : m.above lo = true) : (m.del k).above lo = true := by
  induction m generalizing lo with
  | nil => rfl
  | cons p m ih =>
    obtain ⟨i, b⟩ := p
    simp only [SMap.above, Bool.and_eq_true, decide_eq_true_eq] at h
    simp only [SMap.del]
    split
    · exact SMap.above_mono (by omega) h.2
    · simp [SMap.above, h.1, ih h.2]

theorem SMap.mem_put {m : SMap α} {k : Nat} {a : α} {p : Nat × α} (h : p ∈ m.put k a) : p = (k, a) ∨ p ∈ m := by
  induction m with
  | nil => simp only [SMap.put, List.mem_singleton] at h; exact .inl h
  | cons q m ih =>
    obtain ⟨i, b⟩ := q
    simp only [SMap.put] at h
    split at h
    · rcases List.mem_cons.1 h with h | h
      · exact .inl h
      · exact .inr (List.mem_cons_of_mem _ h)
    · split at h
      · rcases List.mem_cons.1 h with h | h
        · exact .inl h
        · exact .inr h
      · rcases List.mem_cons.1 h with h | h
        · exact .inr (h ▸ List.mem_cons_self)
        · exact (ih h).imp_right (List.mem_cons_of_mem _)

theorem SMap.mem_del {m : SMap α} {k : Nat} {p : Nat × α} (h : p ∈ m.del k) : p ∈ m := by
  induction m with
  | nil => exact h
  | cons q m ih =>
    obtain ⟨i, b⟩ := q
    simp only [SMap.del] at h
    split at h
    · exact List.mem_cons_of_mem _ h
    · rcases List.mem_cons.1 h with h | h
      · exact h ▸ List.mem_cons_self
      · exact List.mem_cons_of_mem _ (ih h)

/-- A write keeps the canonical form of a store with a default. -/
theorem SMap.wf_set [DecidableEq α] {d : α} {m : SMap α} (h : m.wf d = true) (k : Nat) (a : α) : (m.set d k a).wf d = true := by
  simp only [SMap.wf, Bool.and_eq_true, List.all_eq_true, decide_eq_true_eq] at h ⊢
  simp only [SMap.set]
  split
  · exact ⟨SMap.above_del h.1, fun p hp => h.2 p (SMap.mem_del hp)⟩
  · rename_i e
    refine ⟨SMap.above_put a h.1 (Nat.zero_le k), fun p hp => ?_⟩
    rcases SMap.mem_put hp with rfl | hp
    · exact e
    · exact h.2 p hp

theorem SMap.find?_del_self {m : SMap α} {lo k : Nat} (h : m.above lo = true) : (m.del k).find? k = none := by
  induction m generalizing lo with
  | nil => rfl
  | cons p m ih =>
    obtain ⟨i, b⟩ := p
    simp only [SMap.above, Bool.and_eq_true, decide_eq_true_eq] at h
    simp only [SMap.del]
    split
    · rename_i e; subst e; exact SMap.find?_below h.2 (by omega)
    · rename_i e; simp only [SMap.find?, e, ↓reduceIte]; exact ih h.2

/-- A read of the key just written, in a canonical store. -/
theorem SMap.get_set_self [DecidableEq α] {d : α} {m : SMap α} (h : m.wf d = true) (k : Nat) (a : α) :
    SMap.get d (m.set d k a) k = a := by
  simp only [SMap.wf, Bool.and_eq_true] at h
  simp only [SMap.get, SMap.set]
  split
  · rename_i e; simp [SMap.find?_del_self h.1, e]
  · simp

/-- A value other than the default reads back from any store. -/
theorem SMap.get_set_self_of_ne [DecidableEq α] {d a : α} (m : SMap α) (k : Nat) (h : a ≠ d) :
    SMap.get d (m.set d k a) k = a := by
  simp [SMap.get, SMap.set, h]

/-- A write changes no other key. -/
theorem SMap.get_set_of_ne [DecidableEq α] (d : α) (m : SMap α) {k j : Nat} (a : α) (h : j ≠ k) :
    SMap.get d (m.set d k a) j = SMap.get d m j := by
  simp only [SMap.get, SMap.set]
  split
  · rw [SMap.find?_del_of_ne m h]
  · rw [SMap.find?_put_of_ne m a h]

end Sys2Proof.Machine
end

