-- ==== Sys2Proof/Laws/Warps.lean ====
section
/-! SUPPORT. Reading cores and warps after one of them is written. -/

namespace Sys2Proof.Machine

theorem State.core_setCore_of_ne (s : State) {c c' : Nat} (x : Core) (h : c' ≠ c) : (s.setCore c x).core c' = s.core c' :=
  SMap.get_set_of_ne _ _ _ h

/-- A core with a resident warp is no core in its initial state. -/
theorem Core.ne_initial_of_warps {x : Core} (h : x.warps ≠ []) : x ≠ Core.initial := by
  rintro rfl; exact h rfl

theorem State.core_setCore_self (s : State) {c : Nat} {x : Core} (h : x.warps ≠ []) : (s.setCore c x).core c = x :=
  SMap.get_set_self_of_ne _ _ (Core.ne_initial_of_warps h)

theorem State.core_setWarpAt_self (s : State) (c j : Nat) (w : Warp) :
    (s.setWarpAt c j w).core c = { s.core c with warps := (s.core c).warps.put j w } :=
  State.core_setCore_self s (SMap.put_ne_nil _ _ _)

theorem State.core_setWarpAt_of_ne (s : State) {c c' : Nat} (j : Nat) (w : Warp) (h : c' ≠ c) :
    (s.setWarpAt c j w).core c' = s.core c' :=
  State.core_setCore_of_ne s _ h

@[simp] theorem State.warpAt_setWarpAt_self (s : State) (c j : Nat) (w : Warp) : (s.setWarpAt c j w).warpAt c j = some w := by
  simp [State.warpAt, State.core_setWarpAt_self]

theorem State.warpAt_setWarpAt_of_ne (s : State) {c j c' j' : Nat} (w : Warp) (h : c' ≠ c ∨ j' ≠ j) :
    (s.setWarpAt c j w).warpAt c' j' = s.warpAt c' j' := by
  by_cases hc : c' = c
  · subst hc
    have hj : j' ≠ j := h.resolve_left (fun e => e rfl)
    simp [State.warpAt, State.core_setWarpAt_self, SMap.find?_put_of_ne _ _ hj]
  · simp [State.warpAt, State.core_setWarpAt_of_ne s j w hc]

@[simp] theorem State.warp_setWarp (s : State) (w : Warp) : (s.setWarp w).warp = some w :=
  State.warpAt_setWarpAt_self s _ _ w

@[simp] theorem State.curCore_setWarp_cmode (s : State) (w : Warp) : (s.setWarp w).curCore.cmode = s.curCore.cmode := by
  simp [State.curCore, State.setWarp, State.core_setWarpAt_self]

@[simp] theorem State.curCore_setWarp_cycle (s : State) (w : Warp) : (s.setWarp w).curCore.cycle = s.curCore.cycle := by
  simp [State.curCore, State.setWarp, State.core_setWarpAt_self]

/-- Writing the acting warp twice. -/
theorem SMap.put_put {α : Type} (m : SMap α) (k : Nat) (a b : α) : (m.put k a).put k b = m.put k b := by
  induction m with
  | nil => simp [SMap.put]
  | cons p m ih =>
    obtain ⟨i, c⟩ := p
    simp only [SMap.put]
    split
    · simp [SMap.put]
    · split
      · simp [SMap.put]
      · rename_i e1 e2; simp only [SMap.put, e1, e2, ↓reduceIte, ih]

end Sys2Proof.Machine
end

