-- ==== Sys2Proof/Laws/Frame.lean ====
section
/-! SUPPORT. What a write to the acting warp, and a word of fixed latency, leave unchanged. -/

namespace Sys2Proof.Machine

theorem OnlyActingWarp.setWarp (s : State) (w : Warp) : OnlyActingWarp s (s.setWarp w) where
  rest := rfl
  cores _ hc := State.core_setWarpAt_of_ne s _ w hc
  core := ⟨_, State.core_setWarpAt_self s _ _ w⟩
  warps _ hj := State.warpAt_setWarpAt_of_ne s w (.inr hj)

theorem State.setCore_setCore (s : State) (c : Nat) {x y : Core} (hx : x.warps ≠ []) (hy : y.warps ≠ []) :
    (s.setCore c x).setCore c y = s.setCore c y := by
  simp only [State.setCore, SMap.set, Core.ne_initial_of_warps hx, Core.ne_initial_of_warps hy, ite_false, SMap.put_put]

/-- Two updates of the acting warp are one. -/
theorem State.setWarp_setWarp (s : State) (w w' : Warp) : (s.setWarp w).setWarp w' = s.setWarp w' := by
  have h (c : Core) (v : Warp) : ({ c with warps := c.warps.put s.cur.2 v } : Core).warps ≠ [] := SMap.put_ne_nil _ _ _
  show State.setCore (s.setCore s.cur.1 _) s.cur.1
    { (s.setWarp w).core s.cur.1 with warps := ((s.setWarp w).core s.cur.1).warps.put s.cur.2 w' } = _
  rw [State.setCore_setCore s s.cur.1 (h _ _) (h _ _), State.setWarp, State.core_setWarpAt_self]
  simp only [SMap.put_put, State.setWarp, State.setWarpAt]

theorem State.updWarp_setWarp (s : State) (w : Warp) (f : Warp → Warp) : (s.setWarp w).updWarp f = s.setWarp (f w) := by
  simp only [State.updWarp, State.warp_setWarp, State.setWarp_setWarp]

/-- The warp once a word has issued keeps everything but the pc, the count of words, its next issue and a flag. -/
theorem Warp.issued_frame (w : Warp) (h : Hdr) (len cycle extra : Nat) :
    (w.issued h len cycle extra).incFlag h.set =
      { w with pc := w.pc + BitVec.ofNat 57 len, notBefore := cycle + 1 + max h.stall.toNat extra, order := w.order + 1
               flags := ((w.issued h len cycle extra).incFlag h.set).flags } := by
  cases hs : h.set <;> simp [Warp.incFlag, Warp.issued]

/-- A flag that SET does not name keeps its counter. -/
theorem Warp.flag_incFlag_of_ne (w : Warp) (o : Option (Fin 12)) {f : Nat} (h : ∀ k, o = some k → k.val ≠ f) :
    (w.incFlag o).flag f = w.flag f := by
  cases o with
  | none => rfl
  | some k =>
    simp only [Warp.incFlag, Warp.flag]
    exact SMap.get_set_of_ne (0 : Nat) w.flags _ (fun e => h k rfl e.symm)

/-- What a word of fixed latency answers: a trap, its advance under an empty mask, or its advance and its pending writes. -/
theorem alu_cases {s t : State} {x : Ctx} {h : Hdr} {f : Form} {lat : Nat} {wr : Ctx → LaneMask → List Wr}
    (hx : s.ctx = some x) (ht : alu h f lat wr s = .next t) :
    (∃ tr, t = s.takeWordTrap f.zeroSteep tr) ∨ t = s.setWarp (x.w.issued h f.len x.cycle 0) ∨
    t = s.setWarp (((x.w.issued h f.len x.cycle f.extra).incFlag h.set).defer x.cycle lat (wr x (x.w.eff h))) := by
  rcases issue_cases hx ht with ⟨d, -, rfl⟩ | ⟨-, rfl⟩ | ⟨tr, -, rfl⟩ | ⟨-, -, rfl⟩ | hb | ⟨tr, hb, -⟩
  · exact .inl ⟨_, rfl⟩
  · exact .inr (.inl rfl)
  · exact .inl ⟨_, rfl⟩
  · exact .inl ⟨_, rfl⟩
  · cases hb; exact .inr (.inr (State.updWarp_setWarp _ _ _))
  · cases hb

end Sys2Proof.Machine
end

