-- ==== Sys2Proof/Laws/Memory.lean ====
section
/-! SUPPORT. Global memory: what a byte reads as after a write, and that every operation keeps the canonical form. -/

namespace Sys2Proof.Machine

theorem Memory.wf_reset : Memory.wf State.reset.mem = true := rfl

theorem Memory.wf_putByte {m : List Host.Cell} (h : Memory.wf m = true) (a : Nat) (b : Byte) :
    Memory.wf (putByte m a b) = true :=
  SMap.wf_set h a b

theorem Memory.wf_putBytes {m : List Host.Cell} (h : Memory.wf m = true) (a : Nat) (bs : List Byte) :
    Memory.wf (putBytes m a bs) = true := by
  induction bs generalizing m a with
  | nil => exact h
  | cons b bs ih => exact ih (Memory.wf_putByte h a b) (a + 1)

theorem byteAt_putByte_of_ne (m : List Host.Cell) {a a' : Nat} (b : Byte) (h : a' ≠ a) :
    byteAt (putByte m a b) a' = byteAt m a' :=
  SMap.get_set_of_ne _ _ _ h

theorem byteAt_putByte_self {m : List Host.Cell} (h : Memory.wf m = true) (a : Nat) (b : Byte) :
    byteAt (putByte m a b) a = b :=
  SMap.get_set_self h a b

/-- A write leaves every byte outside it. -/
theorem byteAt_putBytes_of_outside (m : List Host.Cell) (a : Nat) (bs : List Byte) {a' : Nat}
    (h : ¬ (a ≤ a' ∧ a' < a + bs.length)) : byteAt (putBytes m a bs) a' = byteAt m a' := by
  induction bs generalizing m a with
  | nil => rfl
  | cons b bs ih =>
    simp only [List.length_cons] at h
    simp only [putBytes]
    rw [ih _ _ (by omega), byteAt_putByte_of_ne _ _ (by omega)]

/-- A byte of a write reads as written. -/
theorem byteAt_putBytes {m : List Host.Cell} (hm : Memory.wf m = true) (a : Nat) (bs : List Byte) {i : Nat}
    (h : i < bs.length) : byteAt (putBytes m a bs) (a + i) = bs[i] := by
  induction bs generalizing m a i with
  | nil => simp at h
  | cons b bs ih =>
    simp only [putBytes]
    cases i with
    | zero =>
      rw [byteAt_putBytes_of_outside _ _ _ (by omega), Nat.add_zero, byteAt_putByte_self hm]; rfl
    | succ i =>
      have := ih (Memory.wf_putByte hm a b) (a + 1) (i := i) (by simpa using h)
      rw [show a + (i + 1) = a + 1 + i by omega, this]; rfl

/-- What was written reads back. -/
theorem bytesAt_putBytes {m : List Host.Cell} (hm : Memory.wf m = true) (a : Nat) (bs : List Byte) :
    bytesAt (putBytes m a bs) a bs.length = bs := by
  induction bs generalizing m a with
  | nil => rfl
  | cons b bs ih =>
    simp only [List.length_cons, bytesAt, putBytes, ih (Memory.wf_putByte hm a b)]
    rw [byteAt_putBytes_of_outside _ _ _ (by omega), byteAt_putByte_self hm]

@[simp] theorem State.memByte_memWrite_of_outside (s : State) (pa : Nat) (bs : List Byte) (comp : Bool) {a : Nat}
    (h : ¬ (pa ≤ a ∧ a < pa + bs.length)) : (s.memWrite pa bs comp).memByte a = s.memByte a :=
  byteAt_putBytes_of_outside _ _ _ h

theorem State.memRead_memWrite {s : State} (hm : Memory.wf s.mem = true) (pa : Nat) (bs : List Byte) (comp : Bool) :
    (s.memWrite pa bs comp).memRead pa bs.length = bs :=
  bytesAt_putBytes hm pa bs

theorem State.wf_memWrite {s : State} (hm : Memory.wf s.mem = true) (pa : Nat) (bs : List Byte) (comp : Bool) :
    Memory.wf (s.memWrite pa bs comp).mem = true :=
  Memory.wf_putBytes hm pa bs

theorem State.wf_store {s : State} (hm : Memory.wf s.mem = true) (p : Party) (pa : Nat) (bs : List Byte) (comp : Bool) :
    Memory.wf (s.store p pa bs comp).mem = true := by
  rw [State.store_mem]; exact Memory.wf_putBytes hm pa bs

/-- A virtual write that succeeds keeps the canonical form. -/
theorem State.wf_vwrite {s t : State} (hm : Memory.wf s.mem = true) {c asid va : Nat} {bs : List Byte}
    (h : s.vwrite c asid va bs = .ok t) : Memory.wf t.mem = true := by
  simp only [State.vwrite] at h
  split at h
  · cases h
  · split at h
    · cases h
    · cases h
      exact State.wf_store (by rw [(fabricOnly_walked s c asid va).mem]; exact hm) _ _ _ _

theorem State.wf_locWrite {s : State} (hm : Memory.wf s.mem = true) (l : Loc) (bs : List Byte) :
    Memory.wf (s.locWrite l bs).mem = true := by
  cases l with
  | glob pa comp => exact State.wf_memWrite hm _ _ _
  | sram g off => exact hm

theorem State.wf_locStore {s : State} (hm : Memory.wf s.mem = true) (p : Party) (l : Loc) (bs : List Byte) :
    Memory.wf (s.locStore p l bs).mem = true := by
  rw [State.locStore, State.locAccess_mem]; exact State.wf_locWrite hm l bs

/-- A store to one location leaves every byte of global memory outside it; a store to group memory leaves them all. -/
theorem State.memByte_locWrite (s : State) (l : Loc) (bs : List Byte) {a : Nat}
    (h : ∀ pa comp, l = .glob pa comp → ¬ (pa ≤ a ∧ a < pa + bs.length)) :
    (s.locWrite l bs).memByte a = s.memByte a := by
  cases l with
  | glob pa comp => exact byteAt_putBytes_of_outside _ _ _ (h _ _ rfl)
  | sram g off => rfl

theorem SMap.above_filter {α : Type} {m : SMap α} {lo : Nat} (p : Nat × α → Bool) (h : m.above lo = true) :
    SMap.above (m.filter p) lo = true := by
  induction m generalizing lo with
  | nil => rfl
  | cons q m ih =>
    obtain ⟨i, b⟩ := q
    simp only [SMap.above, Bool.and_eq_true, decide_eq_true_eq] at h
    rw [List.filter_cons]
    split
    · simp [SMap.above, h.1, ih h.2]
    · exact SMap.above_mono (by omega) (ih h.2)

/-- Dropping entries, as power-up does, keeps the canonical form. -/
theorem Memory.wf_filter {m : List Host.Cell} (p : Host.Cell → Bool) (h : Memory.wf m = true) :
    Memory.wf (m.filter p) = true := by
  simp only [Memory.wf, SMap.wf, Bool.and_eq_true, List.all_eq_true, decide_eq_true_eq] at h ⊢
  exact ⟨SMap.above_filter p h.1, fun q hq => h.2 q ((List.mem_filter.1 hq).1)⟩

end Sys2Proof.Machine
end

