-- ==== Sys2Proof/Tests/Slice0.lean ====
section
/-! SUPPORT. The model's own tests: ill-formed terms, words from the spec's encodings, worked examples, and a witness for every
statement with hypotheses. -/

set_option linter.unusedSimpArgs false

namespace Sys2Proof.Tests

open Sys2Proof.Machine

/-! ### Small states -/

/-- Schedule fields without a wait, a flag or a predicate. -/
def h0 : Hdr := { stall := 0, wait := 0, set := none, pneg := false, pidx := 0 }

/-- One warp of one group in slot 0 of core 0, its next word a NOP. -/
def base : Machine.State := State.reset.withFetchWord 64 0x00003C0000000000

/-- Its context. -/
def x0 : Ctx := { w := Warp.start 1 0 fetchRecord (0, 256) 0, core := 0, groupId := 0, clusterId := 0, cycle := 0 }

theorem ctx_base : base.ctx = some x0 := rfl

/-- The same warp in a concurrent launch with 4 KiB of group memory, and an address space for it. -/
def gmemRecord : LaunchRec := { fetchRecord with gmem := 4096, gclass := 0 }

/-- The record's launch. -/
def gmemLaunch : Launch := { fetchLaunch State.reset with record := gmemRecord }

/-- A read-write page of 1 GiB, mapped to itself. -/
def page0 : Xlate := { page := 0, size := 2 ^ 30, r := true, w := true, x := true, comp := false }

/-- An address space with its trap vectors at 0x1000, its trap area at 0x100000 and its spill area at 0x10000. -/
def space0 : Machine.Space :=
  { desc := 0, tvtb := 0x1000, tsb := 0x10000, xsb := 0x100000, csab := 0x1000000, csas := 65536, csan := 16, saveb := 100
    cspb := 0x8000000, ptroot := 0 }

def mapped : Machine.State :=
  { base.setCore 0 { base.core 0 with tlb := [{ asid := 0, va := 0, tr := page0 }], part := 4096 } with
    spaces := [(0, space0)], launches := [(0, gmemLaunch)] }

theorem ctx_mapped : mapped.ctx = some x0 := rfl

/-- `mapped` with another acting warp. -/
def acting (w : Warp) : Machine.State := mapped.setWarp w

/-- The warp of `mapped`. -/
def w0 : Warp := x0.w

def loopTok : Token := { kind := .loop, depth := 0, pc := 0x100, mask := 0 }
def joinTok : Token := { kind := .join, depth := 0, pc := 0x80, mask := fullMask }
def callTok : Token := { kind := .call, depth := 0, pc := 0x200, mask := fullMask }

/-! ### Witnesses: the arithmetic units -/

theorem witness_ScalarIntegerResults :
    ScalarReady base x0 h0 false false false (.s 95) (.s 0) (.op (.const 0x3F)) ∧
    ScalarReady base x0 h0 true true true (.s 94) (.s 0) (.op (.s 2)) ∧
    ScalarReady3 base x0 h0 true true true true (.s 94) (.s 0) (.op (.s 2)) (.s 4) ∧
    Ready base x0 h0 (kOk { idx := 7, upper := 0 } && sSrc false (.s 1) && sSrc1 false (.imm 5))
      (Rd.of (.s 1) false (x0.w.eff h0) :: Rd.src (.imm 5) false (x0.w.eff h0)) true ∧
    ScalarReady base x0 h0 true true false (.s 94) (.s 0) (.op (.s 1)) ∧
    ScalarReady3 base x0 h0 true false false true (.s 94) (.s 1) (.op (.s 3)) (.s 4) := by
  refine ⟨?_, ?_, ?_, ?_, ?_, ?_⟩ <;> exact ⟨ctx_base, by decide, by decide, by decide, by decide⟩

theorem witness_ScalarBitResults :
    Ready base x0 h0 (sDst true (.s 94) && sSrc1 true (.op (.s 0))) (Rd.src (.op (.s 0)) true (x0.w.eff h0)) true ∧
    ScalarReady1 base x0 h0 true false (.s 94) (.s 1) ∧ ScalarReady base x0 h0 true true true (.s 94) (.s 0) (.op (.s 2)) ∧
    kOk { idx := 0, upper := 0 } = true ∧ ScalarReady base x0 h0 true true false (.s 94) (.s 0) (.op (.s 1)) ∧
    ScalarReady1 base x0 h0 false true (.s 95) (.s 94) := by
  refine ⟨?_, ?_, ?_, by decide, ?_, ?_⟩ <;> exact ⟨ctx_base, by decide, by decide, by decide, by decide⟩

theorem witness_VectorIntegerResults :
    VectorReady base x0 h0 1 false false (.v 255) (.v 0) (.op (.special 1)) ∧
    VectorReady base x0 h0 2 true true (.v 254) (.v 0) (.op (.s 94)) ∧
    VectorReady3 base x0 h0 2 true true true (.v 254) (.v 0) (.op (.v 2)) (.v 4) ∧
    Ready base x0 h0 (kOk { idx := 0, upper := 0 } && vSrc x0.w.alloc false (.v 255) && vSrc1 x0.w.alloc false (.imm 1))
      (Rd.of (.v 255) false (x0.w.eff h0) :: Rd.src (.imm 1) false (x0.w.eff h0)) false ∧
    kOk { idx := 7, upper := 0 } = true ∧ VectorReady1 base x0 h0 2 true (.v 254) (.v 0) := by
  refine ⟨?_, ?_, ?_, ?_, by decide, ?_⟩ <;> exact ⟨ctx_base, by decide, by decide, by decide, by decide⟩

theorem witness_VectorBitResults :
    Ready base x0 h0 (vDst x0.w.alloc 2 (.v 254) && vSrc1 x0.w.alloc true (.op (.v 0))) (Rd.src (.op (.v 0)) true (x0.w.eff h0))
      false ∧
    VectorReady base x0 h0 2 true true (.v 254) (.v 0) (.op (.v 2)) ∧ kOk { idx := 7, upper := 0 } = true ∧
    VectorReady base x0 h0 2 true false (.v 254) (.v 0) (.op (.v 1)) ∧
    VectorReady3 base x0 h0 2 true true false (.v 254) (.v 0) (.op (.v 2)) (.v 5) ∧
    VectorReady1 base x0 h0 2 true (.v 254) (.v 0) ∧ VectorReady1 base x0 h0 1 true (.v 255) (.v 0) ∧
    VectorReady3 base x0 h0 1 false false false (.v 255) (.v 0) (.op (.v 2)) (.v 5) := by
  refine ⟨?_, ?_, by decide, ?_, ?_, ?_, ?_, ?_⟩ <;> exact ⟨ctx_base, by decide, by decide, by decide, by decide⟩

theorem witness_VectorFloatResults :
    VectorReady base x0 h0 2 true true (.v 254) (.v 0) (.op (.v 2)) ∧
    VectorReady3 base x0 h0 1 false false false (.v 255) (.v 0) (.op (.v 2)) (.v 5) ∧
    Ready base x0 h0 (kOk { idx := 7, upper := 0 } && vSrc x0.w.alloc true (.v 254) && vSrc1 x0.w.alloc true (.op (.s 94)))
      (Rd.of (.v 254) true (x0.w.eff h0) :: Rd.src (.op (.s 94)) true (x0.w.eff h0)) false ∧
    VectorReady1 base x0 h0 2 true (.v 254) (.v 0) ∧ VectorReady1 base x0 h0 1 true (.v 255) (.v 0) := by
  refine ⟨?_, ?_, ?_, ?_, ?_⟩ <;> exact ⟨ctx_base, by decide, by decide, by decide, by decide⟩

theorem witness_SpecialFunctionResults :
    VectorReady1 base x0 h0 1 false (.v 255) (.const 0) ∧ VectorReady1 base x0 h0 2 true (.v 254) (.v 0) := by
  refine ⟨?_, ?_⟩ <;> exact ⟨ctx_base, by decide, by decide, by decide, by decide⟩

theorem witness_PackedResults :
    VectorReady base x0 h0 1 false false (.v 255) (.v 0) (.op (.v 1)) ∧
    VectorReady3 base x0 h0 1 false false false (.v 255) (.v 0) (.op (.v 1)) (.v 2) := by
  refine ⟨?_, ?_⟩ <;> exact ⟨ctx_base, by decide, by decide, by decide, by decide⟩

theorem witness_ConversionResults :
    VectorReady1 base x0 h0 (regsOf (cvtWide .f64)) (cvtWide .i8) (.v 254) (.v 3) ∧ cvtKind .e4m3 = .flt .e4m3 ∧
    cvtKind .f32 = .flt .f32 ∧
    Ready base x0 h0 (vDst x0.w.alloc 1 (.v 255) && vSrc x0.w.alloc false (.v 0) && vSrc x0.w.alloc false (.v 1))
      [Rd.of (.v 0) false (x0.w.eff h0), Rd.of (.v 1) false (x0.w.eff h0)] false ∧
    VectorReady base x0 h0 1 false false (.v 255) (.v 0) (.op (.v 1)) ∧
    VectorReady base x0 h0 2 false false (.v 254) (.v 0) (.op (.v 1)) ∧
    Ready base x0 h0
      (vDst x0.w.alloc 1 (.v 255) && vSrc x0.w.alloc false (.v 0) && vSrc x0.w.alloc false (.v 1) && vSrc x0.w.alloc false (.v 2))
      [Rd.of (.v 0) false (x0.w.eff h0), Rd.of (.v 1) false (x0.w.eff h0), Rd.of (.v 2) false (x0.w.eff h0)] false ∧
    Ready base x0 h0 (vDst x0.w.alloc 4 (.v 252) && vSrc x0.w.alloc true (.s 94) && vSrc x0.w.alloc false (.v 1))
      [Rd.of (.s 94) true (x0.w.eff h0), Rd.of (.v 1) false (x0.w.eff h0)] false := by
  refine ⟨?_, rfl, rfl, ?_, ?_, ?_, ?_, ?_⟩ <;> exact ⟨ctx_base, by decide, by decide, by decide, by decide⟩

theorem witness_LaneOperationResults :
    Ready base x0 h0 (vDst x0.w.alloc 2 (.v 254) && !isVec (.s 94) && vSrc x0.w.alloc true (.s 94) && sSrc1 false (.op (.const 31)))
      (Rd.of (.s 94) true (x0.w.eff h0) :: Rd.src (.op (.const 31)) false (x0.w.eff h0)) false ∧
    Ready base x0 h0 (sDst true (.s 94) && isVec (.v 254) && vSrc x0.w.alloc true (.v 254) && sSrc1 false (.op (.const 31)))
      (Rd.src (.op (.const 31)) false (x0.w.eff h0)) false ∧
    (Rd.of (.v 254) true (1#32 <<< (x0.n32Src (.op (.const 31)) % 32))).tags x0.w = [] ∧
    VectorReady1 base x0 h0 1 true (.v 255) (.v 254) ∧
    Ready base x0 h0 (vDst x0.w.alloc 1 (.v 255) && vSrc x0.w.alloc false (.v 0) && vSrc1 x0.w.alloc false (.op (.v 1)))
      (Rd.src (.op (.v 1)) false (x0.w.eff h0)) false ∧
    (∀ i ∈ lanesOf (x0.w.eff h0), (x0.w.lane 0 ((shflLane .xor i (x0.n32Src (.op (.v 1)) i)).getD i)).tag = .clean) ∧
    Ready base x0 h0 (kOk { idx := 7, upper := 0 } && kOk { idx := 0, upper := 0 }) [] false ∧
    Ready base x0 h0 (sDst false (.s 95) && kOk { idx := 7, upper := 0 }) [] false ∧ tyOk { ty := 2, upper := 0 } = true ∧
    VectorReady1 base x0 h0 1 false (.v 255) (.v 0) ∧
    Ready base x0 h0 (sDst false (.s 95) && vSrc x0.w.alloc false (.v 0)) [Rd.of (.v 0) false (x0.w.eff h0)] false := by
  refine ⟨?_, ?_, by decide, ?_, ?_, by decide, ?_, ?_, by decide, ?_, ?_⟩ <;>
  exact ⟨ctx_base, by decide, by decide, by decide, by decide⟩

theorem witness_PredicateAndPairResults :
    Ready base x0 h0 (kOk { idx := 7, upper := 0 } && kOk { idx := 0, upper := 0 } && kOk { idx := 1, upper := 0 }) [] true ∧
    Ready base x0 h0 (kOk { idx := 0, upper := 0 } && kOk { idx := 7, upper := 0 }) [] true ∧
    Ready base x0 h0 (kOk { idx := 7, upper := 0 } && sSrc1 false (.imm 0)) (Rd.src (.imm 0) false (x0.w.eff h0)) true ∧
    Ready base x0 h0 (sDst false (.s 95) && kOk { idx := 7, upper := 0 }) [] true ∧
    (let p : PairWord := { stall := 0, wait := 0, aop := 0x01, adst := 4, asrc := 9, bop := 0x12, bdst := 254, bsrc := 255 }
     Ready base x0 (pairHdr p)
      (regOk x0.w.alloc 1 p.adst.toNat && regOk x0.w.alloc 1 p.asrc.toNat && regOk x0.w.alloc 1 p.bdst.toNat &&
        regOk x0.w.alloc 1 p.bsrc.toNat)
      (pairReads p.aop p.adst p.asrc x0.w.act ++ pairReads p.bop p.bdst p.bsrc x0.w.act) false) := by
  refine ⟨?_, ?_, ?_, ?_, ?_⟩ <;> exact ⟨ctx_base, by decide, by decide, by decide, by decide⟩

/-! ### Witnesses: the issue, branch and trap units -/

theorem witness_IssueUnitResults :
    Ready base x0 h0 true [] true ∧
    Ready base x0 h0 (fOk { idx := 11, upper := 0 } && iSrc1 (.op (.const 63))) (Rd.src (.op (.const 63)) false (x0.w.eff h0)) true ∧
    Ready base x0 h0 (iSrc1 (.imm 0xFFFFFFFF)) (Rd.src (.imm 0xFFFFFFFF) false (x0.w.eff h0)) true ∧
    Ready base x0 h0 (iSrc false (.const 0) && iSrc1 (.imm 1)) (Rd.of (.const 0) false (x0.w.eff h0) :: Rd.src (.imm 1) false (x0.w.eff h0))
      false ∧
    x0.w.eff h0 = fullMask ∧ regxOk x0.w.wid (((base.launchOf x0.w).map (·.record.warps)).getD 0) 0 1 = true ∧
    Ready base x0 h0 (sDst true (.s 94) && (srAssigned 6 && (0 : BitVec 4) == 0 && (6 : BitVec 5) != 0)) [] true ∧
    Ready base x0 h0 (vDst x0.w.alloc 1 (.v 255) && (srAssigned 0 && (0 : BitVec 4) == 0)) [] false ∧
    Ready base x0 h0 (srWritable 0x08 && (0 : BitVec 4) == 0 && iSrc false (.s 0)) [Rd.of (.s 0) false (x0.w.eff h0)] true ∧
    (let w : Warp := { w0 with hstate := true }
     let x : Ctx := { x0 with w := w }
     Ready (acting w) x h0 (srWritable 0x14 && (0 : BitVec 4) == 0 && iSrc false (.s 0)) [Rd.of (.s 0) false (x.w.eff h0)] true) ∧
    Ready base x0 h0 (iSrc false (.const 7)) [Rd.of (.const 7) false (x0.w.eff h0)] true := by
  refine ⟨?_, ?_, ?_, ?_, by decide, by decide, ?_, ?_, ?_, ⟨rfl, by decide, by decide, by decide, by decide⟩, ?_⟩ <;>
  exact ⟨ctx_base, by decide, by decide, by decide, by decide⟩

/-- A warp inside a loop region and a split, at a word of its own. -/
def splitWarp : Warp := { w0 with pc := 0x40, ntok := 2, held := [joinTok, loopTok] }

theorem witness_UniformBranchResults :
    x0.w.eff h0 = x0.w.act ∧ Ready mapped x0 h0 true [] true ∧ legalTarget (x0.rel ((0 : BitVec 27).toInt)) = true ∧
    legalTarget (2 ^ 57 - 8) = true ∧
    (∃ k, ((mapped.past x0 h0 8 2).brEnv x0 fullMask).push (x0.stk (mapped.past x0 h0 8 2)) loopTok = .ok k) ∧
    (∃ k, ((mapped.past x0 h0 8 2).brEnv x0 fullMask).push (x0.stk (mapped.past x0 h0 8 2)) callTok = .ok k) ∧
    (let x : Ctx := { x0 with w := splitWarp }
     let s := acting splitWarp
     let p := s.past x h0 8 2
     let e := p.brEnv x fullMask
     Ready s x h0 true [] true ∧ e.refill (x.stk p) 16 = .ok (x.stk p) ∧ (x.stk p).held = [joinTok, loopTok] ∧
     ∃ k1, e.pop (x.stk p) = .ok (joinTok, k1)) ∧
    Ready mapped x0 h0 (sDst true (.s 94)) [Rd.of (.s 94) true (x0.w.eff h0)] true ∧
    legalTarget (((x0.read .i64 (.s 94) 0).toNat : Int)) = true ∧
    Ready mapped x0 h0 (kOk { idx := 0, upper := 0 }) [] true ∧ x0.w.act &&& x0.k { idx := 1, upper := 0 } = 0 ∧
    x0.w.act &&& x0.k { idx := 0, upper := 0 } ≠ 0 ∧ x0.w.act &&& ~~~(x0.k { idx := 0, upper := 0 }) = 0 ∧
    (let w : Warp := { w0 with k := [(1, 0xFFFF)] }
     let x : Ctx := { x0 with w := w }
     x.w.act &&& x.k { idx := 1, upper := 0 } ≠ 0 ∧ x.w.act &&& ~~~(x.k { idx := 1, upper := 0 }) ≠ 0 ∧
     ∃ k, (((acting w).past x h0 16 2).brEnv x fullMask).push (x.stk ((acting w).past x h0 16 2)) joinTok = .ok k ∧
       ∃ k2, (((acting w).past x h0 16 2).brEnv x fullMask).push k { joinTok with kind := .els } = .ok k2) := by
  refine ⟨by decide, ⟨ctx_mapped, by decide, by decide, by decide, by decide⟩, by decide, by decide, ⟨_, rfl⟩, ⟨_, rfl⟩,
    ⟨⟨rfl, by decide, by decide, by decide, by decide⟩, rfl, rfl, ⟨_, rfl⟩⟩,
    ⟨ctx_mapped, by decide, by decide, by decide, by decide⟩, by decide, ⟨ctx_mapped, by decide, by decide, by decide, by decide⟩,
    by decide, by decide, by decide, by decide, by decide, ⟨_, rfl, _, rfl⟩⟩

theorem witness_RetiringBranchResults :
    (let w : Warp := { w0 with ntok := 2, held := [loopTok, callTok], depth := 1 }
     let x : Ctx := { x0 with w := w }
     let s := acting w
     let e := (s.past x h0 8 2).brEnv x fullMask
     Ready s x h0 true [] true ∧
     (∃ hs t, e.sweep .brk fullMask 2 w.held 1 (s.past x h0 8 2) = .ok (hs, t)) ∧
     ∃ hs t, e.sweep .ret fullMask 2 w.held 1 (s.past x h0 8 2) = .ok (hs, t)) ∧
    (let p := mapped.past x0 h0 8 2
     let e := p.brEnv x0 fullMask
     Ready mapped x0 h0 true [] false ∧ x0.w.hstate = false ∧ e.sweep .exit fullMask 0 [] 0 p = .ok ([], p) ∧
     ∃ t, e.finish { d := 0, held := [], force := 0, s := p } = .ok t) := by
  exact ⟨⟨⟨rfl, by decide, by decide, by decide, by decide⟩, ⟨_, _, rfl⟩, ⟨_, _, rfl⟩⟩,
    ⟨⟨ctx_mapped, by decide, by decide, by decide, by decide⟩, rfl, rfl, ⟨_, rfl⟩⟩⟩

theorem witness_PushThenPopReturnsToken :
    loopTok.poison = false ∧ (∃ (e : BrEnv) (k : Stk), k.held.length = k.d ∧ k.d = 0 ∧ e.lo ≤ k.d) ∧
    ∃ (e : BrEnv) (k : Stk), k.held.length = k.d ∧ k.d = 15 ∧ e.lo ≤ k.d :=
  ⟨rfl, ⟨mapped.brEnv x0 fullMask, x0.stk mapped, rfl, rfl, by decide⟩,
   ⟨mapped.brEnv x0 fullMask, { d := 15, held := List.replicate 15 loopTok, force := 0, s := mapped }, rfl, rfl, by decide⟩⟩

/-- A warp in handler state about to return to 0x40. -/
def handlerWarp : Warp := { w0 with hstate := true, xpc := 0x40 }

theorem witness_TrapUnitResults :
    (15 < 16 ∧ (15 : BitVec 6) = BitVec.ofNat 6 15 ∧ Ready mapped x0 h0 true [] true) ∧
    (31 < 32 ∧ (31 : BitVec 6) = BitVec.ofNat 6 31) ∧
    Ready mapped x0 h0 (sSrc1 false (.imm 0xFFFFFFFF)) (Rd.src (.imm 0xFFFFFFFF) false (x0.w.eff h0)) true ∧
    (let x : Ctx := { x0 with w := handlerWarp }
     Ready (acting handlerWarp) x h0 true [] true ∧ x.w.eff h0 = fullMask ∧ legalTarget x.w.xpc.toNat = true ∧
     (acting handlerWarp).spaceOf x.w = some space0 ∧
     ∃ bs, (acting handlerWarp).vread 0 ((acting handlerWarp).asidOf x.w) (trapArea space0 0 0) 64 = .ok bs) := by
  exact ⟨⟨by decide, rfl, ⟨ctx_mapped, by decide, by decide, by decide, by decide⟩⟩, ⟨by decide, rfl⟩,
    ⟨ctx_mapped, by decide, by decide, by decide, by decide⟩,
    ⟨rfl, by decide, by decide, by decide, by decide⟩, by decide, by decide, rfl, ⟨_, rfl⟩⟩

/-- A breakpoint trap that waits to be entered. -/
def waiting : TrapWait := { wa := 8, xpc := 8, trap := trapAt 0x15 fullMask }

/-- `mapped` with the first two bytes of the breakpoint's trap vector. -/
def vector (b0 b8 : Byte) : Machine.State :=
  { mapped with mem := putByte (putByte [] (0x1000 + 16 * 0x15) b0) (0x1000 + 16 * 0x15 + 8) b8 }

/-- The same where the page is read-only. -/
def readOnly : Machine.State :=
  (vector 1 0).setCore 0 { (vector 1 0).core 0 with tlb := [{ asid := 0, va := 0, tr := { page0 with w := false } }] }

/-- `vector` with the fetch of the vector done. -/
def vectorRead (s : Machine.State) : Machine.State := s.vtouch 0 0 (0x1000 + 16 * 0x15) 16

def vectorBytes (s : Machine.State) : Except GFault (List Byte) := s.vread 0 0 (0x1000 + 16 * 0x15) 16

theorem witness_TrapEntryAndNestedTrap :
    mapped.warpAt 0 0 = some w0 ∧ w0.hstate = false ∧ mapped.space (mapped.asidOf w0) = some space0 ∧
    waiting.trap.code.toNat = 0x15 ∧
    (∃ f, (base.vread 0 0 (0x1000 + 16 * 0x15) 16) = .error f) ∧
    (∃ bs, vectorBytes mapped = .ok bs ∧ decodeVec (leNat bs) = none) ∧
    (∃ bs v, vectorBytes (vector 1 1) = .ok bs ∧ decodeVec (leNat bs) = some v ∧ v.halt = true) ∧
    (∃ bs v t, vectorBytes (vector 1 0) = .ok bs ∧ decodeVec (leNat bs) = some v ∧ v.halt = false ∧
      (vectorRead (vector 1 0)).vwrite 0 0 (trapArea space0 0 0) (frameBytes w0) = .ok t) ∧
    (∃ bs v f, vectorBytes readOnly = .ok bs ∧ decodeVec (leNat bs) = some v ∧ v.halt = false ∧
      (vectorRead readOnly).vwrite 0 0 (trapArea space0 0 0) (frameBytes w0) = .error f) ∧
    (acting handlerWarp).warpAt 0 0 = some handlerWarp ∧ handlerWarp.hstate = true ∧
    (handlerWarp.rdCause && handlerWarp.rdAddr) = false ∧
    (let w : Warp := { handlerWarp with rdCause := true, rdAddr := true }
     (acting w).warpAt 0 0 = some w ∧ w.hstate = true ∧ (w.rdCause && w.rdAddr) = true) :=
  ⟨rfl, rfl, rfl, rfl, ⟨_, rfl⟩, ⟨_, rfl, rfl⟩, ⟨_, _, rfl, rfl, rfl⟩, ⟨_, _, _, rfl, rfl, rfl, rfl⟩,
    ⟨_, _, _, rfl, rfl, rfl, rfl⟩, rfl, rfl, rfl, rfl, rfl, rfl⟩

/-! ### Witnesses: the load-store and synchronisation units -/

theorem witness_LoadStoreResults :
    (Ready mapped x0 h0 (vDst x0.w.alloc (dataRegs 16) (.v 252) && baseOk x0.w.alloc .glob false (.s 94) && vSrc x0.w.alloc false (.v 0))
      [Rd.of (.s 94) true (x0.w.eff h0), Rd.of (.v 0) false (x0.w.eff h0)] false ∧
     ∃ locs, (mapped.past x0 h0 16).lsCheckAll x0.w .glob .read 16 (lanesOf fullMask)
      (x0.ea .glob 16 false (.s 94) (some (.v 0)) 0x10) = .ok locs) ∧
    (Ready mapped x0 h0 ((sDst true (.s 94) && decide (8 ≤ 8)) && baseOk x0.w.alloc .gmem true (.s 1) && sSrc false (.const 0))
      [Rd.of (.s 1) false (x0.w.eff h0), Rd.of (.const 0) false (x0.w.eff h0)] true ∧
     ∃ locs, (mapped.past x0 h0 16).lsCheckAll x0.w .gmem .read 8 [lowestLane fullMask]
      (x0.ea .gmem 8 false (.s 1) (some (.const 0)) 4088) = .ok locs) ∧
    (Ready mapped x0 h0 (vDst x0.w.alloc 1 (.v 0) && baseOk x0.w.alloc .const false (.const 0) && vSrc x0.w.alloc false (.v 0))
      [Rd.of (.const 0) true (x0.w.eff h0), Rd.of (.v 0) false (x0.w.eff h0)] false ∧
     ∃ locs, (mapped.past x0 h0 16).lsCheckAll x0.w .const .read 4 (lanesOf fullMask)
      (x0.ea .const 4 false (.const 0) (some (.v 0)) 64) = .ok locs) ∧
    (Ready mapped x0 h0 (dataOk x0.w.alloc 8 false (.s 94) && baseOk x0.w.alloc .glob false (.s 0) && vSrc x0.w.alloc false (.s 2))
      [Rd.data (.s 94) 8 (x0.w.eff h0), Rd.of (.s 0) true (x0.w.eff h0), Rd.of (.s 2) false (x0.w.eff h0)]
      (sSrc true (.s 94) && sSrc true (.s 0) && sSrc false (.s 2)) ∧
     ∃ locs, (mapped.past x0 h0 16).lsCheckAll x0.w .glob .write 8 ((mapped.past x0 h0 16).lsLanes fullMask)
      (x0.ea .glob 8 true (.s 0) (some (.s 2)) 8) = .ok locs) ∧
    (Ready mapped x0 h0 (dataOk x0.w.alloc 1 false (.v 255) && baseOk x0.w.alloc .gmem false (.v 0) && vSrc x0.w.alloc false (.v 1))
      [Rd.data (.v 255) 1 (x0.w.eff h0), Rd.of (.v 0) false (x0.w.eff h0), Rd.of (.v 1) false (x0.w.eff h0)] false ∧
     ∃ locs, (mapped.past x0 h0 8).lsCheckAll x0.w .gmem .write 1 ((mapped.past x0 h0 8).lsLanes fullMask)
      (x0.ea .gmem 1 false (.v 0) (some (.v 1)) 4095) = .ok locs) ∧
    (Ready mapped x0 h0 (vDst x0.w.alloc 2 (.v 254) && baseOk x0.w.alloc .gmem false (.v 0) && dataOk x0.w.alloc 8 true (.const 1))
      [Rd.of (.v 0) false (x0.w.eff h0), Rd.data (.const 1) 8 (x0.w.eff h0)] false ∧
     ∃ locs, (mapped.past x0 h0 16).lsCheckAll x0.w .gmem .rmw 8 (lanesOf fullMask) (x0.ea .gmem 8 false (.v 0) none 0) = .ok locs) ∧
    Ready mapped x0 h0
      (vDst x0.w.alloc 2 (.v 254) && baseOk x0.w.alloc .gmem false (.v 0) && dataOk x0.w.alloc 8 true (.const 1) &&
        dataOk x0.w.alloc 8 true (.v 2))
      [Rd.of (.v 0) false (x0.w.eff h0), Rd.data (.const 1) 8 (x0.w.eff h0), Rd.data (.v 2) 8 (x0.w.eff h0)] false ∧
    (Ready mapped x0 h0 (baseOk x0.w.alloc .glob false (.s 0) && dataOk x0.w.alloc 4 true (.const 1))
      [Rd.of (.s 0) true (x0.w.eff h0), Rd.data (.const 1) 4 (x0.w.eff h0)] (sSrc true (.s 0) && sSrc false (.const 1)) ∧
     ∃ locs, (mapped.past x0 h0 16).lsCheckAll x0.w .glob .rmw 4 ((mapped.past x0 h0 16).lsLanes fullMask)
      (x0.ea .glob 4 false (.s 0) none 4) = .ok locs) := by
  refine ⟨⟨?_, ⟨_, rfl⟩⟩, ⟨?_, ⟨_, rfl⟩⟩, ⟨?_, ⟨_, rfl⟩⟩, ⟨?_, ⟨_, rfl⟩⟩, ⟨?_, ⟨_, rfl⟩⟩, ⟨?_, ⟨_, rfl⟩⟩, ?_, ?_, ⟨_, rfl⟩⟩ <;>
  exact ⟨ctx_mapped, by decide, by decide, by decide, by decide⟩

theorem witness_LineAndFenceResults :
    Ready mapped x0 h0 true [] true ∧ Ready mapped x0 h0 true [] false ∧
    Ready mapped x0 h0 (baseOk x0.w.alloc .glob false (.s 94) && vSrc x0.w.alloc false (.v 255))
      [Rd.of (.s 94) true (x0.w.eff h0), Rd.of (.v 255) false (x0.w.eff h0)] false ∧
    ∃ locs, (mapped.past x0 h0 16).lsCheckAll x0.w .glob .write 128 (lanesOf fullMask)
      (x0.ea .glob 128 true (.s 94) (some (.v 255)) 128) = .ok locs := by
  refine ⟨?_, ?_, ?_, ⟨_, rfl⟩⟩ <;> exact ⟨ctx_mapped, by decide, by decide, by decide, by decide⟩

/-- The group of `mapped`. -/
def g0 : Group := fetchGroup 0

/-- `mapped` with a counter of one expected and one remaining arrival, PHASE clear, at 8 in group memory. -/
def counter : Machine.State :=
  mapped.setCore 0 { mapped.core 0 with sram := putBytes [] 8 [1, 0, 1, 0] }

theorem witness_SynchronisationResults :
    x0.w.eff h0 = fullMask ∧ mapped.groupOf x0.w = some g0 ∧
    (Ready mapped x0 h0 (sSrc false (.const 15) && sSrc1 false (.op (.const 1)))
      (Rd.of (.const 15) false (x0.w.eff h0) :: Rd.src (.op (.const 1)) false (x0.w.eff h0)) false ∧
     x0.n32 (.const 15) < 16 ∧ x0.n32Src (.op (.const 1)) ≤ ((mapped.launchOf x0.w).map (·.record.warps)).getD 0 ∧
     (g0.bars.get Barrier.closed 15).isOpen = false) ∧
    (Ready counter x0 h0 (sDst false (.s 95) && sSrc false (.const 8) && sSrc false (.const 1))
      [Rd.of (.const 8) false (x0.w.eff h0), Rd.of (.const 1) false (x0.w.eff h0)] false ∧
     x0.n32 (.const 1) = 1 ∧
     (counter.past x0 h0 8).lsCheck x0.w .gmem .rmw 8 (x0.ea .gmem 8 false (.const 8) none 0 0) = .ok (.sram 1 8) ∧
     (counter.past x0 h0 8).locPoisoned (.sram 1 8) 8 = false ∧
     leNat ((counter.past x0 h0 8).locRead (.sram 1 8) 8) = 1 + 1 * 2 ^ 16 + (if false then 2 ^ 32 else 0)) ∧
    (Ready mapped x0 h0 (sSrc false (.const 8) && sSrc false (.const 1) && (some (⟨7, 0⟩ : KField)).all kOk)
      [Rd.of (.const 8) false (x0.w.eff h0), Rd.of (.const 1) false (x0.w.eff h0)] false ∧
     (mapped.past x0 h0 16).syncLoc x0.w fullMask .gmem .read 8 (x0.ea .gmem 8 false (.const 8) none 0 0) = .ok (.sram 1 8)) ∧
    (Ready mapped x0 h0 (sDst true (.s 94) && baseOk 0 .glob true (.s 0) && sSrc true (.const 1) && (none : Option KField).all kOk)
      [Rd.of (.s 0) true (x0.w.eff h0), Rd.of (.const 1) true (x0.w.eff h0)] true ∧
     peerLegal .lower (mapped.gclassOf x0.w) = true ∧
     (mapped.past x0 h0 16).syncLoc x0.w fullMask .glob .read 8 (x0.ea .glob 8 false (.s 0) none 16 0) = .ok (.glob 16 false)) ∧
    (Ready mapped x0 h0 (sSrc false (.const 3)) [Rd.of (.const 3) false (x0.w.eff h0)] false ∧ x0.n32 (.const 3) < 4) ∧
    (Ready mapped x0 h0 true [] false ∧ mapped.gclassOf x0.w = 0) ∧
    (Ready mapped x0 h0
      (vDst x0.w.alloc (dataRegs 16) (.v 252) && baseOk x0.w.alloc .gmem false (.v 0) && vSrc x0.w.alloc false (.v 1) &&
        (none : Option KField).all kOk)
      [Rd.of (.v 0) false (x0.w.eff h0), Rd.of (.v 1) false (x0.w.eff h0)] false ∧
     ∃ locs, (mapped.past x0 h0 16).lsCheckAll x0.w .gmem .read 16 (lanesOf fullMask)
      (x0.ea .gmem 16 true (.v 0) (some (.v 1)) 4080) = .ok locs) := by
  refine ⟨by decide, rfl, ⟨?_, by decide, by decide, rfl⟩,
    ⟨⟨rfl, by decide, by decide, by decide, by decide⟩, by decide, rfl, rfl, rfl⟩, ⟨?_, rfl⟩,
    ⟨?_, by decide, rfl⟩, ⟨?_, by decide⟩, ⟨?_, rfl⟩, ⟨?_, ⟨_, rfl⟩⟩⟩ <;>
  exact ⟨ctx_mapped, by decide, by decide, by decide, by decide⟩

/-! ### Witnesses: the engines' words -/

def rv (n : Nat) : RegVal := { val := BitVec.ofNat 32 n, tag := .clean }

/-- A warp with the blocks of the engines' words: a plane's block at s8, tiles' blocks at s16, s24 and s32, a fast-weight block
of zeros at s40, and two copy descriptors at s48 and s56. -/
def engWarp : Warp :=
  { w0 with s := [(8, rv 0x4000), (16, rv 0x4020), (22, rv 1), (24, rv 0x20), (30, rv 1), (32, rv 0x20), (48, rv 3), (49, rv 2)
                  , (50, rv 1), (51, rv 1), (56, rv 7), (57, rv 2), (58, rv 1), (59, rv 1), (60, rv 16), (62, rv 16)] }

def engCtx : Ctx := { x0 with w := engWarp }

/-- A group with a culture in slot 0, bound by its warp, in region 0. -/
def engGroup : Group := { g0 with binds := [(0, 0)] }

def engState : Machine.State :=
  let s : Machine.State := { mapped with
    launches := [(0, { gmemLaunch with record := { gmemRecord with cults := [(0, { handle := 5, pin := false, dv16 := 1, dk16 := 1 })] } })]
    groups := [(1, engGroup)] }
  (s.setCore 0 { s.core 0 with own := [(0, { Own.free with st := .owned, gid := some 1 })] }).setWarp engWarp

theorem ctx_eng : engState.ctx = some engCtx := rfl

def copyOf (kind : CopyKind) (sp dp : Sp) (o : Nat) (rows : Bool) : CopyCmd :=
  { strm := .sa, kind := kind, ssp := sp, dsp := dp, fe := false, sbase := 0, dbase := 64, shape := engCtx.shape (.s ⟨o % 96, by omega⟩) rows
    ix := 0, ranks := [], opOk := true, ep := 0 }

def copies (cmd : CopyCmd) : Bool := ((engState.past engCtx h0 16).copyCheck engWarp cmd).toBool

theorem witness_CopyWordsIssueRequests :
    engCtx.w.eff h0 = fullMask ∧ (engState.past engCtx h0 16).curCore.streamFailed engWarp .sa = false ∧
    Ready engState engCtx h0 (copyBase .gmem (.const 63) && copyBase .glob (.s 94) && blockReg (.s 48))
      [Rd.of (.const 63) false (engCtx.w.eff h0), Rd.of (.s 94) true (engCtx.w.eff h0), { o := .s 48, n := 8, lanes := engCtx.w.eff h0 }]
      false ∧
    Ready engState engCtx h0 (copyBase .glob (.s 2) && copyBase .glob (.s 94) && blockReg (.s 56) && sSrc false (.const 0))
      ([Rd.of (.s 2) true (engCtx.w.eff h0), Rd.of (.s 94) true (engCtx.w.eff h0), { o := .s 56, n := 8, lanes := engCtx.w.eff h0 }] ++
        [Rd.of (.const 0) false (engCtx.w.eff h0)]) false ∧
    copies (copyOf .cpy .glob .gmem 48 false) = true ∧ copies (copyOf .gather .glob .gmem 56 true) = true ∧
    copies (copyOf .scatter .gmem .glob 56 true) = true ∧ copies { copyOf .bcast .gmem .cmem 48 false with ranks := [0] } = true ∧
    copies (copyOf .send .glob .glob 48 false) = true ∧ copies (copyOf .fetch .glob .glob 48 false) = true ∧
    copies { copyOf .cpyz .glob .gmem 48 false with
      shape := some { es := 8, e0 := 64, e1 := 1, e2 := 1, s1 := 0, s2 := 0, d1 := 0, d2 := 0 } } = true := by
  refine ⟨by decide, rfl, ?_, ?_, rfl, rfl, rfl, rfl, rfl, rfl, rfl⟩ <;>
  exact ⟨ctx_eng, by decide, by decide, by decide, by decide⟩

def mxOk (op : MxOp) (cb : Option Nat) (reg : Option Nat) : Bool :=
  ((engState.past engCtx h0 16).mxCheck engWarp fullMask
    { op := op, cb := cb, base := 0, pitch := 0, reg := reg, hasPitch := true }).toBool

theorem witness_MatrixWordsIssueRequests :
    Ready engState engCtx h0 true [] false ∧
    Ready engState engCtx h0 (sSrc false (.const 0) && blockReg (.s 88)) (Rd.of (.const 0) false (engCtx.w.eff h0) :: cbReads (.s 88) (engCtx.w.eff h0))
      false ∧
    Ready engState engCtx h0 (evenV engCtx.w.alloc (.v 254) && blockReg (.s 0))
      ({ o := .v 254, n := 2 * engCtx.tileRows (.s 0), lanes := if engCtx.w.eff h0 = 0 then 0 else fullMask } ::
        cbReads (.s 0) (engCtx.w.eff h0)) false ∧
    (mxOk (.wldB 16) (some 8) none = true ∧ mxOk (.wldB 8) (some 8) none = true ∧ mxOk (.wldQ 8 32) (some 8) none = true ∧
      mxOk (.wldQ 4 128) (some 8) none = true ∧ mxOk .flip none none = true) ∧
    (mxOk (.mms .f16 .f16 true false) (some 16) none = true ∧ mxOk (.mms .e4m3 .e5m2 false true) (some 16) (some 0) = true ∧
      mxOk (.mmsq 8 64 true) (some 16) none = true ∧ mxOk .aclr (some 24) none = true) ∧
    (mxOk (.ald false) (some 24) none = true ∧ mxOk (.ald true) (some 24) (some 224) = true ∧ mxOk (.ast false) (some 24) none = true ∧
      mxOk (.ast true) (some 24) none = true) ∧
    (mxOk (.adrn .none .f32 true false true false) (some 24) none = true ∧
      mxOk (.adrn .none .f16 false true false true) (some 24) (some 0) = true ∧ mxOk .amov (some 24) none = true ∧
      mxOk .smx (some 24) none = true) ∧
    (mxOk .smxrInit (some 32) none = true ∧ mxOk .smxrNorm (some 24) none = true ∧ mxOk .smxrRd (some 32) none = true ∧
      mxOk .smxrWr (some 32) none = true) := by
  refine ⟨?_, ?_, ?_, ⟨rfl, rfl, rfl, rfl, rfl⟩, ⟨rfl, rfl, rfl, rfl⟩, ⟨rfl, rfl, rfl, rfl⟩, ⟨rfl, rfl, rfl, rfl⟩, ⟨rfl, rfl, rfl, rfl⟩⟩ <;>
  exact ⟨ctx_eng, by decide, by decide, by decide, by decide⟩

def fwOk (op : FwOp) (cb : Option Nat) : Bool :=
  ((engState.past engCtx h0 8).fwCheck engWarp fullMask { op := op, slot := 0, cb := cb }).toBool

set_option maxRecDepth 20000 in
theorem witness_FastWeightWordsIssueRequests :
    engState.groupOf engCtx.w = some engGroup ∧
    Ready engState engCtx h0 (sSrc false (.const 0)) [Rd.of (.const 0) false (engCtx.w.eff h0)] false ∧
    Ready engState engCtx h0 (sSrc false (.const 0) && sSrc false (.const 9))
      [Rd.of (.const 0) false (engCtx.w.eff h0), Rd.of (.const 9) false (engCtx.w.eff h0)] false ∧
    Ready engState engCtx h0 (blockReg (.s 40)) (cbReads (.s 40) (engCtx.w.eff h0)) false ∧
    Ready engState engCtx h0 (sDst false (.s 95) && sSrc false (.const 0)) [Rd.of (.const 0) false (engCtx.w.eff h0)] false ∧
    fwOk .bind none = true ∧ fwOk (.bindSw 9) none = true ∧ fwOk (.rel none) none = true ∧ fwOk (.rel (some true)) none = true ∧
    fwOk (.rel (some false)) none = true ∧ fwOk (.delta true) (some 40) = true ∧ fwOk .dqry (some 40) = true ∧ fwOk .spill none = true ∧
    fwOk .fill none = true ∧ fwOk (.stat 95 false) none = true ∧ fwOk (.stat 95 true) none = true := by
  refine ⟨rfl, ?_, ?_, ?_, ?_, rfl, rfl, rfl, rfl, rfl, rfl, rfl, rfl, rfl, rfl, rfl⟩ <;>
  exact ⟨ctx_eng, by decide, by decide, by decide, by decide⟩

/-- A launch with a rectangle of one core. -/
def rectState : Machine.State :=
  { mapped with launches := [(0, { gmemLaunch with record := { gmemRecord with rect := some .s11 } })] }

/-- An idle generator 0 of core 0. -/
def gen0 : Gen :=
  { node := 0, rank := 0, sink := false, esize := 4, dims := 1, cbase := 0, base := 0, ext := [1], stride := [0], pos := 0
    active := false, pwait := false, ready := false, fault := none, taken := false, fifo := [] }

def fabric0 : Fabric :=
  { shape := .s11, image := 0, bytes := [], nodes := [], depth := [], queues := [], nst := [], gens := [(0, gen0)], ovf := false
    handling := none }

/-- The control thread of a core in spatial mode. -/
def spatialState : Machine.State :=
  { rectState.setCore 0 { rectState.core 0 with cmode := .spatial } with fabrics := [(1, fabric0)] }

theorem witness_SpatialWordsAct :
    x0.w.eff h0 = fullMask ∧ x0.w.wid = 0 ∧
    (rectState.groupOf x0.w = some g0 ∧ (rectState.launchOf x0.w).bind (·.record.rect) = some .s11 ∧
      Ready rectState x0 h0 (sSrc true (.s 94)) [Rd.of (.s 94) true (x0.w.eff h0)] true) ∧
    spatialState.spatial = true ∧ Ready spatialState x0 h0 true [] true ∧ spatialState.groupOf x0.w = some g0 ∧
    spatialState.fabrics.find? x0.w.gid = some fabric0 ∧ Ready spatialState x0 h0 (sDst false (.s 95)) [] true ∧
    (spatialState.past x0 h0 8).selGen x0.w fullMask (x0.n32 (.const 0)) false = .ok (fabric0, 0, gen0) ∧
    Ready spatialState x0 h0 (sDst false (.s 95) && sSrc false (.const 0)) [Rd.of (.const 0) false (x0.w.eff h0)] true ∧
    (spatialState.past x0 h0 16).selGen x0.w fullMask (x0.n32 (.const 0)) true = .ok (fabric0, 0, gen0) ∧
    Ready spatialState x0 h0 (sSrc false (.const 0) && sSrc1 false (.imm 65535))
      (Rd.of (.const 0) false (x0.w.eff h0) :: Rd.src (.imm 65535) false (x0.w.eff h0)) true ∧
    (1 ≤ x0.n32Src (.imm 65535) ∧ x0.n32Src (.imm 65535) ≤ 65535) ∧ x0.n32Src (.op (.const 1)) = 1 ∧
    Ready spatialState x0 h0 (sSrc false (.const 0) && sSrc1 true (.op (.s 94)))
      (Rd.of (.const 0) false (x0.w.eff h0) :: Rd.src (.op (.s 94)) true (x0.w.eff h0)) true ∧
    (x0.readSrc .i64 (.op (.s 94)) 0).toNat < 2 ^ 57 := by
  refine ⟨by decide, rfl, ⟨rfl, rfl, ⟨rfl, by decide, by decide, by decide, by decide⟩⟩, rfl, ?_, rfl, rfl, ?_, rfl, ?_, rfl, ?_,
    by decide, rfl, ?_, by decide⟩ <;>
  exact ⟨rfl, by decide, by decide, by decide, by decide⟩

/-! ### Witnesses: events of a core -/

/-- `mapped` with its warp in a wait. -/
def waitingIn (x : Wait) : Machine.State := acting { w0 with wait := x }

/-- A wait on the counter at 8 in group memory. -/
def waitm8 (cc : ICond) (c : DWord) (tmo : Option (BitVec 3)) : WaitmState :=
  { loc := .sram 1 8, wide := false, sgn := false, ea := 8, c := c, cc := cc, peer := .any, d := 4, tmo := tmo, lastRead := 0, seen := 0, value := 0 }

/-- A warp that exchanges no rows with itself. -/
def regxState : Machine.State := waitingIn (.regx 0 1)

theorem witness_BarrierAndExchangeEvents :
    (let g : Group := { g0 with bars := [(2, { isOpen := true, n := 1, arrived := 1 })] }
     (mapped.setGroup 1 g).group 1 = some g ∧ g.barDone (g.bars.get Barrier.closed 2) = true) ∧
    (waitingIn (.cbar 3)).allWait (liveSlots ((waitingIn (.cbar 3)).instance_ 0 0)) (fun w => w == .cbar 3) = true ∧
    (let s := waitingIn .gbar
     let live := s.groups.filter fun p => p.2.launch == 0 && !p.2.slots.isEmpty
     s.launch 0 = some gmemLaunch ∧ live ≠ [] ∧ (∀ p ∈ live, p.2.gphase = gmemLaunch.gphase) ∧
     s.allWait (liveSlots live) (fun w => w == .gbar) = true) ∧
    (let s := regxState
     ∃ w, s.warpAt 0 0 = some w ∧ w.wait = .regx 0 1 ∧ s.group w.gid = some g0 ∧ (∀ i ∈ maskMembers 1, g0.retired.find? i = none) ∧
     let ps := s.regxParty 0 g0 1
     (maskMembers 1).length ≤ ps.length ∧ (∀ p ∈ ps, (s.core 0).writesPending p.2.1 = false) ∧
     let qs := (s.flushAll 0 (ps.map (·.1))).regxParty 0 g0 1
     (∀ q ∈ qs, q.2.2.2 = 1) ∧ (qs.map fun q => q.2.2.1).sum = 0 ∧
     ∀ q ∈ qs, 8 ≤ (q.2.1.alloc : Int) + 8 * q.2.2.1 ∧ (q.2.1.alloc : Int) + 8 * q.2.2.1 ≤ 256) := by
  refine ⟨⟨rfl, by decide⟩, by decide, ⟨rfl, by decide, by decide, by decide⟩,
    ⟨_, rfl, rfl, rfl, by decide, by decide, by decide, by decide, by decide, by decide⟩⟩

/-- An LDFE of lane 0 at 16 in group memory. -/
def ldfe16 (tmo : Option (BitVec 3)) : LdfeState :=
  { n := 8, sx := false, clr := true, peer := .grp, d := 0, tmo := tmo, eas := List.replicate 32 16, locs := List.replicate 32 (.sram 1 16)
    pending := 1, results := [], emptied := [] }

/-- A wait whose budget of zero cycles has run out. -/
def steepState (x : Wait) : Machine.State :=
  { waitingIn x with launches := [(0, { gmemLaunch with record := { gmemRecord with steep := 0 } })] }

/-- The warp of that wait once it has been tried. -/
def triedWait (x : Wait) : Option Wait := (((steepState x).tryAnyWait 0 0).warpAt 0 0).map (·.wait)

theorem witness_WaitEvents :
    ((waitingIn (.waitm (waitm8 .eq 0 none))).waitRead (.sram 1 8) 4 8 = .ok 0 ∧ (waitm8 .eq 0 none).holds 0 = true ∧
      (waitm8 .ne 0 none).holds 0 = false ∧
      ∃ t, ((waitingIn .none).setCore 0 { (waitingIn .none).core 0 with sramPoison := [0] }).waitRead (.sram 1 8) 4 8 = .error t) ∧
    ((waitingIn .none).waitRead (.sram 1 8) 8 8 = .ok 0 ∧ (0 : DWord).getLsbD 32 ≠ true ∧ (0 : DWord).getLsbD 32 = false) ∧
    (∀ tmo ∈ [none, some 2],
      (∃ l, triedWait (.ldfe (ldfe16 tmo)) = some (.ldfe l) ∧ l.tmo = tmo) ∧
      (∃ m, triedWait (.waitm (waitm8 .ne 0 tmo)) = some (.waitm m) ∧ m.tmo = tmo) ∧
      (∃ loc ea cm p, triedWait (.barw (.sram 1 8) 8 false false tmo) = some (.barw loc ea cm p tmo))) ∧
    (triedWait (.bar 0) = some (.bar 0) ∧ Wait.counts (.bar 0) = true ∧ (steepState (.bar 0)).budget w0 ≤ w0.steep.toNat) ∧
    ((waitingIn .none).serveLanes (ldfe16 none) (ldfe16 none).todo 32).2.pending = 1 ∧
    (((waitingIn .none).setCore 0 { (waitingIn .none).core 0 with full := [1] }).serveLanes (ldfe16 none) (ldfe16 none).todo 32).2.pending = 0 := by
  refine ⟨⟨rfl, by decide, by decide, _, rfl⟩, ⟨rfl, by decide, by decide⟩, ?_, ⟨rfl, rfl, by decide⟩, by decide, by decide⟩
  intro tmo h
  simp only [List.mem_cons, List.not_mem_nil, or_false] at h
  rcases h with rfl | rfl <;> exact ⟨⟨_, rfl, rfl⟩, ⟨_, rfl, rfl⟩, ⟨_, _, _, _, rfl⟩⟩

/-- A load that completes, and a float operation that does. -/
def load0 : LsOp := { lid := 0, gid := 1, wid := 0, ord := 0, due := 0, writes := [.s 4 (rv 7)], flag := some 1, refs := [], err := false, fault := none }
def fop0 : AluOp := { gid := 1, wid := 0, ord := 0, due := 0, writes := [.s 5 (rv 7)], flag := some 2 }
def inFlight : Machine.State := mapped.setCore 0 { mapped.core 0 with ls := [load0], alu := [fop0] }

theorem witness_CompletionsWriteAndLowerFlag :
    inFlight.warpAt 0 0 = some w0 ∧ (inFlight.core 0).alu = [] ++ fop0 :: [] ∧ (inFlight.core 0).ls = [] ++ load0 :: [] ∧
    fop0.gid = w0.gid ∧ fop0.wid = w0.wid ∧ fop0.due ≤ (inFlight.core 0).cycle ∧ load0.due ≤ (inFlight.core 0).cycle ∧
    inFlight.group load0.gid = some g0 ∧ g0.cores.headD 0 = 0 ∧ g0.slots.find? load0.wid = some 0 ∧ w0.gid = load0.gid :=
  ⟨rfl, rfl, rfl, rfl, rfl, by decide, by decide, rfl, rfl, rfl, rfl⟩

/-- Page tables whose first entries map a page of 1 GiB. -/
def walkState : Machine.State :=
  { mapped with spaces := [(0, space0), (3, { space0 with ptroot := 0x2000 })]
                mem := putBytes (putBytes (putBytes [] 0x2000 (leBytes 8 0x3001)) 0x3000 (leBytes 8 0x4001)) 0x4000 (leBytes 8 0x73) }

theorem ok_of_all {e : Except XFault Xlate} {a : Xlate} (h : (e.toOption.any fun t => decide (t = a)) = true) : e = .ok a := by
  cases e with
  | error _ => cases h
  | ok t => exact congrArg _ (of_decide_eq_true h)

theorem witness_FetchWalkAndDelivery :
    (mapped.warpAt 0 0 = some w0 ∧ mapped.fetchWord 0 (mapped.asidOf w0) 0x100 = .ok 0 ∧
      ∀ e ∈ (mapped.core 0).icache, ¬ (e.asid = mapped.asidOf w0 ∧ e.va = 0x100)) ∧
    (walkState.warpAt 0 0 = some w0 ∧ walkState.space 3 = some { space0 with ptroot := 0x2000 } ∧
      walkState.walk { space0 with ptroot := 0x2000 } 0x123456 = .ok page0 ∧ (walkState.core 0).tlbFind 3 0x123456 = none) ∧
    (let w : Warp := { w0 with trapWait := some { wa := 0, xpc := 0, trap := trapAt cIllegalOperand 0 0 } }
     (acting w).warpAt 0 0 = some w ∧ ((acting w).core 0).writesPending w = false) ∧
    (let w : Warp := { w0 with faults := [trapAt cCopy 0 0] }
     (acting w).warpAt 0 0 = some w ∧ w.faultDue = true ∧ w.wait = .none ∧ (acting w).eligible 0 0 = true) ∧
    (let w : Warp := { w0 with faults := [trapAt cCopy 0 0], wait := .bar 0 }
     (acting w).warpAt 0 0 = some w ∧ w.faultDue = true ∧ w.wait ≠ .none ∧ (acting w).groupOf w = some g0 ∧ g0.run = .running ∧ w.wait ≠ .gbar) := by
  refine ⟨⟨rfl, rfl, by decide⟩, ⟨rfl, rfl, ok_of_all (by decide +kernel), by decide +kernel⟩, ⟨rfl, by decide⟩,
    ⟨rfl, by decide, rfl, by decide +kernel⟩, ⟨rfl, by decide, by decide, rfl, rfl, by decide⟩⟩

/-! ### Witnesses: events of the engines -/

def elem0 (a b : Option Loc) : CopyElem := { e := 0, sa := 0x40, da := 0x80, src := a, dst := b }

/-- A copy request with some elements and granules left. -/
def copyReq (kind : CopyKind) (elems : List CopyElem) (grans : List Loc) (ended : Option Trap) : CopyReq :=
  { lid := 0, gid := 1, wid := 0, asid := 0, strm := .sa, kind := kind, flag := some 1, es := 4, ep := 0, elems := elems, grans := grans
    transl := [], waiting := none, ended := ended, abandoned := false, stale := [] }

/-- `mapped` with that request, a poisoned sector at 0x40, die 1 fenced, and port 0 up or down. -/
def copyState (r : CopyReq) (up : Bool) : Machine.State :=
  { mapped.setCore 0 { mapped.core 0 with copy := [r] } with
    memPoison := [1], fenced := [1], ports := if up then [(0, { Port.initial with st := .up })] else [] }

/-- The tag that the element reads, and whether its destination answers with an error. -/
def reads (a : Loc) : Tag := ((copyState (copyReq .cpy [] [] none) false).lsRead 0 4 a).tag
def answersErr (a : Loc) : Bool := (copyState (copyReq .cpy [] [] none) false).locErr a

theorem witness_CopyEvents :
    (∀ r up, headOf .sa ((copyState r up).core 0).copy = if r.strm = .sa then some ([], r, []) else none) ∧
    (reads (.glob (2 ^ 39) false) = .fabric ∧ reads (.glob 0x40 false) = .poison ∧ reads (.sram 1 0) = .clean ∧
      answersErr (.glob (2 ^ 39) false) = true ∧ answersErr (.glob 0x80 false) = false) ∧
    ((copyState (copyReq .send [elem0 (some (.sram 1 0)) none] [] none) true).port 0).st = .up ∧
    ((copyState (copyReq .fetch [elem0 none (some (.sram 1 0))] [] none) false).port 0).st ≠ .up ∧
    (takeAt 0 (copyReq .cpy [] [.sram 1 16] none).grans = some (.sram 1 16, []) ∧
      granuleDone 4 [elem0 none (some (.sram 1 32))] (.sram 1 16) = true) ∧
    ((copyState (copyReq .cpy [] [] (some (trapAt cCopy 0 0))) false).core 0).streamPending .sa = false ∧
    ((copyReq .cpyz [] [] none).kind = .cpyz ∧ 2 ^ 41 ≤ 2 ^ 41 ∧ 2 ^ 41 - 1 < 2 ^ 41) ∧
    (∀ dir ∈ [DirSt.x, .o], let e : LineSt := { LineSt.initial with dir := dir, owner := 2, agents := [(2, .m)] }
     let s : Machine.State := { mapped with lines := [(0, e)] }
     (s.line 0).idle = true ∧ (s.line 0).dir = dir ∧ (s.line 0).recallBit = false ∧ (s.line 0).agent (s.line 0).owner = .m ∧
       s.tagOf 0 = 0x08#8 ∧ s.compLines.has 0 = false) := by
  refine ⟨fun r up => rfl, ⟨by decide, by decide, by decide, by decide, by decide⟩, rfl, by decide, ⟨rfl, by decide⟩, rfl,
    ⟨rfl, by decide, by decide⟩, by decide⟩

theorem witness_BlockMergeRetags :
    (base.tagOf 0 = 0x08#8 ∧ base.compLines.has 1 = false ∧ base.blockPoisoned 0 = false) ∧
    ({ base with compLines := [1] }.compLines.has 1 = true ∧ { base with compLines := [1] }.blockPoisoned 0 = false) ∧
    ({ base with tags := [(0, 0x20#8)] }.tagOf 0 ≠ 0x08#8 ∧
      { base with tags := [(0, 0x20#8)] }.blockPoisoned 0 = false) ∧
    ({ base with tags := [(0, 0x10#8)] }.tagOf 0 ≠ 0x08#8 ∧ { base with tags := [(0, 0x10#8)] }.blockPoisoned 0 = true) := by
  refine ⟨⟨by decide, by decide, by decide⟩, ⟨by decide, by decide⟩, ⟨by decide, by decide⟩, ⟨by decide, by decide⟩⟩

/-- A request of the matrix engine that clears one row of region 0, and one of the fast-weight unit. -/
def mxArgs0 : MxArgs :=
  { m := 1, mv := 1, kv := 1, rowA := 0, rowB := 0, regsA := [0], regsB := [0], aux := 0, scl := 0, lo := 0, hi := 0, cmask := 1, base := 0
    pitch := 0, src := [], dst := 0, locs := [] }
def fwArgs0 : FwArgs :=
  { slot := 0, regs := [0], dv := 16, dk := 16, nt := 1, koff := 0, voff := 0, goff := 0, kp := 0, vp := 0, raddr := 0, pages := [] }

def arrReq (op : ArrOp) (accepted performed : Bool) (fault : Option Trap) : ArrReq :=
  { lid := 0, gid := 1, wid := 0, ord := 0, asid := 0, flag := none, op := op, accepted := accepted, stage := .start, performed := performed
    abandoned := false, writes := [], fault := fault, transl := [], stale := [] }

/-- Core 0 of `mapped` with some requests, at a cycle. -/
def arrState (cycle : Nat) (rs : List ArrReq) (poison : NSet) : Machine.State :=
  mapped.setCore 0 { mapped.core 0 with arr := rs, cycle := cycle, accPoison := poison }

theorem witness_ArrayRequestEvents :
    (let r := arrReq (.mx .aclr mxArgs0) false false none
     let odd (s : Machine.State) : Nat := ((s.core 0).cycle + (s.core 0).phase) % 2
     ((arrState 2 [r] []).core 0).arr[0]? = some r ∧ odd (arrState 2 [r] []) = 0 ∧
     ((arrState 3 [r] []).core 0).arr[0]? = some r ∧ odd (arrState 3 [r] []) = 1) ∧
    (let r := arrReq (.mx .amov mxArgs0) true false none
     ((arrState 0 [r] []).core 0).arr[0]? = some r ∧ (∀ q ∈ ((arrState 0 [r] []).core 0).arr.take 0, r.waitsFor q = false) ∧
     (∃ t, (arrState 0 [r] [0]).mxPoison 0 1 .amov mxArgs0 = some t) ∧ (arrState 0 [r] []).mxPoison 0 1 .amov mxArgs0 = none) ∧
    (let r := arrReq (.fw .spill fwArgs0) true false none
     ((arrState 0 [r] []).core 0).arr[0]? = some r ∧ (∀ q ∈ ((arrState 0 [r] []).core 0).arr.take 0, r.waitsFor q = false)) ∧
    (∀ t, t = none ∨ t = some (trapAt cPoison 0 0) →
      (let r := arrReq (.mx .amov mxArgs0) true true t
       takeAt 0 ((arrState 0 [r] []).core 0).arr = some (r, []) ∧ r.isFw = false) ∧
      (let r := arrReq (.fw .spill fwArgs0) true true t
       takeAt 0 ((arrState 0 [r] []).core 0).arr = some (r, []) ∧ r.isFw = true)) := by
  refine ⟨⟨rfl, by decide, rfl, by decide⟩, ⟨rfl, by decide, ⟨_, rfl⟩, by decide⟩, ⟨rfl, by decide⟩, ?_⟩
  rintro t (rfl | rfl) <;> exact ⟨⟨rfl, rfl⟩, ⟨rfl, rfl⟩⟩

/-- Core 0 of `mapped` with region 0 in a state. -/
def ownState (st : OwnState) (resv : Option (Nat × Nat × Nat)) : Machine.State :=
  mapped.setCore 0 { mapped.core 0 with own := [(0, { Own.free with st := st, handle := 5, resv := resv, dv16 := 1, dk16 := 1 })] }

/-- How the spill of that culture ends where no page is mapped. -/
def spillEnds (s : Machine.State) : Option Nat :=
  (s.spill 0 (s.liveTr 0 0 .write) (recordVa space0 5) [0] 16 16 5 0).2

theorem witness_CultureEvents :
    (mapped.space 0 = some space0 ∧ ((ownState .spilling none).core 0).swapAt 0 .spillOld = none ∧
      ((ownState .spilling none).core 0).sameCulture 0 = [0] ∧ spillEnds (ownState .spilling none) = none) ∧
    (((ownState .filling none).core 0).swapAt 0 .fill = none ∧ ((ownState .filling none).core 0).sameCulture 0 = [0]) ∧
    (∃ j ∈ ((ownState .pinned (some (2, 0, 0))).core 0).sameCulture 0,
      (((ownState .pinned (some (2, 0, 0))).core 0).ownAt j).resv.isSome = true) ∧
    (ownState .spilling none).copySpiller 0 5 = none ∧
    (let r : ArrReq := { arrReq (.fw (.bindSw 5) fwArgs0) true false none with stage := .spillCopy }
     let s : Machine.State := (ownState .spilling none).setCore 1 { (mapped.core 1) with arr := [r] }
     ((s.core 0).ownAt 0).st = .spilling ∧ (s.core 0).swapAt 0 .spillOld = none ∧ s.copySpiller 0 5 = some (1, 0, r, fwArgs0)) := by
  refine ⟨⟨rfl, rfl, rfl, ?_⟩, ⟨rfl, rfl⟩, ⟨0, by decide, by decide⟩, rfl, ⟨rfl, rfl, rfl⟩⟩
  set_option maxRecDepth 20000 in decide

/-- A configuration image at 0x40 in memory: one node, ADD of its input and the constant 1, whose output is its input. -/
def image0 : List Byte :=
  leBytes 4 0x47464E43 ++ leBytes 2 1 ++ leBytes 1 1 ++ leBytes 1 1 ++ leBytes 2 1 ++ leBytes 2 1 ++ leBytes 4 0 ++ leBytes 4 96 ++
  List.replicate 44 0 ++ leBytes 8 (2 ^ 59 + 2 ^ 50 + 0x3FF * 2 ^ 30 + 0x3FF * 2 ^ 20 + 0x3FF) ++ leBytes 8 (2 ^ 32) ++ leBytes 4 1 ++
  List.replicate 12 0

def imageState : Machine.State :=
  { rectState.setWarp { w0 with wait := .spenter .s11 0x40 } with mem := putBytes [] 0x40 image0 }

theorem error_of_none {α β : Type} {e : Except α β} (h : e.toOption.isNone = true) : ∃ t, e = .error t := by
  cases e with
  | error t => exact ⟨t, rfl⟩
  | ok _ => cases h

theorem ok_of_any {e : Except Trap (List Byte)} {a : List Byte} (h : (e.toOption.any fun t => decide (t = a)) = true) : e = .ok a := by
  cases e with
  | error _ => cases h
  | ok t => exact congrArg _ (of_decide_eq_true h)

/-- The node of that image, and a generator's. -/
def addNode : Node :=
  { op := 1, ty := 0, fn := 0, kin := true, in0 := some 0, in1 := none, in2 := none, out0 := some 0, out1 := none, const := 1, param := 0 }
def genNode (sink : Bool) : Node :=
  { addNode with op := if sink then 0x16 else 0x15, kin := false, const := 0, in0 := if sink then some 0 else none
                 out0 := if sink then none else some 0 }

/-- A fabric of one node with a token on its queue, and a generator. -/
def fab (n : Node) (t : List Tok) (g : List (Nat × Gen)) : Fabric :=
  { fabric0 with nodes := [n], depth := [2], queues := [(0, t)], gens := g }

def inFab (f : Fabric) : Machine.State := { spatialState with fabrics := [(1, f)] }

theorem witness_SpatialEvents :
    (∃ w, imageState.warpAt 0 0 = some w ∧ imageState.group w.gid = some g0 ∧ w.wait = .spenter .s11 0x40 ∧
      (∀ old, imageState.fabrics.find? w.gid = some old → old.empty = true) ∧
      imageState.loadImage 0 (imageState.asidOf w) .s11 0x40 = .ok image0 ∧
      imageState.shortQuad g0.cores (fabricOf .s11 0x40 image0).nodes (fabricOf .s11 0x40 image0).depth = none ∧
      (∃ t, imageState.loadImage 0 (imageState.asidOf w) .s11 0x41 = .error t) ∧
      (fabricOf .s11 0x40 image0).nodes = [addNode] ∧ imageState.shortQuad [0] [addNode] [2 ^ 20] = some 0) ∧
    (spatialState.rectEmpty 1 = true ∧ ((spatialState.setWarp { w0 with wait := .spleave }).warpAt 0 0).map (·.wait) = some .spleave) ∧
    (let f := fab addNode [valueTok false 5] []
     (inFab f).fabrics.find? 1 = some f ∧ f.nodes[0]? = some addNode ∧ (f.fire 0 0 addNode).isSome = true) ∧
    ((fab addNode [eoiTok] []).fireEoi 0 addNode).isSome = true ∧
    (let g : Gen := { gen0 with sink := true, active := true }
     let f := fab (genNode true) [valueTok false 5] [(0, g)]
     f.genOf 0 = some (0, g) ∧ f.input (genNode true) 0 = some (valueTok false 5)) ∧
    (let g : Gen := { gen0 with fifo := [.base 64, .ext 0 3, .stream 2] }
     let f := fab (genNode false) [] [(0, g)]
     f.gens.find? 0 = some g ∧ f.nodes[g.node]? = some (genNode false) ∧ (genNode false).in0 = none ∧
     (g.applyCmds g.fifo).fifo = [.stream 2]) ∧
    (let g : Gen := { gen0 with active := true }
     let f := fab (genNode false) [] [(0, g)]
     f.roomFor (genNode false) 1 = true ∧ g.pos < g.total ∧ { g with pos := 1 }.total ≤ { g with pos := 1 }.pos ∧
     (∃ q, (inFab f).genProbe 0 0 0 g = .ok q) ∧ ∃ e, (inFab f).genProbe 0 0 0 { g with base := 1 } = .error e) ∧
    (let g : Gen := { gen0 with fault := some (trapAt cMisaligned 0 0) }
     let f := fab (genNode false) [] [(0, g)]
     (inFab f).warpAt 0 0 = some w0 ∧ (inFab f).fabrics.find? w0.gid = some f ∧ f.pending = some (0, g) ∧ w0.genFaultDue = true) := by
  refine ⟨⟨_, rfl, rfl, rfl, ?_, ok_of_any (by decide +kernel), by decide +kernel, error_of_none (by decide +kernel), by decide +kernel, by decide +kernel⟩,
    ⟨by decide, by decide⟩, ⟨rfl, rfl, by decide⟩, by decide, ⟨rfl, rfl⟩, ⟨rfl, rfl, rfl, rfl⟩,
    ⟨by decide, by decide, by decide, ⟨_, rfl⟩, ⟨_, rfl⟩⟩, ⟨rfl, rfl, rfl, by decide⟩⟩
  intro old h
  cases h

/-! ### Witnesses: placement and contexts -/

/-- The group of `mapped`, placed and not started, on an idle core. -/
def placedState (run : GroupRun) : Machine.State :=
  let s : Machine.State := { mapped with groups := [(1, { g0 with run := run, slots := [] })] }
  s.setCore 0 { s.core 0 with warps := [] }

theorem witness_GroupLifeEvents :
    (let s := placedState .placed
     let g : Group := { g0 with run := .placed, slots := [] }
     s.group 1 = some g ∧ s.launch g.launch = some gmemLaunch ∧ g.run = .placed ∧ (s.prepare 1 g gmemLaunch).mayStart g gmemLaunch = true ∧
     allPlaced g gmemLaunch ((s.prepare 1 g gmemLaunch).peers g gmemLaunch) = true ∧
     allPlaced g { gmemLaunch with record := { gmemRecord with gclass := 1, clSize := 2 } } [(1, g)] = false ∧
     (∀ p ∈ (s.prepare 1 g gmemLaunch).peers g gmemLaunch, (s.prepare 1 g gmemLaunch).startOpen p.2 gmemLaunch = true ∧
       (s.prepare 1 g gmemLaunch).culturesReady p.1 p.2 gmemLaunch = true) ∧
     (({ s with heldAsids := [0] } : Machine.State).prepare 1 g gmemLaunch).mayStart g gmemLaunch = false) ∧
    (let s := placedState .running
     let g : Group := { g0 with slots := [] }
     s.group 1 = some g ∧ (s.core (g.cores.headD 0)).arrIdle 1 = true ∧ (s.core (g.cores.headD 0)).idleFor 1 = true ∧
     (∀ r < 16, ((s.core (g.cores.headD 0)).ownAt r).gid ≠ some 1) ∧ gmemLaunch.record.clSize = 1 ∧ s.accessed 1 = false) ∧
    (let s := (placedState .running).setCore 0 { (placedState .running).core 0 with own := [(0, { Own.free with st := .owned, gid := some 1 })] }
     ∃ i < 16, (((s.core 0).ownAt i).gid == some 1 && ((s.core 0).ownAt i).st == OwnState.owned) = true) := by
  refine ⟨⟨rfl, rfl, rfl, by decide, by decide, by decide, by decide, by decide⟩,
    ⟨rfl, by decide, by decide, by decide, rfl, by decide⟩, ⟨0, by decide, by decide⟩⟩

/-- A pre-emption request on core 0 for the group of `mapped`. -/
def preReq (st : PreStep) : PreReq := { asid := none, gids := [1], budget := 0, step := st, since := 0, told := false, arb := none }

/-- A launch of higher priority whose group needs more memory than core 0 has left. -/
def bigLaunch : Launch :=
  { gmemLaunch with record := { gmemRecord with gmem := 8192, prio := 1 }, prio := 1, preempt := true, next := 0, started := [] }

def blockedState : Machine.State := { mapped with launches := [(0, gmemLaunch), (5, bigLaunch)] }

/-- A warp of eight registers in a stopped group of a launch whose save records are at `csab`. -/
def savingState (csas : Nat) : Machine.State :=
  let s : Machine.State := { acting { w0 with alloc := 8 } with
    groups := [(1, { g0 with run := .stopped })], spaces := [(0, { space0 with csas := csas })]
    launches := [(0, { gmemLaunch with record := { gmemRecord with regs := 8, gmem := 0 } })] }
  s.setCore 0 { s.core 0 with pre := [preReq .save] }

/-- No group is resident, and group 0 of launch 0 is to start again, or is saved in record 0. -/
def resumeState (saved : SMap SavedGroup) (again : NSet) : Machine.State :=
  let l : Launch := { gmemLaunch with dies := [0], saved := saved, again := again, started := [] }
  let s : Machine.State := { mapped with groups := [], launches := [(0, l)], spaces := [(0, { space0 with csab := 2 ^ 40 })] }
  s.setCore 0 { s.core 0 with warps := [] }

theorem witness_PreemptionRequest :
    (∀ p ∈ blockedState.cores, ∀ r ∈ p.2.pre, r.arb ≠ some 0) ∧ (preReq .drain).arb ≠ some 0 ∧
    blockedState.blockedOn 0 = some ({ lid := 5, idxs := [0], saved := false, ready := true }, bigLaunch) ∧
    blockedState.enough 0 { lid := 5, idxs := [0], saved := false, ready := true } (blockedState.victims 0 1) 1
      (blockedState.victims 0 1).length = some [0] := by
  refine ⟨?_, ?_, ?_, ?_⟩ <;> decide +kernel

theorem witness_ContextEvents :
    (let s := mapped.setCore 0 { mapped.core 0 with pre := [preReq .drain] }
     (s.core 0).pre[0]? = some (preReq .drain) ∧ (preReq .drain).budget ≤ (s.core 0).cycle - (preReq .drain).since ∧
       { preReq .drain with told := true }.told = true) ∧
    (let s : Machine.State := { savingState 0 with groups := [(1, { g0 with run := .placed })] }
     s.saving 1 { g0 with run := .placed } = true ∧ g0.resumed = false ∧
       (s.launch 0).any (fun l => (s.unstarted { g0 with run := .placed } l).all fun p => s.quiet p.1 p.2) = true) ∧
    (let g : Group := { g0 with run := .stopped }
     ∀ n ∈ [0, 65536], let s := savingState n
     s.group 1 = some g ∧ (s.launch g.launch).isSome = true ∧ s.saving 1 g = true ∧ (∀ p ∈ s.gangOf g, p.2.run ≠ .running) ∧
     s.quiet 1 g = true ∧ s.saveLate 1 g = false ∧ (s.boundaryFaults 1 g).group 1 = some g) ∧
    (let g : Group := { g0 with run := .stopped }
     let w (n : Nat) : Option (Machine.State × Nat) := ((savingState n).boundaryFaults 1 g).writeRecord 1 g
       { gmemLaunch with record := { gmemRecord with regs := 8, gmem := 0 } } { space0 with csas := n }
     w 0 = none ∧ (w 65536).isSome = true) ∧
    (let s := savingState 0
     let s1 := s.setCore 0 { s.core 0 with cycle := 100 }
     (s1.core 0).pre[0]? = some (preReq .save) ∧ space0.saveb ≤ (s1.core 0).cycle - (preReq .save).since ∧ 1 ∈ (preReq .save).gids ∧
       0 ∈ g0.cores) := by
  refine ⟨?_, ?_, ?_, ?_, ?_⟩ <;> decide +kernel

theorem witness_GroupResume :
    (let s := resumeState [] [0]
     ∃ p l, (s.noteBlocked 0).pick 0 = some p ∧ p.unit.saved = true ∧ (s.noteBlocked 0).launch p.unit.lid = some l ∧
       ∃ t, p.after.restoreAll p.unit.lid l p.unit.idxs = .ok t) ∧
    (let s := resumeState [(0, { rec_ := 0, allocs := [(0, 8)], handles := [], faults := [] })] []
     ∃ p l, (s.noteBlocked 0).pick 0 = some p ∧ p.unit.saved = true ∧ (s.noteBlocked 0).launch p.unit.lid = some l ∧
       ∃ addr slot pc i c, p.after.restoreAll p.unit.lid l p.unit.idxs = .error (.fault addr slot pc, i, c)) := by
  refine ⟨⟨_, _, rfl, rfl, rfl, ⟨_, rfl⟩⟩, ⟨_, _, rfl, rfl, rfl, ⟨_, _, _, _, _, rfl⟩⟩⟩

/-! ### Witnesses: the launch engine -/

/-- A running device whose memory holds a packet at 0x10000, its record at 0x20000, page tables at 0x3000 that map the lowest GiB to
itself, and a descriptor at 0x2000 whose SAVEB and HALTREC.REASON are given. -/
def queueState (pkt record : List Byte) (saveb reason log2sz : Nat) (x : QWork) (enable : Bool) : Machine.State :=
  let put (m : List Host.Cell) (p : Nat × List Byte) : List Host.Cell := putBytes m p.1 p.2
  { State.reset with
    boot := .on
    mem := [(0x10000, pkt), (0x20000, record), (0x3000, leBytes 8 0x4001), (0x4000, leBytes 8 0x5001), (0x5000, leBytes 8 0x73)
            , (0x2030, leBytes 4 saveb), (0x2040, leBytes 8 0x3000), (0x2060, leBytes 1 reason)].foldl put []
    spaces := [(0, { space0 with desc := 0x2000, ptroot := 0x3000 })]
    queues := [(0, { Queue.initial with
      base := 0x10, desc := 0x40, log2sz := BitVec.ofNat 5 log2sz, enable := enable, st := if enable then .enabled else .disabled
      wp := 64, asid := if enable then some 0 else none, work := x
      space := if enable then some { space0 with desc := 0x2000, ptroot := 0x3000 } else none })] }

/-- The queue after ENABLE is set, and whether its descriptor is good. -/
def bound (saveb reason log2sz : Nat) : Machine.State × Bool :=
  let s := queueState [] [] saveb reason log2sz .none false
  let x := s.queue 0
  (s.setQueue 0 { x.withCfg 8 with enable := true, stopping := false, st := .enabled, err := 0, errdet := 0, erroff := 0 }).bindQueue 0 false

/-- HALTREC.REASON of the queue's address space then. -/
def boundReason (p : Machine.State × Bool) : Option Nat := ((p.1.queue 0).asid.bind fun a => p.1.space a).map fun sp => p.1.haltReason sp

theorem witness_QueueRegisterEvents :
    ((queueState [] [] 1 0 12 .none false).queue 0).enable = false ∧ ((queueState [] [] 1 0 12 .none true).queue 0).enable = true ∧
    (bound 0 0 12).2 = false ∧ ((bound 0 0 12).1.queue 0).err = 8 ∧ (bound 1 0 11).2 = false ∧ ((bound 1 0 11).1.queue 0).err = 2 ∧ ((bound 1 0 12).2 = true ∧ boundReason (bound 1 0 12) = some 0) ∧
    ((bound 1 6 12).2 = true ∧ boundReason (bound 1 6 12) = some 6) ∧
    (let wp : BitVec 26 := (4032#32).extractLsb' 0 26
     wp.toNat % 64 = 0 ∧ wp.toNat < 2 ^ 12) ∧
    (let wp : BitVec 26 := (4096#32).extractLsb' 0 26
     2 ^ 12 ≤ wp.toNat) ∧
    (∀ b ∈ [true, false], let x : Queue := { Queue.initial with st := .halted, err := 3, stopping := b }
     x.st = .halted ∧ x.stopping = b ∧ x.err ≠ 7) := by
  refine ⟨?_, ?_, ?_, ?_, ?_, ?_, ?_, ?_, ?_⟩ <;> decide +kernel

theorem witness_PreemptionRegisterEvents : mapped.boot = .on ∧ mapped.concerned 0 (some 0) = [(1, g0)] := ⟨rfl, rfl⟩

/-- The packets: bytes 0 to 3, the eight bytes at 8 and the eight bytes at 16. -/
def packetOf (op irq a b : Nat) (x y : Nat) : List Byte :=
  [op, irq, a, b].map (BitVec.ofNat 8) ++ List.replicate 4 0 ++ leBytes 8 x ++ leBytes 8 y ++ List.replicate 40 0

/-- A record of one group of one warp of eight registers. -/
def record0 (warps : Nat) : List Byte :=
  leBytes 16 0 ++ leBytes 4 1 ++ leBytes 4 1 ++ leBytes 4 1 ++ [BitVec.ofNat 8 warps, 0] ++ leBytes 2 8 ++ leBytes 4 0 ++ leBytes 4 1 ++
  leBytes 4 0 ++ [2, 0, 0, 1] ++ leBytes 16 0 ++ leBytes 8 0x40 ++ List.replicate 184 0

def packetState (p : List Byte) : Machine.State := queueState p (record0 1) 1 0 12 .none true

/-- The head of the queue is the packet. -/
def heads (p : List Byte) : Bool := decide ((packetState p).headOf 0 = .packet p)

/-- An access to the lowest GiB reaches memory. -/
def hubOk (a : Nat) (acc : Access) : Bool :=
  let sp := (packetState []).spaceOfQueue 0
  match (packetState []).hubXlate sp a acc, ((packetState []).hubWalked sp a).hubProbe sp a acc with
  | .ok p, .ok q => decide (p = (a, false)) && decide (q = (a, false))
  | _, _ => false

theorem witness_PacketEvents :
    (heads (packetOf 0 1 0 0 0 0) = true ∧ heads (packetOf 1 0 0 0 0x20000 0) = true ∧ heads (packetOf 2 0 5 3 0x100 7) = true ∧
      heads (packetOf 3 0 1 0 0x100 7) = true ∧ heads (packetOf 3 0 0 0 0x100 7) = true ∧ heads (packetOf 4 0 0 0 0x1000 0) = true ∧
      heads (packetOf 5 0 1 0 0 8) = true) ∧
    (hubOk 0x100 .read = true ∧ hubOk 0x100 .write = true ∧ hubOk 0x100 .rmw = true ∧ hubOk 0x20000 .read = true) ∧
    (((packetState []).hubXlate ((packetState []).spaceOfQueue 0) (2 ^ 56) .read).toOption = none ∧ (packetState []).errReply 0x100 = false ∧
      (packetState []).memPoisoned 0x100 8 = false) ∧
    (firstBad (recordChecks ((packetState []).memRead 0x20000 256)) = none ∧ firstBad (recordChecks (record0 0)) = some 0x1C) ∧
    (let s := packetState []
     s.staleLeft 0 = false ∧ (s.setCore 0 { s.core 0 with arr := [{ arrReq (.fw .spill fwArgs0) true false none with stale := [0] }] }).staleLeft 0 = true) ∧
    (waitHolds 5 7 7 = true ∧ waitHolds 1 7 7 = false) ∧
    (let x : QWork := .wait 0 0x100 8 0 7 0 0 1 false
     let s (hub : Nat) : Machine.State := { queueState [] [] 1 0 12 x true with hub := hub }
     ((s 1024).queue 0).work = x ∧ ¬ (1024 * 1 < (s 1024).hub - 0) ∧ 1024 * 1 ≤ (s 1024).hub - 0 ∧ 1024 * 1 < (s 1025).hub - 0) := by
  refine ⟨?_, ?_, ?_, ?_, ?_, ?_, ?_⟩ <;> decide +kernel

/-- A launch of class 1 with one group, on dies 0 and 1. -/
def openLaunch : Launch :=
  { gmemLaunch with record := { gmemRecord with gclass := 1 }, dies := [0, 1], next := 0, started := [] }

/-- That launch on an idle core 0, with its grant to die 0. -/
def openState (l : Launch) : Machine.State :=
  let s : Machine.State := { mapped with groups := [], launches := [(0, l)] }
  s.setCore 0 { s.core 0 with warps := [] }

theorem witness_AdmissionAndCompletion :
    (∃ p, ((openState { openLaunch with next := 1, grants := [{ die := 0, lo := 0, hi := 1, live := true }] }).noteBlocked 0).pick 0 = some p ∧
      p.unit.saved = false) ∧
    ((openState openLaunch).launch 0 = some openLaunch ∧ openLaunch.unadmit = false ∧ openLaunch.killed = false ∧
      openLaunch.record.gclass ≠ 0 ∧ (∀ d ∈ [0, 1], (∀ g ∈ openLaunch.grants, g.die ≠ d) ∧
        ((openState openLaunch).liveDies openLaunch).has d = true ∧ (openState openLaunch).canTake 0 openLaunch d = (d == 0)) ∧
      openLaunch.back = [] ∧ openLaunch.next < openLaunch.record.count ∧
      { openLaunch with next := 1 }.record.count ≤ { openLaunch with next := 1 }.next) ∧
    (let l : Launch := { openLaunch with next := 1, retired := [0] }
     let s : Machine.State := { packetState [] with launches := [(0, l)] }
     s.launch 0 = some l ∧ s.launchDone 0 l = true ∧ (s.hubWrites (s.queue 0).space l.completion).2 = true ∧ (s.hubWrites l.space l.completion).2 = false) ∧
    (∀ live, let g : Grant := { die := 0, lo := 0, hi := 1, live := live }
     let l : Launch := { openLaunch with grants := [g] }
     (openState l).launch 0 = some l ∧ l.grants[0]? = some g ∧ g.live = live) := by
  refine ⟨⟨_, rfl, rfl⟩, ⟨rfl, rfl, rfl, by decide, by decide +kernel, rfl, by decide, by decide⟩, ⟨rfl, ?_, ?_, ?_⟩, fun _ => ⟨rfl, rfl, rfl⟩⟩ <;> decide +kernel

/-- A resident group of the killed address space, and a killed launch with nothing in flight. -/
theorem witness_ForcedReset :
    mapped.group 1 = some g0 ∧ ({ gmemLaunch with killed := true }.saved = [] ∧ mapped.busyFor 5 = false) := by
  refine ⟨rfl, ?_⟩; decide

/-! ### Witnesses: coherence, links and dies -/

/-- A line with a channel's message and a directory entry. -/
def lineState (key : Nat) (m : Option Msg) (e : LineSt) : Machine.State :=
  { State.reset with
    boot := .on, lines := [(0, e)]
    chans := match m with
      | some m => [(key, { slots := [{ line := 0, msg := m }], wait := [] })]
      | none => [] }

/-- What the receiver of the oldest message of a channel sees. -/
def delivers (src dst : Nat) (m : Msg) : Bool := ((lineState (chanKey src dst m.chan) (some m) LineSt.initial).deliver src dst 0 m).isSome

theorem witness_CoherenceRequests :
    (let s := lineState 0 none LineSt.initial
     s.fenced.has (homeOf 0) = false ∧ s.fenced.has 2 = false ∧ (s.line 0).agent 2 = .i ∧ s.asked 0 2 .rdS = false ∧ s.asked 0 2 .upg = false) ∧
    (∀ x ∈ [AgentSt.i, .s, .e, .m, .o], ((lineState 0 none { LineSt.initial with agents := SMap.set .i [] 2 x }).line 0).agent 2 = x) ∧
    (∀ r ∈ [Req.rdS, .rdX, .upg, .atom true, .atom false, .blk, .flush],
      (lineState (chanKey 2 0 0) (some (.req r)) LineSt.initial).asked 0 2 r = true ∧ delivers 2 0 (.req r) = true ∧
      (let s : Machine.State := { lineState 0 none { LineSt.initial with queue := [{ a := 2, req := r, at_ := 0 }] } with
         dies := [(0, { DieSt.initial with clk := 1 })] }
       s.asked 0 2 r = true ∧ s.deliver 2 0 0 (.req r) = none ∧ (s.line 0).txn = none ∧ 0 < (s.die (homeOf 0)).clk)) ∧
    ({ lineState 0 none LineSt.initial with fenced := [0] } : Machine.State).fenced.has (homeOf 0) = true := by
  decide

theorem witness_SnoopEvents :
    (∀ m ∈ [Msg.snpS, .snpC, .snpI], delivers 0 2 m = true ∧ delivers 0 4 m = true) ∧
    (∀ x ∈ [AgentSt.i, .s, .e, .m, .o, .xw, .is, .ix, .sx], ∀ b ∈ [2, 4],
      ((lineState 0 none { LineSt.initial with agents := SMap.set .i [] b x }).line 0).agent b = x) := by
  decide

/-- A transaction of die 1's RdX that waits for die 2's answer. -/
def txn0 : Txn := { a := 1, req := .rdX, phase := .hs, awaiting := [2], wbWait := [], wbGot := [], bi := [], kept := false, dirty := false }

theorem witness_HomeAnswers :
    (∀ m ∈ [Msg.rspI, .rspS, .snpD, .rspWbP],
      ∃ s1, (lineState (chanKey 2 0 m.chan) (some m) { LineSt.initial with txn := some txn0 }).deliver 2 0 0 m = some s1 ∧
        (s1.line 0).txn = some txn0) ∧
    (txn0.awaiting.has 2 = true ∧ txn0.wbGot.has 2 = false ∧ { txn0 with wbGot := [2] }.wbGot.has 2 = true ∧ snoopKind .rdX false 2 = .snpI ∧
      snoopKind .rdS false 2 ≠ .snpI) ∧
    (let t := { txn0 with phase := .ha, awaiting := [] }
     ∃ s1, (lineState (chanKey 1 0 Msg.ack.chan) (some .ack) { LineSt.initial with txn := some t }).deliver 1 0 0 .ack = some s1 ∧
       (s1.line 0).txn = some t ∧ t.a = 1) ∧
    (let s := lineState 0 none { LineSt.initial with dir := .x, owner := 2, agents := [(2, .m)] }
     s.deliver 2 0 0 .wbD = none ∧ (s.line 0).agent 2 = .m ∧ s.fenced.has 2 = false) ∧
    (∀ owner ∈ [1, 2], ∃ s1, (lineState (chanKey 2 0 Msg.wbD.chan) (some .wbD) { LineSt.initial with dir := .x, owner := owner }).deliver 2 0 0 .wbD =
      some s1 ∧ (s1.line 0).txn = none ∧ (s1.line 0).dir = .x ∧ (s1.line 0).owner = owner) ∧
    (∀ t ∈ [{ txn0 with wbWait := [2], awaiting := [] }, txn0, { txn0 with awaiting := [] }],
      ∃ s1, (lineState (chanKey 2 0 Msg.wbD.chan) (some .wbD) { LineSt.initial with dir := .x, owner := 2, txn := some t }).deliver 2 0 0 .wbD =
        some s1 ∧ (s1.line 0).txn = some t ∧ (s1.line 0).owner = 2) ∧
    ({ txn0 with wbWait := [2], awaiting := [] }.wbWait.has 2 = true ∧ txn0.wbWait.has 2 = false ∧ txn0.awaiting.has 2 = true ∧
      { txn0 with awaiting := [] }.wbWait.has 2 = false ∧ { txn0 with awaiting := [] }.awaiting.has 2 = false) := by
  refine ⟨?_, by decide, ⟨_, rfl, rfl, rfl⟩, ⟨rfl, rfl, rfl⟩, ?_, ?_, by decide⟩
  · intro m h
    simp only [List.mem_cons, List.not_mem_nil, or_false] at h
    rcases h with rfl | rfl | rfl | rfl <;> exact ⟨_, rfl, rfl⟩
  · intro o h
    simp only [List.mem_cons, List.not_mem_nil, or_false] at h
    rcases h with rfl | rfl <;> exact ⟨_, rfl, rfl, rfl, rfl⟩
  · intro t h
    simp only [List.mem_cons, List.not_mem_nil, or_false] at h
    rcases h with rfl | rfl | rfl <;> exact ⟨_, rfl, rfl, rfl⟩

theorem witness_RequesterReplies :
    (∀ m ∈ [Msg.datS, .datE, .datM, .gntX, .cmp, .atomD, .wbAck], delivers 0 2 m = true) ∧
    (∀ x ∈ [AgentSt.is, .ix, .xw], ∀ m ∈ [Msg.datE, .wbAck],
      ((((lineState (chanKey 0 2 m.chan) (some m) { LineSt.initial with agents := [(2, x)] }).deliver 0 2 0 m).getD State.reset).line 0).agent 2 = x) ∧
    (let o : LsOp := { load0 with err := true, fault := some (trapAt cFabric 0 0) }
     let s := mapped.setCore 0 { mapped.core 0 with ls := [o] }
     (s.core 0).ls = [] ++ o :: [] ∧ o.due ≤ (s.core 0).cycle ∧ o.err = true ∧ o.fault = some (trapAt cFabric 0 0)) ∧
    (let s : Machine.State := { lineState (chanKey 2 0 0) (some (.req .rdS)) LineSt.initial with fenced := [0] }
     s.fenced.has (homeOf 0) = true ∧ ∃ f ∈ (s.chan 2 (homeOf 0) 0).slots, f.line = 0 ∧ f.msg.chan = 0) := by
  refine ⟨by decide, by decide, ⟨rfl, by decide, rfl, rfl⟩, ⟨rfl, _, List.mem_singleton.mpr rfl, rfl, rfl⟩⟩

/-- A tagged load that got an error reply, with no fault; and an owner whose upgrade a fenced home has not taken. -/
theorem witness_ErrorReply :
    (let o : LsOp := { load0 with err := true }
     let s := mapped.setCore 0 { mapped.core 0 with ls := [o] }
     (s.core 0).ls = [] ++ o :: [] ∧ o.due ≤ (s.core 0).cycle ∧ o.err = true ∧ o.fault = none) ∧
    (let s : Machine.State :=
       { lineState (chanKey 2 0 0) (some (.req .upg)) { LineSt.initial with dir := .o, owner := 2, agents := [(2, .sx)] } with fenced := [0] }
     s.fenced.has (homeOf 0) = true ∧ (s.line 0).agent 2 = .sx ∧ (s.line 0).dir = .o ∧ (s.line 0).owner = 2 ∧
       ∃ f ∈ (s.chan 2 (homeOf 0) 0).slots, f.line = 0 ∧ f.msg.chan = 0) := by
  refine ⟨⟨rfl, by decide, rfl, rfl⟩, ⟨rfl, rfl, rfl, rfl, _, List.mem_singleton.mpr rfl, rfl, rfl⟩⟩


/-- A dirty line of an uncompressed block in the L2 of die 1, and no transaction of it. -/
theorem witness_BlockRead :
    let s := lineState 0 none { LineSt.initial with dir := .x, owner := 1, agents := [(1, .m)] }
    (∀ k < 4, (s.line (0 + k)).idle = true) ∧ (s.line 0).dir = .x ∧ (s.line 0).recallBit = false ∧ (s.line 0).agent (s.line 0).owner = .m ∧
      (s.line 0).owner < 4 ∧ s.tagOf (0 / 4) = 0x08#8 ∧ s.compLines.has 0 = false := by
  decide

/-- The device with a link between dies 1 and 2, their clocks, the hub's and a message that waits on the link. -/
def linkState (mode : LinkMode) (t : Nat) (wait : Bool) : Machine.State :=
  { State.reset with
    boot := .on, hub := t
    dies := [(1, { DieSt.initial with clk := t, lastHub := t }), (2, { DieSt.initial with clk := t, lastHub := t })]
    links := SMap.set LinkSt.initial [] (linkKey 1 2) { LinkSt.initial with mode := mode }
    chans := if wait then [(chanKey 1 2 1, { slots := [], wait := [{ line := 0, msg := .snpI }] })] else [] }

theorem witness_LinkAndDieEvents :
    (let s := linkState .awake 8192 false
     (s.link 1 2).mode = .awake ∧ s.dirBusy 1 2 = false ∧ s.dirBusy 2 1 = false ∧ 8192 ≤ s.dieClk (min 1 2) - (s.link 1 2).last) ∧
    (let s := linkState .asleep 9000 true
     (s.link 1 2).mode = .asleep ∧ s.dirWaits 1 2 = true) ∧
    (let s := linkState .waking 60000 true
     (s.link 1 2).mode = .waking ∧ (s.chan 1 2 1).wait ≠ [] ∧ 60000 ≤ s.dieClk 1 - (s.link 1 2).sinceLo ∧
       60000 ≤ s.dieClk 2 - (s.link 1 2).sinceHi) ∧
    (let y : DieSt := { DieSt.initial with unanswered := [(7, 5000000), (3, 0)] }
     y.mode = .running ∧ { y with mode := .warm, step := .save }.mode = .warm ∧ y.abrupt = false ∧ 5000000 ≤ 5000000 - y.lastHub ∧
       ∃ u ∈ y.unanswered, 5000000 ≤ 5000000 - u.2) ∧
    (let s := linkState .waking 6000000 true
     6000000 ≤ s.dieClk 1 - (s.link 1 2).firstLo ∧ 6000000 ≤ s.dieClk 2 - (s.link 1 2).firstHi ∧ (s.die 1).answers s.hub = true ∧ (s.die 2).answers s.hub = true) := by
  decide +kernel

/-- Die 1 in a step of its warm reset. -/
def resetState (m : DieMode) (st : ResetStep) (gate abrupt : Bool) (clk : Nat) : Machine.State :=
  { State.reset with boot := .on, dies := SMap.set DieSt.initial [] 1 { DieSt.initial with mode := m, step := st, gate := gate, abrupt := abrupt, clk := clk } }

theorem witness_WarmResetEvents :
    ((resetState .running .none false false 0).die 1).mode = .running ∧ (resetState .running .none false false 0).fenced.has 1 = false ∧
    (∀ st ∈ [ResetStep.save, .quiesce, .cleanup], ∀ gate ∈ [false, true], ∀ abrupt ∈ [false, true],
      let x := (resetState .warm st gate abrupt 6000000).die 1
      x.mode = .warm ∧ x.step = st ∧ x.gate = gate ∧ x.abrupt = abrupt ∧ 6000000 ≤ x.clk - x.since) ∧
    (resetState .warm .save false false 0).dieHoldsGroups 1 = false ∧ (resetState .warm .quiesce false false 0).quiesced 1 = true ∧
    ({ resetState .warm .quiesce false false 0 with
        lines := [(2 ^ 32, { LineSt.initial with queue := [{ a := 0, req := .rdS, at_ := 0 }] })] } : Machine.State).quiesced 1 = false ∧
    ((resetState .gated .none false false 0).die 1).mode = .gated ∧ ((resetState .warm .cleaned false false 0).die 1).step = .cleaned ∧
    ((resetState .warm .retrained false false 0).die 1).step = .retrained := by
  decide

/-! ### Witnesses: the host link, the ports and the management controller -/

theorem witness_HostEvents :
    (let s := lineState 0 none LineSt.initial
     s.boot = .on ∧ s.fenced.has (homeOf 0) = false ∧ s.hostReply 0 = none ∧ s.asked 0 4 .rdS = false ∧ s.asked 0 4 .rdX = false ∧
     s.asked 0 4 (.hostWr 0 [] false) = false ∧ s.asked 0 4 .flush = false ∧ ({ s with fenced := [0] } : Machine.State).fenced.has (homeOf 0) = true ∧
     s.hostTaken 0 = false) ∧
    (∀ r ∈ [Req.rdS, .flush],
      let s : Machine.State := { lineState 0 none { LineSt.initial with queue := [{ a := 4, req := r, at_ := 0 }] } with fenced := [0] }
      s.fenced.has (homeOf 0) = true ∧ s.hostTaken 0 = true ∧ s.asked 0 4 r = true ∧ (s.asked 0 4 .rdS = false ∨ r = .rdS)) ∧
    (∀ m ∈ [Msg.datS, .datE, .datM, .cmp],
      ∃ s1, (lineState (chanKey 0 4 m.chan) (some m) { LineSt.initial with agents := [(4, .ix)] }).hostReply 0 = some (m, s1)) ∧
    (∀ x ∈ [AgentSt.i, .s, .e, .m, .o], ((lineState 0 none { LineSt.initial with agents := SMap.set .i [] 4 x }).line 0).agent 4 = x) ∧
    (let t := { txn0 with awaiting := [4], bi := [0, 1] }
     ((lineState 0 none { LineSt.initial with txn := some t }).line 0).txn = some t ∧ t.bi.has 0 = true ∧ t.bi.remove 0 ≠ []) ∧
    (let t := { txn0 with awaiting := [4], bi := [0] }
     ((lineState 0 none { LineSt.initial with txn := some t }).line 0).txn = some t ∧ t.bi = [0] ∧ t.dirty = false ∧ t.req = .rdX) ∧
    (let t := { txn0 with awaiting := [4], bi := [0], req := .rdS }
     let e := (lineState 0 none { LineSt.initial with txn := some t, recallBit := true, agents := [(4, .m)] }).line 0
     e.txn = some t ∧ e.agent 4 = .m ∧ snoopKind t.req e.recallBit 4 = .snpI ∧ snoopKind t.req false 4 ≠ .snpI) ∧
    2 ^ 45 ≤ (0x200000000000#46).toNat ∧ (List.replicate 64 (0 : Byte)).length = 64 := by
  refine ⟨⟨rfl, rfl, rfl, rfl, rfl, rfl, rfl, rfl, rfl⟩, by decide, ?_, by decide, ⟨rfl, rfl, by decide⟩, ⟨rfl, rfl, rfl, rfl⟩, ⟨rfl, rfl, rfl, by decide⟩, by decide, by decide⟩
  intro m h
  simp only [List.mem_cons, List.not_mem_nil, or_false] at h
  rcases h with rfl | rfl | rfl | rfl <;> exact ⟨_, rfl⟩

/-- Port 3 in a state, with a window on it. -/
def portState (x : Port) (en wr : Bool) : Machine.State :=
  { State.reset with boot := .on, ports := [(3, x)], windows := [(1, { base := 2, size := 1, en := en, rd := true, wr := wr, ports := 8 })] }

theorem witness_PortEvents :
    ((portState { Port.initial with st := .up } true true).port 3).st = .up ∧ gAnswer (.done 0) = true ∧ gAnswer (.read 0 1 0 4) = false ∧
    (let f : GFlit := { seq := 0, sent := 0, msg := .read 0 1 0 4 }
     let s : Machine.State := { portState { Port.initial with st := .up, tx := [f] } true true with hub := 1000000 }
     (s.port 3).tx[0]? = some f ∧ 1000000 ≤ s.hub - f.sent ∧ gAnswer f.msg = false) ∧
    ((portState Port.initial true true).port 3).st = .down ∧ UnitRef.port 3 ∉ (portState Port.initial true true).fencedUnits ∧
    ((portState { Port.initial with st := .training } true true).port 3).st = .training ∧
    (portState { Port.initial with st := .training } true true).portWaiters 3 = [] ∧
    (let r : CopyReq := { copyReq .send [elem0 (some (.sram 1 0)) none] [] none with waiting := some 0, ep := 3 }
     let s : Machine.State := { portState { Port.initial with st := .up } true true with cores := [(0, { Core.initial with copy := [r] })] }
     epPort r.ep = 3 ∧ (s.port 3).st ≠ .down ∧ s.portWaiters 3 = [(0, .sa)]) ∧
    (((portState Port.initial true true).window 1).accepts 3 0 4096 true = true ∧ ((portState Port.initial true true).window 1).accepts 3 1 4096 true = false ∧
      ((portState Port.initial true false).window 1).accepts 3 0 4 true = false ∧ ((portState Port.initial false true).window 1).accepts 3 0 4 false = false) ∧
    ((portState Port.initial true true).errReply 0x2000 = false ∧
      ({ portState Port.initial true true with fenced := [0] } : Machine.State).errReply 0x2000 = true) := by
  decide +kernel

theorem witness_PowerUpAndRelease :
    State.reset.flash.all imageOk = true ∧ (some ([] : List Byte)).all imageOk = false ∧ base.boot = .on ∧
    ({ base with release := [(0, [3, 4])] } : Machine.State).release = [] ++ (0, 3 :: [4]) :: [] ∧
    ({ base with releaseTurn := 1 } : Machine.State).releaseTurn ≤ 1 ∧ ({ base with releaseTurn := 0 } : Machine.State).releaseTurn ≤ 0 ∧
    ({ base with lastRelease := some 0, hub := 4000 } : Machine.State).lastRelease = some 0 ∧ 4000 ≤ 4000 - 0 ∧ 3999 - 0 < 4000 :=
  ⟨rfl, rfl, rfl, rfl, by decide, by decide, rfl, by decide, by decide⟩

theorem witness_ManagementEvents :
    (mapped.boot = .on ∧ (mapped.queue 127).enable = false ∧ ({ base with dbgsel := 0x13#13 } : Machine.State).dbgsel.toNat / 16 = 1) ∧
    (mapped.errs.get ErrCount.zero 3).total ≠ 0xFFFFFFFF#32 ∧
    (({ mapped with errs := [(3, { ErrCount.zero with total := 0xFFFFFFFF })] } : Machine.State).errs.get ErrCount.zero 3).total = 0xFFFFFFFF#32 ∧
    ((0x80A#64).extractLsb' 2 2 = 2#2 ∧ (mapped.die 1).mode = .running ∧ (0x20000 + 32 * 255 + 16) % 2 ^ 32 = 0x20010 + 32 * 255) ∧
    (siteUnit (.sram 0 0) ≠ none ∧ siteUnit (.sector 0 none) = none) ∧
    (let u : UnitRef := .core 5
     u ∉ mapped.fencedUnits ∧ mapped.pastThreshold u = false ∧ (mapped.setUnitErr u { uncorrected := 2, corrected := [] }).pastThreshold u = true ∧
     u ∈ ({ mapped with fenceList := [u] } : Machine.State).fenceList ∧ u ∉ mapped.fenceList) ∧
    (let s : Machine.State := { mapped.setCore 5 { mapped.core 5 with fenced := true } with fencedUnits := [.core 5, .slice 1 3, .port 2] }
     UnitRef.core 5 ∈ s.fencedUnits ∧ (s.core 5).fenced = true ∧ s.groupsOn 5 = [] ∧ (mapped.core 5).fenced = false ∧
       UnitRef.slice 1 3 ∈ s.fencedUnits ∧ UnitRef.port 2 ∈ s.fencedUnits) ∧
    ({ mapped with boot := .recovery } : Machine.State).boot ≠ .on ∧ mapped.log.find? 0 = none ∧ (105 ≤ 105 ∧ ¬ 105 ≤ 104 ∧ 100 ≤ 100) ∧
    ((780 : Nat) < 781 ∧ (780 : Nat) ≤ 780 ∧ 10 * 701 < 9 * 780 ∧ 9 * 780 ≤ 10 * 702) := by
  decide

theorem witness_AttestationAndSensors : (0x12#8) ≠ 0x13#8 := by decide

/-- The update's steps. An image that verifies cannot be shown: what verifies is a free value. -/
theorem witness_FirmwareUpdateSequence :
    base.update = none ∧
    (∀ st : UpdStep, ({ base with update := some { step := st, image := [] } } : Machine.State).update = some { step := st, image := [] }) ∧
    ({ base with boot := .recovery } : Machine.State).boot = .recovery :=
  ⟨rfl, fun _ => rfl, rfl⟩

/-! ### A word of every instruction, written field by field from Tables EC-2, EC-7b, EC-8 and the instructions' own tables -/

/-- A full word with SET 0xF: OPC, MOD, DST, SRC0, SRC1. -/
def fw (opc mod dst src0 src1 : Nat) : BitVec 64 :=
  BitVec.ofNat 64 (15 * 2 ^ 42 + opc * 2 ^ 29 + mod * 2 ^ 27 + dst * 2 ^ 18 + src0 * 2 ^ 9 + src1)

/-- The first word of a long instruction. -/
def lw (opc mod dst src0 src1 : Nat) : BitVec 64 := BitVec.ofNat 64 (2 * 2 ^ 62 + (fw opc mod dst src0 src1).toNat)

/-- An XMOD field whose lowest bit is bit `lo` of the second word. -/
def x (lo v : Nat) : Nat := v * 2 ^ lo

/-- The second word: SRC2, XMOD, IMM. -/
def sw (src2 xmod imm : Nat) : BitVec 64 := BitVec.ofNat 64 (3 * 2 ^ 62 + src2 * 2 ^ 53 + xmod + imm)

def kf (i : BitVec 3) : KField := { idx := i, upper := 0 }

theorem test_decode_control :
    decodeWords (fw 0x000 0 0 0 0) none = .ok (.nop h0) ∧
    decodeWords (fw 0x001 0 0 0x005 0x003) none = .ok (.waitf h0 false ⟨5, 0⟩ (.op (.v 3))) ∧
    decodeWords (fw 0x002 0 0 0 0x003) none = .ok (.yieldW h0 false (.op (.v 3))) ∧
    decodeWords (fw 0x003 0 0 0x102 0x003) none = .ok (.regx h0 false (.s 2) (.op (.v 3))) ∧
    decodeWords (fw 0x004 0 0x001 0x009 0) none = .ok (.srd h0 (.v 1) ⟨9, 0⟩) ∧
    decodeWords (fw 0x005 0 0x009 0x102 0) none = .ok (.swr h0 ⟨9, 0⟩ (.s 2)) ∧
    decodeWords (fw 0x006 0 0 0 0x003) none = .ok (.modeSet h0 (.v 3)) ∧
    decodeWords (fw 0x006 1 0 0 0x003) none = .ok (.modeClr h0 (.v 3)) ∧
    decodeWords (fw 0x006 2 0 0 0x003) none = .ok (.modeWr h0 (.v 3)) ∧
    decodeWords (fw 0x010 0 0x0B0 0x043 0x001) none = .ok (.bra h0 0x2C08601) ∧
    decodeWords (fw 0x011 0 0 0x102 0) none = .ok (.brx h0 (.s 2)) ∧
    decodeWords (lw 0x012 0 0x0B0 0x043 0x001) (some (sw 0x002 0 0x1234)) = .ok (.split h0 0x2C08601 (kf 2) 0x1234) ∧
    decodeWords (fw 0x013 0 0 0 0) none = .ok (.join h0) ∧
    decodeWords (fw 0x014 0 0x0B0 0x043 0x001) none = .ok (.loopr h0 0x2C08601) ∧
    decodeWords (fw 0x015 0 0 0 0) none = .ok (.brk h0) ∧
    decodeWords (fw 0x016 0 0x0B0 0x043 0x001) none = .ok (.call h0 0x2C08601) ∧
    decodeWords (fw 0x017 0 0 0x102 0) none = .ok (.callx h0 (.s 2)) ∧
    decodeWords (fw 0x018 0 0 0 0) none = .ok (.ret h0) ∧
    decodeWords (fw 0x019 0 0 0 0) none = .ok (.exit h0) :=
  ⟨rfl, rfl, rfl, rfl, rfl, rfl, rfl, rfl, rfl, rfl, rfl, rfl, rfl, rfl, rfl, rfl, rfl, rfl, rfl⟩

theorem test_decode_sync :
    decodeWords (fw 0x030 0 0 0x102 0x003) none = .ok (.bar h0 false (.s 2) (.op (.v 3))) ∧
    decodeWords (lw 0x031 2 0x001 0x102 0x003) (some (sw 0 0 0x1234)) = .ok (.bara h0 true .cmem (.v 1) (.s 2) (.v 3) 0x1234) ∧
    decodeWords (lw 0x032 2 0 0x102 0x003) (some (sw 0x002 (x 36 1) 0x1234)) = .ok (.barw h0 true .cmem (.s 2) (.v 3) 0x1234 (some (kf 2))) ∧
    decodeWords (fw 0x033 0 0 0x102 0) none = .ok (.cbar h0 (.s 2)) ∧
    decodeWords (fw 0x034 0 0 0 0) none = .ok (.gbar h0) ∧
    decodeWords (lw 0x035 1 0x001 0x102 0x003) (some (sw 0x002 (x 50 3 + x 49 1 + x 46 5 + x 37 2 + x 33 2 + x 36 1) 0x1234)) = .ok (.waitm h0 .gmem .b64 true .device .lower .lt (.v 1) (.s 2) (.v 3) 0x1234 (some (kf 2))) :=
  ⟨rfl, rfl, rfl, rfl, rfl, rfl⟩

theorem test_decode_scalar :
    decodeWords (fw 0x040 2 0x001 0 0x003) none = .ok (.smov h0 false .b64 (.v 1) (.op (.v 3))) ∧
    decodeWords (lw 0x041 0 0x001 0x102 0) (some (sw 0 0 0x1234)) = .ok (.smovl h0 (.v 1) (.s 2) 0x1234) ∧
    decodeWords (lw 0x042 3 0x001 0x102 0) (some (sw 0 (x 51 1 + x 52 1) 0x2A)) = .ok (.sadd h0 true .n64 true (.v 1) (.s 2) (.imm 0x2A)) ∧
    decodeWords (lw 0x043 3 0x001 0x102 0) (some (sw 0 (x 51 1 + x 52 1) 0x2A)) = .ok (.ssub h0 true .n64 true (.v 1) (.s 2) (.imm 0x2A)) ∧
    decodeWords (fw 0x044 3 0x001 0x102 0x003) none = .ok (.smul h0 false .n64 (.v 1) (.s 2) (.op (.v 3))) ∧
    decodeWords (lw 0x045 3 0x001 0x102 0) (some (sw 0x184 (x 52 1) 0x2A)) = .ok (.smad h0 .n64 (.v 1) (.s 2) (.imm 0x2A) (.const 4)) ∧
    decodeWords (fw 0x046 1 0x001 0x102 0x003) none = .ok (.sadd64 h0 false .n32 (.v 1) (.s 2) (.op (.v 3))) ∧
    decodeWords (lw 0x047 1 0x001 0x102 0) (some (sw 0x184 (x 52 1) 0x2A)) = .ok (.smad64 h0 .n32 (.v 1) (.s 2) (.imm 0x2A) (.const 4)) ∧
    decodeWords (fw 0x048 2 0x001 0x102 0x003) none = .ok (.sand h0 false .b64 (.v 1) (.s 2) (.op (.v 3))) ∧
    decodeWords (fw 0x049 2 0x001 0x102 0x003) none = .ok (.sor h0 false .b64 (.v 1) (.s 2) (.op (.v 3))) ∧
    decodeWords (fw 0x04A 2 0x001 0x102 0x003) none = .ok (.sxor h0 false .b64 (.v 1) (.s 2) (.op (.v 3))) ∧
    decodeWords (fw 0x04B 2 0x001 0x102 0x003) none = .ok (.sshl h0 false .b64 (.v 1) (.s 2) (.op (.v 3))) ∧
    decodeWords (fw 0x04C 2 0x001 0x102 0x003) none = .ok (.sshr h0 false .b64 (.v 1) (.s 2) (.op (.v 3))) ∧
    decodeWords (fw 0x04D 2 0x001 0x102 0x003) none = .ok (.ssra h0 false .b64 (.v 1) (.s 2) (.op (.v 3))) ∧
    decodeWords (fw 0x04E 3 0x001 0x102 0x003) none = .ok (.smin h0 false .n64 (.v 1) (.s 2) (.op (.v 3))) ∧
    decodeWords (fw 0x04F 3 0x001 0x102 0x003) none = .ok (.smax h0 false .n64 (.v 1) (.s 2) (.op (.v 3))) ∧
    decodeWords (lw 0x050 3 0x001 0x102 0) (some (sw 0 (x 47 5 + x 52 1) 0x2A)) = .ok (.scmp h0 .n64 .ge (kf 1) (.s 2) (.imm 0x2A)) ∧
    decodeWords (lw 0x051 2 0x001 0x102 0) (some (sw 0x002 (x 52 1) 0x2A)) = .ok (.ssel h0 .b64 (.v 1) (.s 2) (.imm 0x2A) (kf 2)) ∧
    decodeWords (lw 0x052 2 0x001 0x102 0) (some (sw 0 (x 51 1 + x 52 1) 0x2A)) = .ok (.sbfe h0 true .b64 true (.v 1) (.s 2) (.imm 0x2A)) ∧
    decodeWords (fw 0x053 2 0x001 0x102 0) none = .ok (.spopc h0 .b64 (.v 1) (.s 2)) ∧
    decodeWords (fw 0x054 2 0x001 0x102 0) none = .ok (.sclz h0 .b64 (.v 1) (.s 2)) ∧
    decodeWords (fw 0x055 2 0x001 0x102 0x003) none = .ok (.s2v h0 false .b64 (.v 1) (.s 2) (.op (.v 3))) ∧
    decodeWords (fw 0x056 2 0x001 0x102 0x003) none = .ok (.v2s h0 false .b64 (.v 1) (.s 2) (.op (.v 3))) :=
  ⟨rfl, rfl, rfl, rfl, rfl, rfl, rfl, rfl, rfl, rfl, rfl, rfl, rfl, rfl, rfl, rfl, rfl, rfl, rfl, rfl, rfl, rfl, rfl⟩

theorem test_decode_vector_integer :
    decodeWords (fw 0x080 2 0x001 0 0x003) none = .ok (.mov h0 false .b64 (.v 1) (.op (.v 3))) ∧
    decodeWords (lw 0x081 3 0x001 0x102 0) (some (sw 0 (x 51 1 + x 52 1) 0x2A)) = .ok (.iadd h0 true .n64 true (.v 1) (.s 2) (.imm 0x2A)) ∧
    decodeWords (lw 0x082 3 0x001 0x102 0) (some (sw 0x002 (x 52 1) 0x2A)) = .ok (.iaddc h0 .n64 (.v 1) (.s 2) (.imm 0x2A) (kf 2)) ∧
    decodeWords (lw 0x083 3 0x001 0x102 0) (some (sw 0 (x 51 1 + x 52 1) 0x2A)) = .ok (.isub h0 true .n64 true (.v 1) (.s 2) (.imm 0x2A)) ∧
    decodeWords (fw 0x084 3 0x001 0x102 0x003) none = .ok (.imul h0 false .n64 (.v 1) (.s 2) (.op (.v 3))) ∧
    decodeWords (fw 0x085 3 0x001 0x102 0x003) none = .ok (.imulh h0 false .n64 (.v 1) (.s 2) (.op (.v 3))) ∧
    decodeWords (lw 0x086 3 0x001 0x102 0) (some (sw 0x184 (x 52 1) 0x2A)) = .ok (.imad h0 .n64 (.v 1) (.s 2) (.imm 0x2A) (.const 4)) ∧
    decodeWords (fw 0x087 3 0x001 0x102 0x003) none = .ok (.imin h0 false .n64 (.v 1) (.s 2) (.op (.v 3))) ∧
    decodeWords (fw 0x088 3 0x001 0x102 0x003) none = .ok (.imax h0 false .n64 (.v 1) (.s 2) (.op (.v 3))) ∧
    decodeWords (lw 0x089 2 0x001 0x102 0) (some (sw 0 (x 51 1) 0)) = .ok (.iabs h0 true .i64 true (.v 1) (.s 2)) ∧
    decodeWords (fw 0x08A 2 0x001 0x102 0x003) none = .ok (.iand h0 false .b64 (.v 1) (.s 2) (.op (.v 3))) ∧
    decodeWords (fw 0x08B 2 0x001 0x102 0x003) none = .ok (.ior h0 false .b64 (.v 1) (.s 2) (.op (.v 3))) ∧
    decodeWords (fw 0x08C 2 0x001 0x102 0x003) none = .ok (.ixor h0 false .b64 (.v 1) (.s 2) (.op (.v 3))) ∧
    decodeWords (fw 0x08D 2 0x001 0x102 0) none = .ok (.inot h0 .b64 (.v 1) (.s 2)) ∧
    decodeWords (fw 0x08E 2 0x001 0x102 0x003) none = .ok (.ishl h0 false .b64 (.v 1) (.s 2) (.op (.v 3))) ∧
    decodeWords (fw 0x08F 2 0x001 0x102 0x003) none = .ok (.ishr h0 false .b64 (.v 1) (.s 2) (.op (.v 3))) ∧
    decodeWords (fw 0x090 2 0x001 0x102 0x003) none = .ok (.isra h0 false .b64 (.v 1) (.s 2) (.op (.v 3))) ∧
    decodeWords (lw 0x091 2 0x001 0x102 0) (some (sw 0x184 (x 52 1) 0x2A)) = .ok (.ifunnel h0 .b64 (.v 1) (.s 2) (.imm 0x2A) (.const 4)) ∧
    decodeWords (fw 0x092 2 0x001 0x102 0) none = .ok (.ipopc h0 .b64 (.v 1) (.s 2)) ∧
    decodeWords (fw 0x093 2 0x001 0x102 0) none = .ok (.iclz h0 .b64 (.v 1) (.s 2)) ∧
    decodeWords (lw 0x094 2 0x001 0x102 0) (some (sw 0 (x 51 1 + x 52 1) 0x2A)) = .ok (.ibfe h0 true .b64 true (.v 1) (.s 2) (.imm 0x2A)) ∧
    decodeWords (lw 0x095 2 0x001 0x102 0) (some (sw 0x184 (x 52 1) 0x2A)) = .ok (.ibfi h0 .b64 (.v 1) (.s 2) (.imm 0x2A) (.const 4)) ∧
    decodeWords (lw 0x096 3 0x001 0x102 0) (some (sw 0x184 (x 51 1 + x 52 1) 0x2A)) = .ok (.idp4 h0 .us true (.v 1) (.s 2) (.imm 0x2A) (.const 4)) ∧
    decodeWords (lw 0x097 3 0x001 0x102 0) (some (sw 0x184 (x 51 1 + x 52 1) 0x2A)) = .ok (.idp2 h0 .us true (.v 1) (.s 2) (.imm 0x2A) (.const 4)) ∧
    decodeWords (lw 0x098 3 0x001 0x102 0) (some (sw 0 (x 47 5 + x 52 1) 0x2A)) = .ok (.icmp h0 .n64 .ge (kf 1) (.s 2) (.imm 0x2A)) ∧
    decodeWords (lw 0x099 2 0x001 0x102 0) (some (sw 0x002 (x 52 1) 0x2A)) = .ok (.isel h0 .b64 (.v 1) (.s 2) (.imm 0x2A) (kf 2)) :=
  ⟨rfl, rfl, rfl, rfl, rfl, rfl, rfl, rfl, rfl, rfl, rfl, rfl, rfl, rfl, rfl, rfl, rfl, rfl, rfl, rfl, rfl, rfl, rfl, rfl, rfl, rfl⟩

theorem test_decode_vector_float :
    decodeWords (lw 0x0E0 3 0x001 0x102 0) (some (sw 0 (x 50 3 + x 52 1) 0x2A)) = .ok (.fadd h0 true .bf16 .rd (.v 1) (.s 2) (.imm 0x2A)) ∧
    decodeWords (lw 0x0E1 3 0x001 0x102 0) (some (sw 0 (x 50 3 + x 52 1) 0x2A)) = .ok (.fsub h0 true .bf16 .rd (.v 1) (.s 2) (.imm 0x2A)) ∧
    decodeWords (lw 0x0E2 3 0x001 0x102 0) (some (sw 0 (x 50 3 + x 52 1) 0x2A)) = .ok (.fmul h0 true .bf16 .rd (.v 1) (.s 2) (.imm 0x2A)) ∧
    decodeWords (lw 0x0E3 3 0x001 0x102 0) (some (sw 0x184 (x 50 3 + x 52 1) 0x2A)) = .ok (.ffma h0 .bf16 .rd (.v 1) (.s 2) (.imm 0x2A) (.const 4)) ∧
    decodeWords (fw 0x0E4 3 0x001 0x102 0x003) none = .ok (.fmin h0 false .bf16 (.v 1) (.s 2) (.op (.v 3))) ∧
    decodeWords (fw 0x0E5 3 0x001 0x102 0x003) none = .ok (.fmax h0 false .bf16 (.v 1) (.s 2) (.op (.v 3))) ∧
    decodeWords (lw 0x0E6 3 0x001 0x102 0) (some (sw 0 (x 47 7 + x 52 1) 0x2A)) = .ok (.fcmp h0 .bf16 .ord (kf 1) (.s 2) (.imm 0x2A)) ∧
    decodeWords (fw 0x0E7 3 0x001 0x102 0) none = .ok (.fclass h0 .bf16 (.v 1) (.s 2)) ∧
    decodeWords (lw 0x0E8 3 0x001 0x102 0) (some (sw 0 (x 50 3) 0)) = .ok (.frnd h0 true .bf16 .rd (.v 1) (.s 2)) ∧
    decodeWords (fw 0x0E9 0 0x001 0x102 0) none = .ok (.frcp h0 (.v 1) (.s 2)) ∧
    decodeWords (fw 0x0EA 0 0x001 0x102 0) none = .ok (.frsq h0 (.v 1) (.s 2)) ∧
    decodeWords (lw 0x0EB 1 0x001 0x102 0) (some (sw 0 (x 50 3) 0)) = .ok (.fsqrt h0 true .f64 .rd (.v 1) (.s 2)) ∧
    decodeWords (fw 0x0EC 0 0x001 0x102 0) none = .ok (.fexp2 h0 (.v 1) (.s 2)) ∧
    decodeWords (fw 0x0ED 0 0x001 0x102 0) none = .ok (.flog2 h0 (.v 1) (.s 2)) ∧
    decodeWords (fw 0x0EE 0 0x001 0x102 0) none = .ok (.fsin h0 (.v 1) (.s 2)) ∧
    decodeWords (fw 0x0EF 0 0x001 0x102 0) none = .ok (.fcos h0 (.v 1) (.s 2)) ∧
    decodeWords (fw 0x0F0 0 0x001 0x102 0) none = .ok (.ftanh h0 (.v 1) (.s 2)) ∧
    decodeWords (lw 0x0F1 1 0x001 0x102 0) (some (sw 0 (x 50 3 + x 52 1) 0x2A)) = .ok (.hadd2 h0 true .bf16 .rd (.v 1) (.s 2) (.imm 0x2A)) ∧
    decodeWords (lw 0x0F2 1 0x001 0x102 0) (some (sw 0 (x 50 3 + x 52 1) 0x2A)) = .ok (.hmul2 h0 true .bf16 .rd (.v 1) (.s 2) (.imm 0x2A)) ∧
    decodeWords (lw 0x0F3 1 0x001 0x102 0) (some (sw 0x184 (x 50 3 + x 52 1) 0x2A)) = .ok (.hfma2 h0 .bf16 .rd (.v 1) (.s 2) (.imm 0x2A) (.const 4)) ∧
    decodeWords (fw 0x0F4 1 0x001 0x102 0x003) none = .ok (.hmin2 h0 false .bf16 (.v 1) (.s 2) (.op (.v 3))) ∧
    decodeWords (fw 0x0F5 1 0x001 0x102 0x003) none = .ok (.hmax2 h0 false .bf16 (.v 1) (.s 2) (.op (.v 3))) ∧
    decodeWords (lw 0x0F6 1 0x001 0x102 0) (some (sw 0x184 (x 50 3 + x 52 1) 0x2A)) = .ok (.fdot2 h0 .bf16 .rd (.v 1) (.s 2) (.imm 0x2A) (.const 4)) :=
  ⟨rfl, rfl, rfl, rfl, rfl, rfl, rfl, rfl, rfl, rfl, rfl, rfl, rfl, rfl, rfl, rfl, rfl, rfl, rfl, rfl, rfl, rfl, rfl⟩

theorem test_decode_conversion :
    decodeWords (fw 0x160 3 0x001 0x102 0x10A) none = .ok (.cvt h0 .rd ⟨true, 0, 10⟩ (.v 1) (.s 2)) ∧
    decodeWords (lw 0x161 1 0x001 0x102 0x003) (some (sw 0 (x 48 13 + x 44 10 + x 43 1) 0)) = .ok (.cvtSr h0 .hi .e5m2 .f16 true (.v 1) (.s 2) (.v 3)) ∧
    decodeWords (fw 0x162 1 0x001 0x102 0x003) none = .ok (.pack h0 false .b32 (.v 1) (.s 2) (.op (.v 3))) ∧
    decodeWords (fw 0x163 3 0x001 0x102 0x003) none = .ok (.unpack h0 false .i8 (.v 1) (.s 2) (.op (.v 3))) ∧
    decodeWords (fw 0x164 1 0x001 0x102 0x003) none = .ok (.qnt h0 false .q4 (.v 1) (.s 2) (.op (.v 3))) ∧
    decodeWords (lw 0x165 1 0x001 0x102 0x003) (some (sw 0x184 0 0)) = .ok (.dqnt h0 .q4 (.v 1) (.s 2) (.v 3) (.const 4)) ∧
    decodeWords (lw 0x166 0 0x001 0x102 0x003) (some (sw 0 0 0x1234)) = .ok (.rng h0 true (.v 1) (.s 2) (.v 3) 0x1234) :=
  ⟨rfl, rfl, rfl, rfl, rfl, rfl, rfl⟩

theorem test_decode_lane_predicate :
    decodeWords (fw 0x180 3 0x001 0x102 0x003) none = .ok (.shfl h0 false .xor (.v 1) (.s 2) (.op (.v 3))) ∧
    decodeWords (fw 0x181 3 0x001 0x003 0) none = .ok (.vote h0 (.ballot (.v 1)) (kf 3)) ∧
    decodeWords (fw 0x182 2 0x001 0x102 0x001) none = .ok (.wred h0 .max ⟨1, 0⟩ (.v 1) (.s 2)) ∧
    decodeWords (fw 0x183 1 0x001 0x102 0x001) none = .ok (.wscan h0 .min ⟨1, 0⟩ (.v 1) (.s 2)) ∧
    decodeWords (fw 0x184 2 0x001 0x102 0) none = .ok (.matchW h0 .b64 (.v 1) (.s 2)) ∧
    decodeWords (fw 0x188 0 0x001 0x003 0x004) none = .ok (.kand h0 (kf 1) (kf 3) (kf 4)) ∧
    decodeWords (fw 0x189 0 0x001 0x003 0x004) none = .ok (.kor h0 (kf 1) (kf 3) (kf 4)) ∧
    decodeWords (fw 0x18A 0 0x001 0x003 0x004) none = .ok (.kxor h0 (kf 1) (kf 3) (kf 4)) ∧
    decodeWords (fw 0x18B 0 0x001 0x003 0) none = .ok (.knot h0 (kf 1) (kf 3)) ∧
    decodeWords (fw 0x18C 2 0x102 0x003 0) none = .ok (.kmov h0 (.toS (.s 2) (kf 3))) ∧
    decodeWords (fw 0x18D 0 0x001 0x003 0) none = .ok (.kpop h0 (.v 1) (kf 3)) :=
  ⟨rfl, rfl, rfl, rfl, rfl, rfl, rfl, rfl, rfl, rfl, rfl⟩

theorem test_decode_load_store :
    decodeWords (lw 0x1A0 1 0x001 0x102 0x003) (some (sw 0 (x 50 1 + x 49 1 + x 46 4 + x 43 2 + x 41 1 + x 40 1) 0x1234)) = .ok (.ld h0 true .gmem .b16 true .die .acq .stream true (.v 1) (.s 2) (.v 3) 0x1234) ∧
    decodeWords (lw 0x1A1 2 0x001 0x102 0x003) (some (sw 0 (x 50 3 + x 46 3 + x 43 3 + x 41 2 + x 40 1) 0x1234)) = .ok (.st h0 true .cmem .b64 .cluster .rel .noL1 true (.v 1) (.s 2) (.v 3) 0x1234) ∧
    decodeWords (lw 0x1A2 2 0x001 0x102 0x003) (some (sw 0x002 (x 50 0 + x 49 1 + x 46 2 + x 40 1 + x 37 4 + x 35 1 + x 36 1) 0x1234)) = .ok (.ldfe h0 .cmem .b8 true .group true .host true (.v 1) (.s 2) (.v 3) 0x1234 (some (kf 2))) ∧
    decodeWords (lw 0x1A3 2 0x001 0x102 0x003) (some (sw 0 (x 50 4 + x 46 3 + x 40 1) 0x1234)) = .ok (.stfe h0 true .cmem .b128 .cluster true (.v 1) (.s 2) (.v 3) 0x1234) ∧
    decodeWords (lw 0x1A4 2 0x001 0x102 0x003) (some (sw 0 (x 50 3 + x 46 6 + x 43 4 + x 36 13) 0x1234)) = .ok (.atom h0 .cmem .b64 .system .acqrel .fmax (.v 1) (.s 2) (.v 3) 0x1234) ∧
    decodeWords (lw 0x1A5 2 0x001 0x102 0x003) (some (sw 0x184 (x 50 3 + x 46 4 + x 43 3) 0x1234)) = .ok (.atomc h0 .cmem .b64 .die .rel (.v 1) (.s 2) (.v 3) (.const 4) 0x1234) ∧
    decodeWords (lw 0x1A6 2 0 0x102 0x003) (some (sw 0 (x 50 2 + x 46 4 + x 43 3 + x 36 7) 0x1234)) = .ok (.red h0 .cmem .b32 .die .rel .xor (.s 2) (.v 3) 0x1234) ∧
    decodeWords (lw 0x1A7 0 0 0 0) (some (sw 0 (x 46 5 + x 43 5) 0)) = .ok (.fence h0 .device .sc) ∧
    decodeWords (lw 0x1A8 1 0 0x102 0x003) (some (sw 0 (x 40 1) 0x1234)) = .ok (.pref h0 true .l2 true (.s 2) (.v 3) 0x1234) ∧
    decodeWords (lw 0x1A9 0 0 0x102 0x003) (some (sw 0 (x 40 1) 0x1234)) = .ok (.cctlL1ev h0 true true (.s 2) (.v 3) 0x1234) ∧
    decodeWords (lw 0x1A9 1 0 0x102 0x003) (some (sw 0 (x 40 1) 0x1234)) = .ok (.cctlL2ev h0 true true (.s 2) (.v 3) 0x1234) ∧
    decodeWords (lw 0x1A9 2 0 0x102 0x003) (some (sw 0 (x 40 1) 0x1234)) = .ok (.cctlZero h0 true true (.s 2) (.v 3) 0x1234) ∧
    decodeWords (fw 0x1AA 0 0 0 0) none = .ok (.ifence h0) :=
  ⟨rfl, rfl, rfl, rfl, rfl, rfl, rfl, rfl, rfl, rfl, rfl, rfl, rfl⟩

theorem test_decode_matrix :
    decodeWords (lw 0x1D0 3 0 0x102 0x003) (some (sw 0 (x 47 1) 0x1234)) = .ok (.wld h0 (.q4 .g64) (.s 2) (.v 3) 0x1234) ∧
    decodeWords (fw 0x1D1 0 0 0 0) none = .ok (.wflip h0) ∧
    decodeWords (lw 0x1D2 3 0 0x006 0x003) (some (sw 0 (x 49 1 + x 51 1 + x 52 1) 0)) = .ok (.mms h0 .e5m2 true true (.regs (.v 6)) (.v 3)) ∧
    decodeWords (lw 0x1D3 1 0 0x102 0x003) (some (sw 0 (x 47 2 + x 51 1) 0x1234)) = .ok (.mmsq h0 .q4 .g128 true (.s 2) (.v 3) 0x1234) ∧
    decodeWords (lw 0x1D4 0 0 0 0x003) (some (sw 0 0 0)) = .ok (.aclr h0 (.v 3)) ∧
    decodeWords (lw 0x1D5 0 0 0x006 0x003) (some (sw 0 (x 52 1) 0)) = .ok (.ald h0 (.regs (.v 6)) (.v 3)) ∧
    decodeWords (lw 0x1D6 1 0 0x102 0x003) (some (sw 0 0 0x1234)) = .ok (.ast h0 .glob (.s 2) (.v 3) 0x1234) ∧
    decodeWords (lw 0x1D7 0 0x006 0 0x003) (some (sw 0 (x 44 4 + x 40 13 + x 39 1 + x 38 1 + x 51 1 + x 52 1) 0)) = .ok (.adrn h0 .clamp .e5m2 true true true (.regs (.v 6)) (.v 3)) ∧
    decodeWords (lw 0x1D8 0 0 0 0x003) (some (sw 0 0 0)) = .ok (.amov h0 (.v 3)) ∧
    decodeWords (lw 0x1D9 0 0 0x102 0x003) (some (sw 0 0 0x1234)) = .ok (.smx h0 (.s 2) (.v 3) 0x1234) ∧
    decodeWords (lw 0x1DA 0 0 0 0x003) (some (sw 0 0 0)) = .ok (.smxrInit h0 (.v 3)) ∧
    decodeWords (lw 0x1DA 1 0 0 0x003) (some (sw 0 0 0)) = .ok (.smxrNorm h0 (.v 3)) ∧
    decodeWords (lw 0x1DA 2 0 0x102 0x003) (some (sw 0 0 0)) = .ok (.smxrRd h0 (.s 2) (.v 3)) ∧
    decodeWords (lw 0x1DA 3 0 0x102 0x003) (some (sw 0 0 0)) = .ok (.smxrWr h0 (.s 2) (.v 3)) :=
  ⟨rfl, rfl, rfl, rfl, rfl, rfl, rfl, rfl, rfl, rfl, rfl, rfl, rfl, rfl⟩

theorem test_decode_fast_weight :
    decodeWords (fw 0x1E0 0 0 0x102 0) none = .ok (.cbind h0 (.s 2)) ∧
    decodeWords (fw 0x1E0 1 0 0x102 0x003) none = .ok (.cbindSw h0 (.s 2) (.v 3)) ∧
    decodeWords (fw 0x1E1 0 0 0x102 0) none = .ok (.crel h0 (.s 2)) ∧
    decodeWords (fw 0x1E1 1 0 0x102 0) none = .ok (.crelPin h0 (.s 2)) ∧
    decodeWords (fw 0x1E1 2 0 0x102 0) none = .ok (.crelUnpin h0 (.s 2)) ∧
    decodeWords (fw 0x1E2 1 0 0 0x003) none = .ok (.delta h0 true (.v 3)) ∧
    decodeWords (fw 0x1E3 0 0 0 0x003) none = .ok (.dqry h0 (.v 3)) ∧
    decodeWords (fw 0x1E4 0 0 0x102 0) none = .ok (.cspill h0 (.s 2)) ∧
    decodeWords (fw 0x1E5 0 0 0x102 0) none = .ok (.cfill h0 (.s 2)) ∧
    decodeWords (fw 0x1E6 0 0x001 0x102 0) none = .ok (.cstat h0 (.v 1) (.s 2)) ∧
    decodeWords (fw 0x1E6 1 0x001 0x102 0) none = .ok (.cstatH h0 (.v 1) (.s 2)) :=
  ⟨rfl, rfl, rfl, rfl, rfl, rfl, rfl, rfl, rfl, rfl, rfl⟩

theorem test_decode_copy :
    decodeWords (lw 0x1E8 1 0x001 0x102 0x003) (some (sw 0 (x 51 2 + x 49 1 + x 48 1 + x 45 3) 0)) = .ok (.cpy h0 .sb .cmem .gmem true .cluster (.v 1) (.s 2) (.v 3)) ∧
    decodeWords (lw 0x1E9 1 0x001 0x102 0) (some (sw 0 (x 51 1 + x 49 0 + x 48 1 + x 45 5) 0x1234)) = .ok (.cpyz h0 .sb .gmem .glob true .device (.v 1) (.s 2) 0x1234) ∧
    decodeWords (lw 0x1EA 1 0x001 0x102 0x003) (some (sw 0x184 (x 51 2 + x 49 0 + x 48 1 + x 45 5) 0)) = .ok (.cpyg h0 .sb .cmem .glob true .device (.v 1) (.s 2) (.v 3) (.const 4)) ∧
    decodeWords (lw 0x1EB 1 0x001 0x102 0x003) (some (sw 0x184 (x 51 0 + x 49 2 + x 45 6) 0)) = .ok (.cpys h0 .sb .glob .cmem false .system (.v 1) (.s 2) (.v 3) (.const 4)) ∧
    decodeWords (lw 0x1EC 1 0x001 0x102 0x003) (some (sw 0x184 (x 51 2 + x 49 1 + x 48 1 + x 45 3) 0)) = .ok (.cpyb h0 .sb .cmem .gmem true .cluster (.v 1) (.s 2) (.v 3) (.const 4)) ∧
    decodeWords (lw 0x1ED 1 0x001 0x102 0x003) (some (sw 0x184 (x 51 0 + x 49 0 + x 45 6) 0)) = .ok (.cpyxSend h0 .sb .glob .glob false .system (.v 1) (.s 2) (.v 3) (.const 4)) ∧
    decodeWords (lw 0x1ED 1 0x001 0x102 0x003) (some (sw 0x184 (x 51 0 + x 49 0 + x 45 5 + x 44 1) 0)) = .ok (.cpyxFetch h0 .sb .glob .glob false .device (.v 1) (.s 2) (.v 3) (.const 4)) :=
  ⟨rfl, rfl, rfl, rfl, rfl, rfl, rfl⟩

theorem test_decode_spatial :
    decodeWords (fw 0x1F0 3 0 0x102 0) none = .ok (.spenter h0 .s22 (.s 2)) ∧
    decodeWords (fw 0x1F1 0 0 0 0) none = .ok (.spleave h0) ∧
    decodeWords (fw 0x1F2 0 0 0x102 0x003) none = .ok (.spstream h0 false (.s 2) (.op (.v 3))) ∧
    decodeWords (fw 0x1F3 0 0 0x102 0x003) none = .ok (.spparamBase h0 false (.s 2) (.op (.v 3))) ∧
    decodeWords (fw 0x1F3 1 0 0x102 0x003) none = .ok (.spparamExt h0 false (.s 2) (.op (.v 3))) ∧
    decodeWords (fw 0x1F4 0 0 0 0) none = .ok (.spdrain h0) ∧
    decodeWords (fw 0x1F5 0 0x001 0 0) none = .ok (.spstatRect h0 (.v 1)) ∧
    decodeWords (fw 0x1F5 1 0x001 0x102 0) none = .ok (.spstatGen h0 (.v 1) (.s 2)) ∧
    decodeWords (fw 0x1F5 2 0x001 0x102 0) none = .ok (.spstatPos h0 (.v 1) (.s 2)) :=
  ⟨rfl, rfl, rfl, rfl, rfl, rfl, rfl, rfl, rfl⟩

theorem test_decode_trap :
    decodeWords (fw 0x1F8 0 0 0 0x003) none = .ok (.trap h0 (.v 3)) ∧
    decodeWords (fw 0x1F9 0 0 0 0) none = .ok (.xret h0) ∧
    decodeWords (fw 0x1FA 0 0 0 0x003) none = .ok (.bkpt h0 (.v 3)) ∧
    decodeWords (fw 0x1FB 0 0 0 0x003) none = .ok (.halt h0 false (.op (.v 3))) :=
  ⟨rfl, rfl, rfl, rfl⟩

theorem test_decode_pair :
    decodeWords (BitVec.ofNat 64 (1 * 2 ^ 62 + 15 * 2 ^ 42 + 0x01 * 2 ^ 37 + 4 * 2 ^ 29 + 9 * 2 ^ 21 + 0x12 * 2 ^ 16 + 6 * 2 ^ 8 + 11)) none =
      .ok (.pairWord { stall := 0, wait := 0, aop := 0x01, adst := 4, asrc := 9, bop := 0x12, bdst := 6, bsrc := 11 }) := rfl

/-! ### Ill-formed terms: one for each check of `WellFormed` -/

def setH : Hdr := { h0 with set := some 3 }

theorem test_illformed_flag_on_fixed_latency :
    WellFormed (.nop setH) = false ∧ WellFormed (.bra setH 0) = false ∧ WellFormed (.ffma setH .f32 .rne (.v 0) (.v 0) (.op (.v 0)) (.v 0)) = false ∧
    WellFormed (.shfl setH false .idx (.v 0) (.v 0) (.op (.v 0))) = false ∧ WellFormed (.trap setH (.const 0)) = false ∧
    WellFormed (.kmov setH (.k (kf 1) (kf 2))) = false := by decide

theorem test_illformed_immediate_in_full_form :
    WellFormed (.waitf h0 false ⟨0, 0⟩ (.imm 1)) = false ∧ WellFormed (.yieldW h0 false (.imm 1)) = false ∧
    WellFormed (.regx h0 false (.const 0) (.imm 1)) = false ∧ WellFormed (.bar h0 false (.const 0) (.imm 1)) = false ∧
    WellFormed (.smov h0 false .b32 (.s 0) (.imm 1)) = false ∧ WellFormed (.iadd h0 false .i32 false (.v 0) (.v 0) (.imm 1)) = false ∧
    WellFormed (.fadd h0 false .f32 .rne (.v 0) (.v 0) (.imm 1)) = false ∧ WellFormed (.rng h0 false (.v 0) (.v 0) (.v 0) 1) = false ∧
    WellFormed (.spstream h0 false (.const 0) (.imm 1)) = false ∧ WellFormed (.halt h0 false (.imm 1)) = false ∧
    WellFormed (.kmov h0 (.s false (kf 1) (.imm 1))) = false := by decide

theorem test_illformed_modifier_in_full_form :
    WellFormed (.sadd h0 false .i32 true (.s 0) (.s 0) (.op (.s 0))) = false ∧
    WellFormed (.sbfe h0 false .b32 true (.s 0) (.s 0) (.op (.s 0))) = false ∧ WellFormed (.iabs h0 false .i32 true (.v 0) (.v 0)) = false ∧
    WellFormed (.fadd h0 false .f32 .rz (.v 0) (.v 0) (.op (.v 0))) = false ∧ WellFormed (.frnd h0 false .f32 .ru (.v 0) (.v 0)) = false ∧
    WellFormed (.fsqrt h0 false .f32 .rd (.v 0) (.v 0)) = false := by decide

theorem test_illformed_address_in_full_form :
    WellFormed (.bara h0 false .gmem (.s 0) (.s 1) (.s 2) 8) = false ∧ WellFormed (.barw h0 false .gmem (.s 0) (.s 1) 8 none) = false ∧
    WellFormed (.barw h0 false .gmem (.s 0) (.s 1) 0 (some (kf 1))) = false ∧ WellFormed (.pref h0 false .l1 true (.s 0) (.s 2) 0) = false ∧
    WellFormed (.cctlZero h0 false false (.s 0) (.s 2) 8) = false ∧
    WellFormed (.ld h0 false .gmem .b64 false .thread .weak .none false (.v 0) (.v 1) (.v 2) 0) = false ∧
    WellFormed (.st h0 false .gmem .b32 .thread .weak .none true (.v 0) (.v 1) (.v 2) 0) = false ∧
    WellFormed (.stfe h0 false .gmem .b32 .cluster false (.v 0) (.v 1) (.v 2) 0) = false := by decide

theorem test_illformed_wide_immediate_of_half :
    WellFormed (.fadd h0 true .f16 .rne (.v 0) (.v 0) (.imm 0x13C00)) = false ∧
    WellFormed (.ffma h0 .bf16 .rne (.v 0) (.v 0) (.imm 0x10000) (.v 0)) = false ∧
    WellFormed (.hfma2 h0 .f16 .rne (.v 0) (.v 0) (.imm 0x10000) (.v 0)) = false ∧
    WellFormed (.fadd h0 true .f16 .rne (.v 0) (.v 0) (.imm 0x3C00)) = true := by decide

theorem test_illformed_pair :
    (let p (a b c d : BitVec 8) : PairWord := { stall := 0, wait := 0, aop := 1, adst := a, asrc := b, bop := 2, bdst := c, bsrc := d }
     WellFormed (.pairWord (p 4 9 4 11)) = false ∧ WellFormed (.pairWord (p 4 9 6 13)) = false ∧ WellFormed (.pairWord (p 4 9 6 11)) = true ∧
     WellFormed (.pairWord (p 4 4 5 6)) = true) := by decide

theorem test_illformed_conversion :
    WellFormed (.cvtSr h0 .lo .e4m3 .e5m2 false (.v 0) (.v 0) (.v 0)) = false ∧ WellFormed (.cvtSr h0 .lo .f16 .bf16 false (.v 0) (.v 0) (.v 0)) = false := by
  decide

theorem test_illformed_reduction :
    WellFormed (.wred h0 .or ⟨2, 0⟩ (.s 0) (.v 0)) = false ∧ WellFormed (.wscan h0 .or ⟨2, 0⟩ (.v 0) (.v 0)) = false := by decide

theorem test_illformed_wait :
    WellFormed (.waitm h0 .glob .b16 false .device .any .eq (.s 0) (.s 0) (.s 0) 0 none) = false ∧
    WellFormed (.waitm h0 .glob .b32 false .warp .any .eq (.s 0) (.s 0) (.s 0) 0 none) = false := by decide

theorem test_illformed_access :
    WellFormed (.ld h0 true .glob .b32 false .thread .rel .none false (.v 0) (.v 1) (.v 2) 0) = false ∧
    WellFormed (.ld h0 true .glob .b32 false .group .weak .none false (.v 0) (.v 1) (.v 2) 0) = false ∧
    WellFormed (.ld h0 true .glob .b32 true .thread .weak .none false (.v 0) (.v 1) (.v 2) 0) = false ∧
    WellFormed (.ld h0 true .glob .b128 false .group .acq .none false (.v 0) (.v 1) (.v 2) 0) = false ∧
    WellFormed (.ld h0 true .const .b32 false .thread .weak .stream false (.v 0) (.v 1) (.v 2) 0) = false ∧
    WellFormed (.st h0 true .glob .b32 .group .acq .none false (.v 0) (.v 1) (.v 2) 0) = false ∧
    WellFormed (.ldfe h0 .gmem .b32 false .thread false .any false (.v 0) (.v 1) (.v 2) 0 none) = false ∧
    WellFormed (.stfe h0 true .gmem .b32 .warp false (.v 0) (.v 1) (.v 2) 0) = false := by decide

theorem test_illformed_atomic :
    WellFormed (.atom h0 .glob .b16 .device .rlx .add (.v 0) (.v 1) (.v 2) 0) = false ∧
    WellFormed (.atomc h0 .glob .b32 .device .sc (.v 0) (.v 1) (.v 2) (.v 3) 0) = false ∧
    WellFormed (.red h0 .glob .b32 .device .acq .add (.v 1) (.v 2) 0) = false ∧
    WellFormed (.red h0 .glob .b32 .device .rlx .exch (.v 1) (.v 2) 0) = false ∧ WellFormed (.fence h0 .device .rlx) = false := by decide

theorem test_illformed_drain : WellFormed (.adrn h0 .relu .f32 false true false (.mem (.s 0) 0) (.s 8)) = false := by decide

theorem test_illformed_copy :
    WellFormed (.cpy h0 .sa .glob .gmem true .group (.s 0) (.s 2) (.s 8)) = false ∧
    WellFormed (.cpyz h0 .sa .glob .glob false .group (.s 0) (.s 2) 1) = false ∧
    WellFormed (.cpyg h0 .sa .gmem .gmem false .group (.s 0) (.s 2) (.s 8) (.s 1)) = false ∧
    WellFormed (.cpys h0 .sa .glob .gmem true .group (.s 0) (.s 2) (.s 8) (.s 1)) = false ∧
    WellFormed (.cpyb h0 .sa .cmem .gmem false .group (.s 0) (.s 2) (.s 8) (.s 1)) = false ∧
    WellFormed (.cpyxSend h0 .sa .glob .glob false .die (.s 0) (.s 2) (.s 8) (.s 1)) = false ∧
    WellFormed (.cpyxFetch h0 .sa .gmem .glob false .device (.s 0) (.s 2) (.s 8) (.s 1)) = false := by decide

/-! ### Words that are not instructions (Table EC-9) -/

/-- Rows 1 to 5 and a word cut short: FMT 0b11; a second word without FMT2; opcode 0x1FF; opcode 0x007, and the reserved MOD of
SAND; SET on NOP, an unused field of NOP, a pair word with both halves in bank 1. -/
theorem test_decode_rejects :
    decodeWords 0xC000000000000000 none = .error .notInstruction ∧ decodeWords (lw 0x0E3 0 1 2 3) (some 0x1234) = .error .secondWord ∧
    decodeWords (fw 0x1FF 0 0 0 0) none = .error .permanentlyIllegal ∧ decodeWords (fw 0x007 0 0 0 0) none = .error .unassigned ∧
    decodeWords (fw 0x048 1 0x101 0x102 0x103) none = .error .unassigned ∧ decodeWords 0x0000040000000000 none = .error .illegalEncoding ∧
    decodeWords (fw 0x000 0 1 0 0) none = .error .illegalEncoding ∧ decodeWords 0x44003C208132060D none = .error .illegalEncoding ∧
    decodeWords (lw 0x0E3 0 1 2 3) none = .error .tooShort :=
  ⟨rfl, rfl, rfl, rfl, rfl, rfl, rfl, rfl, rfl⟩

/-- The word of the spec's example from its bytes in memory order. -/
theorem test_decode_bytes :
    (decode [0x05, 0x07, 0x28, 0x00, 0x9C, 0x7E, 0x00, 0x04, 0xFF]).toOption.map (·.2) = some [0xFF] := by decide

/-! ### Witnesses: words, steps and the whole machine -/

theorem witness_StepRunsDecodedInstruction :
    (isWord (.hostSnpcur 0 0) = false ∧ isWord (.nop h0) = true) ∧
    (∃ rest, base.agenda = [] ∧ base.sched = .issue 0 0 :: rest ∧ base.issueSlots 0 0 = [] ++ 0 :: [] ∧ base.issueSlots 0 1 = []) ∧
    (∃ w, (base.issueFrom 0 0).warpAt 0 0 = some w ∧ w.faultDue = false ∧ (base.issueFrom 0 0).genFaultReady w = false ∧
      ∃ w0 w1, (base.issueFrom 0 0).fetchWords 0 w = .ok (w0, w1) ∧ ∃ i, decodeWords w0 w1 = .ok i) ∧
    (let s := State.reset.withFetchWord 64 0
     ∃ w, (s.issueFrom 0 0).warpAt 0 0 = some w ∧ ∃ w0 w1, (s.issueFrom 0 0).fetchWords 0 w = .ok (w0, w1) ∧
      ∃ e, decodeWords w0 w1 = .error e) :=
  ⟨⟨rfl, rfl⟩, ⟨_, rfl, rfl, rfl, rfl⟩, ⟨_, rfl, rfl, rfl, _, _, rfl, _, rfl⟩, ⟨_, rfl, _, _, rfl, _, rfl⟩⟩

theorem witness_DecodeOfEncode : isWord (.nop h0) = true ∧ WellFormed (.nop h0) = true := ⟨rfl, rfl⟩

theorem witness_StepKeepsMemoryCanonical : Memory.wf State.reset.mem = true ∧ ∃ t, step base = .next t := ⟨rfl, _, rfl⟩

/-- A NOP under the empty predicate. -/
theorem witness_EmptyMaskOnlyAdvances :
    hdrOf (.nop { h0 with pneg := true }) = some { h0 with pneg := true } ∧ base.ctx = some x0 ∧ x0.w.eff { h0 with pneg := true } = 0 :=
  ⟨rfl, rfl, by decide⟩

theorem witness_EffectiveMask :
    h0.pidx = 0#3 ∧ h0.pneg = false ∧ { h0 with pneg := true }.pneg = true ∧ { h0 with pidx := 7 }.pidx ≠ 0#3 ∧ (1 : Nat) ≠ 0 := by decide

/-- Two writes of a warp at its reset values to one register; `t1` and `t2` may be equal, in either order. -/
theorem witness_LastWriteStays :
    (∀ r p, ({ w0 with pend := p } : Warp).pend = p ∧ SMap.wf RegVal.zero w0.s = true ∧ SMap.wf zeroLanes w0.v = true ∧
      SMap.wf (0 : Word) w0.k = true ∧ laneOn fullMask (r % 32) = true) ∧
    (let w : Warp := { w0 with v := [(5, tab fun _ => rv 9)], settled := [{ due := 4, ord := 2, wr := .v 5 fullMask (tab fun _ => rv 9) }] }
     w.lane 5 31 = (tab fun _ => rv 9).getD 31 RegVal.zero ∧ SMap.wf zeroLanes w.v = true ∧ ∀ p ∈ w.settled, p.ord ≤ 2) := by
  refine ⟨fun r p => ⟨rfl, by decide, by decide, by decide, ?_⟩, by decide⟩
  have h : ∀ l < 32, laneOn fullMask l = true := by decide
  exact h _ (Nat.mod_lt _ (by decide))

/-- Two writes to one register whose values appear in one cycle, between others. -/
theorem witness_LastWriteOfMany :
    let p : Pend := { due := 4, ord := 2, wr := .s 7 (rv 9) }
    let w : Warp := { w0 with pend := [{ due := 4, ord := 1, wr := .s 7 (rv 8) }, p, { due := 3, ord := 3, wr := .s 7 (rv 5) }]
                              settled := [{ due := 4, ord := 2, wr := .s 7 (rv 8) }, p, { due := 4, ord := 1, wr := .s 7 (rv 5) }] }
    (w.pend = [{ due := 4, ord := 1, wr := .s 7 (rv 8) }] ++ p :: [{ due := 3, ord := 3, wr := .s 7 (rv 5) }] ∧ p.due ≤ 4) ∧
    w.settled = [{ due := 4, ord := 2, wr := .s 7 (rv 8) }] ++ p :: [{ due := 4, ord := 1, wr := .s 7 (rv 5) }] ∧ 0 < p.ord ∧
    SMap.wf RegVal.zero w.s = true ∧ (w.settle 4).sreg 7 = rv 9 ∧ (w.complete 4 0 [.s 7 (rv 1)]).sreg 7 = rv 9 := by
  decide

theorem witness_ArithmeticFrame :
    let i : Instr := .sadd h0 false .n32 false (.s 1) (.s 2) (.op (.s 3))
    hdrOf i = some h0 ∧ (∃ D, destsOf i = some D) ∧ base.ctx = some x0 ∧ ∃ t, exec i base = .next t :=
  ⟨rfl, ⟨_, rfl⟩, rfl, ⟨_, rfl⟩⟩

/-- A full-form store of v0 at the address in s0 writes its bytes, and lies outside the frame's other bytes. -/
theorem witness_StoreFrame :
    mapped.ctx = some x0 ∧ (∃ t, exec (.st h0 false .glob .b32 .thread .weak .none false (.v 0) (.s 0) (.v 2) 0) mapped = .next t) ∧
    (∃ t, exec (.stfe h0 false .gmem .b32 .group false (.v 0) (.s 1) (.v 2) 0) mapped = .next t) ∧
    (∃ t, exec (.atom h0 .gmem .b32 .group .rlx .add (.v 4) (.v 0) (.v 1) 0) mapped = .next t) ∧
    (∃ t, exec (.atomc h0 .gmem .b32 .group .rlx (.v 4) (.v 0) (.v 1) (.v 2) 0) mapped = .next t) ∧
    (∃ t, exec (.red h0 .gmem .b32 .group .rlx .add (.v 0) (.v 1) 0) mapped = .next t) :=
  ⟨rfl, ⟨_, rfl⟩, ⟨_, rfl⟩, ⟨_, rfl⟩, ⟨_, rfl⟩, ⟨_, rfl⟩⟩

/-- A CCTL.ZERO, a copy word, and the step of a request's element. -/
theorem witness_StoreFrameRequests :
    (∃ t, exec (.cctlZero h0 true true (.s 94) (.v 255) 128) mapped = .next t) ∧
    (∃ t, exec (.cpy h0 .sa .gmem .glob false .group (.const 63) (.s 94) (.s 48)) engState = .next t) ∧
    (let r := copyReq .cpy [elem0 (some (.sram 1 0)) (some (.sram 1 32))] [] none
     headOf .sa ((copyState r false).core 0).copy = some ([], r, []) ∧ r.elems = elem0 (some (.sram 1 0)) (some (.sram 1 32)) :: [] ∧
       ∃ t, exec (.copyElement 0 .sa) (copyState r false) = .next t) :=
  ⟨⟨_, rfl⟩, ⟨_, rfl⟩, ⟨rfl, rfl, _, rfl⟩⟩

/-! ### Worked examples of the spec -/

/-- File 02, after R46: 1 + 2^−8 narrowed to BF16, to nearest and stochastically with two random values. -/
theorem test_narrow_to_bf16 :
    round (Fmt.f32.toEx 0x3F808000) .bf16 .rne false = 0x3F80 ∧ roundSr (Fmt.f32.toEx 0x3F808000) .bf16 0x7FFF false = 0x3F80 ∧
    roundSr (Fmt.f32.toEx 0x3F808000) .bf16 0x8000 false = 0x3F81 ∧ roundSr (Fmt.f32.toEx 0x3F800001) .bf16 0xFFFF false = 0x3F81 ∧
    roundSr (Fmt.f32.toEx 0x3F800001) .bf16 0xFFFE false = 0x3F80 := by decide

/-- File 02, after R51: 1.3 with σ = 0.5 and z = −3 in four bits, and the codes 5 and −2 dequantised. -/
theorem test_quantise :
    quant 0x3FA66666 0x3800 (-3) 4 = 0 ∧ dequant 5 (-3) 0x3800 = 0x40800000 ∧ dequant (-2) (-3) 0x3800 = 0x3F000000 := by decide

/-- File 02, after R53: sixteen products of 2^−25 added to 1.0 in one step. -/
theorem test_accumulate_step :
    accStep 0x3F800000 (List.replicate 16 (Fmt.bf16.toEx 0x3980, Fmt.bf16.toEx 0x3900)) = 0x3F800004 := by decide

/-- A vector register with one value on every lane. -/
def vregOf (x : Nat) : Lanes := tab fun _ => rv x

/-- File 05, after Table AL-15: the FFMA of the example rounds 2^−22 + 2^−46 toward zero, or up. -/
theorem test_ffma_rounds :
    (let w : Warp := { w0 with v := [(2, vregOf 0x3F800001), (9, vregOf 0xBF800000)], s := [(4, rv 0x3F800001)] }
     let value (rm : RM) : Option Nat :=
       match exec (.ffma h0 .f32 rm (.v 8) (.v 2) (.op (.s 4)) (.v 9)) (acting w) with
       | .next t => t.warp.map fun u => ((u.settle 1000).lane 8 31).val.toNat
       | _ => none
     value .rz = some 0x34800000 ∧ value .ru = some 0x34800001) := by decide +kernel

/-- File 08, Table TC-9: `?k1 TRAP 3` at 0x1_0000_0200 with act 0xFFFF and k1 0xF0; its vector has V = 1 and HPC 0x4000. -/
def trapExample : Machine.State :=
  { acting { w0 with pc := 0x100000200, act := 0xFFFF, depth := 1, ntok := 3, held := [loopTok, loopTok, joinTok], k := [(1, 0xF0)] } with
    mem := putBytes [] 0x1330 (leBytes 8 0x4001) }

/-- The warp in its handler, and after XRET. -/
def trapped : Option Warp :=
  match exec (.trap { h0 with pidx := 1 } (.const 3)) trapExample with
  | .next t => t.warp
  | _ => none

theorem test_trap_entry :
    (trapped.map fun w => (w.xpc, w.xcause, w.xmask, w.act, w.depth)) = some (0x100000208, 0x33, 0xF0, 0xFFFFFFFF, 1) ∧
    (trapped.map fun w => (w.ntok, w.dmark, w.hstate)) = some (3, 3, true) := by decide +kernel

def returned : Option Warp :=
  match exec (.trap { h0 with pidx := 1 } (.const 3)) trapExample with
  | .next t => match exec (.xret h0) t with
    | .next u => u.warp
    | _ => none
  | _ => none

theorem test_trap_return :
    (returned.map fun w => (w.pc, w.act, w.depth, w.ntok, w.hstate)) = some (0x100000208, 0xFFFF, 1, 3, false) := by decide +kernel

/-- File 08, Table TC-10: the record of eight warps of 64 registers and 128 KiB takes 0x3CB00 bytes. -/
theorem test_save_record_size : RecShape.at_ { w := 8, a := 64, g := 131072, sp := 0 } 11 = 0x3CB00 := by decide

/-- R47: the sum wraps, and with .SAT it does not. -/
theorem test_add_wraps :
    (let w : Warp := { w0 with s := [(2, rv 0x7FFFFFFF)] }
     let value (sat : Bool) : Option Nat :=
       match exec (.sadd h0 true .i32 sat (.s 4) (.s 2) (.op (.const 1))) (acting w) with
       | .next t => t.warp.map fun u => ((u.settle 1000).sreg 4).val.toNat
       | _ => none
     value false = some 0x80000000 ∧ value true = some 0x7FFFFFFF) := by decide +kernel

/-- R76, R79: a write to k0 is discarded, and a vector destination keeps its lanes outside the effective mask. -/
theorem test_masked_move :
    (let w : Warp := { w0 with v := [(1, vregOf 5), (2, vregOf 9)], k := [(1, 1)] }
     (match exec (.mov { h0 with pidx := 1 } false .b32 (.v 1) (.op (.v 2))) (acting w) with
      | .next t => t.warp.map fun u => (((u.settle 1000).lane 1 0).val, ((u.settle 1000).lane 1 1).val)
      | _ => none) = some (9, 5) ∧
     (match exec (.knot h0 (kf 0) (kf 0)) (acting w) with
      | .next t => t.warp.map fun u => (u.settle 1000).kreg 0
      | _ => none) = some 0xFFFFFFFF) := by decide +kernel

end Sys2Proof.Tests
end

section
namespace Sys2Proof.Machine

/-! ### A step (R16, R68, R104, R105) -/

/-- What an event or a word answers, unless an access in it has to wait: then it has not happened, and `other` is the answer
(R442). -/
def unlessStalled (r other : Host.Outcome State Fault Refusal) : Host.Outcome State Fault Refusal :=
  match r with
  | .next t => if t.stalled then other else .next t
  | r => r

theorem unlessStalled_of_stalled {t : State} (h : t.stalled = true) (other : Host.Outcome State Fault Refusal) :
    unlessStalled (.next t) other = other := if_pos h

/-- An event of the agenda happens, unless it has to wait. -/
theorem State.runEvent_of_event {i : Instr} (h : isWord i = false) (s : State) :
    s.runEvent i = unlessStalled (exec i s) (.next s) := by
  simp only [State.runEvent, h, Bool.false_eq_true, if_false]
  cases exec i s with
  | next t => exact apply_ite Host.Outcome.next _ _ _
  | fault _ => rfl
  | refused _ => rfl

theorem State.runEvent_of_word {i : Instr} (h : isWord i = true) (s : State) : s.runEvent i = .next s := if_pos h

theorem step_of_agenda {s : State} {i : Instr} {rest : List Instr} (h : s.agenda = i :: rest) :
    step s = State.runEvent { s with stalled := false, agenda := rest } i := by
  simp only [step, h]

theorem step_of_issue_turn {s : State} {c q : Nat} {rest : List Turn} (ha : s.agenda = []) (hs : s.sched = .issue c q :: rest) :
    let s0 : State := { s with stalled := false, sched := rest }
    step s = s0.issueFirst c (s0.issueSlots c q) := by
  simp only [step, ha, State.nextTurn, hs, State.runTurn]

/-! #### The first warp of some slots that need not wait -/

theorem State.issueFirst_nil (s : State) (c : Nat) : s.issueFirst c [] = .next s := rfl

theorem State.issueFirst_cons (s : State) (c j : Nat) (js : List Nat) :
    s.issueFirst c (j :: js) = unlessStalled (s.issueWarp c j) (s.issueFirst c js) := by
  rw [State.issueFirst]
  cases s.issueWarp c j <;> rfl

/-- Warps whose words have to wait are passed over. -/
theorem State.issueFirst_append_of_stalled {s : State} {c : Nat} {js : List Nat}
    (h : ∀ j ∈ js, ∃ t : State, s.issueWarp c j = .next t ∧ t.stalled = true) (ks : List Nat) :
    s.issueFirst c (js ++ ks) = s.issueFirst c ks := by
  induction js with
  | nil => rfl
  | cons j js ih =>
    obtain ⟨t, ht, hstalled⟩ := h j List.mem_cons_self
    rw [List.cons_append, State.issueFirst_cons, ht, unlessStalled_of_stalled hstalled,
      ih fun i hi => h i (List.mem_cons_of_mem _ hi)]

/-! #### The word of one warp -/

section IssueWarp

variable {s : State} {c j : Nat} {w : Warp} (hw : (s.issueFrom c j).warpAt c j = some w) (hf : w.faultDue = false)
  (hg : (s.issueFrom c j).genFaultReady w = false)
include hw hf hg

theorem State.issueWarp_of_decoded {w0 : DWord} {w1 : Option DWord} {i : Instr}
    (hx : (s.issueFrom c j).fetchWords c w = .ok (w0, w1)) (hi : decodeWords w0 w1 = .ok i) :
    s.issueWarp c j = exec i ((s.issueFrom c j).touchWords c w) := by
  simp only [State.issueWarp, hw, hf, hg, hx, hi, Bool.false_eq_true, if_false]

theorem State.issueWarp_of_rejected {w0 : DWord} {w1 : Option DWord} {e : DecodeErr}
    (hx : (s.issueFrom c j).fetchWords c w = .ok (w0, w1)) (he : decodeWords w0 w1 = .error e) :
    s.issueWarp c j = .next (rejectWord e w0 ((s.issueFrom c j).touchWords c w)) := by
  simp only [State.issueWarp, hw, hf, hg, hx, he, Bool.false_eq_true, if_false]

theorem State.issueWarp_of_fetch_error {f : GFault} {va : Nat} (hx : (s.issueFrom c j).fetchWords c w = .error (f, va)) :
    s.issueWarp c j = .next (((s.issueFrom c j).touchWords c w).takeTrap (fetchTrap w f va)) := by
  simp only [State.issueWarp, hw, hf, hg, hx, Bool.false_eq_true, if_false]

end IssueWarp

/-- Settles O51: an event by `runEvent`, and an issue turn by passing over the warps that have to wait and running the word of
the first that need not. -/
theorem stepRunsDecodedInstruction : Obligations.StepRunsDecodedInstruction := by
  intro s now unlessWaits
  refine ⟨?_, ?_⟩
  · intro i rest ha s0
    rw [step_of_agenda ha]
    exact ⟨fun hi => State.runEvent_of_event hi s0, fun hi => State.runEvent_of_word hi s0⟩
  · intro c q rest ha hs s0 waits
    have hstep : step s = s0.issueFirst c (s0.issueSlots c q) := step_of_issue_turn ha hs
    refine ⟨fun hall => ?_, fun before j after w hslots hbefore hw hf hg => ?_⟩
    · rw [hstep, ← List.append_nil (s0.issueSlots c q), State.issueFirst_append_of_stalled hall, State.issueFirst_nil]
    · have hruns {r : Host.Outcome State Fault Refusal} (hr : s0.issueWarp c j = r) :
          step s = unlessStalled r (s0.issueFirst c after) := by
        rw [hstep, hslots, State.issueFirst_append_of_stalled hbefore, State.issueFirst_cons, hr]
      exact ⟨fun w0 w1 hx => ⟨fun i hi => hruns (State.issueWarp_of_decoded hw hf hg hx hi),
          fun e he => hruns (State.issueWarp_of_rejected hw hf hg hx he)⟩,
        fun f va hx => hruns (State.issueWarp_of_fetch_error hw hf hg hx)⟩

end Sys2Proof.Machine
end

section
namespace Sys2Proof.Machine

/-! ### Barriers and the rendezvous of REGX (R115, R259, R266, R267) -/

theorem exec_barrierPhaseComplete (gid : Nat) (b : BitVec 4) (s : State) :
    exec (.barrierPhaseComplete gid b) s = .next (s.completeBar gid b.toNat) := rfl

theorem exec_cbarPhaseComplete (lid inst : Nat) (b : BitVec 2) (s : State) :
    exec (.cbarPhaseComplete lid inst b) s = .next (s.completeCbar lid inst b.toNat) := rfl

/-- The completion of a grid barrier is offered to each group of the launch on the core that it reaches. -/
theorem exec_gbarCompletion (lid c : Nat) (s : State) :
    exec (.gbarCompletion lid c) s = .next ((((s.gbarPhase lid).groups.filter fun p =>
      p.2.launch == lid && p.2.cores.contains c).map (·.1)).foldl State.gbarArrive (s.gbarPhase lid)) := rfl

theorem exec_regxCommit (c j : Nat) (s : State) : exec (.regxCommit c j) s = .next (s.regxCommit c j) := rfl

theorem State.completeBar_of_barDone {s : State} {gid b : Nat} {g : Group} (hg : s.group gid = some g)
    (hd : g.barDone (g.bars.get Barrier.closed b) = true) :
    s.completeBar gid b = (s.setGroup gid { g with bars := g.bars.del b }).unblockWarps (g.cores.headD 0)
      ((lanesOf (g.bars.get Barrier.closed b).arrived).filterMap fun wid => g.slots.find? wid) := by
  simp [State.completeBar, hg, hd]

theorem State.completeCbar_of_allWait {s : State} {lid inst b : Nat}
    (h : s.allWait (liveSlots (s.instance_ lid inst)) (fun w => w == .cbar b) = true) :
    s.completeCbar lid inst b = s.unblockAll (liveSlots (s.instance_ lid inst)) := by
  simp [State.completeCbar, h]

/-- The groups of a launch that hold a place and have a warp left. -/
def State.liveGroups (s : State) (lid : Nat) : List (Nat × Group) :=
  (s.groups.filter fun p => p.2.launch == lid).filter fun p => !p.2.slots.isEmpty

/-- The arrivals of a grid barrier pass from the groups' dies to the leader's (R9). -/
def State.tellLeader (s : State) (l : Launch) (gs : List (Nat × Group)) : State :=
  gs.foldl (fun t p => t.pass (dieOf (p.2.cores.headD 0)) (s.leader l)) s

theorem State.fabricOnly_tellLeader (s : State) (l : Launch) (gs : List (Nat × Group)) : FabricOnly s (s.tellLeader l gs) :=
  FabricOnly.foldl _ (fun _ _ => fabricOnly_pass _ _ _) s gs

/-- The phase completes once every group of the launch has a place, no live group has an earlier completion still to come, and
all their warps wait. -/
theorem State.gbarPhase_of_arrived {s : State} {lid : Nat} {l : Launch} (hl : s.launch lid = some l)
    (hne : s.liveGroups lid ≠ []) (hphase : ∀ p ∈ s.liveGroups lid, p.2.gphase = l.gphase)
    (hwait : s.allWait (liveSlots (s.liveGroups lid)) (fun w => w == .gbar) = true)
    (hall : l.record.gx * l.record.gy * l.record.gz ≤
      (s.groups.filter fun p => p.2.launch == lid).length + l.retired.length + l.lost.length) :
    s.gbarPhase lid = { s.tellLeader l (s.liveGroups lid) with
      launches := s.launches.put lid { l with gphase := l.gphase + 1 } } := by
  have hlaunches : (s.tellLeader l (s.liveGroups lid)).launches = s.launches := by
    rw [s.fabricOnly_tellLeader l (s.liveGroups lid)]
  simp only [State.gbarPhase, hl]
  refine (if_pos ?_).trans (by rw [← hlaunches]; rfl)
  simp only [Bool.and_eq_true, decide_eq_true_eq, List.all_eq_true, beq_iff_eq, Bool.not_eq_true', List.isEmpty_eq_false_iff]
  exact ⟨⟨⟨hall, hne⟩, hphase⟩, hwait⟩

/-- While a completion has not reached a live group, no further phase completes. -/
theorem State.gbarPhase_of_unreached {s : State} {lid : Nat} {l : Launch} (hl : s.launch lid = some l)
    (h : ∃ p ∈ s.liveGroups lid, p.2.gphase ≠ l.gphase) : s.gbarPhase lid = s := by
  obtain ⟨p, hp, hne⟩ := h
  simp only [State.gbarPhase, hl]
  refine if_neg fun hall => hne ?_
  simp only [Bool.and_eq_true, List.all_eq_true, beq_iff_eq] at hall
  obtain ⟨⟨-, hphase⟩, -⟩ := hall
  exact hphase p hp

/-- A completion reaches a group that counts fewer phases than its launch: the warps that wait at GBAR go on. -/
theorem State.gbarArrive_of_due {s : State} {gid : Nat} {g : Group} {l : Launch} (hg : s.group gid = some g)
    (hl : s.launch g.launch = some l) (hdue : g.gphase < l.gphase) :
    s.gbarArrive gid = (((g.slots.map fun q => (g.cores.headD 0, q.2)).filter fun p =>
        (s.warpAt p.1 p.2).any fun w => w.wait == .gbar).foldl (fun a p => a.unblockAt p.1 p.2)
      ((s.pass (s.leader l) (dieOf (g.cores.headD 0))).setGroup gid { g with gphase := l.gphase })) := by
  simp [State.gbarArrive, hg, hl, hdue, State.unblockAll, liveSlots]

theorem State.trapAll_eq_foldl (s : State) (c : Nat) (js : List Nat) (t : Trap) :
    s.trapAll c js t = js.foldl (fun a i => a.trapWait c i t) s := by
  induction js generalizing s with
  | nil => rfl
  | cons j js ih => exact ih _

theorem regxCommits_iff (ps : List (Nat × Warp × Int × Word)) (m : Word) :
    regxCommits ps m = true ↔ (∀ q ∈ ps, q.2.2.2 = m) ∧ (ps.map fun q => q.2.2.1).sum = 0 ∧
      ∀ q ∈ ps, 8 ≤ (q.2.1.alloc : Int) + 8 * q.2.2.1 ∧ (q.2.1.alloc : Int) + 8 * q.2.2.1 ≤ 256 := by
  simp [regxCommits, and_assoc]

section Rendezvous

variable {s : State} {c j : Nat} {w : Warp} {g : Group} {d : Int} {m : Word}

/-- A warp that the mask names has exited: the participants trap. -/
theorem State.regxCommit_of_retired (hw : s.warpAt c j = some w) (hx : w.wait = .regx d m) (hg : s.group w.gid = some g)
    (hr : ∃ i ∈ maskMembers m, (g.retired.find? i).isSome = true) :
    s.regxCommit c j = s.trapAll c ((s.regxParty c g m).map (·.1)) (trapAt cRegx fullMask) := by
  have hany : (maskMembers m).any (fun i => (g.retired.find? i).isSome) = true := by simpa using hr
  simp [State.regxCommit, hw, regxOf, hx, hg, hany]

/-- Every named warp waits at REGX with its register writes complete: the exchange commits, or the participants trap. -/
theorem State.regxCommit_of_met (hw : s.warpAt c j = some w) (hx : w.wait = .regx d m) (hg : s.group w.gid = some g)
    (hr : ∀ i ∈ maskMembers m, g.retired.find? i = none) (hlen : (maskMembers m).length ≤ (s.regxParty c g m).length)
    (hp : ∀ p ∈ s.regxParty c g m, (s.core c).writesPending p.2.1 = false) :
    s.regxCommit c j =
      let s1 := s.flushAll c ((s.regxParty c g m).map (·.1))
      let qs := s1.regxParty c g m
      if regxCommits qs m then (s1.regxGive c qs []).1.regxTake c qs (s1.regxGive c qs []).2
      else s1.trapAll c (qs.map (·.1)) (trapAt cRegx fullMask) := by
  have hany : (maskMembers m).any (fun i => (g.retired.find? i).isSome) = false := by simpa using hr
  have hpend : (s.regxParty c g m).any (fun p => (s.core c).writesPending p.2.1) = false := by simpa using hp
  simp only [State.regxCommit, hw, regxOf, hx, hg, hany, hpend, Nat.not_lt.2 hlen, if_false, Bool.false_eq_true]

end Rendezvous

/-- Settles O24, by what each completion does: `completeBar`, `completeCbar`, `gbarPhase` with `gbarArrive`, and `regxCommit`. -/
theorem barrierAndExchangeEvents : Obligations.BarrierAndExchangeEvents := by
  intro s
  refine ⟨?_, ?_, ?_, ?_⟩
  · intro gid b g hg hd
    rw [exec_barrierPhaseComplete, State.completeBar_of_barDone hg hd]
  · intro lid inst b h
    rw [exec_cbarPhaseComplete, State.completeCbar_of_allWait h]
  · intro lid c l hl here live reached lead told
    refine ⟨fun hne hphase hwait hall => ?_, fun hun => ⟨?_, fun gid g hreached hg hlid hdue => ?_⟩⟩
    · have hgroups : (s.tellLeader l live).groups = s.groups := (s.fabricOnly_tellLeader l live).groups
      rw [exec_gbarCompletion, State.gbarPhase_of_arrived hl hne hphase hwait hall]
      change Host.Outcome.next (List.foldl _ _ (((s.tellLeader l live).groups.filter _).map _)) = _
      rw [hgroups]
      rfl
    · rw [exec_gbarCompletion, State.gbarPhase_of_unreached hl hun]
    · subst hlid
      rw [exec_gbarCompletion, State.gbarPhase_of_unreached hl hun]
      change Host.Outcome.next (reached.foldl _ s) = _
      rw [hreached, List.foldl_cons, List.foldl_nil, State.gbarArrive_of_due hg hl hdue]
      rfl
  · intro c j w g d m hw hx hg ps trapped
    have htrapped (q : State) (js : List Nat) : trapped q js = q.trapAll c js (trapAt cRegx fullMask) :=
      (State.trapAll_eq_foldl q c js _).symm
    refine ⟨fun hr => ?_, fun hr hlen hp => ?_⟩
    · rw [exec_regxCommit, State.regxCommit_of_retired hw hx hg hr, htrapped]
    · have hmet := State.regxCommit_of_met hw hx hg hr hlen hp
      refine ⟨fun hc => ?_, fun hc => ?_⟩
      · rw [exec_regxCommit, hmet]
        exact congrArg _ (if_pos ((regxCommits_iff _ m).2 hc))
      · rw [exec_regxCommit, hmet, htrapped]
        exact congrArg _ (if_neg fun h => hc ((regxCommits_iff _ m).1 h))

end Sys2Proof.Machine
end

section
namespace Sys2Proof.Machine

/-! ### Fetches, walks, and the delivery of traps and faults (R68, R185, R234, R305, R434) -/

/-- The event is the core's own fetch of the aligned word, for the address space of the warp in the slot. -/
theorem exec_instructionFetch {s : State} {c j : Nat} {w : Warp} (hw : s.warpAt c j = some w) (va : BitVec 57) :
    exec (.instructionFetch c j va) s = .next (s.fetchInto c (s.asidOf w) (va.toNat / 8 * 8)) := by
  change execInstructionFetch c j va s = _
  simp only [execInstructionFetch, hw]

theorem State.fetched_eq_false {s : State} {c asid va : Nat} (h : ∀ e ∈ (s.core c).icache, ¬ (e.asid = asid ∧ e.va = va)) :
    s.fetched c asid va = false := by
  simpa [State.fetched] using h

/-- A word that the core does not hold, and whose fetch succeeds, enters its instruction cache before the words held. -/
theorem State.fetchInto_of_missing {s : State} {c asid va pa : Nat} {x : DWord} {z : Bool}
    (hx : s.fetchWord c asid va = .ok x) (hp : s.probe c asid va .fetch = .ok (pa, z)) (hm : s.fetched c asid va = false) :
    let s1 := (s.walked c asid va).clusterFetch c pa
    s.fetchInto c asid va = s1.setCore c { s1.core c with
      icache := ({ asid := asid, va := va, word := x } :: (s1.core c).icache).take 8192 } := by
  simp [State.fetchInto, State.fetchTouch, hx, hp, hm, icacheWords]

/-- What a core's L1 TLB and its cluster's L2 TLB take in: the translation of the page that holds an address. -/
def tlbEntryFor (asid : BitVec 12) (va : BitVec 57) (t : Xlate) : TlbEntry :=
  { asid := asid.toNat, va := va.toNat / t.size * t.size, tr := t }

/-- A core's L1 TLB takes in an entry. -/
def State.takeTlb (s : State) (c : Nat) (e : TlbEntry) : State := s.setCore c { s.core c with tlb := e :: (s.core c).tlb }

section PageWalk

variable {s : State} {c : Nat} {asid : BitVec 12} {va : BitVec 57} {t : Xlate}

theorem exec_pageWalk_of_held (hm : (s.core c).tlbFind asid.toNat va.toNat = none)
    (hh : tlbLookup (s.l2tlbOf (clusterOf c)) asid.toNat va.toNat = some t) :
    exec (.pageWalk c asid va) s = .next (s.takeTlb c (tlbEntryFor asid va t)) := by
  change execPageWalk c asid va s = _
  simp only [execPageWalk, hm, hh, Option.isSome_none, Bool.false_eq_true, if_false]
  rfl

theorem exec_pageWalk_of_walk {sp : Machine.Space} (hm : (s.core c).tlbFind asid.toNat va.toNat = none)
    (hh : tlbLookup (s.l2tlbOf (clusterOf c)) asid.toNat va.toNat = none) (hs : s.space asid.toNat = some sp)
    (hw : s.walk sp va.toNat = .ok t) :
    exec (.pageWalk c asid va) s = .next (State.takeTlb { s.walked c asid.toNat va.toNat with
      l2tlb := (clusterOf c, tlbEntryFor asid va t) :: (s.walked c asid.toNat va.toNat).l2tlb } c (tlbEntryFor asid va t)) := by
  change execPageWalk c asid va s = _
  simp only [execPageWalk, hm, hh, hs, hw, Option.isSome_none, Bool.false_eq_true, if_false]
  rfl

end PageWalk

section Delivery

variable {s : State} {c j : Nat} {w : Warp} {t : Trap} {rest : List Trap}

theorem exec_trapEntry_of_settled {tw : TrapWait} (hw : s.warpAt c j = some w) (ht : w.trapWait = some tw)
    (hp : (s.core c).writesPending w = false) :
    exec (.trapEntry c j) s = .next ((s.flushAt c j).enterTrap c j tw) := by
  change execTrapEntry c j s = _
  simp [execTrapEntry, hw, ht, hp]

theorem exec_pendingFaultDelivery_of_takesFault (hw : s.warpAt c j = some w) (h : s.takesFault c j w = true) :
    exec (.pendingFaultDelivery c j) s = .next (s.deliverFault c j) := by
  change execPendingFaultDelivery c j s = _
  simp [execPendingFaultDelivery, hw, h]

/-- A warp that does not wait takes its first fault as a trap at its next word. -/
theorem State.deliverFault_of_issuing (hw : s.warpAt c j = some w) (hf : w.faults = t :: rest) (hd : w.faultDue = true)
    (hx : w.wait = .none) :
    s.deliverFault c j = (s.setWarpAt c j { w with faults := rest }).takeTrapAt c j (w.pc.setWidth 64) t := by
  simp [State.deliverFault, hw, hf, hd, hx]

/-- A warp that waits, but not at WAITF, takes it at the blocking instruction, which is rolled back. -/
theorem State.deliverFault_of_blocked (hw : s.warpAt c j = some w) (hf : w.faults = t :: rest) (hd : w.faultDue = true)
    (hx : w.wait ≠ .none) (hn : ∀ f n, w.wait ≠ .waitf f n) :
    s.deliverFault c j = (s.setWarpAt c j { w with faults := rest }).trapWait c j t := by
  cases hwait : w.wait with
  | none => exact absurd hwait hx
  | waitf f n => exact absurd hwait (hn f n)
  | _ => simp only [State.deliverFault, hw, hf, hd, hwait, if_true]

theorem State.takesFault_of_eligible (hx : w.wait = .none) (he : s.eligible c j = true) : s.takesFault c j w = true := by
  simp [State.takesFault, hx, he]

theorem State.takesFault_of_blocked {g : Group} (hx : w.wait ≠ .none) (hg : s.groupOf w = some g) (hr : g.run = .running)
    (hb : w.wait = .gbar → s.gbarDue w.gid = false) : s.takesFault c j w = true := by
  have hgbar : (w.wait == .gbar && s.gbarDue w.gid) = false := by
    cases hdue : s.gbarDue w.gid with
    | false => exact Bool.and_false _
    | true =>
      have hne : w.wait ≠ .gbar := fun he => Bool.noConfusion ((hb he).symm.trans hdue)
      rw [beq_eq_false_iff_ne.2 hne, Bool.false_and]
  simp only [State.takesFault, beq_eq_false_iff_ne.2 hx, hg, hr, hgbar, Option.any_some, beq_self_eq_true,
    Bool.false_eq_true, if_false, Bool.not_false, Bool.and_self]

end Delivery

/-- Settles O27, by what each event does to a core's caches, and by the two places where a fault is taken. -/
theorem fetchWalkAndDelivery : Obligations.FetchWalkAndDelivery := by
  intro s c j w hw
  refine ⟨?_, ?_, ?_, ?_⟩
  · intro va x a pa z hx hp hm
    rw [exec_instructionFetch hw, State.fetchInto_of_missing hx hp (State.fetched_eq_false hm)]
  · intro asid va t hmiss entry held takes
    exact ⟨exec_pageWalk_of_held hmiss, fun sp hh hs ht => exec_pageWalk_of_walk hmiss hh hs ht⟩
  · intro tw ht hp
    exact exec_trapEntry_of_settled hw ht hp
  · intro t rest hf hd
    refine ⟨fun hx he => ?_, fun g hx hn hg hr hb => ?_⟩
    · rw [exec_pendingFaultDelivery_of_takesFault hw (State.takesFault_of_eligible hx he),
        State.deliverFault_of_issuing hw hf hd hx]
    · rw [exec_pendingFaultDelivery_of_takesFault hw (State.takesFault_of_blocked hx hg hr hb),
        State.deliverFault_of_blocked hw hf hd hx hn]

end Sys2Proof.Machine
end

section
namespace Sys2Proof.Machine

/-! ### Requests of the matrix engine and the fast-weight unit (R32, R320, R321, R329, R367) -/

section ArrayRequests

variable {s : State} {c n : Nat} {r : ArrReq}

theorem exec_arrayRequestAccept (h : (s.core c).arr[n]? = some r) :
    exec (.arrayRequestAccept c n) s =
      if (s.core c).boundary then .next (s.setArr c n { r with accepted := true }) else .next s := by
  change execArrayRequestAccept c n s = _
  simp only [execArrayRequestAccept, h]

theorem Core.boundary_iff (k : Core) : k.boundary = true ↔ (k.cycle + k.phase) % 2 = 0 := by
  simp [Core.boundary]

theorem Core.arrReady_of_first {k : Core} (h : k.arr[n]? = some r) (ha : r.accepted = true) (hp : r.performed = false)
    (hf : ∀ q ∈ k.arr.take n, r.waitsFor q = false) : k.arrReady n = some r := by
  have hany : (k.arr.take n).any (fun q => r.waitsFor q) = false := by simpa using hf
  simp [Core.arrReady, h, ha, hp, hany]

theorem exec_accumulatorPortAccess_mx {o : MxOp} {a : MxArgs} (h : (s.core c).arrReady n = some r) (ho : r.op = .mx o a) :
    exec (.accumulatorPortAccess c n) s =
      .next ((s.mxPerform c r.gid o a).1.arrDone c n (s.mxPerform c r.gid o a).2.1 (s.mxPerform c r.gid o a).2.2) := by
  change execAccumulatorPortAccess c n s = _
  simp only [execAccumulatorPortAccess, h, ho]

theorem exec_accumulatorPortAccess_fw {o : FwOp} {a : FwArgs} (h : (s.core c).arrReady n = some r) (ho : r.op = .fw o a) :
    exec (.accumulatorPortAccess c n) s = .next (s.fwPerform c n r o a) := by
  change execAccumulatorPortAccess c n s = _
  simp only [execAccumulatorPortAccess, h, ho]

theorem State.mxPerform_of_poison {gid : Nat} {o : MxOp} {a : MxArgs} {t : Trap} (h : s.mxPoison c gid o a = some t) :
    s.mxPerform c gid o a = (s, [], some t) := by
  simp only [State.mxPerform, h]

theorem State.mxPerform_of_clean {gid : Nat} {o : MxOp} {a : MxArgs} (h : s.mxPoison c gid o a = none) :
    s.mxPerform c gid o a = s.mxEffect c gid o a := by
  simp only [State.mxPerform, h]

/-- Both engines complete a request in one way, each only its own. -/
theorem exec_matrixRequestCompletion (s : State) (c n : Nat) :
    exec (.matrixRequestCompletion c n) s = .next (s.arrComplete c n false) := rfl

theorem exec_fwRequestCompletion (s : State) (c n : Nat) :
    exec (.fwRequestCompletion c n) s = .next (s.arrComplete c n true) := rfl

/-- A request that has taken effect leaves the engine: its register writes land, its flag falls, and its fault, if any, becomes
pending. -/
theorem State.arrComplete_of_performed {rest : List ArrReq} (h : takeAt n (s.core c).arr = some (r, rest))
    (hp : r.performed = true) (ha : r.abandoned = false) :
    let s1 := (s.setCore c { s.core c with arr := rest }).completeOf r.gid r.wid r.ord r.writes r.flag
    s.arrComplete c n r.isFw = r.fault.elim s1 (s1.pendFault r.lid r.gid r.wid) := by
  simp only [State.arrComplete, h, hp, ha, Bool.false_and, beq_self_eq_true, Bool.not_false, Bool.and_self, if_true]
  cases r.fault <;> rfl

/-- The completion event of the request's own engine. -/
theorem exec_requestCompletion_of_arrComplete {t : State} (h : s.arrComplete c n r.isFw = t) :
    (r.isFw = false → exec (.matrixRequestCompletion c n) s = .next t) ∧
    (r.isFw = true → exec (.fwRequestCompletion c n) s = .next t) := by
  refine ⟨fun hf => ?_, fun hf => ?_⟩
  · rw [exec_matrixRequestCompletion, ← h, hf]
  · rw [exec_fwRequestCompletion, ← h, hf]

end ArrayRequests

/-- Settles O30: acceptance by the parity of the cycle, the effect by whether a request meets poison, and the completion by
whether it has a fault. -/
theorem arrayRequestEvents : Obligations.ArrayRequestEvents := by
  intro s c n r
  refine ⟨?_, ?_, ?_, ?_⟩
  · intro h hcycle
    rw [exec_arrayRequestAccept h, if_pos ((Core.boundary_iff _).2 hcycle)]
  · intro h hcycle
    rw [exec_arrayRequestAccept h, if_neg fun hb => by have := (Core.boundary_iff _).1 hb; omega]
  · intro h ha hp hfirst
    have hready := Core.arrReady_of_first h ha hp hfirst
    refine ⟨fun o a ho => ⟨fun t ht => ?_, fun hclean => ?_⟩, fun o a ho => ?_⟩
    · rw [exec_accumulatorPortAccess_mx hready ho, State.mxPerform_of_poison ht]
    · rw [exec_accumulatorPortAccess_mx hready ho, State.mxPerform_of_clean hclean]
    · exact exec_accumulatorPortAccess_fw hready ho
  · intro rest h hp ha s1
    have hdone : s.arrComplete c n r.isFw = r.fault.elim s1 (s1.pendFault r.lid r.gid r.wid) :=
      State.arrComplete_of_performed h hp ha
    refine ⟨fun hf => exec_requestCompletion_of_arrComplete ?_, fun t hf => exec_requestCompletion_of_arrComplete ?_⟩
    · rw [hdone, hf, Option.elim_none]
    · rw [hdone, hf, Option.elim_some]

end Sys2Proof.Machine
end

section
namespace Sys2Proof.Machine

/-! ### Vector float words (R42, R134, R141 to R144) -/

/-- Two operand checks hold where both fields do. -/
theorem Checks.all_two (i j : Nat) (p q : Bool) :
    List.all ([(i, p), (j, q)] : Checks) (fun c => c.2) = (p && q) := by
  simp

theorem Checks.all_three (i j k : Nat) (p q r : Bool) :
    List.all ([(i, p), (j, q), (k, r)] : Checks) (fun c => c.2) = (p && q && r) := by
  simp [Bool.and_assoc]

/-- A source in SRC2 adds its check to those of a form. -/
theorem Form.withSrc2_checks (f : Form) (ok : Nat → Bool) (c : Operand) (wide : Bool) (A : Nat) :
    ((f.withSrc2 ok c wide).checks A).all (fun p => p.2) = ((f.checks A).all (fun p => p.2) && ok A) := by
  simp [Form.withSrc2]

theorem vectorForm_checks (l : Bool) (nd : Nat) (wa wb : Bool) (d a : Operand) (b : Src) (A : Nat) :
    ((vectorForm l nd wa wb d a b).checks A).all (fun p => p.2) = (vDst A nd d && vSrc A wa a && vSrc1 A wb b) :=
  Checks.all_three ..

section Words

variable (h : Hdr) (l : Bool) (t : FTy) (rm : RM) (d a c : Operand) (b : Src) (s : State)

/-- R141: the operands' values after flushing, the exact sum, one rounding, and the flushing of the result. -/
theorem exec_fadd : exec (.fadd h l t rm d a b) s = float2 h l (fmtOfF t) d a b (fun fl m n =>
    flushIf fl (fmtOfF t) (round (sumEx rm
      [(fmtOfF t).toEx (flushIf fl (fmtOfF t) m), (fmtOfF t).toEx (flushIf fl (fmtOfF t) n)]) (fmtOfF t) rm false)) s := rfl

theorem exec_fsub : exec (.fsub h l t rm d a b) s = float2 h l (fmtOfF t) d a b (fun fl m n =>
    flushIf fl (fmtOfF t) (round (sumEx rm
      [(fmtOfF t).toEx (flushIf fl (fmtOfF t) m), ((fmtOfF t).toEx (flushIf fl (fmtOfF t) n)).negate])
      (fmtOfF t) rm false)) s := rfl

theorem exec_fmul : exec (.fmul h l t rm d a b) s = float2 h l (fmtOfF t) d a b (fun fl m n =>
    flushIf fl (fmtOfF t) (round
      (((fmtOfF t).toEx (flushIf fl (fmtOfF t) m)).mul ((fmtOfF t).toEx (flushIf fl (fmtOfF t) n)))
      (fmtOfF t) rm false)) s := rfl

theorem exec_fmin : exec (.fmin h l t d a b) s = float2 h l (fmtOfF t) d a b (minMaxFl false · (fmtOfF t)) s := rfl

theorem exec_fmax : exec (.fmax h l t d a b) s = float2 h l (fmtOfF t) d a b (minMaxFl true · (fmtOfF t)) s := rfl

theorem exec_ffma : exec (.ffma h t rm d a b c) s = execFfma h t rm d a b c s := rfl

theorem exec_fcmp (cc : Cond) (k : KField) : exec (.fcmp h t cc k a b) s = execFcmp h t cc k a b s := rfl

theorem exec_frnd : exec (.frnd h l t rm d a) s = float1 h l (fmtOfF t) (fmtOfF t == .f64) d a (fun fl n =>
    flushIf fl (fmtOfF t) (roundIntegral (fmtOfF t) rm (flushIf fl (fmtOfF t) n))) s := rfl

theorem exec_fclass : exec (.fclass h t d a) s = float1 h false (fmtOfF t) false d a (fun _ n => classMask (fmtOfF t) n) s :=
  rfl

theorem exec_frcp : exec (.frcp h d a) s = floatVar h false .f32 d a rcpAlg s := rfl

theorem exec_frsq : exec (.frsq h d a) s = floatVar h false .f32 d a rsqrtAlg s := rfl

theorem exec_fexp2 : exec (.fexp2 h d a) s = floatVar h false .f32 d a exp2Alg s := rfl

theorem exec_flog2 : exec (.flog2 h d a) s = floatVar h false .f32 d a log2Alg s := rfl

theorem exec_fsin : exec (.fsin h d a) s = floatVar h false .f32 d a sinAlg s := rfl

theorem exec_fcos : exec (.fcos h d a) s = floatVar h false .f32 d a cosAlg s := rfl

theorem exec_ftanh : exec (.ftanh h d a) s = floatVar h false .f32 d a tanhAlg s := rfl

theorem exec_fsqrt (t : SqTy) : exec (.fsqrt h l t rm d a) s =
    floatVar h l (fmtOfSq t) d a (fun n => sqrtRound (fmtOfSq t) rm ((fmtOfSq t).toEx n)) s := rfl

end Words

section FloatWords

variable {s : State} {x : Ctx} {h : Hdr} {l : Bool} {f : Fmt} {d a c : Operand} {b : Src}

theorem float2_ready {g : Bool → Nat → Nat → Nat}
    (r : VectorReady s x h (regsOf (f == .f64)) (f == .f64) (f == .f64) d a b) :
    float2 h l f d a b g s = .next (s.later x h (lenOf l) (latW (f == .f64) 4) (fWrite f (regOf d) (x.w.eff h) fun i =>
      g x.flush (x.read (.f f) a i).toNat (x.readSrc (.f f) b i).toNat)) :=
  alu_ready r (vectorForm_checks ..) rfl rfl rfl

theorem float1_ready {wd : Bool} {g : Bool → Nat → Nat} (r : VectorReady1 s x h (regsOf wd) (f == .f64) d a) :
    float1 h l f wd d a g s = .next (s.later x h (lenOf l) (latW (f == .f64) 4) (vWriteW wd (regOf d) (x.w.eff h) fun i =>
      BitVec.ofNat 64 (g x.flush (x.read (.f f) a i).toNat))) :=
  alu_ready r (Checks.all_two ..) rfl rfl rfl

/-- The product and the sum are exact: FFMA rounds once. -/
theorem execFfma_ready {t : FTy} {rm : RM}
    (r : VectorReady3 s x h (regsOf (fmtOfF t == .f64)) (fmtOfF t == .f64) (fmtOfF t == .f64) (fmtOfF t == .f64) d a b c) :
    let val (v : DWord) : Ex := (fmtOfF t).toEx (flushIf x.flush (fmtOfF t) v.toNat)
    execFfma h t rm d a b c s = .next (s.later x h 16 (latW (fmtOfF t == .f64) 4) (fWrite (fmtOfF t) (regOf d) (x.w.eff h)
      fun i => flushIf x.flush (fmtOfF t) (round (sumEx rm
        [(val (x.read (.f (fmtOfF t)) a i)).mul (val (x.readSrc (.f (fmtOfF t)) b i)), val (x.read (.f (fmtOfF t)) c i)])
        (fmtOfF t) rm false))) :=
  alu_ready r (by rw [Form.withSrc2_checks, vectorForm_checks]) rfl rfl rfl

theorem execFcmp_ready {t : FTy} {cc : Cond} {k : KField}
    (r : Ready s x h (kOk k && vSrc x.w.alloc (fmtOfF t == .f64) a && vSrc1 x.w.alloc (fmtOfF t == .f64) b)
      (Rd.of a (fmtOfF t == .f64) (x.w.eff h) :: Rd.src b (fmtOfF t == .f64) (x.w.eff h)) false) :
    execFcmp h t cc k a b s = .next (s.later x h 16 (latW (fmtOfF t == .f64) 4) (kWrite k (x.w.eff h) (maskOf fun i =>
      condEx cc ((fmtOfF t).toEx (x.read (.f (fmtOfF t)) a i).toNat)
        ((fmtOfF t).toEx (x.readSrc (.f (fmtOfF t)) b i).toNat)))) :=
  alu_ready r (Checks.all_three ..) rfl rfl rfl

/-- The state once a float word of variable latency has entered the queue of the lanes; the choice is the cycles beyond the
next before it may complete (R134). -/
def State.aluQueued (s : State) (x : Ctx) (h : Hdr) (len : Nat) (ws : List Wr) : State :=
  let p := (s.past x h len).choose
  p.2.setCurCore { p.2.curCore with alu := p.2.curCore.alu ++
    [{ gid := x.w.gid, wid := x.w.wid, ord := x.w.order + 1, due := x.cycle + 1 + p.1, writes := ws, flag := h.set }] }

theorem aluVar_ready {ok ctl : Bool} {reads : List Rd} {fm : Form} {wr : Ctx → LaneMask → List Wr}
    (r : Ready s x h ok reads ctl) (hc : (fm.checks x.w.alloc).all (fun p => p.2) = ok) (hr : fm.reads (x.w.eff h) = reads)
    (hs : fm.spatialOk = ctl) (he : fm.extra = 0) :
    aluVar h fm wr s = .next (s.aluQueued x h fm.len (wr x (x.w.eff h))) := by
  rw [aluVar, issue_ready r hc hr hs, he]
  rfl

/-- The function of the word is applied between the flushing of its operand and of its result (R42). -/
theorem floatVar_ready {g : Nat → Nat} (r : VectorReady1 s x h (regsOf (f == .f64)) (f == .f64) d a) :
    floatVar h l f d a g s = .next (s.aluQueued x h (lenOf l) (fWrite f (regOf d) (x.w.eff h) fun i =>
      flushIf x.flush f (g (flushIf x.flush f (x.read (.f f) a i).toNat)))) :=
  aluVar_ready r (Checks.all_two ..) rfl rfl rfl

end FloatWords

/-- Settles O5: by the shape of the word, two sources, three, a comparison or one source. -/
theorem vectorFloatResults : Obligations.VectorFloatResults := by
  intro s x h l t d a c b kD f w eff L fl A B C val out
  refine ⟨fun r => ?_, fun r rm => ?_, fun r cc => ?_, fun r rm => ?_, fun r => ?_⟩
  · have result (g : Bool → Nat → Nat → Nat) : float2 h l f d a b g s = .next (s.later x h (lenOf l) L
        (vWriteW w (regOf d) eff fun i => BitVec.ofNat 64 (g x.flush (A i) (B i)))) := float2_ready r
    exact ⟨fun rm => (exec_fadd ..).trans (result _), fun rm => (exec_fsub ..).trans (result _),
      fun rm => (exec_fmul ..).trans (result _), (exec_fmin ..).trans (result _), (exec_fmax ..).trans (result _)⟩
  · exact (exec_ffma ..).trans (execFfma_ready r)
  · exact (exec_fcmp ..).trans (execFcmp_ready r)
  · exact (exec_frnd ..).trans (float1_ready r)
  · exact (exec_fclass ..).trans (float1_ready (wd := false) r)

/-- Settles O6: every one of these words is a `floatVar`, the square root of either type and the others of FP32. -/
theorem specialFunctionResults : Obligations.SpecialFunctionResults := by
  intro s x h l d a eff queued fl res
  refine ⟨fun r => ?_, fun t rm => ?_⟩
  · have entered (g : Nat → Nat) : floatVar h false .f32 d a g s = .next (queued 8 (res .f32 g)) := floatVar_ready r
    exact ⟨(exec_frcp ..).trans (entered _), (exec_frsq ..).trans (entered _), (exec_fexp2 ..).trans (entered _),
      (exec_flog2 ..).trans (entered _), (exec_fsin ..).trans (entered _), (exec_fcos ..).trans (entered _),
      (exec_ftanh ..).trans (entered _)⟩
  · intro f r
    exact (exec_fsqrt ..).trans (floatVar_ready r)

end Sys2Proof.Machine
end

section
namespace Sys2Proof.Machine

/-! ### Scalar words (R108, R131, R136, R139) -/

theorem scalarForm_checks (l wd wa wb : Bool) (d a : Operand) (b : Src) (A : Nat) :
    ((scalarForm l wd wa wb d a b).checks A).all (fun p => p.2) = (sDst wd d && sSrc wa a && sSrc1 wb b) :=
  Checks.all_three ..

theorem scalarForm_withSrc2_checks (l wd wa wb wc : Bool) (d a c : Operand) (b : Src) (A : Nat) :
    (((scalarForm l wd wa wb d a b).withSrc2 (fun _ => sSrc wc c) c wc).checks A).all (fun p => p.2) =
      (sDst wd d && sSrc wa a && sSrc1 wb b && sSrc wc c) := by
  rw [Form.withSrc2_checks, scalarForm_checks]

/-- A predicate field in SRC2 adds its check to those of a form. -/
theorem Form.withK2_checks (f : Form) (k : KField) (A : Nat) :
    ((f.withK2 k).checks A).all (fun p => p.2) = ((f.checks A).all (fun p => p.2) && kOk k) := by
  simp [Form.withK2]

/-- One more operand check that holds. -/
theorem Ready.andOk {s : State} {x : Ctx} {h : Hdr} {ok ok' ctl : Bool} {reads : List Rd} (r : Ready s x h ok reads ctl)
    (hok : ok' = true) : Ready s x h (ok && ok') reads ctl :=
  { r with operands := by rw [r.operands, hok]; rfl }

/-! #### Operands read as an integer type -/

theorem widthW_beq_64 (w : Bool) : (widthW w == 64) = w := by cases w <;> rfl

theorem ityOf_width (t : IntTy) : (ityOf t).width = widthW (intWide t) := by cases t <;> rfl

theorem wideTy_width (t : WideTy) : (wideTy t).width = 32 := by cases t <;> rfl

theorem Ctx.int_of_width {ty : ITy} {w : Bool} (h : ty.width = widthW w) (x : Ctx) (o : Operand) (i : Nat) :
    x.int ty o i = ty.toInt (x.read (rdW w) o i) := by
  rw [Ctx.int, h, widthW_beq_64]

theorem Ctx.intSrc_of_width {ty : ITy} {w : Bool} (h : ty.width = widthW w) (x : Ctx) (b : Src) (i : Nat) :
    x.intSrc ty b i = ty.toInt (x.readSrc (rdW w) b i) := by
  rw [Ctx.intSrc, h, widthW_beq_64]

/-! #### The shapes of scalar words, once nothing stands in their way -/

section ScalarShapes

variable {s : State} {x : Ctx} {h : Hdr} {l : Bool} {d a c : Operand} {b : Src} {k : KField}

theorem scalarInt_ready {t : IntTy} {lat : Nat} {op : ITy → Int → Int → DWord}
    (r : ScalarReady s x h (intWide t) (intWide t) (intWide t) d a b) :
    scalarInt h l t lat d a b op s = .next (s.later x h (lenOf l) lat (sWriteW (intWide t) (regOf d)
      (op (ityOf t) (x.int (ityOf t) a 0) (x.intSrc (ityOf t) b 0)))) := by
  rw [x.int_of_width (ityOf_width t), x.intSrc_of_width (ityOf_width t)]
  exact alu_ready r (scalarForm_checks ..) rfl rfl rfl

theorem execSmad_ready {t : IntTy}
    (r : ScalarReady3 s x h (intWide t) (intWide t) (intWide t) (intWide t) d a b c) :
    execSmad h t d a b c s = .next (s.later x h 16 4 (sWriteW (intWide t) (regOf d) ((ityOf t).wrap
      (x.int (ityOf t) a 0 * x.intSrc (ityOf t) b 0 + x.int (ityOf t) c 0)))) := by
  rw [x.int_of_width (ityOf_width t), x.int_of_width (ityOf_width t), x.intSrc_of_width (ityOf_width t)]
  exact alu_ready r (scalarForm_withSrc2_checks ..) rfl rfl rfl

theorem execScmp_ready {t : IntTy} {cc : ICond}
    (r : Ready s x h (kOk k && sSrc (intWide t) a && sSrc1 (intWide t) b)
      (Rd.of a (intWide t) (x.w.eff h) :: Rd.src b (intWide t) (x.w.eff h)) true) :
    execScmp h t cc k a b s = .next (s.later x h 16 2
      [.k k.idx.toNat fullMask (allBits (icond cc (x.int (ityOf t) a 0) (x.intSrc (ityOf t) b 0)))]) := by
  rw [x.int_of_width (ityOf_width t), x.intSrc_of_width (ityOf_width t)]
  exact alu_ready r (Checks.all_three ..) rfl rfl rfl

theorem execSadd64_ready {t : WideTy} (r : ScalarReady s x h true true false d a b) :
    execSadd64 h l t d a b s = .next (s.later x h (lenOf l) 4 (sWriteW true (regOf d)
      (n64T.wrap (x.int n64T a 0 + x.intSrc (wideTy t) b 0)))) := by
  rw [x.intSrc_of_width (w := false) (wideTy_width t)]
  exact alu_ready r (scalarForm_checks ..) rfl rfl rfl

theorem execSmad64_ready {t : WideTy} (r : ScalarReady3 s x h true false false true d a b c) :
    execSmad64 h t d a b c s = .next (s.later x h 16 4 (sWriteW true (regOf d)
      (n64T.wrap (x.int (wideTy t) a 0 * x.intSrc (wideTy t) b 0 + x.int n64T c 0)))) := by
  rw [x.int_of_width (w := false) (wideTy_width t), x.intSrc_of_width (w := false) (wideTy_width t)]
  exact alu_ready r (scalarForm_withSrc2_checks ..) rfl rfl rfl

end ScalarShapes

section ScalarIntegerWords

variable (h : Hdr) (l : Bool) (t : IntTy) (d a : Operand) (b : Src) (s : State)

theorem exec_sadd (sat : Bool) :
    exec (.sadd h l t sat d a b) s = scalarInt h l t 2 d a b (fun ty m n => ty.result sat (m + n)) s := rfl

theorem exec_ssub (sat : Bool) :
    exec (.ssub h l t sat d a b) s = scalarInt h l t 2 d a b (fun ty m n => ty.result sat (m - n)) s := rfl

theorem exec_smul : exec (.smul h l t d a b) s = scalarInt h l t 4 d a b (fun ty m n => ty.wrap (m * n)) s := rfl

theorem exec_smin : exec (.smin h l t d a b) s = scalarInt h l t 2 d a b (fun ty m n => ty.wrap (min m n)) s := rfl

theorem exec_smax : exec (.smax h l t d a b) s = scalarInt h l t 2 d a b (fun ty m n => ty.wrap (max m n)) s := rfl

end ScalarIntegerWords

/-- Settles O1: by the type of the word, and then by its shape: two sources, three, or a comparison. -/
theorem scalarIntegerResults : Obligations.ScalarIntegerResults := by
  intro s x h l d a c b kD
  refine ⟨fun t => ?_, fun t => ⟨fun r => execSadd64_ready r, fun r => execSmad64_ready r⟩⟩
  intro w ty A B
  refine ⟨fun r => ?_, fun r => execSmad_ready r, fun r cc => execScmp_ready r⟩
  have result (lat : Nat) (op : ITy → Int → Int → DWord) : scalarInt h l t lat d a b op s =
      .next (s.later x h (lenOf l) lat (sWriteW w (regOf d) (op ty A B))) := scalarInt_ready r
  exact ⟨fun sat => (exec_sadd ..).trans (result ..), fun sat => (exec_ssub ..).trans (result ..),
    (exec_smul ..).trans (result ..), (exec_smin ..).trans (result ..), (exec_smax ..).trans (result ..)⟩

/-! #### Bit words -/

section ScalarBitShapes

variable {s : State} {x : Ctx} {h : Hdr} {l : Bool} {t : BitTy} {d a : Operand} {b : Src} {k : KField}

theorem execSmov_ready
    (r : Ready s x h (sDst (bitWide t) d && sSrc1 (bitWide t) b) (Rd.src b (bitWide t) (x.w.eff h)) true) :
    execSmov h l t d b s = .next (s.later x h (lenOf l) 2 (sWriteW (bitWide t) (regOf d)
      (x.readSrc (rdW (bitWide t)) b 0))) :=
  alu_ready r (Checks.all_two ..) rfl rfl rfl

theorem execSmovl_ready {imm : Word} (r : ScalarReady1 s x h true false d a) :
    execSmovl h d a imm s = .next (s.later x h 16 2
      (pairWrites (regOf d) (imm ++ (x.read .i32 a 0).setWidth 32) .clean)) :=
  alu_ready r (Checks.all_two ..) rfl rfl rfl

theorem scalarBit_ready {op : DWord → DWord → DWord}
    (r : ScalarReady s x h (bitWide t) (bitWide t) (bitWide t) d a b) :
    scalarBit h l t d a b op s = .next (s.later x h (lenOf l) 2 (sWriteW (bitWide t) (regOf d)
      (op (x.read (rdW (bitWide t)) a 0) (x.readSrc (rdW (bitWide t)) b 0)))) :=
  alu_ready r (scalarForm_checks ..) rfl rfl rfl

theorem execSsel_ready (r : ScalarReady s x h (bitWide t) (bitWide t) (bitWide t) d a b) (hk : kOk k = true) :
    execSsel h t d a b k s = .next (s.later x h 16 2 (sWriteW (bitWide t) (regOf d)
      (if x.k k ≠ 0 then x.read (rdW (bitWide t)) a 0 else x.readSrc (rdW (bitWide t)) b 0))) :=
  alu_ready (r.andOk hk) (by rw [Form.withK2_checks, scalarForm_checks]) rfl rfl rfl

theorem scalarCtl_ready {op : Nat → DWord → Nat → DWord} (r : ScalarReady s x h (bitWide t) (bitWide t) false d a b) :
    scalarCtl h l t d a b op s = .next (s.later x h (lenOf l) 2 (sWriteW (bitWide t) (regOf d)
      (op (widthW (bitWide t)) (x.read (rdW (bitWide t)) a 0) (x.n32Src b)))) :=
  alu_ready r (scalarForm_checks ..) rfl rfl rfl

/-- A count is written as the low 32 bits of its value. -/
theorem sWriteW_ofNat (r n : Nat) :
    sWriteW false r (BitVec.ofNat 64 n) = [.s r { val := BitVec.ofNat 32 n, tag := .clean }] :=
  congrArg (fun v : Word => [Wr.s r { val := v, tag := .clean }]) (BitVec.setWidth_ofNat_of_le (by decide) n)

theorem scalarCount_ready {op : Nat → Nat → Nat} (r : ScalarReady1 s x h false (bitWide t) d a) :
    scalarCount h t d a op s = .next (s.later x h 8 2 [.s (regOf d)
      { val := BitVec.ofNat 32 (op (widthW (bitWide t)) (x.read (rdW (bitWide t)) a 0).toNat), tag := .clean }]) := by
  rw [← sWriteW_ofNat]
  exact alu_ready r (Checks.all_two ..) rfl rfl rfl

end ScalarBitShapes

section ScalarBitWords

variable (h : Hdr) (l : Bool) (t : BitTy) (d a : Operand) (b : Src) (s : State)

theorem exec_sand : exec (.sand h l t d a b) s = scalarBit h l t d a b (· &&& ·) s := rfl

theorem exec_sor : exec (.sor h l t d a b) s = scalarBit h l t d a b (· ||| ·) s := rfl

theorem exec_sxor : exec (.sxor h l t d a b) s = scalarBit h l t d a b (· ^^^ ·) s := rfl

theorem exec_sshl : exec (.sshl h l t d a b) s = scalarCtl h l t d a b shlW s := rfl

theorem exec_sshr : exec (.sshr h l t d a b) s = scalarCtl h l t d a b shrW s := rfl

theorem exec_ssra : exec (.ssra h l t d a b) s = scalarCtl h l t d a b sraW s := rfl

theorem exec_sbfe (sx : Bool) :
    exec (.sbfe h l t sx d a b) s = scalarCtl h l t d a b (fun n m c => bfe n sx m c) s := rfl

theorem exec_spopc : exec (.spopc h t d a) s = scalarCount h t d a popCount s := rfl

theorem exec_sclz : exec (.sclz h t d a) s = scalarCount h t d a clz s := rfl

end ScalarBitWords

/-- Settles O2: by the shape of the word: a move, two bit operands, an operand and a control value, or a count. -/
theorem scalarBitResults : Obligations.ScalarBitResults := by
  intro s x h l d a b kC imm t w n A B N
  refine ⟨fun r => execSmov_ready r, fun r => execSmovl_ready r, fun r => ?_, fun r => ?_, fun r => ?_⟩
  · have result (op : DWord → DWord → DWord) : scalarBit h l t d a b op s =
        .next (s.later x h (lenOf l) 2 (sWriteW w (regOf d) (op A B))) := scalarBit_ready r
    exact ⟨(exec_sand ..).trans (result _), (exec_sor ..).trans (result _), (exec_sxor ..).trans (result _),
      fun hk => execSsel_ready r hk⟩
  · have result (op : Nat → DWord → Nat → DWord) : scalarCtl h l t d a b op s =
        .next (s.later x h (lenOf l) 2 (sWriteW w (regOf d) (op n A N))) := scalarCtl_ready r
    exact ⟨(exec_sshl ..).trans (result _), (exec_sshr ..).trans (result _), (exec_ssra ..).trans (result _),
      fun sx => (exec_sbfe ..).trans (result _)⟩
  · exact ⟨(exec_spopc ..).trans (scalarCount_ready r), (exec_sclz ..).trans (scalarCount_ready r)⟩

end Sys2Proof.Machine
end

section
namespace Sys2Proof.Machine

/-! ### Vector integer and bit words (R108, R131, R138 to R140) -/

theorem vectorForm_withSrc2_checks (nd : Nat) (wa wb wc : Bool) (d a c : Operand) (b : Src) (A : Nat) :
    (((vectorForm true nd wa wb d a b).withSrc2 (fun A => vSrc A wc c) c wc).checks A).all (fun p => p.2) =
      (vDst A nd d && vSrc A wa a && vSrc1 A wb b && vSrc A wc c) := by
  rw [Form.withSrc2_checks, vectorForm_checks]

theorem ITy.toInt_nonneg_of_unsigned (n : Nat) (v : DWord) : 0 ≤ ITy.toInt { width := n, signed := false } v := by
  simp only [ITy.toInt, Bool.false_and, Bool.false_eq_true, if_false]
  exact Int.natCast_nonneg _

section VectorIntegerShapes

variable {s : State} {x : Ctx} {h : Hdr} {l : Bool} {d a c : Operand} {b : Src} {k : KField}

theorem vecInt_ready {t : IntTy} {lat : Nat} {op : ITy → Int → Int → DWord}
    (r : VectorReady s x h (regsOf (intWide t)) (intWide t) (intWide t) d a b) :
    vecInt h l t lat d a b op s = .next (s.later x h (lenOf l) (latW (intWide t) lat)
      (vWriteW (intWide t) (regOf d) (x.w.eff h) fun i =>
        op (ityOf t) (x.int (ityOf t) a i) (x.intSrc (ityOf t) b i))) := by
  simp only [x.int_of_width (ityOf_width t), x.intSrc_of_width (ityOf_width t)]
  exact alu_ready r (vectorForm_checks ..) rfl rfl rfl

theorem execImad_ready {t : IntTy}
    (r : VectorReady3 s x h (regsOf (intWide t)) (intWide t) (intWide t) (intWide t) d a b c) :
    execImad h t d a b c s = .next (s.later x h 16 (latW (intWide t) 6)
      (vWriteW (intWide t) (regOf d) (x.w.eff h) fun i => (ityOf t).wrap
        (x.int (ityOf t) a i * x.intSrc (ityOf t) b i + x.int (ityOf t) c i))) := by
  simp only [x.int_of_width (ityOf_width t), x.intSrc_of_width (ityOf_width t)]
  exact alu_ready r (vectorForm_withSrc2_checks ..) rfl rfl rfl

theorem execIcmp_ready {t : IntTy} {cc : ICond}
    (r : Ready s x h (kOk k && vSrc x.w.alloc (intWide t) a && vSrc1 x.w.alloc (intWide t) b)
      (Rd.of a (intWide t) (x.w.eff h) :: Rd.src b (intWide t) (x.w.eff h)) false) :
    execIcmp h t cc k a b s = .next (s.later x h 16 (latW (intWide t) 4) [.k k.idx.toNat (x.w.eff h)
      (maskOf fun i => icond cc (x.int (ityOf t) a i) (x.intSrc (ityOf t) b i))]) := by
  simp only [x.int_of_width (ityOf_width t), x.intSrc_of_width (ityOf_width t)]
  exact alu_ready r (Checks.all_three ..) rfl rfl rfl

/-- The lanes' sums with carry, over unsigned operands of a width. -/
def Ctx.carrySum (x : Ctx) (w : Bool) (a : Operand) (b : Src) (k : KField) (i : Nat) : Int :=
  x.int { width := widthW w, signed := false } a i + x.intSrc { width := widthW w, signed := false } b i +
    (if laneOn (x.k k) i then 1 else 0)

/-- The model adds in the naturals. -/
theorem Ctx.natCast_carrySum (x : Ctx) (w : Bool) (a : Operand) (b : Src) (k : KField) (i : Nat) :
    let ty : ITy := { width := widthW w, signed := false }
    (((ty.toInt (x.read (rdW w) a i) + ty.toInt (x.readSrc (rdW w) b i)).toNat +
      (if laneOn (x.k k) i then 1 else 0) : Nat) : Int) = x.carrySum w a b k i := by
  intro ty
  have hnonneg : 0 ≤ ty.toInt (x.read (rdW w) a i) + ty.toInt (x.readSrc (rdW w) b i) :=
    Int.add_nonneg (ITy.toInt_nonneg_of_unsigned ..) (ITy.toInt_nonneg_of_unsigned ..)
  rw [Ctx.carrySum, x.int_of_width rfl, x.intSrc_of_width rfl, Int.natCast_add, Int.toNat_of_nonneg hnonneg]
  split <;> rfl

theorem execIaddc_ready {t : CarryTy} (hk : kOk k = true)
    (r : VectorReady s x h (regsOf (t == .n64)) (t == .n64) (t == .n64) d a b) :
    let w := t == .n64
    let ty : ITy := { width := widthW w, signed := false }
    execIaddc h t d a b k s = .next (s.later x h 16 (latW w 4)
      (vWriteW w (regOf d) (x.w.eff h) (fun i => ty.wrap (x.carrySum w a b k i)) ++
        [.k k.idx.toNat (x.w.eff h) (maskOf fun i => decide (x.carrySum w a b k i ≥ (2 ^ ty.width : Nat)))])) := by
  intro w ty
  simp only [← x.natCast_carrySum, ge_iff_le, Int.ofNat_le]
  exact alu_ready (r.andOk hk) (by rw [Form.withK2_checks, vectorForm_checks]) rfl rfl rfl

theorem execIabs_ready {t : AbsTy} {sat : Bool} (r : VectorReady1 s x h (regsOf (t == .i64)) (t == .i64) d a) :
    let ty : ITy := { width := widthW (t == .i64), signed := true }
    execIabs h l t sat d a s = .next (s.later x h (lenOf l) (latW (t == .i64) 4)
      (vWriteW (t == .i64) (regOf d) (x.w.eff h) fun i => ty.result sat (x.int ty a i).natAbs)) := by
  intro ty
  simp only [x.int_of_width (w := t == .i64) (ty := ty) rfl]
  exact alu_ready r (Checks.all_two ..) rfl rfl rfl

end VectorIntegerShapes

section VectorIntegerWords

variable (h : Hdr) (l : Bool) (t : IntTy) (d a : Operand) (b : Src) (s : State)

theorem exec_iadd (sat : Bool) :
    exec (.iadd h l t sat d a b) s = vecInt h l t 4 d a b (fun ty m n => ty.result sat (m + n)) s := rfl

theorem exec_isub (sat : Bool) :
    exec (.isub h l t sat d a b) s = vecInt h l t 4 d a b (fun ty m n => ty.result sat (m - n)) s := rfl

theorem exec_imul : exec (.imul h l t d a b) s = vecInt h l t 6 d a b (fun ty m n => ty.wrap (m * n)) s := rfl

theorem exec_imulh : exec (.imulh h l t d a b) s =
    vecInt h l t 6 d a b (fun ty m n => ty.wrap (m * n / (2 ^ ty.width : Nat))) s := rfl

theorem exec_imin : exec (.imin h l t d a b) s = vecInt h l t 4 d a b (fun ty m n => ty.wrap (min m n)) s := rfl

theorem exec_imax : exec (.imax h l t d a b) s = vecInt h l t 4 d a b (fun ty m n => ty.wrap (max m n)) s := rfl

end VectorIntegerWords

/-- Settles O3: by the type of the word, and then by its shape: two sources, three, a comparison, a sum with carry, or an
absolute value. -/
theorem vectorIntegerResults : Obligations.VectorIntegerResults := by
  intro s x h l d a c b kD kC eff
  refine ⟨fun t => ?_, fun _ r hk => execIaddc_ready hk r, fun _ r sat => execIabs_ready r⟩
  intro w ty A B L M
  refine ⟨fun r => ?_, fun r => execImad_ready r, fun r cc => execIcmp_ready r⟩
  have result (lat : Nat) (op : ITy → Int → Int → DWord) : vecInt h l t lat d a b op s =
      .next (s.later x h (lenOf l) (latW w lat) (vWriteW w (regOf d) eff fun i => op ty (A i) (B i))) := vecInt_ready r
  exact ⟨fun sat => (exec_iadd ..).trans (result ..), fun sat => (exec_isub ..).trans (result ..),
    (exec_imul ..).trans (result ..), (exec_imulh ..).trans (result ..), (exec_imin ..).trans (result ..),
    (exec_imax ..).trans (result ..)⟩

/-! #### Bit words -/

section VectorBitShapes

variable {s : State} {x : Ctx} {h : Hdr} {l : Bool} {t : BitTy} {d a c : Operand} {b : Src} {k : KField}

theorem execMov_ready (r : Ready s x h (vDst x.w.alloc (regsOf (bitWide t)) d && vSrc1 x.w.alloc (bitWide t) b)
      (Rd.src b (bitWide t) (x.w.eff h)) false) :
    execMov h l t d b s = .next (s.later x h (lenOf l) (latW (bitWide t) 4)
      (vWriteW (bitWide t) (regOf d) (x.w.eff h) (x.readSrc (rdW (bitWide t)) b))) :=
  alu_ready r (Checks.all_two ..) rfl rfl rfl

theorem vecBit_ready {op : DWord → DWord → DWord}
    (r : VectorReady s x h (regsOf (bitWide t)) (bitWide t) (bitWide t) d a b) :
    vecBit h l t d a b op s = .next (s.later x h (lenOf l) (latW (bitWide t) 4)
      (vWriteW (bitWide t) (regOf d) (x.w.eff h) fun i =>
        op (x.read (rdW (bitWide t)) a i) (x.readSrc (rdW (bitWide t)) b i))) :=
  alu_ready r (vectorForm_checks ..) rfl rfl rfl

theorem execIsel_ready (r : VectorReady s x h (regsOf (bitWide t)) (bitWide t) (bitWide t) d a b) (hk : kOk k = true) :
    execIsel h t d a b k s = .next (s.later x h 16 (latW (bitWide t) 4)
      (vWriteW (bitWide t) (regOf d) (x.w.eff h) fun i =>
        if laneOn (x.k k) i then x.read (rdW (bitWide t)) a i else x.readSrc (rdW (bitWide t)) b i)) :=
  alu_ready (r.andOk hk) (by rw [Form.withK2_checks, vectorForm_checks]) rfl rfl rfl

theorem vecCtl_ready {op : Nat → DWord → Nat → DWord}
    (r : VectorReady s x h (regsOf (bitWide t)) (bitWide t) false d a b) :
    vecCtl h l t d a b op s = .next (s.later x h (lenOf l) (latW (bitWide t) 4)
      (vWriteW (bitWide t) (regOf d) (x.w.eff h) fun i =>
        op (widthW (bitWide t)) (x.read (rdW (bitWide t)) a i) (x.n32Src b i))) :=
  alu_ready r (vectorForm_checks ..) rfl rfl rfl

theorem vecBit3_ready {op : Nat → DWord → DWord → Nat → DWord}
    (r : VectorReady3 s x h (regsOf (bitWide t)) (bitWide t) (bitWide t) false d a b c) :
    vecBit3 h t d a b c op s = .next (s.later x h 16 (latW (bitWide t) 4)
      (vWriteW (bitWide t) (regOf d) (x.w.eff h) fun i =>
        op (widthW (bitWide t)) (x.read (rdW (bitWide t)) a i) (x.readSrc (rdW (bitWide t)) b i) (x.n32 c i))) :=
  alu_ready r (vectorForm_withSrc2_checks ..) rfl rfl rfl

theorem vecUnary_ready {wd : Bool} {op : Nat → DWord → DWord} (r : VectorReady1 s x h (regsOf wd) (bitWide t) d a) :
    vecUnary h t wd d a op s = .next (s.later x h 8 (latW (bitWide t) 4)
      (vWriteW wd (regOf d) (x.w.eff h) fun i => op (widthW (bitWide t)) (x.read (rdW (bitWide t)) a i))) :=
  alu_ready r (Checks.all_two ..) rfl rfl rfl

theorem vecDot_ready {sg : Sg} {sat : Bool} {n bits : Nat} (r : VectorReady3 s x h 1 false false false d a b c) :
    vecDot h sg sat n bits d a b c s = .next (s.later x h 16 6 (vWrite (regOf d) (x.w.eff h) fun i =>
      dotProduct sg sat n bits (x.read .i32 a i) (x.readSrc .i32 b i) (x.read .i32 c i))) :=
  alu_ready r (vectorForm_withSrc2_checks ..) rfl rfl rfl

end VectorBitShapes

section VectorBitWords

variable (h : Hdr) (l : Bool) (t : BitTy) (d a c : Operand) (b : Src) (s : State)

theorem exec_iand : exec (.iand h l t d a b) s = vecBit h l t d a b (· &&& ·) s := rfl

theorem exec_ior : exec (.ior h l t d a b) s = vecBit h l t d a b (· ||| ·) s := rfl

theorem exec_ixor : exec (.ixor h l t d a b) s = vecBit h l t d a b (· ^^^ ·) s := rfl

theorem exec_ishl : exec (.ishl h l t d a b) s = vecCtl h l t d a b shlW s := rfl

theorem exec_ishr : exec (.ishr h l t d a b) s = vecCtl h l t d a b shrW s := rfl

theorem exec_isra : exec (.isra h l t d a b) s = vecCtl h l t d a b sraW s := rfl

theorem exec_ibfe (sx : Bool) : exec (.ibfe h l t sx d a b) s = vecCtl h l t d a b (fun n m c => bfe n sx m c) s := rfl

theorem exec_ifunnel : exec (.ifunnel h t d a b c) s = vecBit3 h t d a b c funnel s := rfl

theorem exec_ibfi : exec (.ibfi h t d a b c) s = vecBit3 h t d a b c bfi s := rfl

theorem exec_inot : exec (.inot h t d a) s = vecUnary h t (bitWide t) d a (fun _ m => ~~~m) s := rfl

/-- A count fills one register, whatever the type of its operand. -/
theorem exec_ipopc :
    exec (.ipopc h t d a) s = vecUnary h t false d a (fun n m => BitVec.ofNat 64 (popCount n m.toNat)) s := rfl

theorem exec_iclz :
    exec (.iclz h t d a) s = vecUnary h t false d a (fun n m => BitVec.ofNat 64 (clz n m.toNat)) s := rfl

theorem exec_idp4 (sg : Sg) (sat : Bool) : exec (.idp4 h sg sat d a b c) s = vecDot h sg sat 4 8 d a b c s := rfl

theorem exec_idp2 (sg : Sg) (sat : Bool) : exec (.idp2 h sg sat d a b c) s = vecDot h sg sat 2 16 d a b c s := rfl

end VectorBitWords

/-- Settles O4: the dot products, and the bit words by their shape. -/
theorem vectorBitResults : Obligations.VectorBitResults := by
  intro s x h l d a c b kC eff
  refine ⟨fun t => ?_, fun r sg sat => ⟨(exec_idp4 ..).trans (vecDot_ready r), (exec_idp2 ..).trans (vecDot_ready r)⟩⟩
  intro w n L A B N
  refine ⟨fun r => execMov_ready r, fun r => ?_, fun r => ?_, fun r => ?_, fun r => ?_, fun r => ?_⟩
  · have result (op : DWord → DWord → DWord) : vecBit h l t d a b op s = .next (s.later x h (lenOf l) L
        (vWriteW w (regOf d) eff fun i => op (A i) (B i))) := vecBit_ready r
    exact ⟨(exec_iand ..).trans (result _), (exec_ior ..).trans (result _), (exec_ixor ..).trans (result _),
      fun hk => execIsel_ready r hk⟩
  · have result (op : Nat → DWord → Nat → DWord) : vecCtl h l t d a b op s = .next (s.later x h (lenOf l) L
        (vWriteW w (regOf d) eff fun i => op n (A i) (N i))) := vecCtl_ready r
    exact ⟨(exec_ishl ..).trans (result _), (exec_ishr ..).trans (result _), (exec_isra ..).trans (result _),
      fun sx => (exec_ibfe ..).trans (result _)⟩
  · exact ⟨(exec_ifunnel ..).trans (vecBit3_ready r), (exec_ibfi ..).trans (vecBit3_ready r)⟩
  · exact (exec_inot ..).trans (vecUnary_ready r)
  · exact ⟨(exec_ipopc ..).trans (vecUnary_ready (wd := false) r), (exec_iclz ..).trans (vecUnary_ready (wd := false) r)⟩

end Sys2Proof.Machine
end

section
namespace Sys2Proof.Machine

/-! ### Packed pairs (R42, R145) -/

section PackedShapes

variable {s : State} {x : Ctx} {h : Hdr} {l : Bool} {t : HTy} {rm : RM} {d a c : Operand} {b : Src}

theorem packed2_ready {f : Fmt} {g : Bool → Nat → Nat → Nat} (r : VectorReady s x h 1 false false d a b) :
    packed2 h l f d a b g s = .next (s.later x h (lenOf l) 4 (vWrite (regOf d) (x.w.eff h) fun i =>
      BitVec.ofNat 64 (halves (g x.flush) (x.read (.pair f) a i).toNat (x.readSrc (.pair f) b i).toNat))) :=
  alu_ready r (vectorForm_checks ..) rfl rfl rfl

/-- The product and the sum of each half are exact: HFMA2 rounds each half once. -/
theorem execHfma2_ready (r : VectorReady3 s x h 1 false false false d a b c) :
    let A (i : Nat) : Nat := (x.read (.pair (fmtOfH t)) a i).toNat
    let B (i : Nat) : Nat := (x.readSrc (.pair (fmtOfH t)) b i).toNat
    let C (i : Nat) : Nat := (x.read (.pair (fmtOfH t)) c i).toNat
    let fma (m n p : Nat) : Nat := floatOp x.flush (fmtOfH t) rm [m, n, p] (fmaOp rm)
    execHfma2 h t rm d a b c s = .next (s.later x h 16 4 (vWrite (regOf d) (x.w.eff h) fun i => BitVec.ofNat 64
      (fma (lo16 (A i)) (lo16 (B i)) (lo16 (C i)) + 65536 * fma (hi16 (A i)) (hi16 (B i)) (hi16 (C i))))) :=
  alu_ready r (vectorForm_withSrc2_checks ..) rfl rfl rfl

/-- FDOT2 rounds once: both products and their sum with the FP32 value are exact. -/
theorem execFdot2_ready (r : VectorReady3 s x h 1 false false false d a b c) :
    let A (i : Nat) : Nat := (x.read (.pair (fmtOfH t)) a i).toNat
    let B (i : Nat) : Nat := (x.readSrc (.pair (fmtOfH t)) b i).toNat
    let val (n : Nat) : Ex := (fmtOfH t).toEx (flushIf x.flush (fmtOfH t) n)
    execFdot2 h t rm d a b c s = .next (s.later x h 16 4 (vWrite (regOf d) (x.w.eff h) fun i => BitVec.ofNat 64
      (flushIf x.flush .f32 (round (sumEx rm [(val (lo16 (A i))).mul (val (lo16 (B i))),
        (val (hi16 (A i))).mul (val (hi16 (B i))), f32Ex (flushIf x.flush .f32 (x.read (.f .f32) c i).toNat)])
        .f32 rm false)))) :=
  alu_ready r (vectorForm_withSrc2_checks ..) rfl rfl rfl

end PackedShapes

section PackedWords

variable (h : Hdr) (l : Bool) (t : HTy) (rm : RM) (d a : Operand) (b : Src) (s : State)

theorem exec_hadd2 : exec (.hadd2 h l t rm d a b) s = packed2 h l (fmtOfH t) d a b (fun fl m n =>
    flushIf fl (fmtOfH t) (round (sumEx rm
      [(fmtOfH t).toEx (flushIf fl (fmtOfH t) m), (fmtOfH t).toEx (flushIf fl (fmtOfH t) n)]) (fmtOfH t) rm false)) s := rfl

theorem exec_hmul2 : exec (.hmul2 h l t rm d a b) s = packed2 h l (fmtOfH t) d a b (fun fl m n =>
    flushIf fl (fmtOfH t) (round
      (((fmtOfH t).toEx (flushIf fl (fmtOfH t) m)).mul ((fmtOfH t).toEx (flushIf fl (fmtOfH t) n)))
      (fmtOfH t) rm false)) s := rfl

theorem exec_hmin2 :
    exec (.hmin2 h l t d a b) s = packed2 h l (fmtOfH t) d a b (minMaxFl false · (fmtOfH t)) s := rfl

theorem exec_hmax2 : exec (.hmax2 h l t d a b) s = packed2 h l (fmtOfH t) d a b (minMaxFl true · (fmtOfH t)) s := rfl

end PackedWords

/-- Settles O7: the words of two sources act on each half alone, and the others have a meaning of their own. -/
theorem packedResults : Obligations.PackedResults := by
  intro s x h l t d a c b f eff fl A B C val rnd both
  refine ⟨fun r => ?_, fun r => ⟨fun rm => execHfma2_ready r, fun rm => execFdot2_ready r⟩⟩
  have result (g : Bool → Nat → Nat → Nat) : packed2 h l f d a b g s = .next (s.later x h (lenOf l) 4
      (vWrite (regOf d) eff fun i => both (g x.flush (lo16 (A i)) (lo16 (B i))) (g x.flush (hi16 (A i)) (hi16 (B i))))) :=
    packed2_ready r
  exact ⟨fun rm => (exec_hadd2 ..).trans (result _), fun rm => (exec_hmul2 ..).trans (result _),
    (exec_hmin2 ..).trans (result _), (exec_hmax2 ..).trans (result _)⟩

end Sys2Proof.Machine
end

section
namespace Sys2Proof.Machine

/-! ### Conversions, packing, quantisation and random bits (R146 to R149, R155) -/

@[simp] theorem CvtTy.ofBits_bits (t : CvtTy) : CvtTy.ofBits t.bits = some t := by cases t <;> rfl

/-- A float type of a conversion fills a pair where its format is FP64. -/
theorem cvtWide_of_kind {t : CvtTy} {f : Fmt} (h : cvtKind t = .flt f) : cvtWide t = (f == .f64) := by
  have hrd : cvtRd t = .f f := by simp only [cvtRd, h]
  rw [cvtWide, hrd]
  cases f <;> rfl

section ConversionShapes

variable {s : State} {x : Ctx} {h : Hdr} {l : Bool} {d a p q : Operand} {b : Src}

/-- Both type codes are assigned, so the operands' checks are the whole of row 6. -/
theorem execCvt_ready {rm : RM} {sat : Bool} {src tgt : CvtTy}
    (r : VectorReady1 s x h (regsOf (cvtWide tgt)) (cvtWide src) d a) :
    execCvt h rm { sat := sat, src := src.bits, tgt := tgt.bits } d a s = .next (s.later x h 8 4
      (vWriteW (cvtWide tgt) (regOf d) (x.w.eff h) fun i => cvtValue rm sat src tgt (x.read (cvtRd src) a i))) := by
  simp only [execCvt, CvtTy.ofBits_bits, Option.map_some, Option.getD_some]
  exact alu_ready (r.andOk rfl) (Checks.all_three ..) rfl rfl rfl

theorem execCvtSr_ready {half : RndHalf} {tgt src : CvtTy} {sat : Bool} {f g : Fmt} (hf : cvtKind tgt = .flt f)
    (hg : cvtKind src = .flt g)
    (r : Ready s x h (vDst x.w.alloc (regsOf (f == .f64)) d && vSrc x.w.alloc (g == .f64) a && vSrc x.w.alloc false p)
      [Rd.of a (g == .f64) (x.w.eff h), Rd.of p false (x.w.eff h)] false) :
    execCvtSr h half tgt src sat d a p s = .next (s.later x h 16 4
      (vWriteW (f == .f64) (regOf d) (x.w.eff h) fun i => BitVec.ofNat 64
        (roundSr (g.toEx (x.read (.f g) a i).toNat) f
          (if half = .lo then lo16 (x.n32 p i) else hi16 (x.n32 p i)) sat))) := by
  simp only [execCvtSr, cvtWide_of_kind hf, cvtWide_of_kind hg, hf, hg]
  cases half <;> exact alu_ready r (Checks.all_three ..) rfl rfl rfl

theorem execPack_b16_ready (r : VectorReady s x h 1 false false d a b) :
    execPack h l .b16 d a b s = .next (s.later x h (lenOf l) 4 (vWrite (regOf d) (x.w.eff h) fun i =>
      BitVec.ofNat 64 (lo16 (x.n32Src b i) * 65536 + lo16 (x.n32 a i)))) :=
  alu_ready r (vectorForm_checks ..) rfl rfl rfl

theorem execPack_b32_ready (r : VectorReady s x h 2 false false d a b) :
    execPack h l .b32 d a b s = .next (s.later x h (lenOf l) 4 (vWrite64 (regOf d) (x.w.eff h) fun i =>
      BitVec.ofNat 64 (x.n32Src b i * 2 ^ 32 + x.n32 a i))) :=
  alu_ready r (vectorForm_checks ..) rfl rfl rfl

/-- The type of the parts that UNPACK takes out of its operand. -/
def unpackTy (t : UnpackTy) : ITy := { width := if t = .n16 ∨ t = .i16 then 16 else 8, signed := t == .i16 || t == .i8 }

theorem execUnpack_ready {t : UnpackTy} (r : VectorReady s x h 1 false false d a b) :
    execUnpack h l t d a b s = .next (s.later x h (lenOf l) 4 (vWrite (regOf d) (x.w.eff h) fun i =>
      let k := x.n32Src b i % (32 / (unpackTy t).width)
      intResult (unpackTy t) ((unpackTy t).toInt
        (BitVec.ofNat 64 ((x.read .i32 a i).toNat / 2 ^ ((unpackTy t).width * k)))))) := by
  cases t <;> exact alu_ready r (vectorForm_checks ..) rfl rfl rfl

theorem execQnt_ready {t : QTy} (r : VectorReady s x h 1 false false d a b) :
    execQnt h l t d a b s = .next (s.later x h (lenOf l) 6 (vWrite (regOf d) (x.w.eff h) fun i =>
      let param := qParam t (x.n32Src b i)
      i32T.wrap (quant (x.read (.f .f32) a i).toNat param.1 param.2 (qBits t)))) :=
  alu_ready r (vectorForm_checks ..) rfl rfl rfl

theorem execDqnt_ready {t : QTy}
    (r : Ready s x h (vDst x.w.alloc 1 d && vSrc x.w.alloc false a && vSrc x.w.alloc false p && vSrc x.w.alloc false q)
      [Rd.of a false (x.w.eff h), Rd.of p false (x.w.eff h), Rd.of q false (x.w.eff h)] false) :
    let ty : ITy := { width := qBits t, signed := true }
    execDqnt h t d a p q s = .next (s.later x h 16 6 (vWrite (regOf d) (x.w.eff h) fun i =>
      let k := x.n32 q i % (32 / qBits t)
      BitVec.ofNat 64 (dequant (ty.toInt (BitVec.ofNat 64 ((x.read .i32 a i).toNat / 2 ^ (qBits t * k))))
        (qParam t (x.n32 p i)).2 (qParam t (x.n32 p i)).1))) :=
  alu_ready r (by simp [Bool.and_assoc]) rfl rfl rfl

/-- The 128 bits of a lane fill four registers, the lowest word first. -/
theorem execRng_ready {imm : Word} (r : Ready s x h (vDst x.w.alloc 4 d && vSrc x.w.alloc true a && vSrc x.w.alloc false p)
      [Rd.of a true (x.w.eff h), Rd.of p false (x.w.eff h)] false) :
    let out (i : Nat) : BitVec 128 := rngBlock (x.read .i64 a i)
      (imm ++ (BitVec.ofNat 32 x.groupId ++ (BitVec.ofNat 32 (32 * x.w.wid + i) ++ BitVec.ofNat 32 (x.n32 p i))))
    execRng h l d a p imm s = .next (s.later x h (lenOf l) 8 ((List.range 4).map fun n =>
      .v (regOf d + n) (x.w.eff h) (tabVal fun i => (out i).extractLsb' (32 * n) 32))) := by
  simp only [Ctx.n32, BitVec.ofNat_toNat]
  exact alu_ready r (Checks.all_three ..) rfl rfl rfl

end ConversionShapes

/-- Settles O8: each word by its own meaning. -/
theorem conversionResults : Obligations.ConversionResults := by
  intro s x h l d a p q b imm eff A bits
  refine ⟨fun rm sat src tgt r => execCvt_ready r, fun half tgt src sat f g hf hg r => execCvtSr_ready hf hg r,
    fun r => ⟨execPack_b16_ready r, fun t => ?_, fun t => execQnt_ready r⟩, fun r => execPack_b32_ready r,
    fun r t => execDqnt_ready r, fun r => execRng_ready r⟩
  exact execUnpack_ready r

end Sys2Proof.Machine
end

section
namespace Sys2Proof.Machine

/-! ### The issue unit's instructions (R114, R118, R122 to R128, R231) -/

/-- A word that nothing stands in the way of, and whose body finds no trap. -/
theorem issue_of_body {s t : State} {x : Ctx} {h : Hdr} {ok ctl : Bool} {reads : List Rd} {f : Form}
    {body : Ctx → LaneMask → State → Except Trap State} (r : Ready s x h ok reads ctl)
    (hc : (f.checks x.w.alloc).all (fun c => c.2) = ok) (hr : f.reads (x.w.eff h) = reads) (hs : f.spatialOk = ctl)
    (hb : body x (x.w.eff h) (s.past x h f.len f.extra) = .ok t) : issue h f body s = .next t := by
  rw [issue_ready r hc hr hs, hb]

theorem Checks.all_one (i : Nat) (p : Bool) : List.all ([(i, p)] : Checks) (fun c => c.2) = p := by
  simp

/-! #### What the word reads is not changed by its issue -/

section Past

variable (s : State) (x : Ctx) (h : Hdr) (len : Nat)

@[simp] theorem State.iread_past (t : RdTy) (o : Operand) : (s.past x h len).iread x t o = s.iread x t o := rfl

@[simp] theorem State.ireadSrc_past (t : RdTy) (b : Src) : (s.past x h len).ireadSrc x t b = s.ireadSrc x t b := rfl

@[simp] theorem State.launchOf_past (w : Warp) : (s.past x h len).launchOf w = s.launchOf w := rfl

@[simp] theorem State.curCore_past_cmode : (s.past x h len).curCore.cmode = s.curCore.cmode := State.curCore_setWarp_cmode ..

@[simp] theorem State.special_past (i : BitVec 5) (lane : Nat) : (s.past x h len).special x i lane = s.special x i lane := by
  simp only [State.special, State.launchOf_past, State.curCore_past_cmode]

end Past

section IssueUnitWords

variable {s : State} {x : Ctx} {h : Hdr} {l : Bool} {n : Src} {dlt d a : Operand} {ix : SIdx}

theorem execNop_ready (r : Ready s x h true [] true) : execNop h s = .next (s.past x h 8) :=
  issue_of_body r rfl rfl rfl rfl

theorem execWaitf_ready {f : FField} (r : Ready s x h (fOk f && iSrc1 n) (Rd.src n false (x.w.eff h)) true) :
    execWaitf h l f n s = .next ((s.past x h (lenOf l)).updWarp fun w =>
      w.block (.waitf f.idx.toNat (min (s.ireadSrc x .i32 n).toNat 63)) x.w.pc none).bump :=
  issue_of_body r (Checks.all_two ..) rfl rfl rfl

theorem execYieldW_ready (r : Ready s x h (iSrc1 n) (Rd.src n false (x.w.eff h)) true) :
    execYieldW h l n s = .next ((s.past x h (lenOf l)).updWarp fun w =>
      { w with notBefore := x.cycle + 1 + max h.stall.toNat (min (s.ireadSrc x .i32 n).toNat 65535) }).bump :=
  issue_of_body r (Checks.all_one ..) rfl rfl rfl

/-- The warp waits at REGX; that its mask and its delta are legal is checked before (R114). -/
theorem execRegx_ready
    (r : Ready s x h (iSrc false dlt && iSrc1 n) (Rd.of dlt false (x.w.eff h) :: Rd.src n false (x.w.eff h)) false)
    (hfull : x.w.eff h = fullMask)
    (hok : regxOk x.w.wid (((s.launchOf x.w).map (·.record.warps)).getD 0) (i32T.toInt (s.iread x .i32 dlt))
      ((s.ireadSrc x .i32 n).setWidth 32) = true) :
    execRegx h l dlt n s = .next ((s.past x h (lenOf l)).updWarp fun w =>
      w.block (.regx (i32T.toInt (s.iread x .i32 dlt)) ((s.ireadSrc x .i32 n).setWidth 32)) x.w.pc h.set).bump := by
  refine issue_of_body r (Checks.all_two ..) rfl rfl ?_
  simp only [hfull, ne_eq, not_true_eq_false, if_false, State.iread_past, State.ireadSrc_past, State.launchOf_past, hok, if_true]

theorem execSrd_scalar_ready {k : Fin 96}
    (r : Ready s x h (sDst (srWide ix.idx) (.s k) && (srAssigned ix.idx && ix.upper == 0 && ix.idx != 0)) [] true) :
    execSrd h (.s k) ix s = .next ((s.past x h 8).updWarp fun w =>
      (w.noteRead ix.idx).defer x.cycle 2 (sWriteW (srWide ix.idx) k.val (s.special x ix.idx 0))) := by
  rw [execSrd]
  refine issue_of_body r ((Checks.all_two ..).trans ?_) rfl rfl ?_
  · simp [vDst, isSreg, bne]
  · simp only [isSreg, if_true, State.special_past, regOf]

theorem execSrd_vector_ready {k : BitVec 8}
    (r : Ready s x h (vDst x.w.alloc (regsOf (srWide ix.idx)) (.v k) && (srAssigned ix.idx && ix.upper == 0)) [] false) :
    execSrd h (.v k) ix s = .next ((s.past x h 8).updWarp fun w =>
      (w.noteRead ix.idx).defer x.cycle 2 (vWriteW (srWide ix.idx) k.toNat (x.w.eff h) fun i => s.special x ix.idx i)) := by
  rw [execSrd]
  refine issue_of_body r ((Checks.all_two ..).trans ?_) rfl rfl ?_
  · simp [sDst, isSreg]
  · simp only [isSreg, Bool.false_eq_true, if_false, State.special_past, regOf]

section Swr

variable (r : Ready s x h (srWritable ix.idx && ix.upper == 0 && iSrc (srWide ix.idx) a)
  [Rd.of a (srWide ix.idx) (x.w.eff h)] true)
include r

theorem execSwr_probef_ready (hix : ix.idx = 0x08) :
    execSwr h ix a s = .next ((s.past x h 8).updWarp fun w =>
      { w with probef := (s.iread x (rdW (srWide ix.idx)) a).getLsbD 0 }).bump := by
  rw [execSwr]
  exact issue_of_body r (Checks.all_two ..) rfl rfl (if_pos hix)

theorem execSwr_trapReg_ready (hix : ix.idx ≠ 0x08) (hstate : x.w.hstate = true) :
    execSwr h ix a s = .next ((s.past x h 8).updWarp fun w =>
      w.defer x.cycle 2 [.x ix.idx (s.iread x (rdW (srWide ix.idx)) a)]).bump := by
  rw [execSwr]
  exact issue_of_body r (Checks.all_two ..) rfl rfl ((if_neg hix).trans (if_pos hstate))

end Swr

theorem modeWord_ready {op : BitVec 3 → BitVec 3 → BitVec 3}
    (r : Ready s x h (iSrc false a) [Rd.of a false (x.w.eff h)] true) :
    modeWord h a op s = .next ((s.past x h 8).updWarp fun w =>
      { w with mode := op w.mode ((s.iread x .i32 a).setWidth 3) }).bump :=
  issue_of_body r (Checks.all_one ..) rfl rfl rfl

theorem exec_modeSet : exec (.modeSet h a) s = modeWord h a (· ||| ·) s := rfl

theorem exec_modeClr : exec (.modeClr h a) s = modeWord h a (fun m v => m &&& ~~~v) s := rfl

theorem exec_modeWr : exec (.modeWr h a) s = modeWord h a (fun _ v => v) s := rfl

end IssueUnitWords

/-- Settles O11: each word by its own meaning, SRD by the kind of its destination and SWR by the register it names. -/
theorem issueUnitResults : Obligations.IssueUnitResults := by
  intro s x h l f n dlt d a ix eff N D M W V bits
  refine ⟨fun r => execNop_ready r, fun r => execWaitf_ready r, fun r => execYieldW_ready r,
    fun r hfull hok => execRegx_ready r hfull hok, ?_, ?_,
    fun r => ⟨fun hix => execSwr_probef_ready r hix, fun hix hstate => execSwr_trapReg_ready r hix hstate⟩,
    fun r => ⟨exec_modeSet.trans (modeWord_ready r), exec_modeClr.trans (modeWord_ready r),
      exec_modeWr.trans (modeWord_ready r)⟩⟩
  · rintro k rfl r
    exact execSrd_scalar_ready r
  · rintro k rfl r
    exact execSrd_vector_ready r

end Sys2Proof.Machine
end

section
namespace Sys2Proof.Machine

/-! ### Completions of variable-latency words (R106, R134, R183, R457) -/

theorem takeFirst_append_of_not {α : Type} {p : α → Bool} {before : List α} {o : α} (hb : ∀ q ∈ before, p q = false)
    (ho : p o = true) (after : List α) : takeFirst p (before ++ o :: after) = some (o, before ++ after) := by
  induction before with
  | nil => simp [takeFirst, ho]
  | cons q before ih =>
    have hq : p q = false := hb q List.mem_cons_self
    have hrest : takeFirst p (before ++ o :: after) = some (o, before ++ after) :=
      ih fun y hy => hb y (List.mem_cons_of_mem _ hy)
    simp [takeFirst, hq, hrest]

theorem takeAt_length_append {α : Type} (before : List α) (o : α) (after : List α) :
    takeAt before.length (before ++ o :: after) = some (o, before ++ after) := by
  induction before with
  | nil => rfl
  | cons q before ih => simp [takeAt, ih]

theorem exec_variableAluCompletion (c j : Nat) (s : State) :
    exec (.variableAluCompletion c j) s = execVariableAluCompletion c j s := rfl

theorem exec_lsCompletion (c n : Nat) (s : State) : exec (.lsCompletion c n) s = .next (s.lsComplete c n false) := rfl

theorem exec_err_access (c n : Nat) (s : State) : exec (.err (.access c n)) s = .next (s.lsComplete c n true) := rfl

section Completion

variable {s : State} {c j : Nat} {w : Warp} {k : Core}

/-- A core with a warp in a slot can be replaced by one with the same warps. -/
theorem State.core_setCore_of_warpAt (hw : s.warpAt c j = some w) (hk : k.warps = (s.core c).warps) :
    (s.setCore c k).core c = k := by
  refine State.core_setCore_self s fun hnil => ?_
  rw [State.warpAt, ← hk, hnil] at hw
  exact nomatch hw

/-- The warp in the slot takes the writes of one of its words while its core is changed elsewhere. -/
theorem State.completeAt_setCore (hw : s.warpAt c j = some w) (hk : k.warps = (s.core c).warps)
    (hcycle : k.cycle = (s.core c).cycle) {ord : Nat} {ws : List Wr} {flag : Option (Fin 12)} :
    (s.setCore c k).completeAt c j w.gid w.wid ord ws flag =
      (s.setCore c k).setWarpAt c j ((w.complete (s.core c).cycle ord ws).decFlag flag) := by
  have hcore : (s.setCore c k).core c = k := State.core_setCore_of_warpAt hw hk
  have hwarp : (s.setCore c k).warpAt c j = some w := by rw [← hw, State.warpAt, State.warpAt, hcore, hk]
  simp only [State.completeAt, hwarp, hcore, hcycle, and_self, if_true]

theorem State.slotOf_of_group {gid wid : Nat} {g : Group} (hg : s.group gid = some g) (hc : g.cores.headD 0 = c)
    (hj : g.slots.find? wid = some j) : s.slotOf gid wid = some (c, j) := by
  simp only [State.slotOf, hg, hj, hc, Option.bind_some, Option.map_some]

/-- The oldest float word of the warp in a slot completes. -/
theorem execVariableAluCompletion_of_due {before after : List AluOp} {o : AluOp} (hw : s.warpAt c j = some w)
    (ha : (s.core c).alu = before ++ o :: after) (hb : ∀ p ∈ before, ¬ (p.gid = w.gid ∧ p.wid = w.wid))
    (hgid : o.gid = w.gid) (hwid : o.wid = w.wid) (hdue : o.due ≤ (s.core c).cycle) :
    execVariableAluCompletion c j s = .next ((s.setCore c { s.core c with alu := before ++ after }).setWarpAt c j
      ((w.complete (s.core c).cycle o.ord o.writes).decFlag o.flag)) := by
  have hfirst : takeFirst (fun p : AluOp => p.gid == w.gid && p.wid == w.wid) (s.core c).alu = some (o, before ++ after) := by
    rw [ha]
    exact takeFirst_append_of_not (by simpa using hb) (by simp [hgid, hwid]) after
  simp only [execVariableAluCompletion, hw, hfirst, hdue, if_true]
  rw [hgid, hwid]
  exact congrArg Host.Outcome.next (State.completeAt_setCore (k := { s.core c with alu := before ++ after }) hw rfl rfl)

/-- A load-store instruction completes by the event of its kind, with or without an error reply. -/
theorem State.lsComplete_of_due {before after : List LsOp} {o : LsOp} {g : Group} (hl : (s.core c).ls = before ++ o :: after)
    (hdue : o.due ≤ (s.core c).cycle) (hfault : o.fault = none) (hg : s.group o.gid = some g) (hc : g.cores.headD 0 = c)
    (hj : g.slots.find? o.wid = some j) (hw : s.warpAt c j = some w) (hgid : w.gid = o.gid) (hwid : w.wid = o.wid) :
    s.lsComplete c before.length o.err = (s.setCore c { s.core c with ls := before ++ after }).setWarpAt c j
      ((w.complete (s.core c).cycle o.ord o.writes).decFlag o.flag) := by
  have htake : takeAt before.length (s.core c).ls = some (o, before ++ after) := by rw [hl, takeAt_length_append]
  have hslot : (s.setCore c { s.core c with ls := before ++ after }).slotOf o.gid o.wid = some (c, j) :=
    State.slotOf_of_group hg hc hj
  simp only [State.lsComplete, htake, hdue, and_self, if_true, hfault, State.completeOf, hslot]
  rw [← hgid, ← hwid]
  exact State.completeAt_setCore (k := { s.core c with ls := before ++ after }) hw rfl rfl

end Completion

/-- Settles O26: both units find the instruction and hand its writes to the warp in its slot. -/
theorem completionsWriteAndLowerFlag : Obligations.CompletionsWriteAndLowerFlag := by
  intro s c
  refine ⟨?_, ?_⟩
  · intro j w before after o hw ha hb hgid hwid hdue
    rw [exec_variableAluCompletion, execVariableAluCompletion_of_due hw ha hb hgid hwid hdue]
  · intro before after o g j w hl hdue hfault hg hc hj hw hgid hwid done
    have hdone : s.lsComplete c before.length o.err = done := State.lsComplete_of_due hl hdue hfault hg hc hj hw hgid hwid
    refine ⟨fun herr => ?_, fun herr => ?_⟩
    · rw [exec_lsCompletion, ← herr, hdone]
    · rw [exec_err_access, ← herr, hdone]

end Sys2Proof.Machine
end

section
namespace Sys2Proof.Machine

/-! ### The order in which register writes take effect (R108, R110) -/

/-- Inserts a write behind every one of no greater key, in a list that rises by that key. -/
def insertLate (key : Pend → Nat) (p : Pend) (ps : List Pend) : List Pend :=
  match ps with
  | [] => [p]
  | q :: rest => if key q ≤ key p then q :: insertLate key p rest else p :: q :: rest

/-- Writes in the order of their keys; those of one key stay in their order. -/
def lateOrder (key : Pend → Nat) (ps : List Pend) : List Pend := ps.foldl (fun a p => insertLate key p a) []

/-- No write behind `p` in the list hits the register. -/
inductive LastHit (hits : Wr → Prop) (p : Pend) : List Pend → Prop
  | here {ps : List Pend} : (∀ q ∈ ps, ¬ hits q.wr) → LastHit hits p (p :: ps)
  | there {q : Pend} {ps : List Pend} : LastHit hits p ps → LastHit hits p (q :: ps)

section LateOrder

variable {key : Pend → Nat} {hits : Wr → Prop} {p q : Pend} {ps : List Pend}

theorem insertLate_cons_of_le (h : key q ≤ key p) : insertLate key p (q :: ps) = q :: insertLate key p ps := if_pos h

theorem insertLate_cons_of_lt (h : key p < key q) : insertLate key p (q :: ps) = p :: q :: ps := if_neg (Nat.not_le.2 h)

theorem mem_insertLate {y : Pend} : y ∈ insertLate key p ps ↔ y = p ∨ y ∈ ps := by
  induction ps with
  | nil => exact List.mem_cons
  | cons q ps ih =>
    rcases Nat.lt_or_ge (key p) (key q) with hpq | hpq
    · rw [insertLate_cons_of_lt hpq, List.mem_cons]
    · rw [insertLate_cons_of_le hpq, List.mem_cons, ih, List.mem_cons, or_left_comm]

/-- A list function with the equations of the model's two insertions. -/
theorem eq_insertLate_of_equations {f : Pend → List Pend → List Pend} (hnil : ∀ p, f p [] = [p])
    (hcons : ∀ p q ps, f p (q :: ps) = if key q ≤ key p then q :: f p ps else p :: q :: ps) (p : Pend) (ps : List Pend) :
    f p ps = insertLate key p ps := by
  induction ps with
  | nil => exact hnil p
  | cons q ps ih => rw [hcons, ih, insertLate]

theorem insertDue_eq_insertLate : ∀ p ps, insertDue p ps = insertLate Pend.due p ps :=
  eq_insertLate_of_equations (fun _ => rfl) fun _ _ _ => rfl

theorem insertOrd_eq_insertLate : ∀ p ps, insertOrd p ps = insertLate Pend.ord p ps :=
  eq_insertLate_of_equations (fun _ => rfl) fun _ _ _ => rfl

theorem dueOrder_eq_lateOrder (ps : List Pend) : dueOrder ps = lateOrder Pend.due ps := by
  simp only [dueOrder, lateOrder, insertDue_eq_insertLate]

theorem mem_foldl_insertLate {acc : List Pend} :
    q ∈ ps.foldl (fun a p => insertLate key p a) acc ↔ q ∈ ps ∨ q ∈ acc := by
  induction ps generalizing acc with
  | nil => simp
  | cons p ps ih => rw [List.foldl_cons, ih, mem_insertLate, List.mem_cons, ← or_assoc, or_comm (a := q ∈ ps)]

theorem mem_lateOrder : q ∈ lateOrder key ps ↔ q ∈ ps := by
  simp [lateOrder, mem_foldl_insertLate]

theorem insertLate_sorted (p : Pend) (h : ps.Pairwise (key · ≤ key ·)) :
    (insertLate key p ps).Pairwise (key · ≤ key ·) := by
  induction ps with
  | nil => exact List.pairwise_singleton ..
  | cons q ps ih =>
    obtain ⟨hq, hps⟩ := List.pairwise_cons.1 h
    rcases Nat.lt_or_ge (key p) (key q) with hpq | hpq
    · rw [insertLate_cons_of_lt hpq]
      refine List.pairwise_cons.2 ⟨fun y hy => ?_, h⟩
      rcases List.mem_cons.1 hy with rfl | hy
      · exact Nat.le_of_lt hpq
      · exact Nat.le_trans (Nat.le_of_lt hpq) (hq y hy)
    · rw [insertLate_cons_of_le hpq]
      refine List.pairwise_cons.2 ⟨fun y hy => ?_, ih hps⟩
      rcases mem_insertLate.1 hy with rfl | hy
      · exact hpq
      · exact hq y hy

theorem lateOrder_sorted (ps : List Pend) : (lateOrder key ps).Pairwise (key · ≤ key ·) :=
  List.foldlRecOn ps _ List.Pairwise.nil fun _ h p _ => insertLate_sorted p h

/-- A write goes behind all hits of no greater key. -/
theorem lastHit_insertLate_self (hs : ps.Pairwise (key · ≤ key ·)) (h : ∀ q ∈ ps, hits q.wr → key q ≤ key p) :
    LastHit hits p (insertLate key p ps) := by
  induction ps with
  | nil => exact .here nofun
  | cons q ps ih =>
    obtain ⟨hq, hps⟩ := List.pairwise_cons.1 hs
    rcases Nat.lt_or_ge (key p) (key q) with hpq | hpq
    · rw [insertLate_cons_of_lt hpq]
      refine .here fun y hy hit => ?_
      have hle : key y ≤ key p := h y hy hit
      rcases List.mem_cons.1 hy with rfl | hmem
      · omega
      · have := hq y hmem
        omega
    · rw [insertLate_cons_of_le hpq]
      exact .there (ih hps fun y hy => h y (List.mem_cons_of_mem _ hy))

/-- A hit of a smaller key goes before the last hit, and another write changes nothing. -/
theorem LastHit.insertLate (h : LastHit hits p ps) (hq : hits q.wr → key q < key p) :
    LastHit hits p (insertLate key q ps) := by
  induction h with
  | @here ps hmiss =>
    rcases Nat.lt_or_ge (key q) (key p) with hqp | hqp
    · rw [insertLate_cons_of_lt hqp]
      exact .there (.here hmiss)
    · rw [insertLate_cons_of_le hqp]
      refine .here fun y hy => ?_
      rcases mem_insertLate.1 hy with rfl | hy
      · exact fun hit => Nat.not_lt.2 hqp (hq hit)
      · exact hmiss y hy
  | @there y ps h ih =>
    rcases Nat.lt_or_ge (key q) (key y) with hqy | hqy
    · rw [insertLate_cons_of_lt hqy]
      exact .there (.there h)
    · rw [insertLate_cons_of_le hqy]
      exact .there ih

/-- Of the writes that a filter keeps, the last hit by the key and then by the list is the last hit in their order. -/
theorem lastHit_lateOrder_filter {f : Pend → Bool} {before after : List Pend} (hps : ps = before ++ p :: after)
    (hp : f p = true) (hb : ∀ q ∈ before, hits q.wr → f q = true → key q ≤ key p)
    (ha : ∀ q ∈ after, hits q.wr → f q = true → key q < key p) : LastHit hits p (lateOrder key (ps.filter f)) := by
  have hsplit : ps.filter f = before.filter f ++ p :: after.filter f := by
    rw [hps, List.filter_append, List.filter_cons_of_pos hp]
  rw [hsplit, lateOrder, List.foldl_append, List.foldl_cons]
  refine List.foldlRecOn (motive := LastHit hits p) _ _ (lastHit_insertLate_self (lateOrder_sorted _) fun q hq hit => ?_)
    fun _ h q hq => h.insertLate fun hit => ?_
  · obtain ⟨hq, hf⟩ := List.mem_filter.1 (mem_lateOrder.1 hq)
    exact hb q hq hit hf
  · obtain ⟨hq, hf⟩ := List.mem_filter.1 hq
    exact ha q hq hit hf

end LateOrder

/-! #### A register, a lane of one or a bit of one -/

/-- A place in a warp's registers: what it reads as, which writes hit it, and what a hit leaves in it. It reads what the
last hit has left wherever the warp's stores are in canonical form. -/
structure RegPlace (β : Type) where
  ok : Warp → Prop
  read : Warp → β
  hits : Wr → Prop
  value : Wr → β
  ok_apply {w : Warp} (q : Wr) : ok w → ok (w.apply q)
  read_apply_of_hits {w : Warp} {q : Wr} : ok w → hits q → read (w.apply q) = value q
  read_apply_of_not_hits {w : Warp} {q : Wr} : ok w → ¬ hits q → read (w.apply q) = read w
  read_schedule (w : Warp) (ps qs : List Pend) (n : Nat) :
    read { w with pend := ps, settled := qs, notBefore := n } = read w

section RegPlace

variable {β : Type} (R : RegPlace β) {w : Warp} {p : Pend} {x : Wr} {before after : List Pend}

theorem Warp.applyAll_cons (w : Warp) (x : Wr) (xs : List Wr) : w.applyAll (x :: xs) = (w.apply x).applyAll xs := rfl

theorem Warp.applyAll_append (w : Warp) (xs ys : List Wr) : w.applyAll (xs ++ ys) = (w.applyAll xs).applyAll ys :=
  List.foldl_append ..

theorem RegPlace.ok_applyAll (xs : List Wr) (hw : R.ok w) : R.ok (w.applyAll xs) :=
  List.foldlRecOn (motive := R.ok) xs _ hw fun _ hu q _ => R.ok_apply q hu

theorem RegPlace.read_applyAll_of_not_hits {xs : List Wr} (hw : R.ok w) (h : ∀ q ∈ xs, ¬ R.hits q) :
    R.read (w.applyAll xs) = R.read w := by
  induction xs generalizing w with
  | nil => rfl
  | cons x xs ih =>
    obtain ⟨hx, hxs⟩ := List.forall_mem_cons.1 h
    rw [Warp.applyAll_cons, ih (R.ok_apply x hw) hxs, R.read_apply_of_not_hits hw hx]

theorem RegPlace.read_applyAll_of_lastHit {ps : List Pend} (hw : R.ok w) (hp : R.hits p.wr) (h : LastHit R.hits p ps) :
    R.read (w.applyAll (ps.map (·.wr))) = R.value p.wr := by
  induction h generalizing w with
  | here hmiss =>
    rw [List.map_cons, Warp.applyAll_cons, R.read_applyAll_of_not_hits (R.ok_apply _ hw) (List.forall_mem_map.2 hmiss),
      R.read_apply_of_hits hw hp]
  | there _ ih => exact ih (R.ok_apply _ hw)

variable (T : Nat)

/-- No write that is due hits the place. -/
theorem RegPlace.read_settle_of_not_hits (hw : R.ok w) (h : ∀ q ∈ w.pend, q.due ≤ T → ¬ R.hits q.wr) :
    R.read (w.settle T) = R.read w := by
  refine (R.read_schedule ..).trans (R.read_applyAll_of_not_hits hw (List.forall_mem_map.2 fun q hq => ?_))
  rw [dueOrder_eq_lateOrder, mem_lateOrder, List.mem_filter, decide_eq_true_eq] at hq
  exact h q hq.1 hq.2

/-- A cycle begins: of the due writes that hit the place, the latest due remains, and of those the last issued. -/
theorem RegPlace.read_settle_of_last (hw : R.ok w) (hp : p.wr = x) (hx : R.hits x) (hpend : w.pend = before ++ p :: after)
    (hdue : p.due ≤ T) (hb : ∀ q ∈ before, R.hits q.wr → q.due ≤ T → q.due ≤ p.due)
    (ha : ∀ q ∈ after, R.hits q.wr → q.due ≤ T → q.due < p.due) : R.read (w.settle T) = R.value x := by
  subst hp
  refine (R.read_schedule ..).trans (R.read_applyAll_of_lastHit hw hx ?_)
  rw [dueOrder_eq_lateOrder]
  exact lastHit_lateOrder_filter hpend (decide_eq_true hdue) (fun q hq hit hf => hb q hq hit (of_decide_eq_true hf))
    fun q hq hit hf => ha q hq hit (of_decide_eq_true hf)

/-- A completing word's writes take effect, and then those that later words have made in this cycle. -/
theorem RegPlace.read_complete (w : Warp) (ord : Nat) (xs : List Wr) :
    R.read (w.complete T ord xs) = R.read ((w.applyAll xs).applyAll
      ((lateOrder Pend.ord (w.settled.filter fun p => decide (ord < p.ord))).map (·.wr))) := by
  simp only [Warp.complete, insertOrd_eq_insertLate, Warp.applyAll_append]
  exact R.read_schedule ..

/-- A later word's write of this cycle remains. -/
theorem RegPlace.read_complete_of_kept {ord : Nat} {ys : List Wr} (hw : R.ok w) (hp : p.wr = x) (hx : R.hits x)
    (hsettled : w.settled = before ++ p :: after) (hord : ord < p.ord) (hb : ∀ q ∈ before, R.hits q.wr → q.ord ≤ p.ord)
    (ha : ∀ q ∈ after, R.hits q.wr → q.ord < p.ord) : R.read (w.complete T ord ys) = R.value x := by
  subst hp
  rw [R.read_complete]
  exact R.read_applyAll_of_lastHit (R.ok_applyAll ys hw) hx (lastHit_lateOrder_filter hsettled (decide_eq_true hord)
    (fun q hq hit _ => hb q hq hit) fun q hq hit _ => ha q hq hit)

/-- Where no later word has written the place in this cycle, the completing word's write remains. -/
theorem RegPlace.read_complete_of_last {ord : Nat} (hw : R.ok w) (hx : R.hits x)
    (h : ∀ q ∈ w.settled, R.hits q.wr → q.ord ≤ ord) : R.read (w.complete T ord [x]) = R.value x := by
  rw [R.read_complete, R.read_applyAll_of_not_hits (R.ok_applyAll _ hw)]
  · exact R.read_apply_of_hits hw hx
  · refine List.forall_mem_map.2 fun q hq hit => ?_
    rw [mem_lateOrder, List.mem_filter, decide_eq_true_eq] at hq
    exact Nat.not_lt.2 (h q hq.1 hit) hq.2

end RegPlace

/-! #### What one write leaves in the register stores -/

section Apply

variable (w : Warp)

theorem Warp.apply_trapReg_regs (i : BitVec 5) (y : DWord) :
    (w.apply (.x i y)).v = w.v ∧ (w.apply (.x i y)).s = w.s ∧ (w.apply (.x i y)).k = w.k := by
  simp only [Warp.apply]
  split <;> exact ⟨rfl, rfl, rfl⟩

theorem Warp.apply_pred (r : Nat) (m : LaneMask) (y : Word) : w.apply (.k r m y) =
    { w with k := if r = 0 then w.k else w.k.set 0 r ((w.k.get 0 r &&& ~~~m) ||| (y &&& m)) } := by
  rw [Warp.apply]
  split <;> rfl

theorem Warp.apply_v_of_not_vector {q : Wr} (h : ¬ ∃ r m ys, q = .v r m ys) : (w.apply q).v = w.v := by
  cases q with
  | v r m ys => exact absurd ⟨r, m, ys, rfl⟩ h
  | s r y => rfl
  | k r m y => rw [Warp.apply_pred]
  | x i y => exact (w.apply_trapReg_regs i y).1

theorem Warp.apply_s_of_not_scalar {q : Wr} (h : ¬ ∃ r y, q = .s r y) : (w.apply q).s = w.s := by
  cases q with
  | v r m ys => rfl
  | s r y => exact absurd ⟨r, y, rfl⟩ h
  | k r m y => rw [Warp.apply_pred]
  | x i y => exact (w.apply_trapReg_regs i y).2.1

theorem Warp.apply_k_of_not_pred {q : Wr} (h : ¬ ∃ r m y, q = .k r m y) : (w.apply q).k = w.k := by
  cases q with
  | v r m ys => rfl
  | s r y => rfl
  | k r m y => exact absurd ⟨r, m, y, rfl⟩ h
  | x i y => exact (w.apply_trapReg_regs i y).2.2

theorem Warp.kreg_of_ne_zero {r : Nat} (hr : r ≠ 0) : w.kreg r = w.k.get 0 r := if_neg hr

theorem getD_tab {l : Nat} (hl : l < 32) (f : Nat → RegVal) (d : RegVal) : (tab f).getD l d = f l := by
  simp [tab, List.getD_eq_getElem?_getD, hl]

variable {w}

theorem Warp.sreg_apply_scalar (hw : SMap.wf RegVal.zero w.s = true) (r i : Nat) (y : RegVal) :
    (w.apply (.s i y)).sreg r = if r = i then y else w.sreg r := by
  split
  · rename_i h; subst h; exact SMap.get_set_self hw r y
  · rename_i h; exact SMap.get_set_of_ne _ _ _ h

/-- Lanes outside the mask keep their values. -/
theorem Warp.lane_apply_vector (hw : SMap.wf zeroLanes w.v = true) {l : Nat} (hl : l < 32) (r i : Nat) (m : LaneMask)
    (ys : Lanes) :
    (w.apply (.v i m ys)).lane r l = if r = i ∧ laneOn m l = true then ys.getD l RegVal.zero else w.lane r l := by
  by_cases h : r = i
  · subst h
    simp only [Warp.lane, Warp.apply, SMap.get_set_self hw, getD_tab hl, true_and]
  · simp only [Warp.lane, Warp.apply, SMap.get_set_of_ne _ _ _ h, h, false_and, if_false]

/-- Bits outside the mask keep their values. -/
theorem Warp.kreg_apply_pred (hw : SMap.wf (0 : Word) w.k = true) {r l : Nat} (hr : r ≠ 0) (hl : l < 32) (i : Nat)
    (m : LaneMask) (y : Word) : laneOn ((w.apply (.k i m y)).kreg r) l =
      if r = i ∧ laneOn m l = true then laneOn y l else laneOn (w.kreg r) l := by
  rw [Warp.apply_pred, Warp.kreg_of_ne_zero _ hr, Warp.kreg_of_ne_zero _ hr]
  by_cases h : r = i
  · subst h
    simp only [hr, if_false, SMap.get_set_self hw, true_and]
    cases hm : laneOn m l <;> simp_all [laneOn]
  · simp only [h, false_and, if_false]
    split
    · rfl
    · rw [SMap.get_set_of_ne _ _ _ h]

end Apply

/-! #### The three kinds of place -/

/-- A scalar register. -/
def scalarPlace (r : Nat) : RegPlace RegVal where
  ok w := SMap.wf RegVal.zero w.s = true
  read w := w.sreg r
  hits q := ∃ y, q = .s r y
  value q := match q with
    | .s _ y => y
    | _ => RegVal.zero
  ok_apply {w} q hw := by
    by_cases h : ∃ i y, q = .s i y
    · obtain ⟨i, y, rfl⟩ := h
      exact SMap.wf_set hw i y
    · rw [w.apply_s_of_not_scalar h, hw]
  read_apply_of_hits := by
    rintro w q hw ⟨y, rfl⟩
    rw [Warp.sreg_apply_scalar hw, if_pos rfl]
  read_apply_of_not_hits {w q} hw hq := by
    by_cases h : ∃ i y, q = .s i y
    · obtain ⟨i, y, rfl⟩ := h
      rw [Warp.sreg_apply_scalar hw, if_neg fun h => hq ⟨y, by rw [h]⟩]
    · rw [Warp.sreg, w.apply_s_of_not_scalar h, Warp.sreg]
  read_schedule _ _ _ _ := rfl

/-- A lane of a vector register. -/
def lanePlace (r : Nat) {l : Nat} (hl : l < 32) : RegPlace RegVal where
  ok w := SMap.wf zeroLanes w.v = true
  read w := w.lane r l
  hits q := ∃ m ys, q = .v r m ys ∧ laneOn m l = true
  value q := match q with
    | .v _ _ ys => ys.getD l RegVal.zero
    | _ => RegVal.zero
  ok_apply {w} q hw := by
    by_cases h : ∃ i m ys, q = .v i m ys
    · obtain ⟨i, m, ys, rfl⟩ := h
      exact SMap.wf_set hw i _
    · rw [w.apply_v_of_not_vector h, hw]
  read_apply_of_hits := by
    rintro w q hw ⟨m, ys, rfl, hm⟩
    rw [Warp.lane_apply_vector hw hl, if_pos ⟨rfl, hm⟩]
  read_apply_of_not_hits {w q} hw hq := by
    by_cases h : ∃ i m ys, q = .v i m ys
    · obtain ⟨i, m, ys, rfl⟩ := h
      rw [Warp.lane_apply_vector hw hl, if_neg fun h => hq ⟨m, ys, by rw [h.1], h.2⟩]
    · rw [Warp.lane, w.apply_v_of_not_vector h, Warp.lane]
  read_schedule _ _ _ _ := rfl

/-- A bit of a predicate register other than k0, to which a write is discarded (R79). -/
def predPlace {r l : Nat} (hr : r ≠ 0) (hl : l < 32) : RegPlace Bool where
  ok w := SMap.wf (0 : Word) w.k = true
  read w := laneOn (w.kreg r) l
  hits q := ∃ m y, q = .k r m y ∧ laneOn m l = true
  value q := match q with
    | .k _ _ y => laneOn y l
    | _ => false
  ok_apply {w} q hw := by
    by_cases h : ∃ i m y, q = .k i m y
    · obtain ⟨i, m, y, rfl⟩ := h
      rw [Warp.apply_pred]
      by_cases hi : i = 0
      · simp only [hi, if_true, hw]
      · simp only [hi, if_false, SMap.wf_set hw]
    · rw [w.apply_k_of_not_pred h, hw]
  read_apply_of_hits := by
    rintro w q hw ⟨m, y, rfl, hm⟩
    rw [Warp.kreg_apply_pred hw hr hl, if_pos ⟨rfl, hm⟩]
  read_apply_of_not_hits {w q} hw hq := by
    by_cases h : ∃ i m y, q = .k i m y
    · obtain ⟨i, m, y, rfl⟩ := h
      rw [Warp.kreg_apply_pred hw hr hl, if_neg fun h => hq ⟨m, y, by rw [h.1], h.2⟩]
    · rw [Warp.kreg, w.apply_k_of_not_pred h, Warp.kreg]
  read_schedule _ _ _ _ := rfl

/-- Settles O58: for each kind of place, what a cycle's due writes and a completion leave in it. -/
theorem lastWriteStays : Obligations.LastWriteStays := by
  intro w T last kept
  refine ⟨fun r hw => ?_, fun r l hl hw => ?_, fun r l hl hr hw => ?_⟩
  · intro hits
    let R := scalarPlace r
    exact ⟨R.read_settle_of_not_hits T hw,
      fun _ _ _ y hp ⟨hpend, hdue, hb, ha⟩ => R.read_settle_of_last T hw hp ⟨y, rfl⟩ hpend hdue hb ha,
      fun _ _ _ _ _ y hp ⟨hset, hord, hb, ha⟩ => R.read_complete_of_kept T hw hp ⟨y, rfl⟩ hset hord hb ha,
      fun _ y h => R.read_complete_of_last T hw ⟨y, rfl⟩ h⟩
  · intro hits
    let R := lanePlace r hl
    exact ⟨R.read_settle_of_not_hits T hw,
      fun _ _ _ m ys hp hm ⟨hpend, hdue, hb, ha⟩ => R.read_settle_of_last T hw hp ⟨m, ys, rfl, hm⟩ hpend hdue hb ha,
      fun _ _ _ _ _ _ n ys _ hp hn ⟨hset, hord, hb, ha⟩ =>
        R.read_complete_of_kept T hw hp ⟨n, ys, rfl, hn⟩ hset hord hb ha,
      fun _ m ys hm h => R.read_complete_of_last T hw ⟨m, ys, rfl, hm⟩ h⟩
  · intro hits
    let R := predPlace hr hl
    exact ⟨R.read_settle_of_not_hits T hw,
      fun _ _ _ m y hp hm ⟨hpend, hdue, hb, ha⟩ => R.read_settle_of_last T hw hp ⟨m, y, rfl, hm⟩ hpend hdue hb ha,
      fun _ _ _ _ _ _ n y _ hp hn ⟨hset, hord, hb, ha⟩ =>
        R.read_complete_of_kept T hw hp ⟨n, y, rfl, hn⟩ hset hord hb ha,
      fun _ m y hm h => R.read_complete_of_last T hw ⟨m, y, rfl, hm⟩ h⟩

end Sys2Proof.Machine
end

section
namespace Sys2Proof.Machine

/-! ### The branch unit's instructions (R200, R204, R208, R211 to R220) -/

/-! #### The token stack -/

section TokenStack

variable {e : BrEnv} {k : Stk} {t : Token}

/-- Nothing is read back while the unit holds the top min(D, 16) tokens. -/
theorem BrEnv.refill_of_held (hk : min k.d 16 ≤ k.held.length) (fuel : Nat) : e.refill k fuel = .ok k := by
  cases fuel with
  | zero => rfl
  | succ fuel => exact if_neg (Nat.not_lt.2 hk)

/-- A push onto at most 15 held tokens writes none to the spill area. -/
theorem BrEnv.push_of_room (hk : k.held.length ≤ 15) :
    e.push k t = .ok { k with d := k.d + 1, held := t :: k.held } := by
  rw [BrEnv.push, List.drop_eq_nil_of_le hk]

/-- A pop of a clean token above the mark, with every token held that is to be held before and after it. -/
theorem BrEnv.pop_of_held {rest : List Token} (hlo : e.lo < k.d) (hheld : k.held = t :: rest) (ht : t.poison = false)
    (hk : min k.d 16 ≤ k.held.length) (hrest : min (k.d - 1) 16 ≤ rest.length) :
    e.pop k = .ok (t, { k with d := k.d - 1, held := rest, force := t.below k.force }) := by
  have hrefill : e.refill { k with d := k.d - 1, held := rest, force := t.below k.force } 16 = .ok _ :=
    BrEnv.refill_of_held hrest 16
  simp only [BrEnv.pop, if_neg (Nat.not_le.2 hlo), BrEnv.refill_of_held hk, hheld, ht, Bool.false_eq_true, if_false, hrefill]

end TokenStack

/-- Settles O14: below 16 tokens nothing is written by the push, and nothing read back by the pop. -/
theorem pushThenPopReturnsToken : Obligations.PushThenPopReturnsToken := by
  intro e k t ht hheld hd hlo
  refine ⟨BrEnv.push_of_room (by omega), ?_⟩
  refine BrEnv.pop_of_held (k := { k with d := k.d + 1, held := t :: k.held }) (Nat.lt_succ_of_le hlo) rfl ht ?_ ?_
  · simp only [List.length_cons, hheld]
    exact Nat.min_le_left ..
  · simp only [Nat.add_sub_cancel, hheld]
    exact Nat.min_le_left ..

/-! #### The checks of a branch word (Table BR-5) and the courses that several words share -/

section Courses

variable {s' : State} {x : Ctx} {eff : LaneMask} {a : Int}

theorem ok_bind {α β : Type} (y : α) (f : α → Except Trap β) : (Except.ok y >>= f) = f y := rfl

theorem uniform_of_eq (he : eff = x.w.act) : uniform x eff = .ok () := if_pos he

theorem checkTarget_of_legal (ha : legalTarget a = true) : checkTarget eff a = .ok () := if_pos ha

/-- CALL and CALLX are one course, at the target that the word names (R218). -/
theorem callTo_of_push {k : Stk} (he : eff = x.w.act) (ha : legalTarget a = true) (hdepth : x.w.depth ≠ 255)
    (hroom : x.w.ntok < 256) (hk : (s'.brEnv x eff).push (x.stk s')
      { kind := .call, depth := x.w.depth, pc := x.w.pc + 8, mask := x.w.act } = .ok k) :
    callTo x eff a s' = .ok (k.commit fun w => { w with depth := x.w.depth + 1, pc := pcOf a }) := by
  have hroom' : ¬ x.w.ntok + 1 > 256 := by omega
  simp only [callTo, uniform_of_eq he, checkTarget_of_legal ha, ok_bind, hdepth, if_false, hroom', hk]
  rfl

/-- The warp goes on with the lanes that are left, or, when none is, at the next token that holds lanes. -/
theorem retiring_of_sweep {w : Sweep} {hs : List Token} {s1 t : State}
    (hsweep : (s'.brEnv x eff).sweep w eff x.w.ntok x.w.held x.w.depth.toNat s' = .ok (hs, s1))
    (hend : (if x.w.act &&& ~~~eff = 0 then (s'.brEnv x eff).finish { x.stk s1 with held := hs }
      else .ok (Stk.commit { x.stk s1 with held := hs } fun w => { w with act := x.w.act &&& ~~~eff })) = .ok t) :
    retiring w x eff s' = .ok t := by
  simp only [retiring, hsweep]
  exact hend

end Courses

/-! #### The uniform words -/

section UniformWords

variable {s : State} {x : Ctx} {h : Hdr} {off els : BitVec 27} {jn : BitVec 32} {a : Operand} {kC : KField}
variable (he : x.w.eff h = x.w.act)
include he

theorem execBra_ready (r : Ready s x h true [] true) (ha : legalTarget (x.rel off.toInt) = true) :
    execBra h off s = .next ((s.past x h 8 2).updWarp fun w => { w with pc := pcOf (x.rel off.toInt) }) := by
  refine issue_of_body r rfl rfl rfl ?_
  simp only [uniform_of_eq he, checkTarget_of_legal ha, ok_bind]
  rfl

theorem execBrx_ready (r : Ready s x h (sDst true a) [Rd.of a true (x.w.eff h)] true)
    (ha : legalTarget (x.read .i64 a 0).toNat = true) :
    execBrx h a s = .next ((s.past x h 8 2).updWarp fun w => { w with pc := pcOf (x.read .i64 a 0).toNat }) := by
  refine issue_of_body r (Checks.all_one ..) rfl rfl ?_
  simp only [uniform_of_eq he, checkTarget_of_legal ha, ok_bind]
  rfl

theorem execLoopr_ready {k : Stk} (r : Ready s x h true [] true) (ha : legalTarget (x.rel off.toInt) = true)
    (hroom : x.w.ntok < 256) (hk : ((s.past x h 8 2).brEnv x (x.w.eff h)).push (x.stk (s.past x h 8 2))
      { kind := .loop, depth := x.w.depth, pc := pcOf (x.rel off.toInt), mask := 0 } = .ok k) :
    execLoopr h off s = .next (k.commit id) := by
  have hroom' : ¬ x.w.ntok + 1 > 256 := by omega
  refine issue_of_body r rfl rfl rfl ?_
  simp only [branchForm, uniform_of_eq he, checkTarget_of_legal ha, ok_bind, hroom', if_false, hk]
  rfl

theorem execCall_ready {k : Stk} (r : Ready s x h true [] true) (ha : legalTarget (x.rel off.toInt) = true)
    (hdepth : x.w.depth ≠ 255) (hroom : x.w.ntok < 256)
    (hk : ((s.past x h 8 2).brEnv x (x.w.eff h)).push (x.stk (s.past x h 8 2))
      { kind := .call, depth := x.w.depth, pc := x.w.pc + 8, mask := x.w.act } = .ok k) :
    execCall h off s = .next (k.commit fun w => { w with depth := x.w.depth + 1, pc := pcOf (x.rel off.toInt) }) :=
  issue_of_body r rfl rfl rfl (callTo_of_push he ha hdepth hroom hk)

theorem execCallx_ready {k : Stk} (r : Ready s x h (sDst true a) [Rd.of a true (x.w.eff h)] true)
    (ha : legalTarget (x.read .i64 a 0).toNat = true) (hdepth : x.w.depth ≠ 255) (hroom : x.w.ntok < 256)
    (hk : ((s.past x h 8 2).brEnv x (x.w.eff h)).push (x.stk (s.past x h 8 2))
      { kind := .call, depth := x.w.depth, pc := x.w.pc + 8, mask := x.w.act } = .ok k) :
    execCallx h a s = .next (k.commit fun w => { w with depth := x.w.depth + 1, pc := pcOf (x.read .i64 a 0).toNat }) :=
  issue_of_body r (Checks.all_one ..) rfl rfl (callTo_of_push he ha hdepth hroom hk)

/-- JOIN pops a JOIN or ELSE token of the warp's depth; the lanes of the token go on at its address, or, if it has none,
the warp at the next token that holds lanes. -/
theorem execJoin_ready {k k1 : Stk} {t u : Token} {rest : List Token} {s' : State} (r : Ready s x h true [] true)
    (hk : ((s.past x h 8 2).brEnv x (x.w.eff h)).refill (x.stk (s.past x h 8 2)) 16 = .ok k) (hheld : k.held = t :: rest)
    (hclean : t.poison = false) (hkind : t.kind = .join ∨ t.kind = .els) (hdepth : t.depth = x.w.depth)
    (hpop : ((s.past x h 8 2).brEnv x (x.w.eff h)).pop k = .ok (u, k1))
    (hend : (if u.mask = 0 then ((s.past x h 8 2).brEnv x (x.w.eff h)).finish k1
      else .ok (k1.commit fun w => { w with act := u.mask, pc := u.pc })) = .ok s') :
    execJoin h s = .next s' := by
  refine issue_of_body r rfl rfl rfl ?_
  simp only [branchForm, uniform_of_eq he, ok_bind, hk, hheld, hclean, hkind, hdepth, and_self, Bool.false_eq_true, if_false,
    if_true, hpop]
  exact hend

section Split

variable {k : Stk} (r : Ready s x h (kOk kC) [] true) (hels : legalTarget (x.rel els.toInt) = true)
  (hjn : legalTarget (x.rel jn.toInt) = true)
  (hk : ((s.past x h 16 2).brEnv x (x.w.eff h)).push (x.stk (s.past x h 16 2))
    { kind := .join, depth := x.w.depth, pc := pcOf (x.rel jn.toInt), mask := x.w.act } = .ok k)
include r hels hjn hk

/-- All active lanes run the else part. -/
theorem execSplit_of_else (htk : x.w.act &&& x.k kC = 0) (hroom : x.w.ntok < 256) :
    execSplit h els kC jn s = .next
      (k.commit fun w => { w with act := x.w.act &&& ~~~(x.k kC), pc := pcOf (x.rel els.toInt) }) := by
  have hroom' : ¬ x.w.ntok + 1 > 256 := by omega
  refine issue_of_body r (Checks.all_one ..) rfl rfl ?_
  simp only [branchForm, uniform_of_eq he, checkTarget_of_legal hels, checkTarget_of_legal hjn, ok_bind, htk,
    bne_self_eq_false, Bool.false_and, Bool.false_eq_true, if_false, hroom', hk, if_true]
  rfl

/-- All active lanes run the fall-through part. -/
theorem execSplit_of_through (htk : x.w.act &&& x.k kC ≠ 0) (hpk : x.w.act &&& ~~~(x.k kC) = 0) (hroom : x.w.ntok < 256) :
    execSplit h els kC jn s = .next (k.commit id) := by
  have hroom' : ¬ x.w.ntok + 1 > 256 := by omega
  refine issue_of_body r (Checks.all_one ..) rfl rfl ?_
  simp only [branchForm, uniform_of_eq he, checkTarget_of_legal hels, checkTarget_of_legal hjn, ok_bind, htk, hpk,
    bne_self_eq_false, Bool.and_false, Bool.false_eq_true, if_false, hroom', hk]
  rfl

/-- Some active lanes run either part. -/
theorem execSplit_of_both {k2 : Stk} (htk : x.w.act &&& x.k kC ≠ 0) (hpk : x.w.act &&& ~~~(x.k kC) ≠ 0)
    (hroom : x.w.ntok < 255) (hk2 : ((s.past x h 16 2).brEnv x (x.w.eff h)).push k
      { kind := .els, depth := x.w.depth, pc := pcOf (x.rel els.toInt), mask := x.w.act &&& ~~~(x.k kC) } = .ok k2) :
    execSplit h els kC jn s = .next (k2.commit fun w => { w with act := x.w.act &&& x.k kC }) := by
  have hroom' : ¬ x.w.ntok + 2 > 256 := by omega
  refine issue_of_body r (Checks.all_one ..) rfl rfl ?_
  simp only [branchForm, uniform_of_eq he, checkTarget_of_legal hels, checkTarget_of_legal hjn, ok_bind,
    bne_iff_ne.2 htk, bne_iff_ne.2 hpk, Bool.and_self, if_true, hroom', if_false, hk, hk2]
  rfl

end Split

end UniformWords

/-! #### The retiring words -/

section RetiringWords

variable {s t : State} {x : Ctx} {h : Hdr}

theorem execBrk_ready (r : Ready s x h true [] true) (ht : retiring .brk x (x.w.eff h) (s.past x h 8 2) = .ok t) :
    execBrk h s = .next t :=
  issue_of_body r rfl rfl rfl ht

theorem execRet_ready (r : Ready s x h true [] true) (ht : retiring .ret x (x.w.eff h) (s.past x h 8 2) = .ok t) :
    execRet h s = .next t :=
  issue_of_body r rfl rfl rfl ht

/-- EXIT is a trap in handler state (R235). -/
theorem execExit_ready (r : Ready s x h true [] false) (hstate : x.w.hstate = false)
    (ht : retiring .exit x (x.w.eff h) (s.past x h 8 2) = .ok t) : execExit h s = .next t := by
  refine issue_of_body r rfl rfl rfl ?_
  simp only [hstate, Bool.false_eq_true, if_false]
  exact ht

end RetiringWords

/-- Settles O12: each word by its own meaning, JOIN by the mask of the token that it pops and SPLIT by which parts have
lanes. -/
theorem uniformBranchResults : Obligations.UniformBranchResults := by
  intro s x h off els jn a kC eff p q e rel reg tk pk join elseTok loop ret he
  refine ⟨fun r => ⟨fun ha => ⟨?_, ?_, ?_⟩, ?_⟩, fun r ha => ⟨?_, ?_⟩,
    fun r hels hjn k hk => ⟨?_, ?_, ?_⟩⟩
  · exact execBra_ready he r ha
  · exact fun k hroom hk => execLoopr_ready he r ha hroom hk
  · exact fun k hdepth hroom hk => execCall_ready he r ha hdepth hroom hk
  · intro k k1 t u rest hk hheld hclean hkind hdepth hpop
    exact ⟨fun hu => execJoin_ready he r hk hheld hclean hkind hdepth hpop (if_neg hu),
      fun t' hu hend => execJoin_ready he r hk hheld hclean hkind hdepth hpop ((if_pos hu).trans hend)⟩
  · exact execBrx_ready he r ha
  · exact fun k hdepth hroom hk => execCallx_ready he r ha hdepth hroom hk
  · exact fun htk hroom => execSplit_of_else he r hels hjn hk htk hroom
  · exact fun htk hpk hroom => execSplit_of_through he r hels hjn hk htk hpk hroom
  · exact fun k2 htk hpk hroom hk2 => execSplit_of_both he r hels hjn hk htk hpk hroom hk2

/-- Settles O13: the three words differ in the token that they stop at, and EXIT in that it traps in handler state. -/
theorem retiringBranchResults : Obligations.RetiringBranchResults := by
  intro s x h eff p e act done
  have result {w : Sweep} {i : Instr} (hi : ∀ t, retiring w x eff p = .ok t → exec i s = .next t) : done w i := by
    intro hs t hsweep k
    exact ⟨fun hact => hi _ (retiring_of_sweep hsweep (if_neg hact)),
      fun t' hact hend => hi _ (retiring_of_sweep hsweep ((if_pos hact).trans hend))⟩
  refine ⟨fun r => ⟨?_, ?_⟩, fun r hstate => ?_⟩
  · exact result fun _ => execBrk_ready r
  · exact result fun _ => execRet_ready r
  · exact result fun _ => execExit_ready r hstate

end Sys2Proof.Machine
end

section
namespace Sys2Proof.Machine

/-! ### Trap entry and nested traps (R230, R232, R234 to R236) -/

/-- XCAUSE of a trap outside handler state: NEST is clear. -/
theorem trapCause_eq_setWidth (code : BitVec 6) : BitVec.ofBool false ++ (0#25 ++ code) = code.setWidth 32 := by
  revert code
  decide

/-- XCAUSE of a trap in handler state: NEST is bit 31. -/
theorem nestedCause_eq_or (code : BitVec 6) :
    BitVec.ofBool true ++ (0#25 ++ code) = 0x80000000#32 ||| code.setWidth 32 := by
  revert code
  decide

/-- A doubleword address in an even-odd pair of scalar registers. -/
theorem pairWrites_ofNat (r a : Nat) (t : Tag) :
    pairWrites r (BitVec.ofNat 64 a) t =
      [.s r { val := BitVec.ofNat 32 a, tag := t }, .s (r + 1) { val := BitVec.ofNat 32 (a / 2 ^ 32), tag := t }] := by
  have hlow : (BitVec.ofNat 64 a).extractLsb' 0 32 = BitVec.ofNat 32 a := by
    refine BitVec.eq_of_toNat_eq ?_
    simp
  have hhigh : (BitVec.ofNat 64 a).extractLsb' 32 32 = BitVec.ofNat 32 (a / 2 ^ 32) := by
    refine BitVec.eq_of_toNat_eq ?_
    simp [Nat.shiftRight_eq_div_pow]
    omega
  rw [pairWrites, hlow, hhigh]

/-- The warp once its trap registers are written and its state before the trap is held (R230, R234). -/
def Warp.trapped (w : Warp) (tw : TrapWait) : Warp :=
  { w with trapWait := none, xpc := tw.xpc, xcause := tw.trap.code.setWidth 32, xaddr := tw.trap.xaddr
           xmask := tw.trap.xmask, xinfo := tw.trap.info
           entry := { wa := tw.wa, s94 := w.sreg 94, s95 := w.sreg 95, act := w.act, depth := w.depth, mode := w.mode } }

theorem Warp.trapped_eq_trapRegs (w : Warp) (tw : TrapWait) :
    w.trapped tw = { Warp.trapRegs { w with trapWait := none } tw.xpc tw.trap false with
      entry := { wa := tw.wa, s94 := w.sreg 94, s95 := w.sreg 95, act := w.act, depth := w.depth, mode := w.mode } } := by
  simp only [Warp.trapRegs, trapCause_eq_setWidth]
  rfl

/-- Table TC-6 holds neither the trap registers nor the handler state. -/
theorem frameBytes_trapRegs (w : Warp) (xpc : DWord) (t : Trap) (nest hst : Bool) (e : Held) :
    frameBytes { Warp.trapRegs { w with hstate := hst, trapWait := none } xpc t nest with entry := e } = frameBytes w := rfl

/-- The warp in a slot stops at an address, and its context halts with what its trap registers hold (R234, R235, R242). -/
def State.haltWarpAt (s : State) (c j asid : Nat) (w : Warp) (pc : BitVec 57) (reason : Nat) : State :=
  let w2 : Warp := { w with halted := true, pc := pc }
  (s.setWarpAt c j w2).haltContext asid (w2.haltInfo c j reason 0 true)

/-- What the trap unit reads of the vector entry of a warp's trap (R234, Table TC-5). -/
abbrev State.vecRead (s : State) (c : Nat) (w : Warp) (sp : Machine.Space) (tw : TrapWait) : Except GFault (List Byte) :=
  s.vread c (s.asidOf w) (sp.tvtb + 16 * tw.trap.code.toNat) 16

/-- The state after that read. -/
abbrev State.vecTouched (s : State) (c : Nat) (w : Warp) (sp : Machine.Space) (tw : TrapWait) : State :=
  s.vtouch c (s.asidOf w) (sp.tvtb + 16 * tw.trap.code.toNat) 16

/-- The warp at its handler, the trap area named by s94:s95 (R234). -/
def Warp.handling (w : Warp) (area : Nat) (hpc : BitVec 57) : Warp :=
  { w.applyAll [.s 94 { val := BitVec.ofNat 32 (area + 64), tag := .clean },
                .s 95 { val := BitVec.ofNat 32 ((area + 64) / 2 ^ 32), tag := .clean }] with
    act := fullMask, mode := 0, dmark := w.ntok, hstate := true, rdCause := false, rdAddr := false, pc := hpc }

section Entry

variable {s : State} {c j : Nat} {w : Warp} {tw : TrapWait} {sp : Machine.Space} {bs : List Byte} {v : VecEntry}
variable (hw : s.warpAt c j = some w) (hstate : w.hstate = false) (hsp : s.space (s.asidOf w) = some sp)
include hw hstate hsp

/-- An entry that cannot be read halts the context (R234). -/
theorem State.enterTrap_of_unreadable {f : GFault} (hread : s.vecRead c w sp tw = .error f) :
    s.enterTrap c j tw = (s.vecTouched c w sp tw).haltWarpAt c j (s.asidOf w) (w.trapped tw) tw.wa 2 := by
  rw [Warp.trapped_eq_trapRegs]
  simp only [State.enterTrap, hw, hstate, hsp, hread, Bool.false_eq_true, if_false]
  rfl

section Readable

variable (hread : s.vecRead c w sp tw = .ok bs)
include hread

theorem State.enterTrap_of_absent (hv : decodeVec (leNat bs) = none) :
    s.enterTrap c j tw = (s.vecTouched c w sp tw).haltWarpAt c j (s.asidOf w) (w.trapped tw) tw.wa 1 := by
  rw [Warp.trapped_eq_trapRegs]
  simp only [State.enterTrap, hw, hstate, hsp, hread, hv, Bool.false_eq_true, if_false]
  rfl

variable (hv : decodeVec (leNat bs) = some v)
include hv

theorem State.enterTrap_of_halting (hh : v.halt = true) :
    s.enterTrap c j tw = (s.vecTouched c w sp tw).haltWarpAt c j (s.asidOf w) (w.trapped tw) tw.wa 4 := by
  rw [Warp.trapped_eq_trapRegs]
  simp only [State.enterTrap, hw, hstate, hsp, hread, hv, hh, Bool.false_eq_true, if_false, if_true]
  rfl

theorem State.enterTrap_of_unwritable {f : GFault} (hh : v.halt = false)
    (hwrite : (s.vecTouched c w sp tw).vwrite c (s.asidOf w) (trapArea sp c j) (frameBytes w) = .error f) :
    s.enterTrap c j tw = (s.vecTouched c w sp tw).haltWarpAt c j (s.asidOf w) (w.trapped tw) tw.wa 2 := by
  rw [Warp.trapped_eq_trapRegs]
  simp only [State.enterTrap, hw, hstate, hsp, hread, hv, hh, Bool.false_eq_true, if_false, frameBytes_trapRegs, hwrite]
  rfl

/-- With its frame in the trap area the warp goes on at the entry's handler (R234). -/
theorem State.enterTrap_of_written {t : State} (hh : v.halt = false)
    (hwrite : (s.vecTouched c w sp tw).vwrite c (s.asidOf w) (trapArea sp c j) (frameBytes w) = .ok t) :
    s.enterTrap c j tw = t.setWarpAt c j ((w.trapped tw).handling (trapArea sp c j) v.hpc) := by
  rw [Warp.trapped_eq_trapRegs]
  simp only [State.enterTrap, hw, hstate, hsp, hread, hv, hh, Bool.false_eq_true, if_false, frameBytes_trapRegs, hwrite,
    pairWrites_ofNat]
  rfl

end Readable

end Entry

section Nested

variable {s : State} {c j : Nat} {w : Warp} {tw : TrapWait}
variable (hw : s.warpAt c j = some w) (hstate : w.hstate = true)
include hw hstate

/-- Once the handler has read both trap registers, they take the nested trap (R235). -/
theorem State.enterTrap_of_nested_read (hrd : (w.rdCause && w.rdAddr) = true) :
    s.enterTrap c j tw = s.haltWarpAt c j (s.asidOf w)
      { w with trapWait := none, xpc := tw.xpc, xcause := 0x80000000#32 ||| tw.trap.code.setWidth 32, xaddr := tw.trap.xaddr
               xmask := tw.trap.xmask, xinfo := tw.trap.info } tw.wa 3 := by
  simp only [State.enterTrap, hw, hstate, hrd, if_true, Warp.trapRegs, nestedCause_eq_or]
  rfl

/-- Before that, the warp returns to its state before the first trap (R236). -/
theorem State.enterTrap_of_nested_unread (hrd : (w.rdCause && w.rdAddr) = false) :
    let w1 := Warp.unwind { w with trapWait := none }
    s.enterTrap c j tw = ((s.setWarpAt c j w1).logDie 4 (dieOf c) c
      ((0x80000000#32 ||| tw.trap.code.setWidth 32) ++ tw.xpc.extractLsb' 0 32)).haltContext (s.asidOf w)
      (w1.haltInfo c j 2 0 true) := by
  simp only [State.enterTrap, hw, hstate, hrd, if_true, Bool.false_eq_true, if_false, nestedCause_eq_or]

end Nested

/-- Settles O16: outside handler state by what the vector entry and the frame's place answer, in it by whether the handler has
read both trap registers. -/
theorem trapEntryAndNestedTrap : Obligations.TrapEntryAndNestedTrap := by
  refine ⟨?_, ?_⟩
  · intro s c j w tw sp hw hstate hsp asid w1 va s0 halts entry area
    exact ⟨fun f hread => State.enterTrap_of_unreadable hw hstate hsp hread,
      fun bs hread hv => State.enterTrap_of_absent hw hstate hsp hread hv,
      fun bs v hread hv hh => State.enterTrap_of_halting hw hstate hsp hread hv hh,
      fun bs v f hread hv hh hwrite => State.enterTrap_of_unwritable hw hstate hsp hread hv hh hwrite,
      fun bs v t hread hv hh hwrite => State.enterTrap_of_written hw hstate hsp hread hv hh hwrite⟩
  · intro s c j w tw hw hstate code
    exact ⟨fun hrd => State.enterTrap_of_nested_read hw hstate hrd,
      fun hrd => State.enterTrap_of_nested_unread hw hstate hrd⟩

end Sys2Proof.Machine
end

section
namespace Sys2Proof.Machine

/-! ### The trap and context unit's instructions (R238 to R241) -/

/-- A word that nothing stands in the way of, and whose body finds a trap. -/
theorem issue_of_trap {s : State} {x : Ctx} {h : Hdr} {ok ctl : Bool} {reads : List Rd} {f : Form} {t : Trap}
    {body : Ctx → LaneMask → State → Except Trap State} (r : Ready s x h ok reads ctl)
    (hc : (f.checks x.w.alloc).all (fun c => c.2) = ok) (hr : f.reads (x.w.eff h) = reads) (hs : f.spatialOk = ctl)
    (hb : body x (x.w.eff h) (s.past x h f.len f.extra) = .error t) :
    issue h f body s = .next (s.takeWordTrap f.zeroSteep t) := by
  rw [issue_ready r hc hr hs, hb]

theorem State.warp_of_ctx {s : State} {x : Ctx} (hx : s.ctx = some x) : s.warp = some x.w := by
  obtain ⟨w, hw, rfl⟩ := Option.map_eq_some_iff.1 hx
  exact hw

/-- A trap of a word that does not block is taken at the word's own address. -/
theorem State.takeWordTrap_of_warp {s : State} {w : Warp} (hw : s.warp = some w) (t : Trap) :
    s.takeWordTrap false t = s.takeTrapAt s.cur.1 s.cur.2 (w.pc.setWidth 64) t := by
  simp only [State.takeWordTrap, State.takeTrap, hw, Bool.false_eq_true, if_false]

theorem smallConst_ofNat {bound n : Nat} (hn : n < bound) (hb : bound ≤ 64) :
    smallConst bound (.const (BitVec.ofNat 6 n)) = some n := by
  have hval : (BitVec.ofNat 6 n).toNat = n := Nat.mod_eq_of_lt (by omega)
  simp only [smallConst, hval, hn, if_true]

section TrapWords

variable {s : State} {x : Ctx} {h : Hdr}

theorem execTrap_ready {n : Nat} (r : Ready s x h true [] true) (hn : n < 16) :
    execTrap h (.const (BitVec.ofNat 6 n)) s = .next (s.takeTrapAt s.cur.1 s.cur.2 ((x.w.pc + 8).setWidth 64)
      (trapAt (BitVec.ofNat 6 (0x30 + n)) (x.w.eff h) n)) := by
  have hconst := smallConst_ofNat hn (by decide)
  rw [execTrap, hconst]
  exact issue_of_body r rfl rfl rfl rfl

theorem execBkpt_ready {n : Nat} (r : Ready s x h true [] true) (hn : n < 32) :
    execBkpt h (.const (BitVec.ofNat 6 n)) s = .next (s.takeTrapAt s.cur.1 s.cur.2 (x.w.pc.setWidth 64)
      (trapAt cBreakpoint (x.w.eff h) n)) := by
  have hconst := smallConst_ofNat hn (by decide)
  rw [execBkpt, hconst, issue_of_trap r rfl rfl rfl rfl]
  exact congrArg _ (State.takeWordTrap_of_warp (State.warp_of_ctx r.ctx) _)

/-- The halt record of HALT holds the code and the address of the following word. -/
theorem execHalt_ready {l : Bool} {code : Src} (r : Ready s x h (sSrc1 false code) (Rd.src code false (x.w.eff h)) true) :
    execHalt h l code s = .next (((s.past x h (lenOf l)).updWarp fun w => { w with halted := true }).haltContext
      (s.asidOf x.w) (Warp.haltInfo { x.w with pc := x.w.pc + BitVec.ofNat 57 (lenOf l) } s.cur.1 s.cur.2 5 (x.n32Src code)
        false)) :=
  issue_of_body r (Checks.all_one ..) rfl rfl rfl

/-- A scalar register from the trap frame. -/
def frameReg (bs : List Byte) (off : Nat) : RegVal :=
  { val := BitVec.ofNat 32 (leNat ((bs.drop off).take 4)), tag := .clean }

/-- The warp after XRET, from the bytes of its trap frame (R241, Table TC-6). -/
def Warp.returned (w : Warp) (bs : List Byte) (pc : BitVec 57) : Warp :=
  { w.applyAll [.s 94 (frameReg bs 0), .s 95 (frameReg bs 4)] with
    act := BitVec.ofNat 32 (leNat ((bs.drop 8).take 4)), depth := BitVec.ofNat 8 (leNat ((bs.drop 12).take 1))
    mode := BitVec.ofNat 3 (leNat ((bs.drop 13).take 1)), hstate := false, pc := pc }

/-- The checks of R241 pass, and the frame can be read. -/
theorem execXret_ready {sp : Machine.Space} {bs : List Byte} (r : Ready s x h true [] true) (hstate : x.w.hstate = true)
    (heff : x.w.eff h = fullMask) (hact : x.w.act = fullMask) (hmark : x.w.ntok = x.w.dmark)
    (hpc : legalTarget x.w.lastXpc.toNat = true) (hsp : s.spaceOf x.w = some sp)
    (hread : s.vread s.cur.1 (s.asidOf x.w) (trapArea sp s.cur.1 s.cur.2) 64 = .ok bs) :
    let p := (s.past x h 8).vtouch s.cur.1 (s.asidOf x.w) (trapArea sp s.cur.1 s.cur.2) 64
    execXret h s = .next ((if x.w.wid = 0 then p.resumeGen x.w.gid else p).updWarp
      fun w => w.returned bs (x.w.lastXpc.setWidth 57)) := by
  refine issue_of_body r rfl rfl rfl ?_
  simp only [hstate, heff, hact, hmark, hpc, hsp, Option.map_some, Option.getD_some, hread, ne_eq, not_true_eq_false,
    decide_false, Bool.not_true, Bool.or_self, Bool.false_eq_true, if_false]
  rfl

end TrapWords

/-- Settles O15: each word by its own meaning, TRAP and BKPT with the constant that they name. -/
theorem trapUnitResults : Obligations.TrapUnitResults := by
  intro s x h l c code eff
  refine ⟨?_, ?_, fun r => execHalt_ready r, fun sp bs r hstate heff hact hmark hpc hsp hread =>
    execXret_ready r hstate heff hact hmark hpc hsp hread⟩
  · rintro n hn rfl r
    exact execTrap_ready r hn
  · rintro n hn rfl r
    exact execBkpt_ready r hn

end Sys2Proof.Machine
end

section
namespace Sys2Proof.Machine

/-! ### Pre-emption, save and resumption of groups (R243, R244, R246, R279 to R283, R428, R429) -/

theorem exec_preemptionRequest (d : BitVec 2) (s : State) : exec (.preemptionRequest d) s = .next (s.arbitrate d.toNat) := rfl

theorem exec_groupSave (gid : Nat) (s : State) : exec (.groupSave gid) s = .next (s.saveGroup gid) := rfl

theorem exec_saveBudgetExpiry (c n : Nat) (s : State) : exec (.saveBudgetExpiry c n) s = .next (s.saveExpire c n) := rfl

theorem exec_groupResume (d : BitVec 2) (s : State) : exec (.groupResume d) s = .next (s.resume d.toNat) := rfl

/-- The arbiter of a die asks for the cores that make room for the launch blocked there (R428, R429). -/
theorem State.arbitrate_of_enough {s : State} {d : Nat} {u : WorkUnit} {l : Launch} {xs : List Nat}
    (hidle : ∀ p ∈ s.cores, ∀ r ∈ p.2.pre, r.arb ≠ some d) (hblocked : s.blockedOn d = some (u, l)) (hl : l.preempt = true)
    (hxs : s.enough d u (s.victims d l.prio) 1 (s.victims d l.prio).length = some xs) :
    s.arbitrate d = s.request xs none false (some d) := by
  have hnone : (s.cores.any fun p => p.2.pre.any fun r => r.arb == some d) = false := by simpa using hidle
  simp only [State.arbitrate, hnone, hblocked, hl, hxs, Bool.not_true, Bool.false_eq_true, if_false]

section Budgets

variable {s : State} {c n : Nat} {r : PreReq}

theorem State.drainOut_iff : s.drainOut c r = true ↔
    r.step = .drain ∧ (r.budget ≤ (s.core c).cycle - r.since ∨ r.told = true) := by
  simp [State.drainOut]

theorem exec_drainBudgetExpiry_of_out (hr : (s.core c).pre[n]? = some r) (hout : s.drainOut c r = true) :
    exec (.drainBudgetExpiry c n) s = .next (s.beginSave c n) := by
  change execDrainBudgetExpiry c n s = _
  simp only [execDrainBudgetExpiry, hr, hout, if_true]

/-- A request in its save step stops its groups, and tells the other cores of their gangs (R244, R279). -/
theorem State.beginSave_of_request (hr : (s.core c).pre[n]? = some r) :
    s.beginSave c n = r.gids.foldl (fun a g => a.stopGroup g) ((s.setCore c { s.core c with
      pre := (s.core c).pre.set n { r with step := .save, since := (s.core c).cycle } }).tellGangs c r.gids) := by
  simp only [State.beginSave, hr]

section SaveBudget

variable {gid : Nat} {g : Group} {l : Launch} (hg : s.group gid = some g) (hl : s.launch g.launch = some l)
include hg hl

theorem State.saveOut_iff : s.saveOut c r gid = true ↔
    r.step = .save ∧ gid ∈ r.gids ∧ ∃ sp, s.space l.asid = some sp ∧ sp.saveb ≤ (s.core c).cycle - r.since := by
  simp [State.saveOut, hg, hl, Option.any_eq_true, and_assoc]

theorem State.saveLate_iff : s.saveLate gid g = true ↔ ∃ c ∈ g.cores, ∃ r ∈ (s.core c).pre, r.step = .save ∧ gid ∈ r.gids ∧
    ∃ sp, s.space l.asid = some sp ∧ sp.saveb ≤ (s.core c).cycle - r.since := by
  simp only [State.saveLate, State.lateSaves, List.any_eq_true, List.contains_iff_mem, List.mem_flatMap, List.mem_filter,
    State.saveOut_iff hg hl, and_left_comm, and_self_left]

end SaveBudget

/-- All the groups of a request whose save budgets have run out are reset with their gangs (R243, R280). -/
theorem State.saveExpire_of_allOut (hr : (s.core c).pre[n]? = some r) (hout : ∀ gid ∈ r.gids, s.saveOut c r gid = true) :
    s.saveExpire c n = r.gids.foldl (fun a g => a.resetGang g) s := by
  simp only [State.saveExpire, hr, List.filter_eq_self.2 hout]

end Budgets

/-- A group that runs, or that waits to run after a resumption, is saved rather than placed again. -/
theorem Group.not_placed_fresh (g : Group) (h : g.run ≠ .placed ∨ g.resumed = true) :
    ¬ (g.run = .placed ∧ (!g.resumed) = true) := by
  rintro ⟨hplaced, hfresh⟩
  rcases h with h | h
  · exact h hplaced
  · rw [h] at hfresh
    exact Bool.noConfusion hfresh

section Save

variable {s : State} {gid : Nat} {g : Group} {l : Launch} (hg : s.group gid = some g) (hl : s.launch g.launch = some l)
  (hsaving : s.saving gid g = true)
include hg hl hsaving

/-- A placed group that has not started gives up its place (R243, R283). -/
theorem State.saveGroup_of_unstarted (hrun : g.run = .placed) (hfresh : g.resumed = false)
    (hquiet : ∀ p ∈ s.unstarted g l, s.quiet p.1 p.2 = true) : s.saveGroup gid = s.unplace g l := by
  have hall : ((s.unstarted g l).all fun p => s.quiet p.1 p.2) = true := List.all_eq_true.2 hquiet
  simp [State.saveGroup, hg, hl, hsaving, hrun, hfresh, hall]

variable (hstarted : g.run ≠ .placed ∨ g.resumed = true)
include hstarted

theorem State.saveGroup_of_late (hlate : s.saveLate gid g = true) : s.saveGroup gid = s.resetGang gid := by
  have hplaced := g.not_placed_fresh hstarted
  simp only [State.saveGroup, hg, hl, hsaving, hplaced, hlate, Bool.not_true, Bool.false_eq_true, if_false, if_true]

/-- A save in time writes the group's record, and the gang is reset when it cannot (R244). -/
theorem State.saveGroup_of_inTime {g1 : Group} {sp : Machine.Space} (hlate : s.saveLate gid g ≠ true)
    (hgang : ∀ p ∈ s.gangOf g, p.2.run ≠ .running) (hquiet : s.quiet gid g = true)
    (haccess : l.record.clSize ≠ 1 → s.accessed gid = false) (hg1 : (s.boundaryFaults gid g).group gid = some g1)
    (hsp : (s.boundaryFaults gid g).space l.asid = some sp) :
    s.saveGroup gid = (((s.boundaryFaults gid g).writeRecord gid g1 l sp).elim
      ((s.boundaryFaults gid g).resetGang gid) fun p => p.1.leaveSaved gid g1 p.2) := by
  have hplaced := g.not_placed_fresh hstarted
  have hstopped : ((s.gangOf g).any fun p => p.2.run == .running) = false := by simpa using hgang
  have hreached : (l.record.clSize != 1 && s.accessed gid) = false := by simpa using haccess
  simp only [State.saveGroup, hg, hl, hsaving, hplaced, hlate, hstopped, hquiet, hreached, hg1, hsp, Bool.not_true,
    Bool.or_self, Bool.false_eq_true, if_false]
  cases (s.boundaryFaults gid g).writeRecord gid g1 l sp <;> rfl

end Save

/-- A saved member of a resumed unit is saved no more, and its record is set free (R246). -/
def State.dropSaved (s : State) (lid : Nat) (l : Launch) (i : Nat) : State :=
  match l.saved.find? i with
  | some sv => (s.freeRecord l.asid sv.rec_).updLaunch lid fun x => { x with saved := x.saved.del i }
  | none => s

section Resume

variable {s : State} {d : Nat} {p : Picked} {l : Launch} (hp : (s.noteBlocked d).pick d = some p)
  (hsaved : p.unit.saved = true) (hl : (s.noteBlocked d).launch p.unit.lid = some l)
include hp hsaved hl

theorem State.resume_of_restored {t : State} (ht : p.after.restoreAll p.unit.lid l p.unit.idxs = .ok t) :
    s.resume d = (p.unit.idxs.foldl (fun a i => a.dropSaved p.unit.lid l i) t).countBypass (s.noteBlocked d) p := by
  simp only [State.resume, hp, hsaved, hl, ht, Bool.not_true, Bool.false_eq_true, if_false]
  rfl

theorem State.resume_of_fault {addr slot pc i c : Nat}
    (hf : p.after.restoreAll p.unit.lid l p.unit.idxs = .error (.fault addr slot pc, i, c)) :
    s.resume d = (s.noteBlocked d).haltContext l.asid (resumeHalt c slot pc addr) := by
  simp only [State.resume, hp, hsaved, hl, hf, Bool.not_true, Bool.false_eq_true, if_false]

end Resume

/-- Settles O34, in the order of the steps: the request of an arbiter, the end of the drain step, the save of a group by
whether it has started and is in time, the end of the save step, and the resumption by what the records answer. -/
theorem contextEvents : Obligations.ContextEvents := by
  intro s
  refine ⟨?_, ?_, ?_, ?_, ?_, ?_⟩
  · intro d u l xs hidle hblocked hl hxs
    rw [exec_preemptionRequest, State.arbitrate_of_enough hidle hblocked hl hxs]
  · intro c n r hr hstep hout
    rw [exec_drainBudgetExpiry_of_out hr (State.drainOut_iff.2 ⟨hstep, hout⟩), State.beginSave_of_request hr]
  · intro gid g l hg hl hsaving hrun hfresh hquiet
    rw [exec_groupSave, State.saveGroup_of_unstarted hg hl hsaving hrun hfresh hquiet]
    rfl
  · intro gid g g1 l sp hg hl hsaving hstarted late
    have hiff : s.saveLate gid g = true ↔ late := State.saveLate_iff hg hl
    refine ⟨?_, ?_⟩
    · intro hlate
      rw [exec_groupSave, State.saveGroup_of_late hg hl hsaving hstarted (hiff.2 hlate)]
    · intro hlate hgang hquiet haccess s1 hg1 hsp
      have hsave := State.saveGroup_of_inTime hg hl hsaving hstarted (mt hiff.1 hlate) hgang hquiet haccess hg1 hsp
      refine ⟨fun s2 i hw => ?_, fun hw => ?_⟩
      · rw [exec_groupSave, hsave, hw, Option.elim_some]
      · rw [exec_groupSave, hsave, hw, Option.elim_none]
  · intro c n r hr hstep hout
    have hall : ∀ gid ∈ r.gids, s.saveOut c r gid = true := fun gid hgid => by
      obtain ⟨g, l, sp, hg, hl, hsp, hbudget⟩ := hout gid hgid
      exact (State.saveOut_iff hg hl).2 ⟨hstep, hgid, sp, hsp, hbudget⟩
    rw [exec_saveBudgetExpiry, State.saveExpire_of_allOut hr hall]
  · intro d p l s0 hp hsaved hl
    refine ⟨fun t ht => ?_, fun addr slot pc i c hf => ?_⟩
    · rw [exec_groupResume, State.resume_of_restored hp hsaved hl ht]
      rfl
    · rw [exec_groupResume, State.resume_of_fault hp hsaved hl hf]

end Sys2Proof.Machine
end

section
namespace Sys2Proof.Machine

/-! ### Pre-emption by register and the forced reset (R248, R357, R424, R429, R430) -/

/-- BAR 0 takes writes while the device is on. -/
theorem State.bar0_of_on {s : State} (hon : s.boot = .on) (t : State) : s.bar0 t = .next t := congrArg _ (if_pos hon)

section Preq

variable {s : State} (hon : s.boot = .on) (asid : BitVec 12) (all : Bool) (core : BitVec 9)
include hon

theorem exec_preqPreempt_of_on : exec (.preqPreempt asid all core) s =
    .next (s.request (s.coresRunning asid.toNat core.toNat all) (some asid.toNat) false) :=
  State.bar0_of_on hon _

theorem exec_preqPreemptHold_of_on : exec (.preqPreemptHold asid all core) s =
    let asked := s.request (s.coresRunning asid.toNat core.toNat all) (some asid.toNat) false
    .next { asked with heldAsids := asked.heldAsids.add asid.toNat } :=
  State.bar0_of_on hon _

theorem exec_preqReleaseHold_of_on :
    exec (.preqReleaseHold asid) s = .next { s with heldAsids := s.heldAsids.remove asid.toNat } :=
  State.bar0_of_on hon _

theorem exec_preqKill_of_on : exec (.preqKill asid) s = .next (s.killAsid asid.toNat) := State.bar0_of_on hon _

end Preq

/-- The groups of an address space are the same after messages alone. -/
theorem FabricOnly.groupsOfAsid {s t : State} (h : FabricOnly s t) (a : Nat) :
    (t.groups.filter fun p => (t.launch p.2.launch).any fun l => l.asid == a) =
      s.groups.filter fun p => (s.launch p.2.launch).any fun l => l.asid == a := by
  rw [h]
  rfl

/-- The hub sends the kill to every die, and every die reports (R9, R430). -/
theorem State.fabricOnly_exchangeDies (s : State) :
    FabricOnly s ((List.range 4).foldl (fun (t : State) d => t.exchange 4 d) s) :=
  FabricOnly.foldl _ (fun t d => fabricOnly_exchange t 4 d) s _

/-- A kill stops the queues that are bound to the address space and enabled, as a cleared ENABLE stops them (R419). -/
theorem State.disableQueue_of_bound (t : State) (a q : Nat) :
    (if (t.queue q).asid = some a then t.disableQueue q else t) =
      let x := t.queue q
      let busy := x.work != .none
      if x.asid = some a ∧ x.enable = true then
        t.setQueue q { x with enable := false, stopping := busy, st := if busy = true then x.st else .disabled }
      else t := by
  by_cases hbound : (t.queue q).asid = some a
  · cases henable : (t.queue q).enable <;> simp [State.disableQueue, hbound, henable]
  · simp [hbound]

/-- A killed launch without saved groups and without requests in progress is complete (R424, R430). -/
theorem State.launchDone_of_killed {t : State} {lid : Nat} {l : Launch} (hkilled : l.killed = true) (hsaved : l.saved = [])
    (hbusy : t.busyFor lid = false) : t.launchDone lid l = true := by
  simp [State.launchDone, hkilled, hsaved, hbusy]

/-- Settles O36: the four writes of PREQ, and what a kill does to a queue, a resident group and a launch. -/
theorem preemptionRegisterEvents : Obligations.PreemptionRegisterEvents := by
  intro s asid all core hon cores asked
  refine ⟨exec_preqPreempt_of_on hon .., exec_preqPreemptHold_of_on hon .., exec_preqReleaseHold_of_on hon _, ?_⟩
  intro A s0 mine s1 s2 zeroed s3
  refine ⟨(exec_preqKill_of_on hon asid).trans ?_, ?_, fun t lid l => State.launchDone_of_killed⟩
  · have hmine := (s.fabricOnly_exchangeDies).groupsOfAsid asid.toNat
    simp only [State.killAsid, State.disableQueue_of_bound, hmine]
    rfl
  · intro t gid g hg c k regs rows k1 k2
    simp only [State.resetGroup, hg]
    cases t.matrixGroup gid <;> rfl

end Sys2Proof.Machine
end

section
namespace Sys2Proof.Machine

/-! ### The merge of a written-back line (R306 to R308, R310) -/

/-- The poison marks of stored memory after a line's two sectors are written (R310). -/
def State.lineMarks (s : State) (n : Nat) : NSet :=
  [2 * n, 2 * n + 1].foldl (fun a k => a.assign k (s.secPoisoned k)) s.hbmPoison

/-- A line's block, expanded, with the line's bytes in their place (R310). -/
def State.mergedBlock (s : State) (n : Nat) : List Byte :=
  replaceLine (n / 4) n (s.expandBlock (n / 4)) (s.memRead (128 * n) 128)

theorem replaceLine_line (n : Nat) (block bytes : List Byte) :
    replaceLine (n / 4) n block bytes = block.take (128 * (n % 4)) ++ bytes ++ block.drop (128 * (n % 4) + 128) := by
  have hoffset : 128 * n - 512 * (n / 4) = 128 * (n % 4) := by omega
  simp only [replaceLine, hoffset]

section MergeLine

variable {s : State} {n : Nat}

theorem State.mergeLine_of_raw (htag : s.tagOf (n / 4) = 0x08#8) (hcomp : s.compLines.has n = false) :
    s.mergeLine n = { s with hbm := putBytes s.hbm (128 * n) (s.memRead (128 * n) 128), hbmPoison := s.lineMarks n } := by
  simp [State.mergeLine, State.lineMarks, htag, hcomp]

/-- A write-back is a merge unless the block is raw and the line was not written through a compressed translation. -/
theorem State.mergeLine_of_merging (h : s.tagOf (n / 4) ≠ 0x08#8 ∨ s.compLines.has n = true) :
    s.mergeLine n =
      if s.blockPoisoned (n / 4) then
        { s with
          hbm := putBytes s.hbm (128 * n) (s.memRead (128 * n) 128), tags := s.tags.put (n / 4) 0x08#8
          hbmPoison := (((List.range 8).map (· + 8 * (n / 4))).filter fun k => !([2 * n, 2 * n + 1].contains k)).foldl
            NSet.add (s.lineMarks n) }
      else
        let f := if s.compLines.has n then chooseFormat (s.mergedBlock n) else 0
        { s with
          hbm := putBytes s.hbm (512 * (n / 4)) (encodeBlock f (s.mergedBlock n)), hbmPoison := s.lineMarks n
          tags := s.tags.put (n / 4) (tagFor f) } := by
  have hmerge : (s.tagOf (n / 4) == 0x08#8 && !s.compLines.has n) = false := by
    rcases h with h | h <;> simp [h]
  exact if_neg (ne_true_of_eq_false hmerge)

end MergeLine

/-- Settles O29: a plain write to a raw block, and the merge by whether the block reads as poisoned and whether the line is
marked compressed. -/
theorem blockMergeRetags : Obligations.BlockMergeRetags := by
  intro s line n blk secs hbm marks old new
  have hexec : exec (.blockMerge line) s = .next (s.mergeLine n) := rfl
  have hnew : s.mergedBlock n = new := replaceLine_line n _ _
  refine ⟨fun htag hcomp => ?_, fun h hpoison => ?_, fun hcomp hpoison => ?_, fun htag hcomp hpoison => ?_⟩
  · rw [hexec, State.mergeLine_of_raw htag hcomp]
    rfl
  · rw [hexec, State.mergeLine_of_merging h, if_pos hpoison]
    rfl
  · rw [hexec, State.mergeLine_of_merging (.inr hcomp), if_neg (ne_true_of_eq_false hpoison), hcomp, hnew]
    rfl
  · rw [hexec, State.mergeLine_of_merging (.inl htag), if_neg (ne_true_of_eq_false hpoison), hcomp, hnew]
    rfl

end Sys2Proof.Machine
end

section
namespace Sys2Proof.Machine

/-! ### Messages over links, and what a home does short of a merge (R437, R443, R449) -/

/-- Two states that differ in links, channels, dies, and whether the step waits, alone. -/
def LinksOnly (s t : State) : Prop :=
  t = { s with stalled := t.stalled, dies := t.dies, links := t.links, chans := t.chans }

theorem LinksOnly.trans {s t u : State} (h : LinksOnly s t) (k : LinksOnly t u) : LinksOnly s u := by
  unfold LinksOnly at *
  rw [k, h]

theorem linksOnly_noteSend (s : State) (a b : Nat) (fs : List FMsg) : LinksOnly s (s.noteSend a b fs) := by
  unfold State.noteSend
  dsimp only
  split <;> split <;> rfl

theorem linksOnly_refill (s : State) (a b n : Nat) : LinksOnly s (s.refill a b n) := by
  unfold State.refill
  dsimp only
  split
  · exact LinksOnly.trans (t := s.setChan _ _ _ _) rfl (linksOnly_noteSend _ _ _ _)
  · rfl

theorem linksOnly_pass (s : State) (a b : Nat) : LinksOnly s (s.pass a b) := by
  unfold State.pass
  dsimp only
  split
  · rfl
  · refine LinksOnly.trans ?_ (linksOnly_noteSend _ _ _ _)
    split
    · rfl
    · exact List.foldlRecOn _ _ rfl fun t h n _ => (h.trans (linksOnly_refill t a b n)).trans (linksOnly_refill _ b a n)

theorem linksOnly_passOn (s : State) (a b ch : Nat) : LinksOnly s (s.passOn a b ch) := by
  unfold State.passOn
  split
  · exact linksOnly_pass s a b
  · rfl

/-- Two states that differ in directories, L1 data caches, residency counts and links alone: stored memory, with its tags and
marks, is the same. -/
def DirectoryOnly (s t : State) : Prop :=
  t = { s with stalled := t.stalled, l1 := t.l1, dies := t.dies, links := t.links, chans := t.chans, lines := t.lines,
               residency := t.residency }

theorem DirectoryOnly.trans {s t u : State} (h : DirectoryOnly s t) (k : DirectoryOnly t u) : DirectoryOnly s u := by
  unfold DirectoryOnly at *
  rw [k, h]

theorem LinksOnly.directoryOnly {s t : State} (h : LinksOnly s t) : DirectoryOnly s t := by
  unfold DirectoryOnly
  rw [h]

theorem directoryOnly_touchL2 (s : State) (line : Nat) : DirectoryOnly s (s.touchL2 line) := by
  unfold State.touchL2
  dsimp only
  split <;> rfl

/-- What the home has done for a request when it has the answers to its snoops: its entry, and the snoops. -/
def State.homeSnoops (s : State) (line a : Nat) (r : Req) : State :=
  (snoops (s.line line) a r).foldl (fun t q =>
    (if q.2 = .snpI then t.l1Drop q.1 line else t.l1Share q.1 line).passSnoop (s.line line) (homeOf line) q.1 q.2)
    ((s.setLine line ((s.line line).served a r).1).touchL2 line)

theorem State.homeServes_of_dirty {s : State} {line a : Nat} {r : Req} (h : ((s.line line).served a r).2.2 = true) :
    s.homeServes line a r = (s.homeSnoops line a r).mergeLine line := if_pos h

theorem directoryOnly_homeSnoops (s : State) (line a : Nat) (r : Req) : DirectoryOnly s (s.homeSnoops line a r) := by
  have hentry : DirectoryOnly s ((s.setLine line ((s.line line).served a r).1).touchL2 line) :=
    DirectoryOnly.trans (t := s.setLine line _) rfl (directoryOnly_touchL2 _ _)
  have hsnoop (t : State) (q : Nat × Msg) :
      DirectoryOnly t ((if q.2 = .snpI then t.l1Drop q.1 line else t.l1Share q.1 line).passSnoop (s.line line) (homeOf line) q.1 q.2) :=
    DirectoryOnly.trans (by split <;> rfl) ((linksOnly_passOn _ _ _ _).trans (linksOnly_passOn _ _ _ _)).directoryOnly
  exact List.foldlRecOn _ _ hentry fun t h q _ => h.trans (hsnoop t q)

/-- A write-back to a raw block, after changes to directories alone. -/
theorem DirectoryOnly.mergeLine_hbm {s t : State} (h : DirectoryOnly s t) {n : Nat} (htag : s.tagOf (n / 4) = 0x08#8)
    (hcomp : s.compLines.has n = false) :
    (t.mergeLine n).hbm = putBytes s.hbm (128 * n) (s.memRead (128 * n) 128) := by
  have htag' : t.tagOf (n / 4) = 0x08#8 := by rw [h]; exact htag
  have hcomp' : t.compLines.has n = false := by rw [h]; exact hcomp
  rw [State.mergeLine_of_raw htag' hcomp', h]
  rfl

/-! ### The request of a CPYZ for a block (R312) -/

theorem State.freshLine_not_held (s : State) (line : Nat) : ¬ ((s.freshLine line).dir = .x ∨ (s.freshLine line).dir = .o) := by
  unfold State.freshLine
  split <;> decide

/-- Messages change no entry of a line that has an owner. -/
theorem LinksOnly.line_of_held {s t : State} (h : LinksOnly s t) {line : Nat}
    (hheld : (s.line line).dir = .x ∨ (s.line line).dir = .o) : t.line line = s.line line := by
  have hlines : t.lines = s.lines := by rw [h]
  cases hfind : s.lines.find? line with
  | none =>
    have hfresh : s.line line = s.freshLine line := by simp [State.line, SMap.get, hfind]
    exact absurd (hfresh ▸ hheld) (s.freshLine_not_held line)
  | some e => simp [State.line, SMap.get, hlines, hfind]

section DirtyOwner

variable {e : LineSt} (hheld : e.dir = .x ∨ e.dir = .o) (hrecall : e.recallBit = false) (howner : e.owner < 4)
include hheld hrecall howner

/-- A Blk asks the owner alone for its data (Table PF-6). -/
theorem snoops_blk_of_held (d : Nat) : snoops e d .blk = [(e.owner, .snpC)] := by
  have hhost : e.owner ≠ 4 := by omega
  rcases hheld with h | h <;> simp [snoops, h, hrecall, hhost]

/-- An owner in M gives dirty data to the home, which writes it back (Tables PF-6 and PF-7). -/
theorem served_blk_dirty (hm : e.agent e.owner = .m) (d : Nat) : (e.served d .blk).2.2 = true := by
  simp [LineSt.served, snoops_blk_of_held hheld hrecall howner, LineSt.snoopAll, hm, AgentSt.snooped, answer]

end DirtyOwner

section BlkRequest

variable {s : State} {line : Nat} (hheld : (s.line line).dir = .x ∨ (s.line line).dir = .o)
  (hrecall : (s.line line).recallBit = false) (hm : (s.line line).agent (s.line line).owner = .m)
  (howner : (s.line line).owner < 4) (htag : s.tagOf (line / 4) = 0x08#8) (hcomp : s.compLines.has line = false)
include hheld hrecall hm howner htag hcomp

theorem State.homeServes_blk_hbm (d : Nat) :
    (s.homeServes line d .blk).hbm = putBytes s.hbm (128 * line) (s.memRead (128 * line) 128) := by
  rw [State.homeServes_of_dirty (served_blk_dirty hheld hrecall howner hm d)]
  exact (directoryOnly_homeSnoops s line d .blk).mergeLine_hbm htag hcomp

theorem State.transact_blk_hbm (d : Nat) :
    (s.transact line d .blk).hbm = putBytes s.hbm (128 * line) (s.memRead (128 * line) 128) := by
  have hpass : LinksOnly s (s.passOn d (homeOf line) 0) := linksOnly_passOn s d (homeOf line) 0
  have hline := hpass.line_of_held hheld
  have hserved : ((s.passOn d (homeOf line) 0).homeServes line d .blk).hbm =
      putBytes s.hbm (128 * line) (s.memRead (128 * line) 128) := by
    rw [State.homeServes_of_dirty (hline ▸ served_blk_dirty hheld hrecall howner hm d)]
    exact (hpass.directoryOnly.trans (directoryOnly_homeSnoops _ line d .blk)).mergeLine_hbm htag hcomp
  have hafter {t u : State} (h : LinksOnly t u) : u.hbm = t.hbm := by rw [h]
  unfold State.transact
  dsimp only
  split
  · rw [hafter (linksOnly_passOn _ _ _ _), hafter (linksOnly_passOn _ _ _ _), hserved]
  · rw [hafter (linksOnly_passOn _ _ _ _), hserved]

end BlkRequest

theorem State.blockRead_of_idle {s : State} {pa : Nat} (hidle : ∀ k < 4, (s.line (pa / 512 * 4 + k)).idle = true) (d : Nat) :
    s.blockRead d pa =
      ((List.range 4).foldl (fun t k => t.homeServes (pa / 512 * 4 + k) d .blk) (s.passOn d (homeOf (pa / 512 * 4)) 0)).passOn
        (homeOf (pa / 512 * 4)) d 3 := by
  have hall : ((List.range 4).map (· + pa / 512 * 4)).all (fun k => (s.line k).idle) = true := by
    simpa [Nat.add_comm] using hidle
  simp only [State.blockRead, hall, if_true, List.foldl_map, Nat.add_comm]

/-! ### The elements, granules and end of a request (R290, R298 to R305) -/

theorem exec_copyElement (c : Nat) (strm : Stream) (s : State) : exec (.copyElement c strm) s = .next (s.copyElement c strm) := rfl

theorem exec_copyRequestCompletion (c : Nat) (strm : Stream) (s : State) :
    exec (.copyRequestCompletion c strm) s = .next (s.copyComplete c strm) := rfl

/-- Every source but a block of device HBM under a CPYZ is read through the L2 (R294). -/
theorem State.copySource_of_unblocked {r : CopyReq} {a : Loc} (h : r.kind ≠ .cpyz ∨ ∃ pa z, a = .glob pa z ∧ 2 ^ 41 ≤ pa)
    (s : State) (c : Nat) (x : CopyElem) : s.copySource c r x a = s.locAccess (.die (dieOf c)) a r.es .read := by
  rcases h with h | ⟨pa, z, rfl, h⟩
  · simp [State.copySource, h]
  · by_cases hk : r.kind = .cpyz
    · simp only [State.copySource, hk, decide_true, if_pos h]
    · simp only [State.copySource, hk, decide_false]

/-- A CPYZ asks for a block of device HBM at the block's first element (R312). -/
theorem State.copySource_of_block {r : CopyReq} (hk : r.kind = .cpyz) {pa : Nat} (h : pa < 2 ^ 41) (s : State) (c : Nat)
    (x : CopyElem) (z : Bool) :
    s.copySource c r x (.glob pa z) = if x.e % 64 = 0 then s.blockRead (dieOf c) pa else s := by
  simp only [State.copySource, hk, decide_true, if_neg (Nat.not_le.mpr h)]

/-- Poison is written as zeros, and poisons what it reaches (R302). -/
theorem State.copyPut_of_poison {g : Got} (hg : g.tag = .poison) (s : State) (c : Nat) (b : Loc) (n : Nat) :
    s.copyPut c b n g = (s.locStore (.die (dieOf c)) b (leBytes n 0)).locPoison b := if_pos hg

theorem State.copyPut_of_clean {g : Got} (hg : g.tag = .clean) (s : State) (c : Nat) (b : Loc) (n : Nat) :
    s.copyPut c b n g = s.locStore (.die (dieOf c)) b (leBytes n g.val) := if_neg (by simp [hg])

section CopyRequests

variable {s : State} {c : Nat} {strm : Stream} {before after : List CopyReq} {r : CopyReq}
  (hhead : Machine.headOf strm (s.core c).copy = some (before, r, after))
include hhead

section Element

variable {x : CopyElem} {rest : List CopyElem} (helems : r.elems = x :: rest) (hwait : r.waiting = none)
include helems hwait

theorem State.copyElement_of_local {a b : Loc} (hsrc : x.src = some a) (hdst : x.dst = some b) :
    s.copyElement c strm =
      let g := s.lsRead 0 r.es a
      if g.tag = .fabric then s.copyFail c strm 8 x.sa false
      else if s.locErr b then s.copyFail c strm 8 x.da true
      else ((s.copySource c r x a).copyPut c b r.es g).setHead c strm fun q => { q with elems := rest } := by
  simp [State.copyElement, hhead, helems, hwait, hsrc, hdst]

theorem State.copyElement_of_send {a : Loc} (hsrc : x.src = some a) (hdst : x.dst = none) :
    s.copyElement c strm =
      let g := s.lsRead 0 r.es a
      let t := s.linkTag c strm (epPort r.ep)
      if g.tag = .fabric then s.copyFail c strm 8 x.sa false
      else if (s.port (epPort r.ep)).st ≠ .up then s.copyFail c strm 0x10 x.sa false
      else (((s.copySource c r x a).pass (dieOf c) 4).sendFlit (epPort r.ep)
        (.write t (epWin r.ep) (addrNat x.da) (leBytes r.es g.val) (g.tag == .poison))).setHead c strm fun q =>
          { q with waiting := some t } := by
  simp [State.copyElement, hhead, helems, hwait, hsrc, hdst]

theorem State.copyElement_of_fetch {b : Loc} (hsrc : x.src = none) (hdst : x.dst = some b) :
    s.copyElement c strm =
      let t := s.linkTag c strm (epPort r.ep)
      if (s.port (epPort r.ep)).st ≠ .up then s.copyFail c strm 0x10 x.da true
      else ((s.pass (dieOf c) 4).sendFlit (epPort r.ep) (.read t (epWin r.ep) (addrNat x.sa) r.es)).setHead c strm fun q =>
        { q with waiting := some t } := by
  simp [State.copyElement, hhead, helems, hwait, hsrc, hdst]

end Element

theorem exec_copyGranuleFull_of_done {n : Nat} {g : Loc} {rest : List Loc} (htake : takeAt n r.grans = some (g, rest))
    (hdone : granuleDone r.es r.elems g = true) :
    exec (.copyGranuleFull c strm n) s = .next ((s.setFull g true).setHead c strm fun q => { q with grans := rest }) := by
  change execCopyGranuleFull c strm n s = _
  simp [execCopyGranuleFull, hhead, htake, hdone]

/-- A request with nothing left completes, but for one that ended in error while a fault of its stream is pending (R299, R305). -/
theorem State.copyComplete_of_finished (helems : r.elems = []) (hgrans : r.grans = []) (hwait : r.waiting = none)
    (hfault : r.ended = none ∨ (s.core c).streamPending strm = false) :
    s.copyComplete c strm =
      let s1 := (s.setCore c { s.core c with copy := before ++ after }).completeOf r.gid r.wid 0 [] r.flag
      r.ended.elim s1 fun t => s1.pendFault r.lid r.gid r.wid t := by
  have hfree : (r.ended.isSome && (s.core c).streamPending strm) = false := by
    rcases hfault with h | h <;> simp [h]
  simp only [State.copyComplete, hhead, helems, hgrans, hwait, hfree]
  cases r.ended <;> rfl

end CopyRequests

/-- Settles O28: an element by where its source and its destination lie, the home's answer to a CPYZ by the owner's dirty data,
and the end of a request by whether it ended in error. -/
theorem copyEvents : Obligations.CopyEvents := by
  intro s c strm before after r hhead
  refine ⟨fun x rest helems hwait => ⟨?within, ?send, ?fetch⟩, ?merge, fun d pa => (State.blockRead_of_idle · d),
    fun n g rest htake hdone => exec_copyGranuleFull_of_done hhead htake hdone, ?done, ?failed⟩
  case within =>
    intro a b hsrc hdst g
    have hexec := exec_copyElement c strm s
    rw [State.copyElement_of_local hhead helems hwait hsrc hdst] at hexec
    refine ⟨fun hg => ?_, fun hg hb => ?_, fun h => State.copySource_of_unblocked h s c x, ?_, fun hg hb => ?_, fun hg hb => ?_⟩
    · rw [hexec, if_pos hg]
    · rw [hexec, if_neg hg, if_pos hb]
    · rintro pa z hk rfl hpa
      exact State.copySource_of_block hk hpa s c x z
    · rw [hexec, if_neg (hg ▸ by decide), if_neg (ne_true_of_eq_false hb),
        State.copyPut_of_poison hg]
    · rw [hexec, if_neg (hg ▸ by decide), if_neg (ne_true_of_eq_false hb),
        State.copyPut_of_clean hg]
  case send =>
    intro a hsrc hdst g t
    have hexec := exec_copyElement c strm s
    rw [State.copyElement_of_send hhead helems hwait hsrc hdst] at hexec
    refine ⟨fun hg => ?_, fun hg hp => ?_, fun hg hp => ?_⟩
    · rw [hexec, if_pos hg]
    · rw [hexec, if_neg hg, if_pos hp]
    · rw [hexec, if_neg hg, if_neg (not_not_intro hp)]
  case fetch =>
    intro b hsrc hdst t
    have hexec := exec_copyElement c strm s
    rw [State.copyElement_of_fetch hhead helems hwait hsrc hdst] at hexec
    exact ⟨fun hp => by rw [hexec, if_pos hp], fun hp => by rw [hexec, if_neg (not_not_intro hp)]⟩
  case merge =>
    intro d line _ hheld hrecall hm howner htag hcomp
    exact ⟨State.homeServes_blk_hbm hheld hrecall hm howner htag hcomp d,
      State.transact_blk_hbm hheld hrecall hm howner htag hcomp d⟩
  case done =>
    intro helems hgrans hwait hend
    rw [exec_copyRequestCompletion, State.copyComplete_of_finished hhead helems hgrans hwait (.inl hend), hend]
    rfl
  case failed =>
    intro t helems hgrans hwait hend hfree
    rw [exec_copyRequestCompletion, State.copyComplete_of_finished hhead helems hgrans hwait (.inr hfree), hend]
    rfl

end Sys2Proof.Machine
end

section
namespace Sys2Proof.Machine

/-! ### Power-up (R306, R468, R475, R476) -/

/-- Dropping keys leaves what the others list. -/
theorem SMap.find?_filter_key {α : Type} (m : SMap α) (p : Nat → Bool) (k : Nat) :
    SMap.find? (m.filter fun q => p q.1) k = if p k then m.find? k else none := by
  induction m with
  | nil => simp [SMap.find?]
  | cons q m ih =>
    obtain ⟨i, a⟩ := q
    by_cases hi : i = k
    · subst hi
      by_cases hp : p i <;> simp [SMap.find?, hp, ih]
    · by_cases hp : p i <;> simp [SMap.find?, hp, hi, ih]

/-- Marks the core of a fenced unit, if the unit is one. -/
def markFenced (m : SMap Core) (u : UnitRef) : SMap Core :=
  match unitCore u with
  | some c => m.put c { Core.initial with fenced := true }
  | none => m

/-- No core is released and no core holds a warp. -/
def AllAsleep (m : SMap Core) : Prop := ∀ c, (m.get Core.initial c).released = false ∧ (m.get Core.initial c).warps = []

theorem allAsleep_markFenced {m : SMap Core} (h : AllAsleep m) (u : UnitRef) : AllAsleep (markFenced m u) := by
  intro c
  unfold markFenced
  cases unitCore u with
  | none => exact h c
  | some i =>
    by_cases hc : c = i
    · simp [SMap.get, hc, Core.initial]
    · simpa [SMap.get, SMap.find?_put_of_ne m _ hc] using h c

theorem allAsleep_foldl_markFenced (us : List UnitRef) {m : SMap Core} (h : AllAsleep m) :
    AllAsleep (us.foldl markFenced m) := by
  induction us generalizing m with
  | nil => exact h
  | cons u us ih => exact ih (allAsleep_markFenced h u)

/-- The fence list less the entries removed from it (R478). -/
def State.keptFences (s : State) : List UnitRef := s.fenceList.filter fun u => !s.fenceDrop.contains u

/-- With a valid image the device runs it; all else is as in recovery (R475, R476). -/
theorem State.coldReset_of_image {s : State} (h : s.flash.all imageOk = true) :
    s.coldReset true =
      { s.coldReset false with
        boot := .on, running := s.flash, bootFences := s.keptFences, fencedUnits := s.keptFences
        release := [(0, List.range 128)], releaseTurn := 0, cores := s.keptFences.foldl markFenced [] } :=
  if_pos h

theorem State.coldReset_of_none {s : State} {found : Bool} (h : found = false ∨ s.flash.all imageOk = false) :
    s.coldReset found = s.coldReset false := by
  refine (if_neg ?_).trans rfl
  rcases h with h | h <;> simp [h]

/-- Of memory the host's part stays, and the rest reads as zero. -/
theorem State.memByte_coldReset (s : State) (pa : Nat) :
    (s.coldReset false).memByte pa = if 2 ^ 51 ≤ pa then s.memByte pa else 0 := by
  have hmem : (s.coldReset false).mem = s.mem.filter fun p => decide (2 ^ 51 ≤ p.1) := rfl
  have hfind := SMap.find?_filter_key s.mem (fun k => decide (2 ^ 51 ≤ k)) pa
  simp only [State.memByte, byteAt, hmem, SMap.get, hfind, decide_eq_true_eq]
  split <;> rfl

/-- POWER_UP with a valid image. -/
theorem exec_powerUp_of_image {s : State} (himage : s.flash.all imageOk = true) :
    ∃ t : State, exec (.powerUp true) s = .next t ∧ t.boot = .on ∧
      t.running = s.flash ∧ t.release = [(0, List.range 128)] ∧ t.releaseTurn = 0 ∧
      (∀ c, (t.core c).released = false ∧ (t.core c).warps = []) ∧ t.queues = [] ∧ t.groups = [] ∧ t.launches = [] ∧
      t.tags = [] ∧ t.fenced = [] ∧ t.fenceList = s.fenceList.filter (fun u => !s.fenceDrop.contains u) ∧
      t.fencedUnits = t.fenceList ∧ t.flash = s.flash ∧ t.agenda = s.agenda ∧
      (∀ pa, pa < 2 ^ 51 → t.memByte pa = 0) ∧ (∀ pa, 2 ^ 51 ≤ pa → t.memByte pa = s.memByte pa) :=
  ⟨_, congrArg Host.Outcome.next (State.coldReset_of_image himage), rfl, rfl, rfl, rfl,
    allAsleep_foldl_markFenced s.keptFences fun _ => ⟨rfl, rfl⟩, rfl, rfl, rfl, rfl, rfl, rfl, rfl, rfl, rfl,
    fun pa h => (s.memByte_coldReset pa).trans (if_neg (Nat.not_le.mpr h)),
    fun pa h => (s.memByte_coldReset pa).trans (if_pos h)⟩

/-- POWER_UP without a valid image. -/
theorem exec_powerUp_of_none {s : State} {found : Bool} (h : found = false ∨ s.flash.all imageOk = false) :
    ∃ t : State, exec (.powerUp found) s = .next t ∧ t.boot = .recovery ∧ t.cores = [] ∧ t.release = [] ∧ t.flash = s.flash :=
  ⟨_, congrArg Host.Outcome.next (State.coldReset_of_none h), rfl, rfl, rfl, rfl⟩

/-! ### The release of clusters (R468) -/

/-- The first cluster of an entry of the clusters that wait. -/
def waitingCluster (p : Nat × List Nat) : Option (Nat × Nat × List Nat) :=
  match p.2 with
  | [] => none
  | k :: ks => some (p.1, k, ks)

theorem waitingCluster_rank {p : Nat × List Nat} {q : Nat × Nat × List Nat} (h : waitingCluster p = some q) :
    p.2 ≠ [] ∧ q.1 = p.1 := by
  obtain ⟨i, ks⟩ := p
  cases ks with
  | nil => cases h
  | cons k ks => cases h; exact ⟨List.cons_ne_nil k ks, rfl⟩

/-- Where every entry is empty or comes before a rank, no cluster from that rank on waits. -/
theorem find?_waitingCluster_eq_none {ps : SMap (List Nat)} {n : Nat} (h : ∀ p ∈ ps, p.2 = [] ∨ p.1 < n) :
    (ps.filterMap waitingCluster).find? (fun q => decide (n ≤ q.1)) = none := by
  simp only [List.find?_eq_none, List.mem_filterMap, decide_eq_true_eq]
  rintro q ⟨p, hp, hq⟩
  obtain ⟨hne, hrank⟩ := waitingCluster_rank hq
  have := (h p hp).resolve_left hne
  omega

theorem filterMap_waitingCluster_eq_nil {ps : SMap (List Nat)} (h : ∀ p ∈ ps, p.2 = []) :
    ps.filterMap waitingCluster = [] :=
  List.filterMap_eq_nil_iff.mpr fun p hp => by simp [waitingCluster, h p hp]

/-- The first cluster from the turn's rank on, or the first of all (R468). -/
theorem State.releaseNext_eq (s : State) : s.releaseNext =
    ((s.release.filterMap waitingCluster).find? fun q => decide (s.releaseTurn ≤ q.1)).or
      (s.release.filterMap waitingCluster).head? := rfl

section NextRelease

variable {s : State}

theorem State.releaseNext_of_turn {before after : SMap (List Nat)} {r k : Nat} {ks : List Nat}
    (hrel : s.release = before ++ (r, k :: ks) :: after)
    (hturn : (∀ p ∈ before, p.2 = [] ∨ p.1 < s.releaseTurn) ∧ s.releaseTurn ≤ r ∨
      (∀ p ∈ s.release, p.2 = [] ∨ p.1 < s.releaseTurn) ∧ (∀ p ∈ before, p.2 = [])) :
    s.releaseNext = some (r, k, ks) := by
  have hwaits : s.release.filterMap waitingCluster =
      before.filterMap waitingCluster ++ (r, k, ks) :: after.filterMap waitingCluster := by
    rw [hrel, List.filterMap_append]
    rfl
  rcases hturn with ⟨hbefore, hr⟩ | ⟨hall, hbefore⟩
  · simp [State.releaseNext_eq, hwaits, List.find?_append, find?_waitingCluster_eq_none hbefore, hr]
  · rw [State.releaseNext_eq, find?_waitingCluster_eq_none hall, hwaits, filterMap_waitingCluster_eq_nil hbefore]
    rfl

theorem State.nextRelease_of_next (hon : s.boot = .on) (hdue : ∀ t, s.lastRelease = some t → 4000 ≤ s.hub - t)
    {r k : Nat} {ks : List Nat} (hnext : s.releaseNext = some (r, k, ks)) :
    s.nextRelease = { (s.pass 4 (k / 32)).releaseCluster k with
      release := if ks = [] then SMap.del s.release r else SMap.put s.release r ks
      releaseTurn := r + 1, lastRelease := some s.hub } := by
  have hmay : ¬ (s.boot ≠ .on ∨ s.lastRelease.any (fun t => decide (s.hub - t < 4000)) = true) := by
    cases hlast : s.lastRelease with
    | none => simp [hon]
    | some t => simpa [hon] using hdue t hlast
  rw [State.nextRelease, if_neg hmay, hnext]
  cases ks <;> rfl

theorem State.nextRelease_of_none (h : ∀ p ∈ s.release, p.2 = []) : s.nextRelease = s := by
  have hnext : s.releaseNext = none := by
    rw [State.releaseNext_eq, filterMap_waitingCluster_eq_nil h]
    rfl
  rw [State.nextRelease, hnext]
  exact ite_self s

theorem State.nextRelease_of_early {t : Nat} (hlast : s.lastRelease = some t) (hearly : s.hub - t < 4000) :
    s.nextRelease = s :=
  if_pos (.inr (by simpa [hlast] using hearly))

end NextRelease

/-- A core that leaves reset at a cycle of its die's clock. -/
def Core.release (x : Core) (clk : Nat) : Core := { x with released := true, phase := clk % 2 }

theorem Core.release_ne_initial (x : Core) (clk : Nat) : x.release clk ≠ Core.initial := fun h =>
  Bool.noConfusion (congrArg Core.released h)

/-- One core leaves reset, unless it is fenced. -/
def State.releaseCore (clk : Nat → Nat) (s : State) (c : Nat) : State :=
  if (s.core c).fenced then s else s.setCore c ((s.core c).release (clk c))

theorem State.core_foldl_releaseCore (clk : Nat → Nat) (cs : List Nat) (s : State) (c : Nat) :
    (cs.foldl (State.releaseCore clk) s).core c =
      if c ∈ cs ∧ (s.core c).fenced = false then (s.core c).release (clk c) else s.core c := by
  have hself (t : State) : (t.releaseCore clk c).core c =
      if (t.core c).fenced = false then (t.core c).release (clk c) else t.core c := by
    unfold State.releaseCore
    cases hf : (t.core c).fenced
    · exact SMap.get_set_self_of_ne _ _ (Core.release_ne_initial _ _)
    · simp
  induction cs generalizing s with
  | nil => simp
  | cons b cs ih =>
    rw [List.foldl_cons, ih]
    by_cases hb : c = b
    · subst hb
      rw [hself]
      cases hf : (s.core c).fenced <;> simp [hf, Core.release]
    · have hother : (s.releaseCore clk b).core c = s.core c := by
        unfold State.releaseCore
        split
        · rfl
        · exact State.core_setCore_of_ne s _ hb
      simp [hother, hb]

/-- The four cores of a cluster that are not fenced leave reset together. -/
theorem State.core_releaseCluster (s : State) (k c : Nat) :
    (s.releaseCluster k).core c =
      if (4 * k ≤ c ∧ c < 4 * k + 4) ∧ (s.core c).fenced = false then
        (s.core c).release (s.die (dieOf c)).clk
      else s.core c := by
  have hmem : c ∈ (List.range 4).map (· + 4 * k) ↔ 4 * k ≤ c ∧ c < 4 * k + 4 := by
    simp only [List.mem_map, List.mem_range]
    exact ⟨by rintro ⟨i, hi, rfl⟩; omega, fun h => ⟨c - 4 * k, by omega, by omega⟩⟩
  have hcores := State.core_foldl_releaseCore (fun c => (s.die (dieOf c)).clk) ((List.range 4).map (· + 4 * k)) s c
  simp only [hmem] at hcores
  exact hcores

theorem exec_clusterRelease (s : State) : exec .clusterRelease s = .next s.nextRelease := rfl

/-- From a canonical store of dies, a state with a canonical one and the same clocks. -/
def KeepsClocks (s t : State) : Prop :=
  SMap.wf DieSt.initial s.dies = true → SMap.wf DieSt.initial t.dies = true ∧ ∀ d, (t.die d).clk = (s.die d).clk

theorem KeepsClocks.of_dies {s t : State} (h : t.dies = s.dies) : KeepsClocks s t := fun hd =>
  ⟨h ▸ hd, fun d => by rw [State.die, State.die, h]⟩

theorem KeepsClocks.trans {s t u : State} (h : KeepsClocks s t) (k : KeepsClocks t u) : KeepsClocks s u := fun hd =>
  ⟨(k (h hd).1).1, fun d => ((k (h hd).1).2 d).trans ((h hd).2 d)⟩

theorem keepsClocks_setDie (s : State) (d : Nat) {x : DieSt} (h : x.clk = (s.die d).clk) : KeepsClocks s (s.setDie d x) := by
  refine fun hd => ⟨SMap.wf_set hd d x, fun i => ?_⟩
  by_cases hi : i = d
  · subst hi
    exact (congrArg DieSt.clk (SMap.get_set_self hd i x)).trans h
  · exact congrArg DieSt.clk (SMap.get_set_of_ne DieSt.initial s.dies x hi)

theorem keepsClocks_noteSend (s : State) (a b : Nat) (fs : List FMsg) : KeepsClocks s (s.noteSend a b fs) := by
  unfold State.noteSend
  dsimp only
  have hlink : KeepsClocks s (if a = b then s else s.setLink a b { s.link a b with last := s.dieClk (min a b) }) :=
    .of_dies (by split <;> rfl)
  split
  · exact hlink.trans (keepsClocks_setDie _ a rfl)
  · exact hlink

theorem keepsClocks_refill (s : State) (a b n : Nat) : KeepsClocks s (s.refill a b n) := by
  unfold State.refill
  dsimp only
  split
  · exact KeepsClocks.trans (t := s.setChan a b n _) (.of_dies rfl) (keepsClocks_noteSend _ a b _)
  · exact .of_dies rfl

theorem keepsClocks_pass (s : State) (a b : Nat) : KeepsClocks s (s.pass a b) := by
  unfold State.pass
  dsimp only
  split
  · exact .of_dies rfl
  · refine KeepsClocks.trans ?_ (keepsClocks_noteSend _ a b [])
    split
    · exact .of_dies rfl
    · exact List.foldlRecOn _ _ (.of_dies rfl) fun t h n _ =>
        (h.trans (keepsClocks_refill t a b n)).trans (keepsClocks_refill _ b a n)

/-- The release of a cluster, from a canonical store of dies: the clause of O47 that fails without it. -/
theorem exec_clusterRelease_of_canonicalDies {s : State} (hdies : SMap.wf DieSt.initial s.dies = true) (hon : s.boot = .on)
    (hdue : ∀ t, s.lastRelease = some t → 4000 ≤ s.hub - t) {before after : SMap (List Nat)} {r k : Nat} {ks : List Nat}
    (hrel : s.release = before ++ (r, k :: ks) :: after)
    (hturn : (∀ p ∈ before, p.2 = [] ∨ p.1 < s.releaseTurn) ∧ s.releaseTurn ≤ r ∨
      (∀ p ∈ s.release, p.2 = [] ∨ p.1 < s.releaseTurn) ∧ (∀ p ∈ before, p.2 = [])) :
    ∃ t : State, exec .clusterRelease s = .next t ∧ t.lastRelease = some s.hub ∧ t.releaseTurn = r + 1 ∧
      t.release = (if ks = [] then SMap.del s.release r else SMap.put s.release r ks) ∧
      (∀ c, 4 * k ≤ c → c < 4 * k + 4 → (s.core c).fenced = false →
        t.core c = { s.core c with released := true, phase := (s.die (dieOf c)).clk % 2 }) ∧
      (∀ c, c < 4 * k ∨ 4 * k + 4 ≤ c ∨ (s.core c).fenced = true → t.core c = s.core c) := by
  have hnext := State.nextRelease_of_next hon hdue (State.releaseNext_of_turn hrel hturn)
  have hcore (c : Nat) : s.nextRelease.core c =
      if (4 * k ≤ c ∧ c < 4 * k + 4) ∧ (s.core c).fenced = false then
        (s.core c).release ((s.pass 4 (k / 32)).die (dieOf c)).clk
      else s.core c := by
    have hpass : (s.pass 4 (k / 32)).core c = s.core c :=
      congrArg (SMap.get Core.initial · c) (fabricOnly_pass s 4 (k / 32)).cores
    have hcores : s.nextRelease.cores = ((s.pass 4 (k / 32)).releaseCluster k).cores := by rw [hnext]
    rw [← hpass, ← State.core_releaseCluster]
    exact congrArg (SMap.get Core.initial · c) hcores
  refine ⟨s.nextRelease, exec_clusterRelease s, by rw [hnext], by rw [hnext], by rw [hnext], fun c hlo hhi hf => ?_,
    fun c hc => (hcore c).trans (if_neg fun ⟨⟨hlo, hhi⟩, hf⟩ => ?_)⟩
  · rw [hcore, if_pos ⟨⟨hlo, hhi⟩, hf⟩, (keepsClocks_pass s 4 (k / 32) hdies).2]
    rfl
  · rcases hc with h | h | h
    · omega
    · omega
    · exact Bool.false_ne_true (hf.symm.trans h)

/-! ### A store of dies that lists one twice -/

/-- Cluster 0 waits for its release, the link to die 0 sleeps with a message of the die waiting for it, and the store of dies,
which is not canonical, lists die 0 twice: first as its initial value, then with an odd clock. -/
def dieListedTwice : State :=
  { State.reset with
    boot := .on, release := [(0, [0])], dies := [(0, DieSt.initial), (0, { DieSt.initial with clk := 1 })]
    links := [(linkKey 4 0, { LinkSt.initial with mode := .asleep })]
    chans := [(chanKey 0 4 2, { Chan.empty with wait := [{ line := 0, msg := .ack }] })] }

/-- The hub hears from die 0 when the link wakes, and the write of its unchanged value removes the first of its entries. -/
theorem phase_nextRelease_dieListedTwice : (dieListedTwice.nextRelease.core 0).phase = 1 := by decide +kernel

/-- Refutes O47: the obligation quantifies over every state, also one whose store of dies is not canonical, and there the release
of a cluster can change the clock that a die shows (`dieListedTwice`). From a canonical store the release is as stated
(`exec_clusterRelease_of_canonicalDies`), and so are power-up (`exec_powerUp_of_image`, `exec_powerUp_of_none`) and an event that
releases nothing (`State.nextRelease_of_none`, `State.nextRelease_of_early`) in every state. -/
theorem not_powerUpAndRelease : ¬ Obligations.PowerUpAndRelease := by
  intro h
  obtain ⟨-, -, hrelease, -⟩ := h dieListedTwice
  obtain ⟨hnext, -⟩ := hrelease rfl (by intro t ht; cases ht)
  obtain ⟨t, hexec, -, -, -, hcores, -⟩ := hnext 0 0 [] [] [] rfl (.inl ⟨by simp, Nat.le_refl 0⟩)
  have ht : dieListedTwice.nextRelease = t := Host.Outcome.next.inj ((exec_clusterRelease _).symm.trans hexec)
  have hphase : (t.core 0).phase = 0 := congrArg Core.phase (hcores 0 (Nat.zero_le 0) (by decide) rfl)
  rw [← ht, phase_nextRelease_dieListedTwice] at hphase
  exact absurd hphase (by decide)

end Sys2Proof.Machine
end

section
namespace Sys2Proof.Machine

/-! ### The words of the matrix engine (R324 to R328, R330 to R343, Table MX-2) -/

section MatrixWords

variable {s : State} {x : Ctx} {h : Hdr} {o : MxOp} {a v cb : Operand} {args : MxArgs}

/-- A matrix word that nothing stands in the way of, and whose checks of Table MX-6 pass, places its request. -/
theorem matrixWord_ready {len : Nat} {checks : Nat → Checks} {reads : Ctx → LaneMask → List Rd} {mk : Ctx → MxCmd} {ok : Bool}
    (r : Ready s x h ok (reads x (x.w.eff h)) false) (hc : (checks x.w.alloc).all (fun c => c.2) = ok)
    (hm : (s.past x h len).mxCheck x.w (x.w.eff h) (mk x) = .ok args) :
    matrixWord h len checks reads mk s = .next ((s.past x h len).pushArr x.w h (.mx (mk x).op args)) := by
  refine issue_of_body r hc ?_ rfl ?_
  · simp only [r.ctx]
  · simp only [hm]

/-! #### The requests of the four shapes -/

/-- The request of a form whose only operand is its control block. -/
def cbCmd (o : MxOp) (cb : Operand) : MxCmd :=
  { op := o, cb := some (regOf cb), base := 0, pitch := 0, reg := none, hasPitch := false }

/-- The request of a form with a memory base. -/
def memCmd (x : Ctx) (o : MxOp) (wide : Bool) (a cb : Operand) (pitch : Option Word) : MxCmd :=
  { op := o, cb := some (regOf cb), base := (x.read (if wide then .i64 else .i32) a 0).toNat, pitch := (pitch.getD 0).toNat
    reg := none, hasPitch := pitch.isSome }

/-- The request of a form with a vector operand. -/
def vecCmd (o : MxOp) (v cb : Operand) : MxCmd :=
  { op := o, cb := some (regOf cb), base := 0, pitch := 0, reg := some (regOf v), hasPitch := false }

/-- The request of the form without operands. -/
def bareCmd (o : MxOp) : MxCmd := { op := o, cb := none, base := 0, pitch := 0, reg := none, hasPitch := false }

theorem matrixCb_ready (r : Ready s x h (blockReg cb) (cbReads cb (x.w.eff h)) false)
    (hm : (s.past x h 16).mxCheck x.w (x.w.eff h) (cbCmd o cb) = .ok args) :
    matrixCb h o cb s = .next ((s.past x h 16).pushArr x.w h (.mx o args)) :=
  matrixWord_ready r (Checks.all_one ..) hm

/-- The wide base of AST.GLOB is an even scalar pair or a constant, not a special (R324). -/
theorem matrixMem_ready {wide : Bool} {pitch : Option Word} (hspecial : wide = true → ∀ c, a ≠ .special c)
    (r : Ready s x h (sSrc wide a && blockReg cb) (Rd.of a wide (x.w.eff h) :: cbReads cb (x.w.eff h)) false)
    (hm : (s.past x h 16).mxCheck x.w (x.w.eff h) (memCmd x o wide a cb pitch) = .ok args) :
    matrixMem h o wide a cb pitch s = .next ((s.past x h 16).pushArr x.w h (.mx o args)) := by
  refine matrixWord_ready r ((Checks.all_two ..).trans ?_) hm
  cases a with
  | special c =>
    cases wide
    · simp
    · exact absurd rfl (hspecial rfl c)
  | _ => simp

theorem matrixVec_ready (r : Ready s x h (evenV x.w.alloc v && blockReg cb)
      ({ o := v, n := 2 * x.tileRows cb, lanes := if x.w.eff h = 0 then 0 else fullMask } :: cbReads cb (x.w.eff h)) false)
    (hm : (s.past x h 16).mxCheck x.w (x.w.eff h) (vecCmd o v cb) = .ok args) :
    matrixVec h o v cb s = .next ((s.past x h 16).pushArr x.w h (.mx o args)) :=
  matrixWord_ready r (Checks.all_two ..) hm

/-- WFLIP names no control block (R332). -/
theorem exec_wflip_ready (r : Ready s x h true [] false)
    (hm : (s.past x h 8).mxCheck x.w (x.w.eff h) (bareCmd .flip) = .ok args) :
    exec (.wflip h) s = .next ((s.past x h 8).pushArr x.w h (.mx .flip args)) :=
  matrixWord_ready (checks := fun _ => []) (reads := fun _ _ => []) (mk := fun _ => bareCmd .flip) r rfl hm

/-- ADRN to vector registers does not read them (R340). -/
theorem exec_adrn_regs_ready {act : ActFn} {t : DrainTy} {bias sat clr : Bool}
    (r : Ready s x h (evenV x.w.alloc v && blockReg cb) (cbReads cb (x.w.eff h)) false)
    (hm : (s.past x h 16).mxCheck x.w (x.w.eff h) (vecCmd (.adrn act t bias sat clr true) v cb) = .ok args) :
    exec (.adrn h act t bias sat clr (.regs v) cb) s =
      .next ((s.past x h 16).pushArr x.w h (.mx (.adrn act t bias sat clr true) args)) :=
  matrixWord_ready (checks := fun A => [(fDst, evenV A v), (fSrc1, blockReg cb)]) (reads := fun _ m => cbReads cb m)
    (mk := fun _ => vecCmd (.adrn act t bias sat clr true) v cb) r (Checks.all_two ..) hm

/-- The forms whose base is an address of group memory. -/
theorem matrixMem_gmem_ready {pitch : Option Word}
    (r : Ready s x h (sSrc false a && blockReg cb) (Rd.of a false (x.w.eff h) :: cbReads cb (x.w.eff h)) false)
    (hm : (s.past x h 16).mxCheck x.w (x.w.eff h) (memCmd x o false a cb pitch) = .ok args) :
    matrixMem h o false a cb pitch s = .next ((s.past x h 16).pushArr x.w h (.mx o args)) :=
  matrixMem_ready nofun r hm

end MatrixWords

/-! #### The shape of each word -/

section Shapes

variable (h : Hdr) (a v cb : Operand) (pitch : Word) (s : State)

theorem exec_wld_b16 : exec (.wld h .b16 a cb pitch) s = matrixMem h (.wldB 16) false a cb (some pitch) s := rfl

theorem exec_wld_b8 : exec (.wld h .b8 a cb pitch) s = matrixMem h (.wldB 8) false a cb (some pitch) s := rfl

theorem exec_wld_q8 (g : QGroup) :
    exec (.wld h (.q8 g) a cb pitch) s = matrixMem h (.wldQ 8 (gsize g)) false a cb (some pitch) s := rfl

theorem exec_wld_q4 (g : QGroup) :
    exec (.wld h (.q4 g) a cb pitch) s = matrixMem h (.wldQ 4 (gsize g)) false a cb (some pitch) s := rfl

theorem exec_mms_mem (ta : MTy) (tb zi : Bool) : exec (.mms h ta tb zi (.mem a pitch) cb) s =
    matrixMem h (.mms ta (planeTy ta tb) zi false) false a cb (some pitch) s := rfl

theorem exec_mms_regs (ta : MTy) (tb zi : Bool) :
    exec (.mms h ta tb zi (.regs v) cb) s = matrixVec h (.mms ta (planeTy ta tb) zi true) v cb s := rfl

theorem exec_mmsq (q : QTy) (g : QGroup) (zi : Bool) :
    exec (.mmsq h q g zi a cb pitch) s = matrixMem h (.mmsq (qwidth q) (gsize g) zi) false a cb (some pitch) s := rfl

theorem exec_aclr : exec (.aclr h cb) s = matrixCb h .aclr cb s := rfl

theorem exec_ald_mem : exec (.ald h (.mem a pitch) cb) s = matrixMem h (.ald false) false a cb (some pitch) s := rfl

theorem exec_ald_regs : exec (.ald h (.regs v) cb) s = matrixVec h (.ald true) v cb s := rfl

theorem exec_ast_gmem : exec (.ast h .gmem a cb pitch) s = matrixMem h (.ast false) false a cb (some pitch) s := rfl

theorem exec_ast_glob : exec (.ast h .glob a cb pitch) s = matrixMem h (.ast true) true a cb (some pitch) s := rfl

theorem exec_adrn_mem (act : ActFn) (t : DrainTy) (bias sat clr : Bool) :
    exec (.adrn h act t bias sat clr (.mem a pitch) cb) s =
      matrixMem h (.adrn act t bias sat clr false) false a cb (some pitch) s := rfl

theorem exec_amov : exec (.amov h cb) s = matrixCb h .amov cb s := rfl

theorem exec_smx : exec (.smx h a cb pitch) s = matrixMem h .smx false a cb (some pitch) s := rfl

theorem exec_smxrInit : exec (.smxrInit h cb) s = matrixCb h .smxrInit cb s := rfl

theorem exec_smxrNorm : exec (.smxrNorm h cb) s = matrixCb h .smxrNorm cb s := rfl

theorem exec_smxrRd : exec (.smxrRd h a cb) s = matrixMem h .smxrRd false a cb none s := rfl

theorem exec_smxrWr : exec (.smxrWr h a cb) s = matrixMem h .smxrWr false a cb none s := rfl

end Shapes

/-- Settles O21, by the shape of the word: a memory base, a vector operand, a control block alone, or none of them. -/
theorem matrixWordsIssueRequests : Obligations.MatrixWordsIssueRequests := by
  intro s x h a cb v pitch ta tb zi q g act t bias sat clr args eff places block base mem mem0 alone regs
  have hmem {o : MxOp} {i : Instr} (hi : exec i s = matrixMem h o false a cb (some pitch) s) : mem o i :=
    fun r hm => hi.trans (matrixMem_gmem_ready r hm)
  have hmem0 {o : MxOp} {i : Instr} (hi : exec i s = matrixMem h o false a cb none s) : mem0 o i :=
    fun r hm => hi.trans (matrixMem_gmem_ready r hm)
  have halone {o : MxOp} {i : Instr} (hi : exec i s = matrixCb h o cb s) : alone o i :=
    fun r hm => hi.trans (matrixCb_ready r hm)
  have hregs {o : MxOp} {i : Instr} (hi : exec i s = matrixVec h o v cb s) : regs o i :=
    fun r hm => hi.trans (matrixVec_ready r hm)
  have hglob (ha : ∀ c, a ≠ .special c) : places 16 (memCmd x (.ast true) true a cb (some pitch)) (sSrc true a && blockReg cb)
      (Rd.of a true eff :: block) (.ast h .glob a cb pitch) :=
    fun r hm => (exec_ast_glob ..).trans (matrixMem_ready (fun _ => ha) r hm)
  exact ⟨⟨hmem (exec_wld_b16 ..), hmem (exec_wld_b8 ..), hmem (exec_wld_q8 ..), hmem (exec_wld_q4 ..)⟩,
    fun r hm => exec_wflip_ready r hm,
    ⟨hmem (exec_mms_mem ..), hregs (exec_mms_regs ..)⟩,
    hmem (exec_mmsq ..), halone (exec_aclr ..),
    ⟨hmem (exec_ald_mem ..), hregs (exec_ald_regs ..)⟩,
    ⟨hmem (exec_ast_gmem ..), hglob⟩,
    ⟨hmem (exec_adrn_mem ..), fun r hm => exec_adrn_regs_ready r hm⟩,
    halone (exec_amov ..), hmem (exec_smx ..), halone (exec_smxrInit ..),
    halone (exec_smxrNorm ..), hmem0 (exec_smxrRd ..), hmem0 (exec_smxrWr ..)⟩

end Sys2Proof.Machine
end

section
namespace Sys2Proof.Machine

/-! ### The words of the fast-weight unit (R351, R364 to R367, R370 to R377) -/

section FastWeightWords

variable {s : State} {x : Ctx} {h : Hdr} {o : FwOp} {d cs cb : Operand} {a : FwArgs}

/-- A fast-weight word that nothing stands in the way of, and whose checks of Table FW-9 pass, places its request. -/
theorem fwWord_ready {checks : Checks} {reads : LaneMask → List Rd} {mk : Ctx → FwCmd} {ok : Bool}
    (r : Ready s x h ok (reads (x.w.eff h)) false) (hc : checks.all (fun c => c.2) = ok)
    (ha : (s.past x h 8).fwCheck x.w (x.w.eff h) (mk x) = .ok a) :
    fwWord h checks reads mk s = .next ((s.past x h 8).pushArr x.w h (.fw (mk x).op a)) := by
  refine issue_of_body r hc rfl rfl ?_
  simp only [ha]

theorem fwSlot_ready (r : Ready s x h (sSrc false cs) [Rd.of cs false (x.w.eff h)] false)
    (ha : (s.past x h 8).fwCheck x.w (x.w.eff h) { op := o, slot := x.n32 cs, cb := none } = .ok a) :
    fwSlot h o cs s = .next ((s.past x h 8).pushArr x.w h (.fw o a)) :=
  fwWord_ready r (Checks.all_one ..) ha

theorem fwBlock_ready (r : Ready s x h (blockReg cb) (cbReads cb (x.w.eff h)) false)
    (ha : (s.past x h 8).fwCheck x.w (x.w.eff h)
      { op := o, slot := (x.w.sreg (regOf cb)).val.toNat % 4, cb := some (regOf cb) } = .ok a) :
    fwBlock h o cb s = .next ((s.past x h 8).pushArr x.w h (.fw o a)) :=
  fwWord_ready r (Checks.all_one ..) ha

theorem fwStat_ready {hd : Bool} (r : Ready s x h (sDst false d && sSrc false cs) [Rd.of cs false (x.w.eff h)] false)
    (ha : (s.past x h 8).fwCheck x.w (x.w.eff h) { op := .stat (regOf d) hd, slot := x.n32 cs, cb := none } = .ok a) :
    fwStat h hd d cs s = .next ((s.past x h 8).pushArr x.w h (.fw (.stat (regOf d) hd) a)) :=
  fwWord_ready r (Checks.all_two ..) ha

/-- CBIND.SW names the new handle in a second operand (R370). -/
theorem execCbindSw_ready {hd : Operand}
    (r : Ready s x h (sSrc false cs && sSrc false hd) [Rd.of cs false (x.w.eff h), Rd.of hd false (x.w.eff h)] false)
    (ha : (s.past x h 8).fwCheck x.w (x.w.eff h) { op := .bindSw (x.n32 hd), slot := x.n32 cs, cb := none } = .ok a) :
    execCbindSw h cs hd s = .next ((s.past x h 8).pushArr x.w h (.fw (.bindSw (x.n32 hd)) a)) :=
  fwWord_ready (mk := fun x => { op := .bindSw (x.n32 hd), slot := x.n32 cs, cb := none }) r (Checks.all_two ..) ha

end FastWeightWords

/-! #### The shape of each word -/

section FastWeightShapes

variable (h : Hdr) (d cs hd cb : Operand) (s : State)

theorem exec_cbind : exec (.cbind h cs) s = fwSlot h .bind cs s := rfl

theorem exec_cbindSw : exec (.cbindSw h cs hd) s = execCbindSw h cs hd s := rfl

theorem exec_crel : exec (.crel h cs) s = fwSlot h (.rel none) cs s := rfl

theorem exec_crelPin : exec (.crelPin h cs) s = fwSlot h (.rel (some true)) cs s := rfl

theorem exec_crelUnpin : exec (.crelUnpin h cs) s = fwSlot h (.rel (some false)) cs s := rfl

theorem exec_delta (rec : Bool) : exec (.delta h rec cb) s = fwBlock h (.delta rec) cb s := rfl

theorem exec_dqry : exec (.dqry h cb) s = fwBlock h .dqry cb s := rfl

theorem exec_cspill : exec (.cspill h cs) s = fwSlot h .spill cs s := rfl

theorem exec_cfill : exec (.cfill h cs) s = fwSlot h .fill cs s := rfl

theorem exec_cstat : exec (.cstat h d cs) s = fwStat h false d cs s := rfl

theorem exec_cstatH : exec (.cstatH h d cs) s = fwStat h true d cs s := rfl

end FastWeightShapes

/-! #### A core with a request, written twice -/

/-- A core with a request is no core in its initial state. -/
theorem Core.ne_initial_of_arr {k : Core} (h : k.arr ≠ []) : k ≠ Core.initial := by
  rintro rfl
  exact h rfl

theorem State.core_setCore_of_arr (s : State) (c : Nat) {k : Core} (h : k.arr ≠ []) : (s.setCore c k).core c = k :=
  SMap.get_set_self_of_ne _ _ (Core.ne_initial_of_arr h)

theorem State.setCore_setRegions_of_arr (s : State) (c : Nat) {k : Core} (h : k.arr ≠ []) (regs : List Nat) (f : Own → Own) :
    (s.setCore c k).setCore c (k.setRegions regs f) = s.setCore c (k.setRegions regs f) := by
  have hset : (k.setRegions regs f).arr ≠ [] := h
  simp only [State.setCore, SMap.set, Core.ne_initial_of_arr h, Core.ne_initial_of_arr hset, if_false, SMap.put_put]

/-! #### Binding and release at the port (R352, R370, R371) -/

section Binding

variable {s : State} {c n : Nat} {r : ArrReq} {g : Group} {a : FwArgs}

theorem State.bindSlot_some {gid : Nat} (hg : s.group gid = some g) (slot wid : Nat) (regs : List Nat) :
    s.bindSlot c gid slot regs (some wid) =
      (s.setCore c ((s.core c).setRegions regs fun o => { o with bound := true, bwarp := wid })).setGroup gid
        { g with binds := g.binds.put slot wid } := by
  have hg' (k : Core) : (s.setCore c k).group gid = some g := hg
  simp only [State.bindSlot, hg', Option.isSome_some, Option.getD_some]

theorem State.bindSlot_none {gid : Nat} (hg : s.group gid = some g) (slot : Nat) (regs : List Nat) :
    s.bindSlot c gid slot regs none =
      (s.setCore c ((s.core c).setRegions regs fun o => { o with bound := false, bwarp := 0 })).setGroup gid
        { g with binds := g.binds.del slot } := by
  have hg' (k : Core) : (s.setCore c k).group gid = some g := hg
  simp only [State.bindSlot, hg', Option.isSome_none, Option.getD_none]

/-- CBIND of a warp that has not retired takes the slot's binding for it. -/
theorem State.fwPerform_bind (hg : s.group r.gid = some g) (hlive : (s.slotOf r.gid r.wid).isSome = true) :
    s.fwPerform c n r .bind a =
      ((s.setCore c ((s.core c).setRegions a.regs fun o => { o with bound := true, bwarp := r.wid })).setGroup r.gid
        { g with binds := g.binds.put a.slot r.wid }).arrDone c n [] none := by
  have hwarp : s.liveWarp r = some r.wid := if_pos hlive
  simp only [State.fwPerform, hwarp, Option.isSome_some, if_true, State.bindSlot_some hg]

/-- CREL sets the retention that it names and ends the binding: two writes to the core's directory, which are one. -/
theorem State.fwPerform_rel (hg : s.group r.gid = some g) (harr : (s.core c).arr ≠ []) (pin : Option Bool) :
    let k := (s.core c).setRegions a.regs fun o => { o with pin := pin.getD o.pin }
    s.fwPerform c n r (.rel pin) a =
      ((s.setCore c (k.setRegions a.regs fun o => { o with bound := false, bwarp := 0 })).setGroup r.gid
        { g with binds := g.binds.del a.slot }).arrDone c n [] none := by
  intro k
  have hk : k.arr ≠ [] := harr
  have hg' : (s.setCore c k).group r.gid = some g := hg
  change ((s.setCore c k).bindSlot c r.gid a.slot a.regs none).arrDone c n [] none = _
  rw [State.bindSlot_none hg', State.core_setCore_of_arr s c hk, State.setCore_setRegions_of_arr s c hk]

end Binding

/-- Settles O22: each word by its shape, a slot operand, a control block or a destination; then CBIND and CREL at the port. -/
theorem fastWeightWordsIssueRequests : Obligations.FastWeightWordsIssueRequests := by
  intro s x h d cs hd cb rec a eff p slot cslot places one block
  refine ⟨?words, ?port⟩
  case words =>
    have hone {o : FwOp} {i : Instr} (hi : exec i s = fwSlot h o cs s) : one o i := fun r ha => hi.trans (fwSlot_ready r ha)
    have hblock {o : FwOp} {i : Instr} (hi : exec i s = fwBlock h o cb s) : block o i :=
      fun r ha => hi.trans (fwBlock_ready r ha)
    exact ⟨hone (exec_cbind ..), fun r ha => (exec_cbindSw ..).trans (execCbindSw_ready r ha), hone (exec_crel ..),
      hone (exec_crelPin ..), hone (exec_crelUnpin ..), hblock (exec_delta ..), hblock (exec_dqry ..), hone (exec_cspill ..),
      hone (exec_cfill ..), fun r ha => (exec_cstat ..).trans (fwStat_ready r ha),
      fun r ha => (exec_cstatH ..).trans (fwStat_ready r ha)⟩
  case port =>
    intro c n r g hr haccepted hperformed hfirst hg k
    have hready := Core.arrReady_of_first hr haccepted hperformed hfirst
    have harr : k.arr ≠ [] := List.ne_nil_of_mem (List.mem_of_getElem? hr)
    refine ⟨fun hop hlive => ?_, fun pin hop => ?_⟩
    · rw [exec_accumulatorPortAccess_fw hready hop, State.fwPerform_bind hg hlive]
    · rw [exec_accumulatorPortAccess_fw hready hop, State.fwPerform_rel hg harr]

end Sys2Proof.Machine
end

section
namespace Sys2Proof.Machine

/-! ### Cultures spill, fill and are evicted (R355 to R357, R361, R362, R370, R378) -/

section CultureEvents

variable {s : State} {c i : Nat} {sp : Space}

theorem exec_cultureSpill (s : State) (c : Nat) (i : BitVec 4) :
    exec (.cultureSpill c i) s = .next (s.cultureSpill c i.toNat) := rfl

theorem exec_cultureFill (s : State) (c : Nat) (i : BitVec 4) :
    exec (.cultureFill c i) s = .next (s.cultureFill c i.toNat) := rfl

theorem exec_cultureEviction_of_reserved {i : BitVec 4} (hst : ((s.core c).ownAt i.toNat).st = .pinned)
    (hresv : ∃ j ∈ (s.core c).sameCulture i.toNat, ((s.core c).ownAt j).resv.isSome = true) :
    exec (.cultureEviction c i) s =
      .next (s.setCore c ((s.core c).setRegions ((s.core c).sameCulture i.toNat) fun x => { x with st := .spilling })) :=
  if_pos ⟨hst, List.any_eq_true.2 hresv⟩

/-! #### The spill (R361) -/

section Spill

variable (hsp : s.space ((s.core c).ownAt i).asid = some sp) (hst : ((s.core c).ownAt i).st = .spilling)
include hsp hst

/-- The spill of a departure or an eviction. -/
theorem State.cultureSpill_of_departed (hswap : (s.core c).swapAt i .spillOld = none)
    (hcopy : s.copySpiller ((s.core c).ownAt i).asid ((s.core c).ownAt i).handle = none) :
    let o := (s.core c).ownAt i
    let regs := (s.core c).sameCulture i
    let sw := s.walkedPages c o.asid (recordVa sp o.handle) (recordSize (16 * o.dv16) (16 * o.dk16))
    let p := sw.spill c (s.liveTr c o.asid .write) (recordVa sp o.handle) regs (16 * o.dv16) (16 * o.dk16) o.handle o.asid
    let s1 := p.1.setCore c ((p.1.core c).setRegions regs Own.release)
    s.cultureSpill c i = if p.2.isSome then s1.logDie 6 (dieOf c) c (BitVec.ofNat 64 o.handle) else s1 := by
  simp only [State.cultureSpill, hst, hsp, hswap, hcopy, Option.map_some, Option.getD_some, ne_eq, not_true_eq_false, if_false]

/-- The spill that a CBIND.SW asked for, of its old culture or, on core `d` of the request, of the new one's pinned copy: the
request goes on, or ends in its fault. -/
theorem State.cultureSpill_of_asked {d n : Nat} {r : ArrReq} {a : FwArgs}
    (hasked : (s.core c).swapAt i .spillOld = some (n, r, a) ∧ d = c ∨ (s.core c).swapAt i .spillOld = none ∧
      s.copySpiller ((s.core c).ownAt i).asid ((s.core c).ownAt i).handle = some (d, n, r, a)) :
    let o := (s.core c).ownAt i
    let regs := (s.core c).sameCulture i
    let p := s.spill c (heldTr a.pages) (recordVa sp o.handle) regs (16 * o.dv16) (16 * o.dk16) o.handle o.asid
    let s1 := p.1.setCore c ((p.1.core c).setRegions regs Own.release)
    (p.2 = none → s.cultureSpill c i = s1.setArr d n { r with stage := .spillNew }) ∧
    (∀ bad, p.2 = some bad → s.cultureSpill c i = s1.arrDone d n [] (some (fwFault cFabric 3 bad true))) := by
  intro o regs p s1
  have hspill : s.cultureSpill c i =
      p.2.elim (s1.setArr d n { r with stage := .spillNew }) fun bad => s1.arrDone d n [] (some (fwFault cFabric 3 bad true)) := by
    rcases hasked with ⟨hswap, rfl⟩ | ⟨hswap, hcopy⟩
    · simp only [State.cultureSpill, hst, hsp, hswap, Option.map_some, Option.getD_some, ne_eq, not_true_eq_false, if_false]
      cases p.2 <;> rfl
    · simp only [State.cultureSpill, hst, hsp, hswap, hcopy, Option.map_some, Option.getD_some, ne_eq, not_true_eq_false,
        if_false]
      cases p.2 <;> rfl
  exact ⟨fun hp => by rw [hspill, hp, Option.elim_none], fun bad hp => by rw [hspill, hp, Option.elim_some]⟩

end Spill

/-! #### The fill (R362) -/

section Fill

variable (hsp : s.space ((s.core c).ownAt i).asid = some sp) (hst : ((s.core c).ownAt i).st = .filling)
include hsp hst

/-- The fill of a placed culture. -/
theorem State.cultureFill_of_placed (hswap : (s.core c).swapAt i .fill = none) :
    let o := (s.core c).ownAt i
    let regs := (s.core c).sameCulture i
    let sw := s.walkedPages c o.asid (recordVa sp o.handle) (recordSize (16 * o.dv16) (16 * o.dk16))
    let p := sw.fill c (s.liveTr c o.asid .read) (recordVa sp o.handle) regs (16 * o.dv16) (16 * o.dk16) o.handle o.asid true
    s.cultureFill c i = p.1.setCore c ((p.1.core c).setRegions regs fun x => { x with st := .owned, ferr := p.2, resv := none }) := by
  simp only [State.cultureFill, hst, hsp, hswap, Option.map_some, Option.getD_some, Option.isSome_none, Bool.false_eq_true, ne_eq,
    not_true_eq_false, if_false]

/-- The fill of the new culture of a CBIND.SW. -/
theorem State.cultureFill_of_swapped {n : Nat} {r : ArrReq} {a : FwArgs}
    (hswap : (s.core c).swapAt i .fill = some (n, r, a)) :
    let o := (s.core c).ownAt i
    let regs := (s.core c).sameCulture i
    let p := s.fill c (heldTr a.pages) (recordVa sp o.handle) regs (16 * o.dv16) (16 * o.dk16) o.handle o.asid true
    let s1 := p.1.setCore c ((p.1.core c).setRegions regs fun x => { x with st := .owned, ferr := p.2, resv := none })
    s.cultureFill c i =
      ((s1.bindSlot c r.gid a.slot regs (s1.liveWarp r)).setHandle r.gid a.slot o.handle).arrDone c n [] none := by
  simp only [State.cultureFill, hst, hsp, hswap, Option.map_some, Option.getD_some, Option.isSome_some, ne_eq, not_true_eq_false,
    if_false, if_true]

end Fill

end CultureEvents

/-- Settles O31: a spill and a fill by whether a CBIND.SW asked for it, and the eviction. -/
theorem cultureEvents : Obligations.CultureEvents := by
  intro s c i sp o regs hsp
  refine ⟨?departed, ?old, ?copy, ?placed, ?swapped, ?evicted⟩
  case departed =>
    intro hst hswap hcopy sw p s1
    have hspill : s.cultureSpill c i.toNat = if p.2.isSome then s1.logDie 6 (dieOf c) c (BitVec.ofNat 64 o.handle) else s1 :=
      State.cultureSpill_of_departed hsp hst hswap hcopy
    exact ⟨fun hp => by rw [exec_cultureSpill, hspill, hp]; rfl, fun bad hp => by rw [exec_cultureSpill, hspill, hp]; rfl⟩
  case old =>
    intro n r a hst hswap
    obtain ⟨hdone, hfailed⟩ := State.cultureSpill_of_asked hsp hst (.inl ⟨hswap, rfl⟩)
    exact ⟨fun hp => congrArg _ (hdone hp), fun bad hp => congrArg _ (hfailed bad hp)⟩
  case copy =>
    intro d n r a hst hswap hcopy
    obtain ⟨hdone, hfailed⟩ := State.cultureSpill_of_asked hsp hst (.inr ⟨hswap, hcopy⟩)
    exact ⟨fun hp => congrArg _ (hdone hp), fun bad hp => congrArg _ (hfailed bad hp)⟩
  case placed => exact fun hst hswap => congrArg _ (State.cultureFill_of_placed hsp hst hswap)
  case swapped => exact fun n r a hst hswap => congrArg _ (State.cultureFill_of_swapped hsp hst hswap)
  case evicted => exact exec_cultureEviction_of_reserved

end Sys2Proof.Machine
end

section
namespace Sys2Proof.Machine

/-! ### The words of the spatial fabric (R398, R399, R401, R404 to R406, R408) -/

@[simp] theorem State.groupOf_past (s : State) (x : Ctx) (h : Hdr) (len : Nat) (w : Warp) :
    (s.past x h len).groupOf w = s.groupOf w := rfl

@[simp] theorem State.fabrics_past (s : State) (x : Ctx) (h : Hdr) (len : Nat) : (s.past x h len).fabrics = s.fabrics := rfl

/-- Parks a warp other than warp 0, its word in progress rolled back and its writes landed (R401). -/
def State.parkAt (c : Nat) (q : State) (j : Nat) : State :=
  let q1 := (q.rollbackAt c j).flushAt c j
  match q1.warpAt c j with
  | some w => q1.setWarpAt c j { w with parked := true }
  | none => q1

/-- Parks the warps of a group other than warp 0. -/
def State.parkOthers (s : State) (g : Group) : State :=
  g.slots.foldl (fun q e => if e.1 = 0 then q else State.parkAt (g.cores.headD 0) q e.2) s

/-- A command joins the FIFO of a generator, and the word that sent it completes (R405). -/
def State.sendCmd (s : State) (h : Hdr) (gid : Nat) (f : Fabric) (k : Nat) (g : Gen) (c : GCmd) : State :=
  (s.setFabric gid (f.setGen k { g with fifo := g.fifo ++ [c] })).updWarp fun w => w.decFlag h.set

section SpatialWords

variable {s : State} {x : Ctx} {h : Hdr} {l : Bool} {d a gs : Operand} {n : Src} {f : Fabric} {k : Nat} {g : Gen}
variable (hfull : x.w.eff h = fullMask) (hwid : x.w.wid = 0)
include hfull hwid

/-- A spatial word of warp 0 with the full mask acts where its mode allows it: SPENTER anywhere, the others in spatial mode. -/
theorem spatialWord_ready {enter ok : Bool} {cs : Checks} {rs : LaneMask → List Rd}
    {body : Ctx → LaneMask → State → Except Trap State} {t : State} (r : Ready s x h ok (rs (x.w.eff h)) true)
    (hc : cs.all (fun c => c.2) = ok) (hmode : enter = true ∨ s.spatial = true)
    (hb : body x (x.w.eff h) (s.past x h (lenOf l)) = .ok t) : spatialWord h l cs rs enter body s = .next t := by
  refine issue_of_body r hc rfl rfl ?_
  have hin : (!enter && !(s.spatial && decide (x.w.wid = 0))) = false := by
    rcases hmode with rfl | hmode
    · rfl
    · simp [hmode, hwid]
  have hthread : (enter && decide (x.w.wid ≠ 0)) = false := by simp [hwid]
  rw [if_neg fun hne => hne hfull, hthread, hin]
  exact hb

theorem execSpenter_ready {shape : Rect} {grp : Group} {la : Launch} (ha : ∀ c, a ≠ .special c) (hg : s.groupOf x.w = some grp)
    (hla : s.launchOf x.w = some la) (hrect : la.record.rect = some shape)
    (r : Ready s x h (sSrc true a) [Rd.of a true (x.w.eff h)] true) :
    execSpenter h shape a s = .next (((((s.past x h 8).parkOthers grp).setModes grp.cores .switching).flushAt s.cur.1
      s.cur.2).updWarp fun w => w.block (.spenter shape (x.read .i64 a 0)) x.w.pc h.set) := by
  rw [execSpenter]
  · refine spatialWord_ready hfull hwid r (Checks.all_one ..) (.inl rfl) ?_
    simp only [State.groupOf_past, State.launchOf_past, hg, hla, hrect, ne_eq, not_true_eq_false, if_false]
    rfl
  · exact ha

section Mode

variable (hmode : s.spatial = true)
include hmode

theorem execSpleave_ready {grp : Group} (hg : s.groupOf x.w = some grp) (r : Ready s x h true [] true) :
    execSpleave h s =
      .next (((s.past x h 8).setModes grp.cores .switching).updWarp fun w => w.block .spleave x.w.pc h.set) := by
  refine spatialWord_ready hfull hwid r rfl (.inr hmode) ?_
  simp only [State.groupOf_past, hg, Option.map_some, Option.getD_some]
  rfl

theorem execSpdrain_ready (r : Ready s x h true [] true) :
    execSpdrain h s = .next ((s.past x h 8).updWarp fun w => w.block .spdrain x.w.pc h.set) :=
  spatialWord_ready hfull hwid r rfl (.inr hmode) rfl

theorem execSpstatRect_ready (hf : s.fabrics.find? x.w.gid = some f) (r : Ready s x h (sDst false d) [] true) :
    execSpstatRect h d s = .next ((s.past x h 8).spResult h d f.status) := by
  refine spatialWord_ready hfull hwid r (Checks.all_one ..) (.inr hmode) ?_
  simp only [State.fabrics_past, hf, Option.map_some, Option.getD_some]
  rfl

/-- SPSTAT of the generator that the selector names, GEN and POS by the value that they give. -/
theorem spstatGen_ready (v : Gen → Word) (hsel : (s.past x h 8).selGen x.w (x.w.eff h) (x.n32 gs) false = .ok (f, k, g))
    (r : Ready s x h (sDst false d && sSrc false gs) [Rd.of gs false (x.w.eff h)] true) :
    spstatGen h d gs v s = .next ((s.past x h 8).spResult h d (v g)) := by
  refine spatialWord_ready (l := false) hfull hwid r (Checks.all_two ..) (.inr hmode) ?_
  simp only [lenOf, Bool.false_eq_true, if_false, hsel]

section Commands

variable {ext : Bool} (hsel : (s.past x h (lenOf l)).selGen x.w (x.w.eff h) (x.n32 gs) ext = .ok (f, k, g))
include hsel

/-- A word places a legal command in the FIFO of the generator that the selector names (R405). -/
theorem spCommand_ready {ok : Bool} {rs : LaneMask → List Rd} {cmd : Ctx → Nat → Except Nat GCmd} {c : GCmd}
    (r : Ready s x h (sSrc false gs && ok) (Rd.of gs false (x.w.eff h) :: rs (x.w.eff h)) true)
    (hcmd : cmd x (x.n32 gs / 256 % 4) = .ok c) :
    spCommand h l gs [(fSrc1, ok)] rs ext cmd s = .next ((s.past x h (lenOf l)).sendCmd h x.w.gid f k g c) := by
  refine spatialWord_ready (l := l) hfull hwid r (Checks.all_two ..) (.inr hmode) ?_
  simp only [hsel, hcmd]
  rfl

end Commands

theorem execSpstream_ready (hsel : (s.past x h (lenOf l)).selGen x.w (x.w.eff h) (x.n32 gs) false = .ok (f, k, g))
    (r : Ready s x h (sSrc false gs && sSrc1 false n) (Rd.of gs false (x.w.eff h) :: Rd.src n false (x.w.eff h)) true)
    (hcount : 1 ≤ x.n32Src n ∧ x.n32Src n ≤ 65535) :
    execSpstream h l gs n s = .next ((s.past x h (lenOf l)).sendCmd h x.w.gid f k g (.stream (x.n32Src n))) :=
  spCommand_ready hfull hwid hmode hsel r (if_pos hcount)

theorem execSpparamExt_ready (hsel : (s.past x h (lenOf l)).selGen x.w (x.w.eff h) (x.n32 gs) true = .ok (f, k, g))
    (r : Ready s x h (sSrc false gs && sSrc1 false n) (Rd.of gs false (x.w.eff h) :: Rd.src n false (x.w.eff h)) true)
    (hextent : 1 ≤ x.n32Src n) :
    execSpparamExt h l gs n s =
      .next ((s.past x h (lenOf l)).sendCmd h x.w.gid f k g (.ext (x.n32 gs / 256 % 4) (x.n32Src n))) :=
  spCommand_ready hfull hwid hmode hsel r (if_pos hextent)

/-- A special register gives no 64-bit base (R398). -/
theorem execSpparamBase_ready (hn : ∀ c, n ≠ .op (.special c))
    (hsel : (s.past x h (lenOf l)).selGen x.w (x.w.eff h) (x.n32 gs) false = .ok (f, k, g))
    (r : Ready s x h (sSrc false gs && sSrc1 true n) (Rd.of gs false (x.w.eff h) :: Rd.src n true (x.w.eff h)) true)
    (hbase : (x.readSrc .i64 n 0).toNat < 2 ^ 57) :
    execSpparamBase h l gs n s =
      .next ((s.past x h (lenOf l)).sendCmd h x.w.gid f k g (.base (x.readSrc .i64 n 0).toNat)) := by
  rw [execSpparamBase]
  · exact spCommand_ready hfull hwid hmode hsel r (if_pos hbase)
  · exact hn

end Mode

end SpatialWords

/-- Settles O23: SPENTER at the launch's rectangle; in spatial mode, each word by its own meaning, the commands through the
generator that the selector names. -/
theorem spatialWordsAct : Obligations.SpatialWordsAct := by
  intro s x h l shape d a gs n eff p pl hfull hwid
  refine ⟨fun g la ha hg hla hrect r => execSpenter_ready hfull hwid ha hg hla hrect r,
    fun hmode => ⟨?switch, ?rect, ?gen, ?commands⟩⟩
  case switch =>
    exact fun r => ⟨fun g hg => execSpleave_ready hfull hwid hmode hg r, execSpdrain_ready hfull hwid hmode r⟩
  case rect => exact fun f hf r => execSpstatRect_ready hfull hwid hmode hf r
  case gen =>
    exact fun f k g hsel r => ⟨spstatGen_ready hfull hwid hmode _ hsel r, spstatGen_ready hfull hwid hmode _ hsel r⟩
  case commands =>
    intro ext f k g hsel sent v
    refine ⟨fun r => ⟨?stream, ?extent⟩, ?base⟩
    case stream =>
      rintro rfl hlow hhigh
      exact execSpstream_ready hfull hwid hmode hsel r ⟨hlow, hhigh⟩
    case extent =>
      rintro rfl hlow
      exact execSpparamExt_ready hfull hwid hmode hsel r hlow
    case base =>
      rintro ok hn rfl r rfl hbase
      exact execSpparamBase_ready hfull hwid hmode hn hsel r hbase

end Sys2Proof.Machine
end

section
namespace Sys2Proof.Machine

/-! ### The spatial fabric (R386, R387, R393 to R395, R401 to R404, R406, R410) -/

section Switch

variable {s : State} {c j : Nat} {w : Warp} {g : Group}

theorem exec_spenterCommit (s : State) (c j : Nat) : exec (.spenterCommit c j) s = .next (s.spCommit c j) := rfl

theorem exec_spleaveCommit (s : State) (c j : Nat) : exec (.spleaveCommit c j) s = .next (s.spLeave c j) := rfl

theorem exec_spdrainComplete (s : State) (c j : Nat) : exec (.spdrainComplete c j) s = .next (s.spDrained c j) := rfl

/-- SPENTER waits for the configuration in force, if any, to be empty (R403). -/
theorem any_not_empty_eq_false {o : Option Fabric} (h : ∀ old, o = some old → old.empty = true) :
    (o.any fun f => !f.empty) = false := by
  cases o with
  | none => rfl
  | some old => simp [h old rfl]

section Commit

variable {r : Rect} {image : DWord} {bs : List Byte}
variable (hw : s.warpAt c j = some w) (hg : s.group w.gid = some g) (hwait : w.wait = .spenter r image)
  (hempty : ∀ old, s.fabrics.find? w.gid = some old → old.empty = true)
include hw hg hwait hempty

theorem State.spCommit_of_badImage {t : Trap} (hload : s.loadImage c (s.asidOf w) r image.toNat = .error t) :
    s.spCommit c j = s.trapWait c j t := by
  simp only [State.spCommit, hw, hwait, hg, any_not_empty_eq_false hempty, hload, Bool.false_eq_true, if_false]

variable (hload : s.loadImage c (s.asidOf w) r image.toNat = .ok bs)
include hload

theorem State.spCommit_of_shortQuad {q : Nat}
    (hshort : s.shortQuad g.cores (fabricOf r image bs).nodes (fabricOf r image bs).depth = some q) :
    s.spCommit c j = s.trapWait c j (trapAt cConfig (BitVec.ofNat 32 q) 0x11 image.toNat) := by
  simp only [State.spCommit, hw, hwait, hg, any_not_empty_eq_false hempty, hload, hshort, Bool.false_eq_true, if_false]

theorem State.spCommit_of_fits
    (hfits : s.shortQuad g.cores (fabricOf r image bs).nodes (fabricOf r image bs).depth = none) :
    s.spCommit c j = ((((s.walkedPages c (s.asidOf w) image.toNat bs.length).readThrough (.core c)
      (s.liveTr c (s.asidOf w) .read) image.toNat bs.length).setFabric w.gid (fabricOf r image bs)).setModes g.cores
      .spatial).unblockAt c j := by
  simp only [State.spCommit, hw, hwait, hg, any_not_empty_eq_false hempty, hload, hfits, Bool.false_eq_true, if_false]

end Commit

theorem State.spLeave_of_empty (hw : s.warpAt c j = some w) (hg : s.group w.gid = some g) (hwait : w.wait = .spleave)
    (hempty : s.rectEmpty w.gid = true) :
    s.spLeave c j = (({ s with fabrics := s.fabrics.del w.gid }.setModes g.cores .simt).unpark g).unblockAt c j := by
  simp only [State.spLeave, hw, hwait, hg, hempty, if_true]

theorem State.spDrained_of_empty (hw : s.warpAt c j = some w) (hwait : w.wait = .spdrain) (hempty : s.rectEmpty w.gid = true) :
    s.spDrained c j = s.unblockAt c j := by
  simp only [State.spDrained, hw, hwait, hempty, if_true]

end Switch

/-! #### The firings of a node (R386, R387, R393) -/

section Firing

variable {s : State} {gid idx k : Nat} {f f' : Fabric} {n : Node} {gn : Gen} {t : Tok}
variable (hf : s.fabrics.find? gid = some f) (hn : f.nodes[idx]? = some n)
include hf hn

theorem exec_nodeFiring_of_fire (hempty : n.op ≠ 0x00) (hgen : n.op ≠ 0x15) (hsink : n.op ≠ 0x16)
    (hfire : f.fire (s.groupIndex gid) idx n = some f') : exec (.nodeFiring gid idx) s = .next (s.setFabric gid f') := by
  change Host.Outcome.next (s.nodeFire gid idx) = _
  simp only [State.nodeFire, hf, hn, hempty, hgen, hsink, or_self, if_false, hfire]

theorem exec_eoiFiring_of_fireEoi (hsink : n.op ≠ 0x16) (hfire : f.fireEoi idx n = some f') :
    exec (.eoiFiring gid idx) s = .next (s.setFabric gid f') := by
  change Host.Outcome.next (s.eoiFire gid idx) = _
  simp only [State.eoiFire, hf, hn, hsink, if_false, hfire]

/-- A SINK in a round, without a fault, takes the token at its input. -/
theorem exec_nodeFiring_of_sink (hsink : n.op = 0x16) (hgen : f.genOf idx = some (k, gn)) (hin : f.input n 0 = some t)
    (hactive : gn.active = true) (hfault : gn.fault = none) :
    exec (.nodeFiring gid idx) s = .next (s.sinkFire gid f n k gn t) := by
  have hkind : ¬ (n.op = 0x00 ∨ n.op = 0x15) := by simp [hsink]
  change Host.Outcome.next (s.nodeFire gid idx) = _
  simp only [State.nodeFire, hf, hn, hkind, if_false, if_pos hsink, hgen, hin, hactive, hfault, Option.isNone_none, Bool.and_self,
    if_true]

end Firing

/-! #### The generators (R393 to R395) -/

section Generator

variable {s : State} {gid k : Nat} {f : Fabric} {gn : Gen} {n : Node}
variable (hf : s.fabrics.find? gid = some f) (hgen : f.gens.find? k = some gn) (hn : f.nodes[gn.node]? = some n)
include hf hgen hn

/-- A generator without a parameter port applies its commands and starts a round of the stream command behind them. -/
theorem exec_generatorRoundStart_of_stream {m : Nat} {rest : List GCmd} (hport : n.port = none) (hidle : gn.active = false)
    (hfault : gn.fault = none) (hfifo : (gn.applyCmds gn.fifo).fifo = .stream m :: rest) :
    exec (.generatorRoundStart gid k) s = .next (s.setFabric gid (f.setGen k { gn.applyCmds gn.fifo with
      active := true, pwait := false, ready := false, pos := 0, fifo := .stream (m - 1) :: rest })) := by
  change Host.Outcome.next (s.roundStart gid k) = _
  simp only [State.roundStart, hf, hgen, hn, hidle, hfault, Option.isSome_none, Bool.or_self, Bool.false_eq_true, if_false,
    Option.bind_some, hport, Gen.start, hfifo]

section Element

variable (hsource : gn.sink = false) (hactive : gn.active = true) (hfault : gn.fault = none) (hroom : f.roomFor n 1 = true)
include hsource hactive hfault hroom

theorem exec_genElementRead_of_end (hend : gn.total ≤ gn.pos) :
    exec (.genElementRead gid k) s = .next (s.setFabric gid ((f.emit n eoiTok).setGen k gn.endRound)) := by
  change Host.Outcome.next (s.genRead gid k) = _
  simp only [State.genRead, hf, hgen, hn, hsource, hactive, hfault, hroom, Option.isSome_none, Bool.not_true, Bool.or_self,
    Bool.false_eq_true, if_false, hend, if_true]

variable (hpos : gn.pos < gn.total)
include hpos

theorem exec_genElementRead_of_fault {e : Trap}
    (hprobe : s.genProbe (s.genPlace gid gn).1 (s.genPlace gid gn).2 k gn = .error e) :
    exec (.genElementRead gid k) s = .next (s.failGen gid f k { gn with fault := some e, taken := false }) := by
  change Host.Outcome.next (s.genRead gid k) = _
  simp only [State.genRead, hf, hgen, hn, hsource, hactive, hfault, hroom, Option.isSome_none, Bool.not_true, Bool.or_self,
    Bool.false_eq_true, if_false, Nat.not_le.2 hpos, hprobe]

theorem exec_genElementRead_of_read {pa : Nat} {comp : Bool} :
    let p := s.genPlace gid gn
    s.genProbe p.1 p.2 k gn = .ok (pa, comp) → exec (.genElementRead gid k) s =
      .next (((s.walkedAll p.1 p.2 [gn.addr gn.pos]).access (.core p.1) pa gn.esize .read).setFabric gid
        ((f.emit n (valueTok (s.memPoisoned pa gn.esize) (BitVec.ofNat 32 (leNat (s.memRead pa gn.esize))))).setGen k
          { gn with pos := gn.pos + 1 })) := by
  intro p hprobe
  change Host.Outcome.next (s.genRead gid k) = _
  simp only [State.genRead, hf, hgen, hn, hsource, hactive, hfault, hroom, Option.isSome_none, Bool.not_true, Bool.or_self,
    Bool.false_eq_true, if_false, Nat.not_le.2 hpos, hprobe, p]

end Element

end Generator

/-! #### The delivery of a generator's fault (R410) -/

section Delivery

variable {s : State} {c j k : Nat} {w : Warp} {f : Fabric} {gn : Gen} {t : Trap}

theorem exec_generatorFaultDelivery_of_takesFault (hw : s.warpAt c j = some w) (h : s.takesFault c j w = true) :
    exec (.generatorFaultDelivery c j) s = .next (s.deliverGenFault c j) := by
  change execGeneratorFaultDelivery c j s = _
  simp only [execGeneratorFaultDelivery, hw, h, if_true]

/-- A generator's fault is taken at no wait but the spatial ones. -/
theorem Warp.wait_ne_gbar_of_genFaultDue (hdue : w.genFaultDue = true) : w.wait ≠ .gbar := by
  intro hwait
  simp [Warp.genFaultDue, hwait] at hdue

/-- The generator whose fault is delivered is noted as the one handled. -/
def State.handleGen (s : State) (gid : Nat) (f : Fabric) (k : Nat) (g : Gen) : State :=
  s.setFabric gid { f.setGen k { g with taken := true } with handling := some k }

section Deliver

variable (hw : s.warpAt c j = some w) (hf : s.fabrics.find? w.gid = some f) (hpending : f.pending = some (k, gn))
  (hfault : gn.fault = some t) (hwid : w.wid = 0) (hdue : w.genFaultDue = true)
include hw hf hpending hfault hwid hdue

theorem State.deliverGenFault_of_issuing (hwait : w.wait = .none) :
    s.deliverGenFault c j = (s.handleGen w.gid f k gn).takeTrapAt c j (w.pc.setWidth 64) t := by
  have htrap (d : Trap) : gn.fault.getD d = t := by rw [hfault, Option.getD_some]
  simp only [State.deliverGenFault, hw, hf, hpending, hwid, hdue, hwait, decide_true, Bool.and_self, if_true, htrap]
  rfl

/-- The fault is taken at the spatial word in which the control thread waits, which is rolled back. -/
theorem State.deliverGenFault_of_blocked (hwait : w.wait ≠ .none) :
    s.deliverGenFault c j = (s.handleGen w.gid f k gn).trapWait c j t := by
  have htrap (d : Trap) : gn.fault.getD d = t := by rw [hfault, Option.getD_some]
  simp only [State.deliverGenFault, hw, hf, hpending, hwid, hdue, decide_true, Bool.and_self, if_true, htrap]
  rfl

end Deliver

end Delivery

/-- Settles O32: the ends of the waits of the switch, the firings of a node, the steps of a generator, and the delivery of its
fault. -/
theorem spatialEvents : Obligations.SpatialEvents := by
  intro s c j gid idx k w g f
  refine ⟨fun hw hg => ⟨?enter, ?leave⟩, fun hf => ⟨?fire, ?sink, ?start, ?element⟩, ?deliver⟩
  case enter =>
    intro r image hwait hempty
    refine ⟨fun t hload => ?_, fun bs hload => ⟨fun q hshort => ?_, fun hfits => ?_⟩⟩
    · rw [exec_spenterCommit, State.spCommit_of_badImage hw hg hwait hempty hload]
    · rw [exec_spenterCommit, State.spCommit_of_shortQuad hw hg hwait hempty hload hshort]
    · rw [exec_spenterCommit, State.spCommit_of_fits hw hg hwait hempty hload hfits]
  case leave =>
    intro hempty
    refine ⟨fun hwait => ?_, fun hwait => ?_⟩
    · rw [exec_spleaveCommit, State.spLeave_of_empty hw hg hwait hempty]
    · rw [exec_spdrainComplete, State.spDrained_of_empty hw hwait hempty]
  case fire =>
    exact fun n f' hn hempty hgen hsink =>
      ⟨exec_nodeFiring_of_fire hf hn hempty hgen hsink, exec_eoiFiring_of_fireEoi hf hn hsink⟩
  case sink =>
    exact fun gn n t hn hsink hgen hin hactive hfault => exec_nodeFiring_of_sink hf hn hsink hgen hin hactive hfault
  case start =>
    exact fun gn n rest hgen hn hport hidle hfault m hfifo =>
      exec_generatorRoundStart_of_stream hf hgen hn hport hidle hfault hfifo
  case element =>
    intro gn n hgen hn hsource hactive hfault hroom
    exact ⟨exec_genElementRead_of_end hf hgen hn hsource hactive hfault hroom, fun hpos => ⟨fun e hprobe =>
      exec_genElementRead_of_fault hf hgen hn hsource hactive hfault hroom hpos hprobe, fun pa comp hprobe =>
      exec_genElementRead_of_read hf hgen hn hsource hactive hfault hroom hpos hprobe⟩⟩
  case deliver =>
    intro gn t hw hf hpending hfault hwid hdue
    refine ⟨fun hwait he => ?_, fun g' hwait hg hrun => ?_⟩
    · rw [exec_generatorFaultDelivery_of_takesFault hw (State.takesFault_of_eligible hwait he),
        State.deliverGenFault_of_issuing hw hf hpending hfault hwid hdue hwait]
      rfl
    · have hgbar := Warp.wait_ne_gbar_of_genFaultDue hdue
      rw [exec_generatorFaultDelivery_of_takesFault hw (State.takesFault_of_blocked hwait hg hrun fun h => absurd h hgbar),
        State.deliverGenFault_of_blocked hw hf hpending hfault hwid hdue hwait]
      rfl

end Sys2Proof.Machine
end

section
namespace Sys2Proof.Machine

/-! ### The state after reset (R414, R461, R463, R466, R468) -/

/-- Settles O54: every store of the reset state is empty, so that each reads as its default. -/
theorem resetValues : Obligations.ResetValues :=
  ⟨Memory.wf_reset, fun _ => rfl, rfl, fun _ => ⟨rfl, rfl⟩, rfl, rfl, fun _ => ⟨rfl, rfl, rfl, rfl, rfl, rfl⟩, fun _ => rfl,
    fun _ => rfl, fun _ => ⟨rfl, rfl⟩⟩

end Sys2Proof.Machine
end

section
namespace Sys2Proof.Machine

/-! ### Attestation, PLDM and MCTP (R465, R470, R473, R474, R477) -/

section Spdm

variable (s : State)

/-- An answer, and nothing else of the state changes. -/
def State.answers (r : Reply) : Host.Outcome State Fault Refusal := .next { s with reply := some r }

/-- Another version than SPDM 1.3 gets the error response, whatever was asked for. -/
theorem State.spdm_of_other {v : BitVec 8} (hv : v ≠ 0x13#8) (r : Reply) : s.spdm v r = s.answers .spdmUnsupported := by
  have hv13 : v ≠ spdm13 := hv
  simp only [State.spdm, hv13, if_false, State.answers]

/-- The five measurement blocks have the indices 1 to 5, so that an index names one block. -/
theorem State.filter_measurements {n : Nat} {m : BitVec 384} (h : (n, m) ∈ s.measurements) :
    (s.measurements.filter fun p => p.1 == n) = [(n, m)] := by
  simp only [State.measurements, List.map_cons, List.map_nil, List.mem_cons, List.not_mem_nil, or_false, Prod.mk.injEq] at h
  rcases h with ⟨rfl, rfl⟩ | ⟨rfl, rfl⟩ | ⟨rfl, rfl⟩ | ⟨rfl, rfl⟩ | ⟨rfl, rfl⟩ <;> rfl

theorem exec_getMeasurements_of_index {n : Nat} {m : BitVec 384} (h : (n, m) ∈ s.measurements) :
    exec (.getMeasurements 0x13#8 (some n)) s = s.answers (.spdmMeasurements [(n, m)]) := by
  have hexec : exec (.getMeasurements 0x13#8 (some n)) s =
      s.answers (if (s.measurements.filter fun p => p.1 == n).isEmpty then .spdmUnsupported
        else .spdmMeasurements (s.measurements.filter fun p => p.1 == n)) := rfl
  rw [hexec, s.filter_measurements h]
  rfl

end Spdm

/-- A signature has the 29,792 bytes of R473. -/
theorem length_sign (nonce : BitVec 256) (blocks : List (BitVec 384)) :
    (Config.sign nonce blocks).length = 29792 := by
  rw [Config.sign, List.length_map, List.length_range]

/-- Settles O49: SPDM by its version, and each PLDM command and the MCTP assignment by its own meaning. -/
theorem attestationAndSensors : Obligations.AttestationAndSensors := by
  intro s ans all
  refine ⟨⟨rfl, rfl, rfl, rfl, fun _ _ => rfl, fun nonce => ⟨rfl, length_sign nonce _⟩, rfl,
      fun n m h => exec_getMeasurements_of_index s h⟩,
    fun v hv => ?_,
    rfl, fun d => ⟨rfl, rfl, rfl, rfl, rfl, rfl, fun _ => rfl⟩, fun _ _ => rfl, fun _ => rfl⟩
  have hrefused (r : Reply) : s.spdm v r = s.answers .spdmUnsupported := s.spdm_of_other hv r
  exact ⟨hrefused _, fun _ _ => hrefused _, hrefused _, fun _ _ _ => hrefused _, fun _ _ => hrefused _, fun _ => hrefused _⟩

end Sys2Proof.Machine
end

section
namespace Sys2Proof.Machine

/-! ### Firmware update (R475, R476) -/

section Update

variable {s : State} {u : Update}

/-- The session of a firmware update stands at a step (R475). -/
def State.updateAt (s : State) (p : UpdStep) : Prop := ∃ u, s.update = some u ∧ u.step = p

/-- A command of the session at its step takes the session to the next one. -/
theorem State.updStep_of_step (hu : s.update = some u) {now nxt : UpdStep} (hstep : u.step = now) (f : List Byte → List Byte) :
    s.updStep now nxt f = { s with update := some { step := nxt, image := f u.image }, reply := some .pldmDone } := by
  simp only [State.updStep, hu, hstep, if_true]

/-- A command out of order is refused, and so is one outside a session. -/
theorem State.updStep_of_not_updateAt {now : UpdStep} (h : ¬ s.updateAt now) (nxt : UpdStep) (f : List Byte → List Byte) :
    s.updStep now nxt f = { s with reply := some .pldmRefused } := by
  unfold State.updStep
  cases hu : s.update with
  | none => rfl
  | some u => exact if_neg fun hstep => h ⟨u, hu, hstep⟩

theorem exec_firmwareVerify_of_not_component (h : ¬ s.updateAt .component) :
    exec .firmwareVerify s = .next { s with reply := some .pldmRefused } := by
  change execFirmwareVerify s = _
  unfold execFirmwareVerify
  cases hu : s.update with
  | none => rfl
  | some u => exact if_pos fun hstep => h ⟨u, hu, hstep⟩

theorem exec_firmwareApply_of_not_verified (h : ¬ s.updateAt .verified) :
    exec .firmwareApply s = .next { s with reply := some .pldmRefused } := by
  change execFirmwareApply s = _
  unfold execFirmwareApply
  cases hu : s.update with
  | none => rfl
  | some u => exact if_pos fun hstep => h ⟨u, hu, hstep⟩

theorem exec_activateFirmware_of_not_applied (h : ¬ s.updateAt .applied) :
    exec .activateFirmware s = .next { s with reply := some .pldmRefused } := by
  change execActivateFirmware s = _
  unfold execActivateFirmware
  cases hu : s.update with
  | none => rfl
  | some u => exact if_pos fun hstep => h ⟨u, hu, hstep⟩

section Session

variable (hu : s.update = some u)
include hu

theorem exec_firmwareVerify_of_ok (hstep : u.step = .component) (hok : imageOk u.image = true) :
    exec .firmwareVerify s = .next { s with update := some { u with step := .verified }, reply := some .pldmDone } := by
  change execFirmwareVerify s = _
  simp only [execFirmwareVerify, hu, hstep, hok, ne_eq, not_true_eq_false, if_false, if_true,
    State.updStep_of_step hu hstep, id_eq]

/-- An image that does not verify ends the session before a byte of flash is written. -/
theorem exec_firmwareVerify_of_bad (hstep : u.step = .component) (hbad : imageOk u.image = false) :
    exec .firmwareVerify s = .next { s.logFirmware u.image with update := none, reply := some .pldmRefused } := by
  change execFirmwareVerify s = _
  simp only [execFirmwareVerify, hu, hstep, hbad, ne_eq, not_true_eq_false, Bool.false_eq_true, if_false]

theorem exec_firmwareApply_of_verified (hstep : u.step = .verified) :
    exec .firmwareApply s = .next { s with
      update := some { u with step := .applied }, flash := some u.image, reply := some .pldmDone } := by
  change execFirmwareApply s = _
  simp only [execFirmwareApply, hu, hstep, ne_eq, not_true_eq_false, if_false, State.updStep_of_step hu hstep, id_eq]

theorem exec_activateFirmware_of_applied (hstep : u.step = .applied) :
    exec .activateFirmware s = .next { s.logFirmware u.image with update := none, reply := some .pldmDone } := by
  change execActivateFirmware s = _
  simp only [execActivateFirmware, hu, hstep, ne_eq, not_true_eq_false, if_false]

theorem exec_requestUpdate_of_session : exec .requestUpdate s = .next { s with reply := some .pldmAlreadyUpdating } := by
  change execRequestUpdate s = _
  simp only [execRequestUpdate, hu]

theorem State.updateAt_iff (p : UpdStep) : s.updateAt p ↔ u.step = p :=
  ⟨fun ⟨_, hv, hp⟩ => Option.some.inj (hu.symm.trans hv) ▸ hp, fun hp => ⟨u, hu, hp⟩⟩

end Session

theorem exec_requestUpdate_of_none (hu : s.update = none) :
    exec .requestUpdate s = .next { s with update := some { step := .requested, image := [] }, reply := some .pldmDone } := by
  change execRequestUpdate s = _
  simp only [execRequestUpdate, hu]

theorem State.not_updateAt_of_none (hu : s.update = none) (p : UpdStep) : ¬ s.updateAt p :=
  fun ⟨_, hv, _⟩ => nomatch hu.symm.trans hv

end Update

section Recovery

variable {s : State} (hrec : s.boot = .recovery) {image : List Byte}
include hrec

/-- The restart with an image that verifies is a power-up with that image in flash (R475, R476). -/
theorem exec_recoveryMailboxWrite_of_ok (hok : imageOk image = true) :
    ∃ t : State, exec (.recoveryMailboxWrite image) s = .next t ∧ t.boot = .on ∧ t.flash = some image ∧ t.running = some image := by
  have hflash : ({ s with flash := some image } : State).flash.all imageOk = true := hok
  have hexec : exec (.recoveryMailboxWrite image) s = .next ((State.coldReset { s with flash := some image } true).logFirmware image) := by
    change execRecoveryMailboxWrite image s = _
    simp only [execRecoveryMailboxWrite, hrec, hok, ne_eq, not_true_eq_false, if_false, if_true]
  refine ⟨_, hexec, ?_⟩
  rw [State.coldReset_of_image hflash]
  exact ⟨rfl, rfl, rfl⟩

theorem exec_recoveryMailboxWrite_of_bad (hbad : imageOk image = false) :
    exec (.recoveryMailboxWrite image) s = .next (s.logFirmware image) := by
  change execRecoveryMailboxWrite image s = _
  simp only [execRecoveryMailboxWrite, hrec, hbad, ne_eq, not_true_eq_false, Bool.false_eq_true, if_false]

end Recovery

/-- Settles O50: each command by whether the session stands at its step, the verification by its result, and the recovery
mailbox by the image. -/
theorem firmwareUpdateSequence : Obligations.FirmwareUpdateSequence := by
  intro s goes refused logged
  have hrefused {now : UpdStep} (h : ¬ s.updateAt now) (nxt : UpdStep) (f : List Byte → List Byte) :
      Host.Outcome.next (s.updStep now nxt f) = (.next { s with reply := some .pldmRefused } : Host.Outcome State Fault Refusal) :=
    congrArg _ (State.updStep_of_not_updateAt h nxt f)
  refine ⟨fun hu => ?_, fun u hu => ?_, fun hrec image => ?_⟩
  case refine_1 =>
    have hat := State.not_updateAt_of_none hu
    exact ⟨exec_requestUpdate_of_none hu, hrefused (hat .requested) _ _, hrefused (hat .table) _ _,
      fun _ => hrefused (hat .component) _ _, exec_firmwareVerify_of_not_component (hat _),
      exec_firmwareApply_of_not_verified (hat _), exec_activateFirmware_of_not_applied (hat _)⟩
  case refine_2 =>
    have hat (p : UpdStep) (h : u.step ≠ p) : ¬ s.updateAt p := fun h' => h ((State.updateAt_iff hu p).mp h')
    have hgoes {now nxt : UpdStep} (hstep : u.step = now) (f : List Byte → List Byte) :
        Host.Outcome.next (s.updStep now nxt f) =
          (.next { s with update := some { step := nxt, image := f u.image }, reply := some .pldmDone } :
            Host.Outcome State Fault Refusal) :=
      congrArg _ (State.updStep_of_step hu hstep f)
    exact ⟨exec_requestUpdate_of_session hu,
      fun hstep => hgoes hstep id, fun hstep => hrefused (hat _ hstep) _ _,
      fun hstep => hgoes hstep fun _ => [], fun hstep => hrefused (hat _ hstep) _ _,
      fun hstep => ⟨fun b => hgoes hstep fun image => image ++ b, exec_firmwareVerify_of_ok hu hstep,
        exec_firmwareVerify_of_bad hu hstep⟩,
      fun hstep => ⟨exec_firmwareVerify_of_not_component (hat _ hstep), fun _ => hrefused (hat _ hstep) _ _⟩,
      exec_firmwareApply_of_verified hu, fun hstep => exec_firmwareApply_of_not_verified (hat _ hstep),
      exec_activateFirmware_of_applied hu, fun hstep => exec_activateFirmware_of_not_applied (hat _ hstep)⟩
  case refine_3 =>
    exact ⟨exec_recoveryMailboxWrite_of_ok hrec, exec_recoveryMailboxWrite_of_bad hrec⟩

end Sys2Proof.Machine
end

section
namespace Sys2Proof.Machine

/-! ### What messages leave of launches, address spaces and counts of errors -/

theorem FabricOnly.launches {s t : State} (h : FabricOnly s t) : t.launches = s.launches := by rw [h]
theorem FabricOnly.spaces {s t : State} (h : FabricOnly s t) : t.spaces = s.spaces := by rw [h]
theorem FabricOnly.unitErrs {s t : State} (h : FabricOnly s t) : t.unitErrs = s.unitErrs := by rw [h]

theorem fabricOnly_exchanges (s : State) (a : Nat) (ds : List Nat) : FabricOnly s (ds.foldl (fun t d => t.exchange a d) s) :=
  FabricOnly.foldl _ (fun t d => fabricOnly_exchange t a d) s ds

/-- A launch is changed after messages as it is before them. -/
theorem FabricOnly.updLaunch_eq {s t : State} (h : FabricOnly s t) {lid : Nat} {l : Launch} (hl : s.launch lid = some l)
    (f : Launch → Launch) : t.updLaunch lid f = { t with launches := s.launches.put lid (f l) } := by
  have hlt : t.launch lid = some l := by rw [← hl, State.launch, State.launch, h.launches]
  rw [State.updLaunch, hlt, ← h.launches]

end Sys2Proof.Machine
end

section
namespace Sys2Proof.Machine

/-! ### Writes to the registers of a queue (R414 to R419) -/

section Binding

variable (s : State) (q : Nat)

/-- The halt of a queue that cannot be bound to its descriptor (R415). -/
def State.bindFails (x : Queue) (err : Nat) : State := (s.setQueue q { x with asid := none }).haltQueue q err 0 x.rp.toNat

/-- A descriptor is well formed, and its ASID is not in use under another one (R250, R415). -/
def State.bindable (pa : Nat) (b : List Byte) : Prop :=
  descOk b = true ∧ ∀ o, s.asidUsed (field b 0 2 % 4096) q = true → s.space (field b 0 2 % 4096) = some o → o.desc = pa

/-- The queue with its descriptor, whose values come into use when nothing else uses the ASID (R415). -/
def State.boundTo (x : Queue) (pa : Nat) (b : List Byte) : State :=
  let a := field b 0 2 % 4096
  (if s.asidUsed a q = true then s else { s.forgetAsid a with spaces := s.spaces.put a (spaceOfDesc pa b) }).setQueue q
    { x with asid := some a, space := some (spaceOfDesc pa b) }

theorem State.forgetAsid_spaces (a : Nat) : (s.forgetAsid a).spaces = s.spaces := by
  dsimp only [State.forgetAsid]
  exact (fabricOnly_exchanges s 4 (List.range 4)).spaces

/-- The check of a descriptor as the front end makes it. -/
theorem State.bindable_iff (pa : Nat) (b : List Byte) :
    s.bindable q pa b ↔ (!descOk b || (s.asidUsed (field b 0 2 % 4096) q &&
      (s.space (field b 0 2 % 4096)).any fun o => o.desc != pa)) = false := by
  unfold State.bindable
  cases s.space (field b 0 2 % 4096) <;> simp

variable {s q} {x : Queue} (hx : s.queue q = x) {read : State} (hread : s.access .hub (x.desc.toNat * 128) 96 .read = read)
include hx hread

theorem State.bindQueue_of_unread (hnone : read.hubRead (x.desc.toNat * 128) 96 = none) (r : Bool) :
    s.bindQueue q r = (read.bindFails q x 5, false) := by
  simp only [State.bindQueue, hx, hread, hnone]
  rfl

section Descriptor

variable {b : List Byte} (hb : read.hubRead (x.desc.toNat * 128) 96 = some b)
include hb

theorem State.bindQueue_of_not_bindable (hbad : ¬ read.bindable q (x.desc.toNat * 128) b) (r : Bool) :
    s.bindQueue q r = (read.bindFails q x 8, false) := by
  rw [State.bindable_iff, Bool.not_eq_false] at hbad
  simp only [State.bindQueue, hx, hread, hb, hbad, if_true]
  rfl

/-- The checks of the descriptor come before that of LOG2SZ (log 45). -/
theorem State.bindQueue_of_bindable (hgood : read.bindable q (x.desc.toNat * 128) b) :
    s.bindQueue q false =
      if x.log2sz.toNat < 12 ∨ 26 < x.log2sz.toNat then
        ((read.boundTo q x (x.desc.toNat * 128) b).haltQueue q 2 0 x.rp.toNat, false)
      else (read.boundTo q x (x.desc.toNat * 128) b, true) := by
  rw [State.bindable_iff] at hgood
  simp only [State.bindQueue, hx, hread, hb, hgood, Bool.false_eq_true, if_false]
  cases hused : read.asidUsed (field b 0 2 % 4096) q <;> simp [State.boundTo, hused, State.forgetAsid_spaces]

end Descriptor

end Binding

/-- A queue as a write of QCFG enables it: halted no more and without an error (R415, R419). -/
def Queue.enabled (x : Queue) (v : BitVec 32) : Queue :=
  { x.withCfg v with enable := true, stopping := false, st := .enabled, err := 0, errdet := 0, erroff := 0 }

theorem Queue.ne_initial_of_enable {x : Queue} (h : x.enable = true) : x ≠ Queue.initial := by
  rintro rfl
  exact Bool.noConfusion h

theorem State.queue_setQueue_of_enable (s : State) (q : Nat) {x : Queue} (h : x.enable = true) : (s.setQueue q x).queue q = x :=
  SMap.get_set_self_of_ne _ _ (Queue.ne_initial_of_enable h)

section Enable

variable {s p : State} {q : Nat} {v : BitVec 32} (hoff : (s.queue q).enable = false ∨ (s.queue q).stopping = true)
include hoff

theorem State.enableQueue_of_off : s.enableQueue q v =
    let p := (s.setQueue q ((s.queue q).enabled v)).bindQueue q false
    if !p.2 then p.1
    else if ((p.1.queue q).asid.bind fun a => p.1.space a).any fun sp => p.1.haltReason sp != 0 then
      p.1.haltQueue q 7 0 (s.queue q).rp.toNat
    else p.1 := by
  refine if_neg ?_
  rcases hoff with h | h <;> simp [h]

theorem State.enableQueue_of_unbound
    (hp : (s.setQueue q ((s.queue q).enabled v)).bindQueue q false = (p, false)) : s.enableQueue q v = p := by
  simp only [State.enableQueue_of_off hoff, hp, Bool.not_false, if_true]

/-- A queue of a halted address space halts at once (R247). -/
theorem State.enableQueue_of_bound (hp : (s.setQueue q ((s.queue q).enabled v)).bindQueue q false = (p, true)) {a : Nat}
    {sp : Machine.Space} (ha : (p.queue q).asid = some a) (hsp : p.space a = some sp) :
    s.enableQueue q v = if p.haltReason sp ≠ 0 then p.haltQueue q 7 0 (s.queue q).rp.toNat else p := by
  simp [State.enableQueue_of_off hoff, hp, ha, hsp]

end Enable

theorem exec_qwpWrite_of_legal {s : State} (hon : s.boot = .on) {q : BitVec 7} {v : BitVec 32}
    (halign : (v.extractLsb' 0 26).toNat % 64 = 0)
    (hsize : (v.extractLsb' 0 26).toNat < 2 ^ (s.queue q.toNat).log2sz.toNat) :
    exec (.qwpWrite q v) s = .next (s.setQueue q.toNat { s.queue q.toNat with wp := v.extractLsb' 0 26 }) :=
  (if_pos ⟨halign, hsize⟩).trans (State.bar0_of_on hon _)

theorem exec_qwpWrite_of_illegal {s : State} (hon : s.boot = .on) {q : BitVec 7} {v : BitVec 32}
    (h : (v.extractLsb' 0 26).toNat % 64 ≠ 0 ∨ 2 ^ (s.queue q.toNat).log2sz.toNat ≤ (v.extractLsb' 0 26).toNat) :
    exec (.qwpWrite q v) s = .next (s.haltQueue q.toNat 3 0 (v.extractLsb' 0 26).toNat) := by
  refine (if_neg ?_).trans (State.bar0_of_on hon _)
  rintro ⟨halign, hsize⟩
  exact h.elim (· halign) (Nat.not_le.mpr hsize)

theorem State.disableQueue_of_enable {s : State} {q : Nat} (h : (s.queue q).enable = true) :
    s.disableQueue q = s.setQueue q (
      if (s.queue q).work ≠ .none then { s.queue q with enable := false, stopping := true }
      else { s.queue q with enable := false, stopping := false, st := .disabled }) := by
  by_cases hwork : (s.queue q).work = .none
  · simp [State.disableQueue, h, hwork]
  · simp [State.disableQueue, h, hwork, bne_iff_ne.mpr hwork]

/-- What a RESET leaves in progress: a LAUNCH goes on, any other packet is discarded (log 45). -/
def QWork.kept : QWork → QWork
  | .launch l => .launch l
  | _ => .none

theorem QWork.kept_of_not_launch {w : QWork} (h : ∀ l, w ≠ .launch l) : w.kept = .none := by
  cases w with
  | launch l => exact absurd rfl (h l)
  | none => rfl
  | wait => rfl
  | inval => rfl

section Reset

variable {s : State} (hon : s.boot = .on) (q : BitVec 7)
include hon

theorem exec_qctlReset_of_on : exec (.qctlReset q) s = .next ((s.setQueue q.toNat { s.queue q.toNat with
    enable := false, stopping := false, st := .disabled, rp := 0, wp := 0, seq := 0, err := 0, errdet := 0, erroff := 0
    work := (s.queue q.toNat).work.kept }).dropStale q.toNat) :=
  State.bar0_of_on hon _

variable {q}

theorem exec_qctlResume_of_stopping (hstop : (s.queue q.toNat).stopping = true) : exec (.qctlResume q) s = .next s :=
  (if_pos (.inr (.inl hstop))).trans (State.bar0_of_on hon s)

theorem exec_qctlResume_of_halted (hhalt : (s.queue q.toNat).st = .halted) (hstop : (s.queue q.toNat).stopping = false)
    (hfree : (s.queue q.toNat).err ≠ 7 ∨ ∀ a sp, (s.queue q.toNat).asid = some a → s.space a = some sp → s.haltReason sp = 0) :
    exec (.qctlResume q) s =
      .next ((s.setQueue q.toNat { s.queue q.toNat with st := .enabled }).bindQueue q.toNat true).1 := by
  refine (if_neg ?_).trans (State.bar0_of_on hon _)
  rintro (h | h | h)
  · exact h hhalt
  · exact Bool.false_ne_true (hstop.symm.trans h)
  · simp only [Bool.and_eq_true, beq_iff_eq, Option.any_eq_true, Option.bind_eq_some_iff, bne_iff_ne] at h
    obtain ⟨herr, sp, ⟨a, ha, hsp⟩, hreason⟩ := h
    exact hfree.elim (· herr) fun hzero => hreason (hzero a sp ha hsp)

end Reset

/-- Settles O35: a set ENABLE by what the binding to the descriptor answers, and each other write by its own meaning. -/
theorem queueRegisterEvents : Obligations.QueueRegisterEvents := by
  intro s q v hon i x on
  have henabled : (s.setQueue i on).queue i = on := State.queue_setQueue_of_enable s i rfl
  have hset {p : State} (h : s.enableQueue i v = p) : exec (.qcfgEnableSet q v) s = .next p :=
    (State.bar0_of_on hon _).trans (congrArg _ h)
  refine ⟨fun hoff => ?set, fun henable => ?clear, fun henable => ?other, ?wp, ?reset,
    fun _ hstop => exec_qctlResume_of_stopping hon hstop, fun hhalt hstop hfree => exec_qctlResume_of_halted hon hhalt hstop hfree,
    State.bar0_of_on hon _⟩
  case set =>
    intro t pa read fails
    refine ⟨fun hnone => ?unread, fun b hb => ?read⟩
    case unread => exact hset (State.enableQueue_of_unbound hoff (State.bindQueue_of_unread henabled rfl hnone false))
    case read =>
      intro a bound
      refine ⟨fun hbad => ?_, fun hdesc hasid => ?_⟩
      · refine hset (State.enableQueue_of_unbound hoff (State.bindQueue_of_not_bindable henabled rfl hb ?_ false))
        rintro ⟨hdesc, hasid⟩
        rcases hbad with hbad | ⟨o, hused, hspace, hne⟩
        · exact Bool.false_ne_true (hbad.symm.trans hdesc)
        · exact hne (hasid o hused hspace)
      · have hbind := State.bindQueue_of_bindable henabled rfl hb ⟨hdesc, hasid⟩
        refine ⟨fun hsize => hset (State.enableQueue_of_unbound hoff (hbind.trans (if_pos hsize))), fun sp hlo hhi ha hsp => ?_⟩
        have hsize : ¬ (x.log2sz.toNat < 12 ∨ 26 < x.log2sz.toNat) := by omega
        have henable := hset (State.enableQueue_of_bound hoff (hbind.trans (if_neg hsize)) ha hsp)
        exact ⟨fun hreason => henable.trans (congrArg _ (if_pos hreason)),
          fun hreason => henable.trans (congrArg _ (if_neg (not_not_intro hreason)))⟩
  case clear =>
    exact (if_pos henable).trans ((State.bar0_of_on hon _).trans (congrArg _ (State.disableQueue_of_enable henable)))
  case other => exact (if_neg (ne_true_of_eq_false henable)).trans (State.bar0_of_on hon _)
  case wp => exact ⟨exec_qwpWrite_of_legal hon, exec_qwpWrite_of_illegal hon⟩
  case reset =>
    have hreset {w : QWork} (hkept : x.work.kept = w) := hkept ▸ exec_qctlReset_of_on hon q
    exact ⟨fun hwork => hreset (QWork.kept_of_not_launch hwork), fun l hwork => hreset (congrArg QWork.kept hwork)⟩

end Sys2Proof.Machine
end

section
namespace Sys2Proof.Machine

/-! ### Admission, chunks and completion (R424, R427, R428, R431, R432) -/

theorem exec_launchAdmission_of_pick {s : State} {d : BitVec 2} {p : Picked} (hp : (s.noteBlocked d.toNat).pick d.toNat = some p)
    (hfresh : p.unit.saved = false) :
    exec (.launchAdmission d) s =
      .next ((p.after.updLaunch p.unit.lid fun l => l.took d.toNat).countBypass (s.noteBlocked d.toNat) p) := by
  change execLaunchAdmission d s = _
  simp only [execLaunchAdmission, hp, hfresh, Bool.false_eq_true, if_false]

/-- A die can take more of a launch when the unit that would come next fits there (log 41). -/
theorem State.canTake_iff (s : State) (lid : Nat) (l : Launch) (d : Nat) :
    s.canTake lid l d = true ↔ ∃ u, s.freshUnit lid l d = some u ∧ (s.placeWork d u).isSome = true :=
  Option.any_eq_true _ _

/-- The leader's counter gives a chunk of at most 64 indices, of whole cluster instances (R431). -/
theorem Launch.chunk_of_fresh {l : Launch} (hback : l.back = []) (hnext : l.next < l.record.count) :
    let hi := min l.record.count (l.next + l.record.clSize * (64 / l.record.clSize))
    l.chunk = some (l.next, hi, { l with next := hi }) := by
  simp only [Launch.chunk, hback, hnext, if_true]

theorem Launch.chunk_of_exhausted {l : Launch} (hback : l.back = []) (hnext : l.record.count ≤ l.next) : l.chunk = none := by
  simp only [Launch.chunk, hback, Nat.not_lt.mpr hnext, if_false]

section Chunk

variable {s : State} {lid : Nat} {d : BitVec 2} {l : Launch} (hl : s.launch lid = some l)
include hl

theorem exec_chunkRequest_of_canTake_eq_false (h : s.canTake lid l d.toNat = false) :
    exec (.chunkRequest lid d) s = .next s := by
  change execChunkRequest lid d s = _
  simp [execChunkRequest, hl, h]

theorem exec_chunkRequest_of_exhausted (h : l.chunk = none) : exec (.chunkRequest lid d) s = .next s := by
  change execChunkRequest lid d s = _
  simp only [execChunkRequest, hl, h, ite_self]

theorem exec_chunkRequest_of_chunk (hadmit : l.unadmit = false) (hlive : l.killed = false) (hclass : l.record.gclass ≠ 0)
    (hidle : ∀ g ∈ l.grants, g.die ≠ d.toNat) (hdie : (s.liveDies l).has d.toNat = true)
    (htake : s.canTake lid l d.toNat = true) {lo hi : Nat} {l' : Launch} (hchunk : l.chunk = some (lo, hi, l')) :
    exec (.chunkRequest lid d) s = .next { s.exchange d.toNat (s.leader l) with
      launches := s.launches.put lid { l' with grants := l'.grants ++ [{ die := d.toNat, lo := lo, hi := hi, live := false }] } } := by
  have hasks : (l.unadmit || l.killed || l.record.gclass == 0 || (l.grants.any fun g => g.die == d.toNat) ||
      !(s.liveDies l).has d.toNat || !s.canTake lid l d.toNat) = false := by
    simpa [hadmit, hlive, hclass, hdie, htake] using hidle
  change execChunkRequest lid d s = _
  simp only [execChunkRequest, hl, hasks, hchunk, Bool.false_eq_true, if_false]
  exact congrArg _ ((fabricOnly_exchange s d.toNat (s.leader l)).updLaunch_eq hl _)

end Chunk

section Grant

variable {s : State} {lid n : Nat} {l : Launch} {g : Grant} (hl : s.launch lid = some l) (hg : l.grants[n]? = some g)
include hl hg

theorem exec_grantAcknowledged_of_live (hlive : g.live = true) : exec (.grantAcknowledged lid n) s = .next s := by
  change execGrantAcknowledged lid n s = _
  simp only [execGrantAcknowledged, hl, hg, hlive, if_true]

/-- The leader hears of a grant from every live die and from the front end (R431). -/
theorem exec_grantAcknowledged_of_pending (hpending : g.live = false) :
    let heard := (s.liveDies l ++ [4]).foldl (fun (a : State) d => a.exchange (s.leader l) d) s
    exec (.grantAcknowledged lid n) s = .next { heard with
      launches := heard.launches.put lid { l with grants := l.grants.set n { g with live := true } } } := by
  have hheard := fabricOnly_exchanges s (s.leader l) (s.liveDies l ++ [4])
  intro heard
  rw [hheard.launches]
  refine Eq.trans ?_ (congrArg _ (hheard.updLaunch_eq hl fun x => { x with grants := x.grants.set n { g with live := true } }))
  change execGrantAcknowledged lid n s = _
  simp only [execGrantAcknowledged, hl, hg, hpending, Bool.false_eq_true, if_false]

end Grant

/-- The queue of a complete launch goes on, or halts with ERR 9 when a write of the completion record fails (R424). -/
theorem exec_launchCompletion_of_done {s : State} {lid : Nat} {l : Launch} (hl : s.launch lid = some l)
    (hdone : s.launchDone lid l = true) :
    let w := s.hubWrites l.space l.completion
    let s1 := { w.1 with launches := w.1.launches.del lid }
    exec (.launchCompletion lid) s =
      if w.2 = true then .next (s1.endPacket l.queue true l.irq) else .next (s1.failPacket l.queue l.off 9 0 true) := by
  intro w s1
  change execLaunchCompletion lid s = _
  simp only [execLaunchCompletion, hl, hdone, Bool.not_true, Bool.false_eq_true, if_false]
  rfl

/-- Settles O38: admission by the picked unit, a chunk request by what the leader still has, an acknowledgement by the grant, and
completion by the writes of its record. -/
theorem admissionAndCompletion : Obligations.AdmissionAndCompletion := by
  intro s
  refine ⟨fun d p hp hfresh => exec_launchAdmission_of_pick hp hfresh, ?chunk, ?grant, ?completion⟩
  case chunk =>
    intro lid d l hl hadmit hlive hclass hidle hdie takes
    have htakes := s.canTake_iff lid l d.toNat
    refine ⟨fun hno => ?_, fun htake hback hnext => ?_, fun hback hnext => ?_⟩
    · exact exec_chunkRequest_of_canTake_eq_false hl (Bool.eq_false_iff.mpr (mt htakes.mp hno))
    · exact exec_chunkRequest_of_chunk hl hadmit hlive hclass hidle hdie (htakes.mpr htake) (Launch.chunk_of_fresh hback hnext)
    · exact exec_chunkRequest_of_exhausted hl (Launch.chunk_of_exhausted hback hnext)
  case grant =>
    exact fun lid n l g hl hg => ⟨exec_grantAcknowledged_of_pending hl hg, exec_grantAcknowledged_of_live hl hg⟩
  case completion =>
    intro lid l hl hdone
    have hexec := exec_launchCompletion_of_done hl hdone
    exact ⟨fun hw => hexec.trans (if_pos hw), fun hw => hexec.trans (if_neg (ne_true_of_eq_false hw))⟩

end Sys2Proof.Machine
end

section
namespace Sys2Proof.Machine

/-! ### The warm reset (R432, R454, R456, R458 to R460, R466, R468, R469) -/

theorem exec_dctlWarmReset (s : State) (d : BitVec 2) : exec (.dctlWarmReset d) s = .next (s.beginReset d.toNat false) := rfl

theorem exec_dctlGate (s : State) (d : BitVec 2) : exec (.dctlGate d) s = .next (s.beginReset d.toNat true) := rfl

theorem exec_dctlWake (s : State) (d : BitVec 2) : exec (.dctlWake d) s = .next (s.wakeDie d.toNat) := rfl

section Reset

variable {s : State} {d : Nat}

/-- A running die begins with the save step, its cores asked to save their groups at once (R459). -/
theorem State.beginReset_of_running (hon : s.boot = .on) (hd : d < 4) (hmode : (s.die d).mode = .running) (gate : Bool) :
    s.beginReset d gate = (((s.setDie d { s.die d with
      mode := .warm, step := .save, abrupt := false, gate := gate, since := (s.die d).clk }).exchange 4 d).request
        (coresOf [d]) none true).logEvent 9 d 0xFFFF 0 := by
  refine if_neg ?_
  rintro (h | h | h)
  · exact h hon
  · omega
  · exact h hmode

theorem State.wakeDie_of_gated (hon : s.boot = .on) (hmode : (s.die d).mode = .gated) :
    s.wakeDie d = (s.exchange 4 d).setDie d { s.die d with
      mode := .waking, step := .cleaned, since := (s.die d).clk, wakeRank := 8 * s.hub + d + 1 } :=
  if_pos ⟨hon, hmode⟩

/-- The die of a running device is fenced and loses its groups, and its reset begins with the quiescing (R432, R459). -/
theorem State.abruptReset_of_running (hon : s.boot = .on) (hd : d < 4) (hmode : (s.die d).mode = .running)
    (hfree : s.fenced.has d = false) :
    s.abruptReset d = ((((s.fenceDie d).loseDie d).setDie d { s.die d with
      mode := .warm, step := .quiesce, abrupt := true, since := (s.die d).clk }).logEvent 9 d 0xFFFF 1) := by
  have hdevice : ¬ (s.boot ≠ .on ∨ 4 ≤ d) := by
    rintro (h | h)
    · exact h hon
    · omega
  simp [State.abruptReset, hdevice, hmode, hfree]

theorem State.retrain_of_cleaned (hstep : (s.die d).step = .cleaned) :
    s.retrain d = ((List.range 5).foldl (fun (t : State) b => if b = d then t
        else t.setLink d b { LinkSt.initial with last := t.dieClk (min d b) })
      (if (s.die d).abrupt then (s.resetCores d).resetMemory d else s.resetCores d)).setDie d
        { s.die d with step := .retrained, since := (s.die d).clk } :=
  if_neg (not_not_intro hstep)

theorem State.readmit_of_retrained (hstep : (s.die d).step = .retrained) :
    s.readmit d = ((({ s.setDie d { s.die d with
          mode := .running, step := .none, abrupt := false, gate := false, since := (s.die d).clk
          dead := false, lastHub := s.hub, unanswered := [], hostBits := (s.die d).abrupt || (s.die d).hostBits } with
        fenced := s.fenced.remove d
        cores := s.cores.map fun (p : Nat × Core) => (p.1, { p.2 with fenceSeen := p.2.fenceSeen.remove d })
        release := s.release.put (if (s.die d).mode = .waking then (s.die d).wakeRank else 8 * s.hub + d + 1)
          ((List.range 32).map (· + 32 * d))
        msix := s.msix ++ [0] } : State).tellOthers d).admitDie d).logEvent 10 d 0xFFFF 0 :=
  if_neg (not_not_intro hstep)

section Warm

variable (hwarm : (s.die d).mode = .warm)
include hwarm

theorem State.quiesce_of_empty (hstep : (s.die d).step = .save) (hempty : s.dieHoldsGroups d = false) :
    s.quiesce d = (s.fenceDie d).setDie d { s.die d with step := .quiesce, since := (s.die d).clk } :=
  if_pos ⟨hwarm, hstep, ne_true_of_eq_false hempty⟩

section Quiescing

variable (hstep : (s.die d).step = .quiesce)
include hstep

theorem State.cleanup_of_quiescing : s.cleanup d =
    if s.quiesced d then
      let t := if (s.die d).abrupt then s else s.recallHostAll d
      t.setDie d { t.die d with step := .cleanup, since := (s.die d).clk }
    else s :=
  (if_neg (not_not_intro hwarm)).trans (if_pos hstep)

theorem State.cleanup_of_busy (h : s.quiesced d = false) : s.cleanup d = s := by
  rw [State.cleanup_of_quiescing hwarm hstep, h]
  rfl

/-- An abrupt reset recalls nothing (R456). -/
theorem State.cleanup_of_quiesced_abrupt (h : s.quiesced d = true) (habrupt : (s.die d).abrupt = true) :
    s.cleanup d = s.setDie d { s.die d with step := .cleanup, since := (s.die d).clk } := by
  rw [State.cleanup_of_quiescing hwarm hstep, h, habrupt]
  rfl

theorem State.cleanup_of_quiesced_planned (h : s.quiesced d = true) (hplanned : (s.die d).abrupt = false) :
    s.cleanup d = (s.recallHostAll d).setDie d { (s.recallHostAll d).die d with step := .cleanup, since := (s.die d).clk } := by
  rw [State.cleanup_of_quiescing hwarm hstep, h, hplanned]
  rfl

end Quiescing

section Cleaning

variable (hstep : (s.die d).step = .cleanup)
include hstep

theorem State.cleanup_of_cleaning : s.cleanup d =
    if !(s.die d).abrupt && !s.quiesced d then s
    else if (s.die d).gate && !(s.die d).abrupt then
      ((s.cleanDie d (s.die d).abrupt).resetCores d).setDie d { s.die d with mode := .gated, step := .none }
    else (s.cleanDie d (s.die d).abrupt).setDie d { s.die d with step := .cleaned, since := (s.die d).clk } := by
  have hnot : (s.die d).step ≠ .quiesce := by rw [hstep]; decide
  exact (if_neg (not_not_intro hwarm)).trans ((if_neg hnot).trans (if_pos hstep))

theorem State.cleanup_of_abrupt (habrupt : (s.die d).abrupt = true) :
    s.cleanup d = (s.cleanDie d true).setDie d { s.die d with step := .cleaned, since := (s.die d).clk } := by
  simp [State.cleanup_of_cleaning hwarm hstep, habrupt]

/-- A planned reset waits for the host's copies (R459). -/
theorem State.cleanup_of_recalling (hplanned : (s.die d).abrupt = false) (h : s.quiesced d = false) : s.cleanup d = s := by
  simp [State.cleanup_of_cleaning hwarm hstep, hplanned, h]

section Planned

variable (hplanned : (s.die d).abrupt = false) (h : s.quiesced d = true)
include hplanned h

theorem State.cleanup_of_planned (hgate : (s.die d).gate = false) :
    s.cleanup d = (s.cleanDie d false).setDie d { s.die d with step := .cleaned, since := (s.die d).clk } := by
  simp [State.cleanup_of_cleaning hwarm hstep, hplanned, h, hgate]

theorem State.cleanup_of_gating (hgate : (s.die d).gate = true) :
    s.cleanup d = ((s.cleanDie d false).resetCores d).setDie d { s.die d with mode := .gated, step := .none } := by
  simp [State.cleanup_of_cleaning hwarm hstep, hplanned, h, hgate]

end Planned

end Cleaning

end Warm

end Reset

theorem exec_plannedResetTimeout_of_late {s : State} {d : BitVec 2} (hwarm : (s.die d.toNat).mode = .warm)
    (hstep : (s.die d.toNat).step = .cleanup) (hplanned : (s.die d.toNat).abrupt = false)
    (hlate : 6000000 ≤ (s.die d.toNat).clk - (s.die d.toNat).since) :
    exec (.plannedResetTimeout d) s = .next (s.setDie d.toNat { s.die d.toNat with abrupt := true }) :=
  if_pos ⟨hwarm, hstep, ne_true_of_eq_false hplanned, hlate⟩

/-- Settles O44, in the order of the steps: the beginning of a planned reset, its steps while the die is in its warm reset, the
wake, the beginning of an abrupt reset, the retraining and the readmission. -/
theorem warmResetEvents : Obligations.WarmResetEvents := by
  intro s d D x
  have hd : D < 4 := d.isLt
  have hnext {t u : State} (h : t = u) : (.next t : Host.Outcome State Fault Refusal) = .next u := congrArg _ h
  refine ⟨fun hon hmode => ?begin, fun hwarm => ⟨?save, ?recollect, ?busy, fun hstep => ⟨?abrupt, ?recalling, ?clean, ?gate, ?timeout⟩⟩,
    ?wake, ?lose, ?retrain, ?readmit⟩
  case begin => exact ⟨hnext (State.beginReset_of_running hon hd hmode false), hnext (State.beginReset_of_running hon hd hmode true)⟩
  case save => exact fun hstep hempty => hnext (State.quiesce_of_empty hwarm hstep hempty)
  case recollect =>
    exact fun hstep hquiet => ⟨fun habrupt => hnext (State.cleanup_of_quiesced_abrupt hwarm hstep hquiet habrupt),
      fun hplanned => hnext (State.cleanup_of_quiesced_planned hwarm hstep hquiet hplanned)⟩
  case busy => exact fun hstep hbusy => hnext (State.cleanup_of_busy hwarm hstep hbusy)
  case abrupt => exact fun habrupt => hnext (State.cleanup_of_abrupt hwarm hstep habrupt)
  case recalling => exact fun hplanned hbusy => hnext (State.cleanup_of_recalling hwarm hstep hplanned hbusy)
  case clean => exact fun hgate hplanned hquiet => hnext (State.cleanup_of_planned hwarm hstep hplanned hquiet hgate)
  case gate => exact fun hgate hplanned hquiet => hnext (State.cleanup_of_gating hwarm hstep hplanned hquiet hgate)
  case timeout => exact exec_plannedResetTimeout_of_late hwarm hstep
  case wake => exact fun hon hmode => hnext (State.wakeDie_of_gated hon hmode)
  case lose => exact fun hon hmode hfree => hnext (State.abruptReset_of_running hon hd hmode hfree)
  case retrain => exact fun hstep => hnext (State.retrain_of_cleaned hstep)
  case readmit => exact fun hstep => hnext (State.readmit_of_retrained hstep)

end Sys2Proof.Machine
end

section
namespace Sys2Proof.Machine

/-! ### Requests of the caching agents (R442 to R444, R446, R447, R457, R459) -/

/-- A request takes its place behind those that arrived before it, and before those that did not (R442). -/
theorem enqueue_append {q : Waiting} {before : List Waiting} (hb : ∀ p ∈ before, p.at_ < q.at_ ∨ p.at_ = q.at_ ∧ p.a ≤ q.a)
    {after : List Waiting} (ha : ∀ p ∈ after.head?, ¬ (p.at_ < q.at_ ∨ p.at_ = q.at_ ∧ p.a ≤ q.a)) :
    enqueue q (before ++ after) = before ++ q :: after := by
  induction before with
  | nil =>
    cases after with
    | nil => rfl
    | cons p after => exact if_neg (ha p rfl)
  | cons p before ih =>
    exact (if_pos (hb p List.mem_cons_self)).trans (congrArg _ (ih fun x hx => hb x (List.mem_cons_of_mem _ hx)))

/-- An atomic, a block request and a flush leave a stable state as it is (R447). -/
theorem AgentSt.asks_of_stable {x : AgentSt} (hx : x ∈ [AgentSt.i, .s, .e, .m, .o]) :
    (∀ ret, x.asks (.atom ret) = some x) ∧ x.asks .blk = some x ∧ x.asks .flush = some x := by
  simp only [List.mem_cons, List.not_mem_nil, or_false] at hx
  rcases hx with rfl | rfl | rfl | rfl | rfl <;> exact ⟨fun _ => rfl, rfl, rfl⟩

theorem AgentSt.not_reading_of_stable {x : AgentSt} (hx : x ∈ [AgentSt.i, .s, .e, .m, .o]) : ¬ (x = .is ∨ x = .ix) := by
  rintro (rfl | rfl) <;> exact absurd hx (by decide)

/-- The transaction that a home begins for a request with its snoops (R442). -/
def Txn.begun (a : Nat) (r : Req) (sn : List (Nat × Msg)) : Txn :=
  { a := a, req := r, phase := .hs, awaiting := (sn.map (·.1)).foldl NSet.add [], wbWait := [], wbGot := []
    bi := [], kept := false, dirty := false }

section Requests

variable {s : State} {line a : Nat} {r : Req} (ha : a < 4)
include ha

section Sends

variable (hhome : s.fenced.has (homeOf line) = false) (hdie : s.fenced.has a = false) (hnew : s.asked line a r = false)
  {new : AgentSt} (hasks : ((s.line line).agent a).asks r = some new)
include hhome hdie hnew hasks

/-- An agent that reads has dropped its clean copy before (R443). -/
theorem State.ask_of_new : s.ask line a r =
    ((if new = .is ∨ new = .ix then s.l1Drop a line else s).setAgent line a new).send a (homeOf line) line (.req r) := by
  have hagent : ¬ 4 < a := by omega
  simp only [State.ask, hagent, hnew, hdie, hhome, hasks, Bool.false_eq_true, or_self, if_false]

end Sends

theorem State.ask_of_fenced_home (hnew : s.asked line a r = false) (hfenced : s.fenced.has (homeOf line) = true) :
    s.ask line a r = s := by
  have hagent : ¬ 4 < a := by omega
  simp only [State.ask, hagent, hnew, hfenced, Bool.false_eq_true, or_true, if_false, if_true]

section Asked

variable (hasked : s.asked line a r = true)
include hasked

/-- A fenced home takes no request, and one that has not arrived cannot be taken (R459). -/
theorem State.ask_of_untaken (h : s.fenced.has (homeOf line) = true ∨ s.deliver a (homeOf line) line (.req r) = none) :
    s.ask line a r = s.serve line a r := by
  have hagent : ¬ 4 < a := by omega
  have hnone : (if s.fenced.has (homeOf line) then none else s.deliver a (homeOf line) line (.req r)) = none := by
    rcases h with h | h <;> simp [h]
  simp only [State.ask, hagent, hasked, hnone, if_false, if_true]

theorem State.ask_of_arrival (hopen : s.fenced.has (homeOf line) = false) {s1 : State}
    (h : s.deliver a (homeOf line) line (.req r) = some s1) :
    s.ask line a r = s1.setLine line { s1.line line with
      queue := enqueue { a := a, req := r, at_ := s1.homeClk line } (s1.line line).queue } := by
  have hagent : ¬ 4 < a := by omega
  simp only [State.ask, hagent, hasked, hopen, h, Bool.false_eq_true, if_false, if_true]

end Asked

section First

variable (htxn : (s.line line).txn = none) {q : Waiting} {rest : List Waiting} (hqueue : (s.line line).queue = q :: rest)
  (hqa : q.a = a) (hqr : q.req = r) (hqat : q.at_ < s.homeClk line)
include htxn hqueue hqa hqr hqat

/-- The entry of a line whose first request is begun. -/
theorem State.serve_of_first : s.serve line a r =
    let sn := snoops (s.line line) a r
    let s1 := s.touchL2 line
    let e1 : LineSt := { s.line line with queue := rest, resv := (s1.line line).resv }
    if sn.isEmpty then (s1.setLine line e1).finishTxn line (Txn.begun a r sn) true
    else sn.foldl (fun b p => b.send (homeOf line) p.1 line p.2) (s1.setLine line { e1 with txn := some (Txn.begun a r sn) }) := by
  have hdie : (a != 4) = true := bne_iff_ne.mpr (by omega)
  simp only [State.serve, htxn, hqueue, hqa, hqr, hqat, and_self, if_true, hdie, Bool.and_true, Txn.begun]

theorem State.serve_of_alone (hsn : snoops (s.line line) a r = []) : s.serve line a r =
    ((s.touchL2 line).setLine line { s.line line with queue := rest, resv := ((s.touchL2 line).line line).resv }).finishTxn
      line (Txn.begun a r []) true := by
  rw [State.serve_of_first ha htxn hqueue hqa hqr hqat, hsn]
  rfl

theorem State.serve_of_snoops {sn : List (Nat × Msg)} (hsn : snoops (s.line line) a r = sn) (hne : sn ≠ []) :
    s.serve line a r = sn.foldl (fun b p => b.send (homeOf line) p.1 line p.2) ((s.touchL2 line).setLine line
      { s.line line with queue := rest, resv := ((s.touchL2 line).line line).resv, txn := some (Txn.begun a r sn) }) := by
  rw [State.serve_of_first ha htxn hqueue hqa hqr hqat, hsn]
  exact if_neg (mt List.isEmpty_iff.mp hne)

end First

omit ha

theorem State.serve_of_not_first
    (h : ∀ q ∈ (s.line line).queue.head?, q.a ≠ a ∨ q.req ≠ r ∨ s.homeClk line ≤ q.at_) : s.serve line a r = s := by
  unfold State.serve
  dsimp only
  split
  · rename_i q rest htxn hqueue
    refine if_neg ?_
    rintro ⟨hqa, hqr, hqat⟩
    rcases h q (by simp [hqueue]) with h | h | h
    · exact h hqa
    · exact h hqr
    · omega
  · rfl

end Requests

section Replies

variable {t : State} {k : Nat} {x : Txn} (hblk : x.req = .blk) (m : Msg)
include hblk

/-- The one reply of a Blk comes after the last line of its block (R312, R439). -/
theorem State.replies_of_last (hk : k % 4 = 3) : t.replies k x m = t.send (homeOf k) x.a (k / 4 * 4) m := by
  simp only [State.replies, hblk, hk, if_true]

theorem State.replies_of_next (hk : k % 4 ≠ 3) (hqueue : (t.line (k + 1)).queue = []) :
    t.replies k x m = t.setLine (k + 1) { t.line (k + 1) with queue := [{ a := x.a, req := .blk, at_ := t.homeClk k }] } := by
  simp only [State.replies, hblk, hk, if_true, if_false, hqueue, enqueue]

end Replies

/-- Settles O39: every request is an `ask`, which sends, takes or serves; a Blk asks about the line at which it stands. -/
theorem coherenceRequests : Obligations.CoherenceRequests := by
  intro s line a A sends rereads taken L lines stands B
  have hA : A < 4 := a.isLt
  have hsends {K : Nat} {i : Instr} {r : Req} {old new : AgentSt} (hexec : exec i s = .next (s.ask K A r))
      (hasks : old.asks r = some new) (hnew : ¬ (new = .is ∨ new = .ix)) : sends K i r old new := by
    intro hhome hdie hno hold
    rw [hexec, State.ask_of_new hA hhome hdie hno (hold ▸ hasks), if_neg hnew]
  have hrereads {K : Nat} {i : Instr} {r : Req} {old new : AgentSt} (hexec : exec i s = .next (s.ask K A r))
      (hasks : old.asks r = some new) (hnew : new = .is ∨ new = .ix) : rereads K i r old new := by
    intro hhome hdie hno hold
    rw [hexec, State.ask_of_new hA hhome hdie hno (hold ▸ hasks), if_pos hnew]
  have htaken {K : Nat} {i : Instr} {r : Req} (hexec : exec i s = .next (s.ask K A r)) : taken K i r := by
    refine ⟨fun hno hfenced => ?_, fun hasked => ⟨fun huntaken => ?_, fun hopen s1 before after hs1 hqueue hbefore hafter => ?_⟩⟩
    · rw [hexec, State.ask_of_fenced_home hA hno hfenced]
    · rw [hexec, State.ask_of_untaken hA hasked huntaken]
      refine ⟨fun q rest sn htxn hqueue hqa hqr hqat hsn => ⟨fun hempty => ?_, fun hne => ?_⟩, fun hfirst => ?_⟩
      · rw [hempty, State.serve_of_alone hA htxn hqueue hqa hqr hqat (hsn.symm.trans hempty)]
        rfl
      · rw [State.serve_of_snoops hA htxn hqueue hqa hqr hqat hsn.symm hne]
        rfl
      · rw [State.serve_of_not_first hfirst]
    · rw [hexec, State.ask_of_arrival hA hasked hopen hs1, hqueue]
      have hplace := enqueue_append (q := { a := A, req := r, at_ := s1.homeClk K }) hbefore hafter
      rw [hplace]
      rfl
  have hrds : exec (.rds line a) s = .next (s.ask L A .rdS) := rfl
  have hrdx : exec (.rdx line a) s = .next (s.ask L A .rdX) := rfl
  have hupg : exec (.upg line a) s = .next (s.ask L A .upg) := rfl
  have hatom (ret : Bool) : exec (.atomRequest line a ret) s = .next (s.ask L A (.atom ret)) := rfl
  have hblk : exec (.blk line a) s = .next (s.ask B A .blk) := rfl
  have hflush : exec (.flush line a) s = .next (s.ask L A .flush) := rfl
  refine ⟨⟨hrereads hrds rfl (.inl rfl), hrereads hrds rfl (.inl rfl), hrereads hrds rfl (.inl rfl),
      hrereads hrdx rfl (.inr rfl), hrereads hrdx rfl (.inr rfl), hrereads hrdx rfl (.inr rfl),
      hsends hupg rfl (by decide), hsends hupg rfl (by decide), fun x hx => ?_⟩,
    ⟨htaken hrds, htaken hrdx, htaken hupg, fun ret => htaken (hatom ret), htaken hblk, htaken hflush⟩,
    fun t k x m hreq => ⟨State.replies_of_last hreq m, State.replies_of_next hreq m⟩⟩
  obtain ⟨hxa, hxb, hxf⟩ := AgentSt.asks_of_stable hx
  have hx' := AgentSt.not_reading_of_stable hx
  exact ⟨fun ret => hsends (hatom ret) (hxa ret) hx', hsends hblk hxb hx', hsends hflush hxf hx'⟩

end Sys2Proof.Machine
end

section
namespace Sys2Proof.Machine

/-! ### Snoops (R443, R444, R454, Table PF-7) -/

section Snoops

variable {s s1 : State} {line b : Nat} {m : Msg} (hdel : s.deliver (homeOf line) b line m = some s1)
include hdel

/-- The hub sends the back-invalidates of both sectors for the host (R454). -/
theorem State.snoop_of_host (hb : b = 4) :
    s.snoop line b m = s1.setLine line { s1.line line with
      txn := (s1.line line).txn.map fun t => { t with bi := [2 * line, 2 * line + 1], kept := false } } := by
  subst hb
  simp only [State.snoop, hdel, if_true]

section Die

variable (hb : b ≠ 4) {x : AgentSt} (hx : (s1.line line).agent b = x)
include hb hx

/-- An agent without a clean copy has one answer (Table PF-7). -/
theorem State.snoop_of_unclean (hs : x ≠ .s) (he : x ≠ .e) {r : Msg} {new : AgentSt} (hy : x.snooped m false = (r, new)) :
    s.snoop line b m =
      ((if r = .rspI ∨ m = .snpI then s1.l1Drop b line else s1.l1Share b line).setAgent line b new).send b (homeOf line) line r := by
  have hclean : (x == .s || x == .e) = false := by simp [hs, he]
  have hnone : ((0 : Nat) == 1) = false := rfl
  simp only [State.snoop, hdel, hb, hx, hclean, hnone, hy, Bool.false_eq_true, if_false]

section Clean

variable (hclean : x = .s ∨ x = .e)
include hclean

theorem State.snoop_of_clean {r : Msg} {new : AgentSt} (hy : x.snooped m (s1.choose.1 == 1) = (r, new)) :
    s.snoop line b m =
      ((if r = .rspI ∨ m = .snpI then s1.choose.2.l1Drop b line else s1.choose.2.l1Share b line).setAgent line b new).send b
        (homeOf line) line r := by
  have hheld : (x == .s || x == .e) = true := by simpa using hclean
  simp only [State.snoop, hdel, hb, hx, hheld, hy, if_false, if_true]

/-- The choice 1 says that the clean copy has been dropped before (R443). -/
theorem State.snoop_of_dropped (hdrop : s1.choose.1 = 1) :
    s.snoop line b m = ((s1.choose.2.l1Drop b line).setAgent line b .i).send b (homeOf line) line .rspI := by
  have hy : x.snooped m (s1.choose.1 == 1) = (.rspI, .i) := by
    rcases hclean with rfl | rfl <;> rw [hdrop] <;> rfl
  rw [State.snoop_of_clean hdel hb hx hclean hy, if_pos (.inl rfl)]

theorem State.snoop_of_kept (hkept : s1.choose.1 ≠ 1) {r : Msg} {new : AgentSt} (hy : x.snooped m false = (r, new)) :
    s.snoop line b m =
      ((if r = .rspI ∨ m = .snpI then s1.choose.2.l1Drop b line else s1.choose.2.l1Share b line).setAgent line b new).send b
        (homeOf line) line r :=
  State.snoop_of_clean hdel hb hx hclean ((congrArg _ (beq_eq_false_iff_ne.mpr hkept)).trans hy)

end Clean

end Die

end Snoops

/-- Settles O40: the host's agent by its back-invalidates, and a die's by the row of Table PF-7 for its state, with the choice where
its copy is clean. The L1 data caches lose the line where the answer is RspI or the snoop SnpI. -/
theorem snoopEvents : Obligations.SnoopEvents := by
  intro s s1 line b L B h x turns chosen
  have hturns {i : Instr} {m r : Msg} {old new : AgentSt} (hexec : exec i s = .next (s.snoop L B m)) (hb : B ≠ 4)
      (hdel : s.deliver h B L m = some s1) (hx : x = old) (hunclean : old ≠ .s ∧ old ≠ .e) (hans : old.snooped m false = (r, new))
      (hl1 : (r = .rspI ∨ m = .snpI) ↔ (r = .rspI ∨ new = .i)) : turns i r new := by
    have hsnoop := State.snoop_of_unclean hdel hb hx hunclean.1 hunclean.2 hans
    simp only [hl1] at hsnoop
    exact hexec.trans (congrArg Host.Outcome.next hsnoop)
  have hchosen {i : Instr} {m r : Msg} {new : AgentSt} (hexec : exec i s = .next (s.snoop L B m)) (hb : B ≠ 4)
      (hdel : s.deliver h B L m = some s1) (hx : x = .s ∨ x = .e)
      (hans : AgentSt.s.snooped m false = (r, new) ∧ AgentSt.e.snooped m false = (r, new))
      (hl1 : (r = .rspI ∨ m = .snpI) ↔ r = .rspI) : chosen i r new := by
    have hkept : x.snooped m false = (r, new) := by
      rcases hx with hx | hx <;> rw [hx]
      · exact hans.1
      · exact hans.2
    refine hexec.trans (congrArg Host.Outcome.next ?_)
    by_cases hdrop : s1.choose.1 = 1
    · exact (State.snoop_of_dropped hdel hb rfl hx hdrop).trans (if_pos hdrop).symm
    · have hsnoop := State.snoop_of_kept hdel hb rfl hx hdrop hkept
      simp only [hl1] at hsnoop
      exact hsnoop.trans (if_neg hdrop).symm
  have hreading {i : Instr} {m : Msg} (hexec : exec i s = .next (s.snoop L B m)) (hb : B ≠ 4)
      (hdel : s.deliver h B L m = some s1) (hx : x = .is ∨ x = .ix) : turns i .rspI x := by
    rcases hx with hx | hx <;> rw [hx] <;> exact hturns hexec hb hdel hx (by decide) rfl (by simp)
  have hsnps : exec (.snps line b) s = .next (s.snoop L B .snpS) := rfl
  have hsnpc : exec (.snpc line b) s = .next (s.snoop L B .snpC) := rfl
  have hsnpi : exec (.snpi line b) s = .next (s.snoop L B .snpI) := rfl
  refine ⟨fun hb hdel => ⟨?_, ?_, ?_, ?_, ?_, ?_⟩, fun hb hdel => ⟨?_, ?_, ?_, ?_, ?_, ?_⟩,
    fun hb hdel => ⟨?_, ?_, ?_, ?_, ?_, ?_⟩, fun hb => ⟨fun hdel => ?_, fun hdel => ?_, fun hdel => ?_⟩⟩
  · exact fun hx => hturns hsnps hb hdel hx (by decide) rfl (by decide)
  · exact fun hx => hchosen hsnps hb hdel hx ⟨rfl, rfl⟩ (by decide)
  · rintro (hx | hx) <;> exact hturns hsnps hb hdel hx (by decide) rfl (by decide)
  · exact fun hx => hturns hsnps hb hdel hx (by decide) rfl (by decide)
  · exact fun hx => hreading hsnps hb hdel hx
  · exact fun hx => hturns hsnps hb hdel hx (by decide) rfl (by decide)
  · exact fun hx => hturns hsnpc hb hdel hx (by decide) rfl (by decide)
  · exact fun hx => hchosen hsnpc hb hdel hx ⟨rfl, rfl⟩ (by decide)
  · rintro (hx | hx) <;> exact hturns hsnpc hb hdel hx (by decide) rfl (by decide)
  · exact fun hx => hturns hsnpc hb hdel hx (by decide) rfl (by decide)
  · exact fun hx => hreading hsnpc hb hdel hx
  · exact fun hx => hturns hsnpc hb hdel hx (by decide) rfl (by decide)
  · exact fun hx => hturns hsnpi hb hdel hx (by decide) rfl (by decide)
  · exact fun hx => hchosen hsnpi hb hdel hx ⟨rfl, rfl⟩ (by decide)
  · rintro (hx | hx) <;> exact hturns hsnpi hb hdel hx (by decide) rfl (by decide)
  · intro hx
    have hsnoop := State.snoop_of_unclean hdel hb hx (by decide) (by decide) rfl
    rw [if_pos (.inr rfl)] at hsnoop
    exact hsnpi.trans (congrArg Host.Outcome.next hsnoop)
  · exact fun hx => hreading hsnpi hb hdel hx
  · exact fun hx => hturns hsnpi hb hdel hx (by decide) rfl (by decide)
  · exact hsnps.trans (congrArg Host.Outcome.next (State.snoop_of_host hdel hb))
  · exact hsnpc.trans (congrArg Host.Outcome.next (State.snoop_of_host hdel hb))
  · exact hsnpi.trans (congrArg Host.Outcome.next (State.snoop_of_host hdel hb))

end Sys2Proof.Machine
end

section
namespace Sys2Proof.Machine

/-! ### Answers and write-backs at the home (R442, R443, R445) -/

section Answers

variable {s : State} {line a : Nat} {t : Txn} (htxn : (s.line line).txn = some t) (hwait : t.awaiting.has a = true)
include htxn hwait

theorem State.answered_rspI : s.answered line a .rspI =
    (s.setLine line { (s.line line).clear a with txn := some { t with awaiting := t.awaiting.remove a } }).advanceTxn line := by
  simp only [State.answered, htxn, hwait, Bool.not_true, Bool.false_eq_true, if_false]

theorem State.answered_rspS : s.answered line a .rspS =
    (s.setLine line { s.line line with txn := some { t with awaiting := t.awaiting.remove a } }).advanceTxn line := by
  simp only [State.answered, htxn, hwait, Bool.not_true, Bool.false_eq_true, if_false]

/-- An owner that supplies dirty data keeps its bit unless it was invalidated (R443). -/
theorem State.answered_snpD : s.answered line a .snpD =
    (s.setLine line { (if snoopKind t.req (s.line line).recallBit a = .snpI then (s.line line).clear a else s.line line) with
      txn := some { t with awaiting := t.awaiting.remove a, dirty := true } }).advanceTxn line := by
  simp only [State.answered, htxn, hwait, Bool.not_true, Bool.false_eq_true, if_false]

theorem State.answered_rspWbP_of_pending (hgot : t.wbGot.has a = false) : s.answered line a .rspWbP =
    s.setLine line { s.line line with
      txn := some { t with awaiting := t.awaiting.remove a, wbWait := t.wbWait.add a, phase := .hd } } := by
  simp only [State.answered, htxn, hwait, hgot, Bool.not_true, Bool.false_eq_true, if_false]

theorem State.answered_rspWbP_of_come (hgot : t.wbGot.has a = true) : s.answered line a .rspWbP =
    ((s.setLine line { (s.line line).clear a with
      txn := some { t with awaiting := t.awaiting.remove a, wbGot := t.wbGot.remove a } }).send (homeOf line) a line
        .wbAck).advanceTxn line := by
  simp only [State.answered, htxn, hwait, hgot, Bool.not_true, Bool.false_eq_true, if_false, if_true]

end Answers

theorem State.takeAnswer_of_deliver {s s1 : State} {line a : Nat} {m : Msg} (h : s.deliver a (homeOf line) line m = some s1) :
    s.takeAnswer line a m = s1.answered line a m := by
  simp only [State.takeAnswer, h]

/-- The Ack of the agent that the answered transaction waits for ends it (R442). -/
theorem State.takeAck_of_answered {s s1 : State} {line a : Nat} {t : Txn} (h : s.deliver a (homeOf line) line .ack = some s1)
    (htxn : (s1.line line).txn = some t) (hphase : t.phase = .ha) (ha : t.a = a) :
    s.takeAck line a = s1.setLine line { s1.line line with txn := none } := by
  simp [State.takeAck, h, htxn, hphase, ha]

section WriteBack

variable {s s1 : State} {line a : Nat}

theorem State.wbD_of_deliver (h : s.deliver a (homeOf line) line .wbD = some s1) : s.wbD line a = s1.writeBack line a := by
  simp only [State.wbD, h]

theorem State.wbD_of_owner (h : s.deliver a (homeOf line) line .wbD = none)
    (hdirty : (s.line line).agent a = .m ∨ (s.line line).agent a = .o) (hdie : s.fenced.has a = false) :
    s.wbD line a = ((s.l1Drop a line).setAgent line a .xw).send a (homeOf line) line .wbD := by
  have hsends : (((s.line line).agent a == .m || (s.line line).agent a == .o) && !s.fenced.has a) = true := by
    simpa [hdie] using hdirty
  simp only [State.wbD, h, hsends, if_true]

/-- What the home does with a write-back that no transaction waits for: an owner's goes to memory (R445). -/
def State.takeWriteBack (s : State) (line a : Nat) : State :=
  if ((s.line line).dir == .x || (s.line line).dir == .o) && (s.line line).owner == a then
    ((s.mergeLine line).setLine line ((s.line line).clear a)).send (homeOf line) a line .wbAck
  else s.send (homeOf line) a line .wbAck

theorem State.takeWriteBack_of_owner (hdir : (s.line line).dir = .x ∨ (s.line line).dir = .o)
    (howner : (s.line line).owner = a) :
    s.takeWriteBack line a = ((s.mergeLine line).setLine line ((s.line line).clear a)).send (homeOf line) a line .wbAck :=
  if_pos (by simpa [howner] using hdir)

theorem State.takeWriteBack_of_other (howner : (s.line line).owner ≠ a) :
    s.takeWriteBack line a = s.send (homeOf line) a line .wbAck :=
  if_neg (by simp [howner])

theorem State.writeBack_of_idle (htxn : (s.line line).txn = none) : s.writeBack line a = s.takeWriteBack line a := by
  simp only [State.writeBack, htxn, State.takeWriteBack]

section Busy

variable {t : Txn} (htxn : (s.line line).txn = some t)
include htxn

theorem State.writeBack_of_awaited (h : t.wbWait.has a = true) : s.writeBack line a =
    (((s.mergeLine line).setLine line { (s.line line).clear a with
      txn := some { t with wbWait := t.wbWait.remove a } }).send (homeOf line) a line .wbAck).advanceTxn line := by
  simp only [State.writeBack, htxn, h, if_true]

/-- A write-back that comes before the agent's RspWbP is acknowledged with it (R445). -/
theorem State.writeBack_of_early (hwait : t.wbWait.has a = false) (h : t.awaiting.has a = true) : s.writeBack line a =
    (s.mergeLine line).setLine line { s.line line with txn := some { t with wbGot := t.wbGot.add a } } := by
  simp only [State.writeBack, htxn, hwait, h, Bool.false_eq_true, if_false, if_true]

theorem State.writeBack_of_unasked (hwait : t.wbWait.has a = false) (h : t.awaiting.has a = false) :
    s.writeBack line a = s.takeWriteBack line a := by
  simp only [State.writeBack, htxn, hwait, h, Bool.false_eq_true, if_false, State.takeWriteBack]

end Busy

end WriteBack

/-- Settles O41: an answer by its kind, the Ack, and a write-back by whether it is sent or taken and what the line's transaction
waits for. -/
theorem homeAnswers : Obligations.HomeAnswers := by
  intro s s1 line a t L A h e t1
  have hrspi : exec (.rspi line a) s = .next (s.takeAnswer L A .rspI) := rfl
  have hrsps : exec (.rsps line a) s = .next (s.takeAnswer L A .rspS) := rfl
  have hsnpd : exec (.snpd line a) s = .next (s.takeAnswer L A .snpD) := rfl
  have hrspwbp : exec (.rspwbp line a) s = .next (s.takeAnswer L A .rspWbP) := rfl
  have hwb (hdel : s.deliver A h L .wbD = some s1) {u : State} (hu : s1.writeBack L A = u) : exec (.wbd line a) s = .next u := by
    have hexec : exec (.wbd line a) s = .next (s.wbD L A) := rfl
    rw [hexec, State.wbD_of_deliver hdel, hu]
  refine ⟨fun htxn hwait => ⟨?rspI, ?rspS, ?kept, ?cleared, ?pending, ?come⟩, fun b hdel htxn hphase ha => ?ack,
    fun hdel hdirty hdie => ?sent, fun hdel htxn => ?idle, fun hdel htxn => ?busy⟩
  case rspI =>
    intro hdel
    rw [hrspi, State.takeAnswer_of_deliver hdel, State.answered_rspI htxn hwait]
  case rspS =>
    intro hdel
    rw [hrsps, State.takeAnswer_of_deliver hdel, State.answered_rspS htxn hwait]
  case kept =>
    intro hdel hkind
    rw [hsnpd, State.takeAnswer_of_deliver hdel, State.answered_snpD htxn hwait, if_neg hkind]
  case cleared =>
    intro hdel hkind
    rw [hsnpd, State.takeAnswer_of_deliver hdel, State.answered_snpD htxn hwait, if_pos hkind]
  case pending =>
    intro hdel hgot
    rw [hrspwbp, State.takeAnswer_of_deliver hdel, State.answered_rspWbP_of_pending htxn hwait hgot]
  case come =>
    intro hdel hgot
    rw [hrspwbp, State.takeAnswer_of_deliver hdel, State.answered_rspWbP_of_come htxn hwait hgot]
  case ack => exact congrArg Host.Outcome.next (State.takeAck_of_answered hdel htxn hphase ha)
  case sent => exact congrArg Host.Outcome.next (State.wbD_of_owner hdel hdirty hdie)
  case idle =>
    have htake := State.writeBack_of_idle (a := A) htxn
    exact ⟨fun hdir howner => hwb hdel (htake.trans (State.takeWriteBack_of_owner hdir howner)),
      fun howner => hwb hdel (htake.trans (State.takeWriteBack_of_other howner))⟩
  case busy =>
    refine ⟨fun hwait => hwb hdel (State.writeBack_of_awaited htxn hwait),
      fun hwait hearly => hwb hdel (State.writeBack_of_early htxn hwait hearly), fun hwait hno => ?_⟩
    have htake := State.writeBack_of_unasked htxn hwait hno
    exact ⟨fun hdir howner => hwb hdel (htake.trans (State.takeWriteBack_of_owner hdir howner)),
      fun howner => hwb hdel (htake.trans (State.takeWriteBack_of_other howner))⟩

end Sys2Proof.Machine
end

section
namespace Sys2Proof.Machine

/-! ### Replies at the requester (R439, R444, R457) -/

section Replies

variable {s s1 : State} {line a : Nat}

theorem State.takeGrant_of_deliver {m : Msg} (hdel : s.deliver (homeOf line) a line m = some s1) {x : AgentSt}
    (hx : ((s1.line line).agent a).granted m = x) :
    s.takeGrant line a m = (s1.setAgent line a x).send a (homeOf line) line .ack := by
  simp only [State.takeGrant, hdel, hx]

theorem State.takeReply_of_deliver {m : Msg} (hdel : s.deliver (homeOf line) a line m = some s1) : s.takeReply line a m = s1 := by
  rw [State.takeReply, hdel, Option.getD_some]

end Replies

/-- The acknowledgement of its write-back takes an agent to I. -/
theorem execWback_of_deliver {s s1 : State} {line : BitVec 34} {a : BitVec 2}
    (hdel : s.deliver (homeOf line.toNat) a.toNat line.toNat .wbAck = some s1)
    (hxw : (s1.line line.toNat).agent a.toNat = .xw) :
    execWback line a s = .next (s1.setAgent line.toNat a.toNat .i) := by
  simp only [execWback, hdel, hxw, if_true]

/-- DatE answers RdS with an exclusive copy, and RdX with one to be written. -/
theorem AgentSt.granted_datE_of_ne {x : AgentSt} (hx : x ≠ .is) : x.granted .datE = .m := by
  cases x
  case is => exact absurd rfl hx
  all_goals rfl

/-- An instruction that met a fenced home completes, and its fault, if it has one, is pending then (R457). -/
theorem State.lsComplete_of_err {s : State} {c : Nat} {before after : List LsOp} {o : LsOp}
    (hls : (s.core c).ls = before ++ o :: after) (hdue : o.due ≤ (s.core c).cycle) (herr : o.err = true) :
    s.lsComplete c before.length true =
      o.fault.elim id (fun t u => u.pendFault o.lid o.gid o.wid t)
        ((s.setCore c { s.core c with ls := before ++ after }).completeOf o.gid o.wid o.ord o.writes o.flag) := by
  have htake : takeAt before.length (s.core c).ls = some (o, before ++ after) := by rw [hls, takeAt_length_append]
  simp only [State.lsComplete, htake, hdue, herr, and_self, if_true]
  cases o.fault <;> rfl

/-- A fenced home refuses the request of an agent that it has not taken (R457). -/
theorem State.errAgent_of_fenced {s : State} {line a : Nat} (hfenced : s.fenced.has (homeOf line) = true)
    (hsent : ∃ f ∈ (s.chan a (homeOf line) 0).slots, f.line = line ∧ f.msg.chan = 0) :
    s.errAgent line a =
      let mine (f : FMsg) : Bool := f.line == line && f.msg.chan == 0
      let s1 := s.setChan a (homeOf line) 0 { slots := (s.chan a (homeOf line) 0).slots.filter fun f => !mine f
                                              wait := (s.chan a (homeOf line) 0).wait.filter fun f => !mine f }
      s1.setAgent line a ((s1.line line).refused a) := by
  obtain ⟨f, hf, hline, hchan⟩ := hsent
  have hany : (s.chan a (homeOf line) 0).slots.any (fun f : FMsg => f.line == line && f.msg.chan == 0) = true :=
    List.any_eq_true.mpr ⟨f, hf, by simp [hline, hchan]⟩
  simp only [State.errAgent, hfenced, hany, Bool.true_or, Bool.and_self, if_true]

/-- An agent whose request is refused holds what it held before it asked (R457). -/
theorem LineSt.refused_eq (e : LineSt) (a : Nat) : e.refused a = (match e.agent a with
    | .is => .i
    | .ix => .i
    | .sx => if e.dir = .o ∧ e.owner = a then .o else .s
    | x => x) := by
  rw [LineSt.refused]
  cases e.agent a
  case sx => simp only [Bool.and_eq_true, beq_iff_eq]
  all_goals rfl

/-- Settles O42: each reply is taken from its channel, and an error reply ends the access or gives the agent back what it held. -/
theorem requesterReplies : Obligations.RequesterReplies := by
  intro s s1 line a L A h granted
  refine ⟨⟨fun hdel => ?dats, fun his hdel => ?dateS, fun hne hdel => ?dateX, fun hdel => ?datm, fun hdel => ?gntx⟩,
    fun hdel => ?cmp, fun hdel => ?atomd, fun hdel hxw => ?wback, fun c before after o t hls hdue herr hfault => ?fault,
    fun c before after o hls hdue herr hfault => ?tagged, ?refused⟩
  case dats => exact congrArg Host.Outcome.next (State.takeGrant_of_deliver hdel rfl)
  case dateS => exact congrArg Host.Outcome.next (State.takeGrant_of_deliver hdel (by rw [his]; rfl))
  case dateX => exact congrArg Host.Outcome.next (State.takeGrant_of_deliver hdel (AgentSt.granted_datE_of_ne hne))
  case datm => exact congrArg Host.Outcome.next (State.takeGrant_of_deliver hdel rfl)
  case gntx => exact congrArg Host.Outcome.next (State.takeGrant_of_deliver hdel rfl)
  case cmp => exact congrArg Host.Outcome.next (State.takeReply_of_deliver hdel)
  case atomd => exact congrArg Host.Outcome.next (State.takeReply_of_deliver hdel)
  case wback => exact execWback_of_deliver hdel hxw
  case fault => rw [exec_err_access, State.lsComplete_of_err hls hdue herr, hfault, Option.elim_some]
  case tagged => rw [exec_err_access, State.lsComplete_of_err hls hdue herr, hfault, Option.elim_none, id]
  case refused =>
    intro b B hfenced hsent mine s2
    have hrefused : s.errAgent L B = s2.setAgent L B ((s2.line L).refused B) := State.errAgent_of_fenced hfenced hsent
    exact congrArg Host.Outcome.next (hrefused.trans (congrArg (s2.setAgent L B) (LineSt.refused_eq _ B)))

end Sys2Proof.Machine
end

section
namespace Sys2Proof.Machine

/-! ### Links that sleep, wake and fail (R449) -/

section Links

variable {s : State} {a b : Nat}

theorem State.linkSleep_of_idle (hne : a ≠ b) (ha : a < 5) (hb : b < 5) (hmode : (s.link a b).mode = .awake)
    (hab : s.dirBusy a b = false) (hba : s.dirBusy b a = false) (hidle : 8192 ≤ s.dieClk (min a b) - (s.link a b).last) :
    s.linkSleep a b = s.setLink a b { s.link a b with mode := .asleep } :=
  if_pos ⟨hne, ha, hb, hmode, by simp [hab], by simp [hba], hidle⟩

theorem State.linkWake_of_waits (hne : a ≠ b) (hmode : (s.link a b).mode = .asleep) (hwaits : s.dirWaits a b = true) :
    s.linkWake a b = s.setLink a b { s.link a b with
      mode := .waking, sinceLo := s.dieClk (min a b), sinceHi := s.dieClk (max a b)
      firstLo := s.dieClk (min a b), firstHi := s.dieClk (max a b) } :=
  if_pos ⟨hne, hmode, hwaits⟩

theorem State.linkAwake_of_waking (hmode : (s.link a b).mode = .waking) :
    s.linkAwake a b = (List.range 4).foldl (fun t n => (t.refill a b n).refill b a n)
      (s.setLink a b { s.link a b with mode := .awake, last := s.dieClk (min a b) }) :=
  if_pos hmode

/-- A snoop that has waited for a link for the length of a wake attempt is reported, and the next attempt begins (R449). -/
theorem State.wakeTimeout_of_waits (hmode : (s.link a b).mode = .waking) (hwait : (s.chan a b 1).wait ≠ [])
    (hlate : 60000 ≤ s.dieClk a - (s.link a b).since a b) :
    s.wakeTimeout a b =
      let s1 := s.setLink a b ((s.link a b).again a b (s.dieClk a))
      if b = 4 then s1.logEvent 8 a 0xFFFF (BitVec.ofNat 64 b) else s1.logDie 8 a 0xFFFF (BitVec.ofNat 64 b) :=
  if_pos ⟨hmode, by simpa using hwait, hlate⟩

end Links

section Ends

variable (x : LinkSt) {a b : Nat}

/-! The lower agent's end of a link counts on its own clock. -/

theorem LinkSt.since_of_le (h : a ≤ b) : x.since a b = x.sinceLo := if_pos h

theorem LinkSt.since_of_lt (h : b < a) : x.since a b = x.sinceHi := if_neg (Nat.not_le.mpr h)

theorem LinkSt.first_of_le (h : a ≤ b) : x.first a b = x.firstLo := if_pos h

theorem LinkSt.first_of_lt (h : b < a) : x.first a b = x.firstHi := if_neg (Nat.not_le.mpr h)

theorem LinkSt.again_of_le (h : a ≤ b) (t : Nat) : x.again a b t = { x with sinceLo := t } := if_pos h

theorem LinkSt.again_of_lt (h : b < a) (t : Nat) : x.again a b t = { x with sinceHi := t } := if_neg (Nat.not_le.mpr h)

end Ends

/-! ### Dead dies (R450) -/

theorem DieSt.talks_of_resetting {x : DieSt}
    (h : x.mode = .running ∨ x.mode = .warm ∧ x.abrupt = false ∧ x.step ∈ [ResetStep.save, .quiesce, .cleanup]) :
    x.talks = true := by
  rcases h with hmode | ⟨hmode, habrupt, hstep⟩
  · simp [DieSt.talks, hmode]
  · simpa [DieSt.talks, hmode, habrupt, or_assoc] using hstep

/-- A silent die that has left a request of the hub unanswered is dead (R450). -/
theorem execDeadDieDetection_of_silent {d : BitVec 2} {s : State} (htalks : (s.die d.toNat).talks = true)
    (hsilent : 5000000 ≤ s.hub - (s.die d.toNat).lastHub)
    (hwaits : ∃ u ∈ (s.die d.toNat).unanswered, 5000000 ≤ s.hub - u.2) :
    execDeadDieDetection d s = .next ((s.setDie d.toNat { s.die d.toNat with dead := true }).abruptReset d.toNat) := by
  have hoverdue : (s.die d.toNat).overdue s.hub = true := by simpa [DieSt.overdue] using hwaits
  exact if_pos ⟨by simp [hsilent, hoverdue], htalks⟩

/-- The higher of two dies whose link has not woken is dead (R449). -/
theorem execLinkWakeFailureReport_of_late {d c : BitVec 2} {s : State} (hlt : d.toNat < c.toNat)
    (hmode : (s.link d.toNat c.toNat).mode = .waking)
    (hlate : 6000000 ≤ s.dieClk d.toNat - (s.link d.toNat c.toNat).firstLo ∨
      6000000 ≤ s.dieClk c.toNat - (s.link d.toNat c.toNat).firstHi)
    (hd : (s.die d.toNat).answers s.hub = true) (hc : (s.die c.toNat).answers s.hub = true) :
    execLinkWakeFailureReport d c s =
      let s1 := s.pass (if 6000000 ≤ s.dieClk d.toNat - (s.link d.toNat c.toNat).firstLo then d.toNat else c.toNat) 4
      .next ((s1.setDie c.toNat { s1.die c.toNat with dead := true }).abruptReset c.toNat) := by
  have hne : d ≠ c := fun heq => absurd hlt (by simp [heq])
  have hmax : max d.toNat c.toNat = c.toNat := Nat.max_eq_right (Nat.le_of_lt hlt)
  simp only [execLinkWakeFailureReport, LinkSt.first_of_le _ (Nat.le_of_lt hlt), LinkSt.first_of_lt _ hlt, hmax, decide_eq_true_eq]
  exact if_pos ⟨hne, hmode, hlate, hd, hc⟩

/-- Settles O43: each event of a link by its condition, with the two ends of a wake attempt apart, and the two ways in which a die
is found dead. -/
theorem linkAndDieEvents : Obligations.LinkAndDieEvents := by
  intro s a b A B x
  have hnext {i : Instr} {u v : State} (hexec : exec i s = .next u) (h : u = v) : exec i s = .next v := hexec.trans (congrArg _ h)
  refine ⟨fun hne hA hB hmode hAB hBA hidle => hnext rfl (State.linkSleep_of_idle hne hA hB hmode hAB hBA hidle),
    fun hne hmode hwaits => hnext rfl (State.linkWake_of_waits hne hmode hwaits),
    fun hmode => hnext rfl (State.linkAwake_of_waking hmode), ?timeout, fun d => ?dead, ?failed⟩
  case timeout =>
    intro hmode hwait told
    refine ⟨fun hle hlate => ?lower, fun hlt hlate => ?higher⟩
    case lower =>
      have htimeout := State.wakeTimeout_of_waits hmode hwait (by rwa [LinkSt.since_of_le _ hle])
      rw [LinkSt.again_of_le _ hle] at htimeout
      exact hnext rfl htimeout
    case higher =>
      have htimeout := State.wakeTimeout_of_waits hmode hwait (by rwa [LinkSt.since_of_lt _ hlt])
      rw [LinkSt.again_of_lt _ hlt] at htimeout
      exact hnext rfl htimeout
  case dead =>
    intro y htalks hsilent hwaits
    exact execDeadDieDetection_of_silent (DieSt.talks_of_resetting htalks) hsilent hwaits
  case failed =>
    intro d c hlt hmode hlate hd hc late s1
    exact execLinkWakeFailureReport_of_late hlt hmode hlate hd hc

end Sys2Proof.Machine
end

section
namespace Sys2Proof.Machine

/-! ### Flits and training of a Glicharun port (R461, R462) -/

section Flits

variable {s : State} {p seq ack : Nat}

theorem State.flitIn_of_badCrc {nack : Bool} {m : Option GMsg} : s.flitIn p seq ack false nack m = s := by
  simp only [State.flitIn, Bool.not_false, or_true, if_true]

/-- What a flit with a good CRC does to what its port has sent: the acknowledged flits are freed, and the others sent again if the
peer asks for that. -/
def Port.heard (x : Port) (ack : Nat) (nack : Bool) : Port :=
  let x1 := { x with tx := x.tx.filter fun f => !decide (f.seq < ack) }
  if nack then x1.replayed else x1

variable (hup : (s.port p).st = .up) {nack : Bool}
include hup

theorem State.flitIn_of_none : s.flitIn p seq ack true nack none = s.setPort p ((s.port p).heard ack nack) := by
  simp only [State.flitIn, hup, ne_eq, not_true_eq_false, Bool.not_true, Bool.false_eq_true, or_self, if_false, Port.heard]

/-- The flit with the next sequence number is delivered, and no other one. -/
theorem State.flitIn_of_some (g : GMsg) : s.flitIn p seq ack true nack (some g) =
    let y := (s.port p).heard ack nack
    if seq ≠ (s.port p).nextRx then s.setPort p y
    else if gAnswer g then (s.setPort p { y with nextRx := (s.port p).nextRx + 1 }).copyAnswer (gTag g) g
    else s.setPort p { y with nextRx := (s.port p).nextRx + 1, rx := (s.port p).rx ++ [g] } := by
  have hup' : ¬ ((s.port p).st ≠ .up ∨ (!true) = true) := by simp [hup]
  simp only [State.flitIn, hup', if_false]
  cases nack <;> rfl

end Flits

theorem execFlitAckTimeout_of_late {p : BitVec 5} {n : Nat} {s : State} {f : GFlit} (hf : (s.port p.toNat).tx[n]? = some f)
    (hlate : 1000000 ≤ s.hub - f.sent) (hreq : gAnswer f.msg = false) :
    execFlitAckTimeout p n s = .next (s.failFlit f.msg) := by
  simp only [execFlitAckTimeout, hf, hlate, hreq, Bool.not_false, and_self, if_true]

/-- A port of the device that is not fenced trains, and then takes the number of its peer. -/
theorem execGlicharunLinkTraining_of_live {p : BitVec 5} {peer : BitVec 16} {s : State} (hon : s.boot = .on) (hp : p.toNat < 18)
    (hlive : UnitRef.port p ∉ s.fencedUnits) :
    ((s.port p.toNat).st = .down → execGlicharunLinkTraining p peer s =
      .next (s.setPort p.toNat { s.port p.toNat with st := .training })) ∧
    ((s.port p.toNat).st = .training → execGlicharunLinkTraining p peer s =
      .next (s.setPort p.toNat { s.port p.toNat with st := .up, peer := peer, nextTx := 0, nextRx := 0, tx := [], rx := [] })) := by
  have hgo : ¬ (s.boot ≠ .on ∨ 18 ≤ p.toNat ∨ s.fencedUnits.contains (.port p) = true) := by
    simpa [hon, hlive] using hp
  constructor <;> intro hst <;> simp only [execGlicharunLinkTraining, hgo, hst, if_false]

/-! ### Elements of the peer (R463) -/

section Peer

variable {s : State} {p t win off : Nat} {rest : List GMsg}

theorem State.peerAccess_of_write {bs : List Byte} {poison : Bool}
    (hrx : (s.port p).rx = .write t win off bs poison :: rest) : s.peerAccess p =
    let w := s.window win
    let pa := 4096 * w.base.toNat + off
    let s1 := s.setPort p { s.port p with rx := rest }
    if !w.accepts p off bs.length true then s1.sendFlit p (.refused t)
    else if s.errReply pa then s1.sendFlit p (.memErr t)
    else (s1.peerWrite pa bs poison).sendFlit p (.done t) := by
  simp only [State.peerAccess, hrx]

theorem State.peerAccess_of_read {n : Nat} (hrx : (s.port p).rx = .read t win off n :: rest) : s.peerAccess p =
    let w := s.window win
    let pa := 4096 * w.base.toNat + off
    let s1 := s.setPort p { s.port p with rx := rest }
    if !w.accepts p off n false then s1.sendFlit p (.refused t)
    else if s.errReply pa then s1.sendFlit p (.memErr t)
    else (s1.access .hub pa n .read).sendFlit p (.data t (s.memRead pa n) (s.memPoisoned pa n)) := by
  simp only [State.peerAccess, hrx]

end Peer

/-- Settles O46: a flit by its CRC, number and kind, the events of the port, and a peer's element by what its window and the memory
answer. -/
theorem portEvents : Obligations.PortEvents := by
  intro s p P x
  have hnext {i : Instr} {u v : State} (hexec : exec i s = .next u) (h : u = v) : exec i s = .next v := hexec.trans (congrArg _ h)
  refine ⟨?flit, fun n f hf hlate hreq => execFlitAckTimeout_of_late hf hlate hreq,
    fun peer hon hp hlive => execGlicharunLinkTraining_of_live hon hp hlive, ?down, fun hdown => ?stays, fun v => rfl, ?peer⟩
  case flit =>
    intro hup seq ack x1 x2
    refine ⟨hnext rfl (State.flitIn_of_none hup), hnext rfl (State.flitIn_of_none hup), fun nack m => hnext rfl State.flitIn_of_badCrc, ?_⟩
    intro nack g y
    have hy : (s.port P).heard ack nack = y := rfl
    have hflit := State.flitIn_of_some (seq := seq) (ack := ack) hup (nack := nack) g
    rw [hy] at hflit
    refine ⟨fun hseq hg => hnext rfl (hflit.trans ?_), fun hseq hg => hnext rfl (hflit.trans ?_),
      fun hseq => hnext rfl (hflit.trans (if_pos hseq))⟩
    · exact (if_neg (not_not_intro hseq)).trans (if_neg (by simp [hg]))
    · exact (if_neg (not_not_intro hseq)).trans (if_pos hg)
  case down =>
    intro hup s1 ends
    exact hnext rfl (if_neg hup)
  case stays => exact hnext rfl (if_pos hdown)
  case peer =>
    intro rest t win off w pa s1
    refine ⟨fun bs poison hrx => ?write, fun n hrx => ?read⟩
    case write =>
      have hwrite := State.peerAccess_of_write hrx
      have hdone (hok : w.accepts P off bs.length true = true) (herr : s.errReply pa = false) :
          s.peerAccess P = (s1.peerWrite pa bs poison).sendFlit P (.done t) :=
        hwrite.trans ((if_neg (by simpa using hok)).trans (if_neg (by simpa using herr)))
      refine ⟨fun hno => hnext rfl (hwrite.trans (if_pos (by simpa using hno))),
        fun hok herr => hnext rfl (hwrite.trans ((if_neg (by simpa using hok)).trans (if_pos herr))),
        fun hok herr hclean => ?_, fun hok herr hpoison => ?_⟩
      · subst hclean
        exact hnext rfl (hdone hok herr)
      · subst hpoison
        exact hnext rfl (hdone hok herr)
    case read =>
      have hread := State.peerAccess_of_read hrx
      exact ⟨fun hno => hnext rfl (hread.trans (if_pos (by simpa using hno))),
        fun hok herr => hnext rfl (hread.trans ((if_neg (by simpa using hok)).trans (if_pos herr))),
        fun hok herr => hnext rfl (hread.trans ((if_neg (by simpa using hok)).trans (if_neg (by simpa using herr))))⟩

end Sys2Proof.Machine
end

section
namespace Sys2Proof.Machine

/-! ### Writes to the management registers (R414, R451, R453, R463, R466, R472) -/

section Write

variable (s : State) {off : Nat} {v : DWord}

theorem State.writeReg_of_dctl {d : Nat} (hd : d < 4) (hoff : off = 0x5000 + 16 * d) : s.writeReg off v = s.writeDctl d v := by
  have hdie : (off - 0x5000) / 16 = d := by omega
  rw [State.writeReg, if_neg (by omega), if_pos (by omega), hdie]

theorem State.writeReg_dbgsel : s.writeReg 0x5100 v = { s with dbgsel := v.extractLsb' 0 13 } := rfl

theorem State.writeReg_of_queue {q o : Nat} (hq : q < 128) (ho : o < 64) (hoff : off = 0x100000 + 64 * q + o) :
    s.writeReg off v = s.setQueue q ((s.queue q).write o v) := by
  have hqueue : (off - 0x100000) / 64 = q := by omega
  have hreg : off % 64 = o := by omega
  rw [State.writeReg, if_neg (by omega), if_neg (by omega), if_neg (by omega), if_neg (by omega), if_pos (by omega), hqueue, hreg]

/-- The two registers of a residency range (Table PF-9). -/
theorem State.writeReg_of_residency {i : Nat} (hi : i < 64) (ctl : Bool) (hoff : off = 0x2000 + 16 * i + 8 * ctl.toNat) :
    s.writeReg off v = { s with
      residency := s.residency.set Residency.initial i ((s.residency.get Residency.initial i).write ctl v) } := by
  have hle := ctl.toNat_le
  have hrange : (off - 0x2000) / 16 = i := by omega
  have hreg : (off % 16 == 8) = ctl := by
    have hmod : off % 16 = 8 * ctl.toNat := by omega
    rw [hmod]
    cases ctl <;> rfl
  rw [State.writeReg, if_pos (by omega), hrange, hreg]

theorem State.writeReg_of_window {w o : Nat} (hw : w < 256) (ho : o < 32) (hoff : off = 0x20000 + 32 * w + o) :
    s.writeReg off v = { s with windows := s.windows.set Window.initial w ((s.window w).write o v) } := by
  have hwindow : (off - 0x20000) / 32 = w := by omega
  have hreg : off % 32 = o := by omega
  rw [State.writeReg, if_neg (by omega), if_neg (by omega), if_neg (by omega), if_pos (by omega), hwindow, hreg]

/-- What holds no register ignores a write (R453). -/
theorem State.writeReg_of_unmapped (hdctl : ∀ d < 4, off ≠ 0x5000 + 16 * d) (hdbg : off ≠ 0x5100)
    (hres : ¬ (0x2000 ≤ off ∧ off < 0x2400)) (hwin : ¬ (0x20000 ≤ off ∧ off < 0x22000))
    (hqueue : ¬ (0x100000 ≤ off ∧ off < 0x102000)) : s.writeReg off v = s := by
  have hdie := hdctl ((off - 0x5000) / 16)
  rw [State.writeReg, if_neg (by omega), if_neg (by omega), if_neg hdbg, if_neg hwin, if_neg hqueue]

end Write

section QueueWrite

variable {x : Queue} (henable : x.enable = false) {v : DWord}
include henable

theorem Queue.write_base : x.write 0 v = { x with base := v.extractLsb' 12 40, log2sz := v.extractLsb' 0 5 } :=
  if_neg (ne_true_of_eq_false henable)

theorem Queue.write_desc : x.write 8 v = { x with desc := v.extractLsb' 7 45 } :=
  if_neg (ne_true_of_eq_false henable)

end QueueWrite

section Dctl

variable {s : State} {d : Nat} {v : DWord}

theorem State.writeDctl_of_act0 (hact : v.extractLsb' 2 2 = 0#2) :
    s.writeDctl d v = s.setDie d { s.die d with pcap := v.extractLsb' 20 12 } := by
  rw [State.writeDctl, hact]
  rfl

theorem State.writeDctl_of_act1 (hact : v.extractLsb' 2 2 = 1#2) (hmode : (s.die d).mode = .running) :
    s.writeDctl d v = (s.setDie d { s.die d with pcap := v.extractLsb' 20 12 }).beginReset d false := by
  rw [State.writeDctl, hact, hmode]
  rfl

theorem State.writeDctl_of_act2 (hact : v.extractLsb' 2 2 = 2#2) (hmode : (s.die d).mode = .running) :
    s.writeDctl d v = (s.setDie d { s.die d with pcap := v.extractLsb' 20 12 }).beginReset d true := by
  rw [State.writeDctl, hact, hmode]
  rfl

theorem State.writeDctl_of_act3 (hact : v.extractLsb' 2 2 = 3#2) (hmode : (s.die d).mode = .gated) :
    s.writeDctl d v = (s.setDie d { s.die d with pcap := v.extractLsb' 20 12 }).wakeDie d := by
  rw [State.writeDctl, hact, hmode]
  rfl

/-- A running die ignores a wake, a gated one a reset, and a die in between all but the cap (R466). -/
theorem State.writeDctl_of_ignored (hact : v.extractLsb' 2 2 ≠ 0#2)
    (hrunning : (s.die d).mode = .running → v.extractLsb' 2 2 = 3#2)
    (hgated : (s.die d).mode = .gated → v.extractLsb' 2 2 ≠ 3#2) : s.writeDctl d v = s := by
  rw [State.writeDctl]
  split
  case h_1 h => exact absurd (BitVec.eq_of_toNat_eq h) hact
  case h_2 h hmode => simp [hrunning hmode] at h
  case h_3 h hmode => simp [hrunning hmode] at h
  case h_4 h hmode => exact absurd (BitVec.eq_of_toNat_eq h) (hgated hmode)
  case h_5 => rfl

end Dctl

/-! ### Reads of the management registers (R453, R466, R470, R472, R476) -/

section Read

variable {s : State}

theorem State.readReg_of_off (hoff : s.boot ≠ .on) (off : Nat) : s.readReg off = 0 := if_pos hoff

variable (hon : s.boot = .on)
include hon

theorem State.readReg_of_dctl {d : Nat} (hd : d < 4) :
    s.readReg (0x5000 + 16 * d) = (0 : BitVec 32) ++ ((s.die d).pcap ++ (0 : BitVec 20)) := by
  have hdie : (0x5000 + 16 * d - 0x5000) / 16 = d := by omega
  rw [State.readReg, if_neg (not_not_intro hon), if_neg (by omega), if_neg (by omega), if_pos (by omega), if_neg (by omega), hdie]

theorem State.readReg_of_dstat {d : Nat} (hd : d < 4) : s.readReg (0x5008 + 16 * d) = s.dstat d := by
  have hdie : (0x5008 + 16 * d - 0x5000) / 16 = d := by omega
  rw [State.readReg, if_neg (not_not_intro hon), if_neg (by omega), if_neg (by omega), if_pos (by omega), if_pos (by omega), hdie]

theorem State.readReg_of_log {off : Nat} (hlo : 0x6000 ≤ off) (hhi : off < 0x16000) (hbox : off ≠ 0x7000) :
    s.readReg off = s.readLog (off - 0x6000) := by
  rw [State.readReg, if_neg (not_not_intro hon), if_neg (by omega), if_neg (by omega), if_neg (by omega), if_neg (by omega),
    if_neg (by omega), if_neg (by omega), if_neg hbox, if_pos ⟨hlo, hhi⟩]

/-- The recovery mailbox reads as zero outside recovery (R453). -/
theorem State.readReg_mailbox : s.readReg 0x7000 = 0 := if_neg (not_not_intro hon)

theorem State.readReg_mloghead : s.readReg 0x5200 = s.logLost ++ s.logNext := if_neg (not_not_intro hon)

theorem State.readReg_dbgdata : s.readReg 0x5108 = s.dbgData := if_neg (not_not_intro hon)

theorem State.readReg_of_low {off : Nat} (h : off < 0x2000) : s.readReg off = 0 := by
  rw [State.readReg, if_neg (not_not_intro hon), if_neg (by omega), if_neg (by omega), if_neg (by omega), if_neg (by omega),
    if_neg (by omega), if_neg (by omega), if_neg (by omega), if_neg (by omega), if_neg (by omega), if_neg (by omega)]

end Read

/-- The two halves of an entry's place in the log's window. -/
theorem State.readLog_of_entry (s : State) (i : Nat) (high : Bool) :
    s.readLog (16 * i + 8 * high.toNat) = ((s.log.find? i).map fun e => e.read8 high).getD 0 := by
  have hle := high.toNat_le
  have hentry : (16 * i + 8 * high.toNat) / 16 = i := by omega
  have hhalf : ((16 * i + 8 * high.toNat) % 16 == 8) = high := by
    have hmod : (16 * i + 8 * high.toNat) % 16 = 8 * high.toNat := by omega
    rw [hmod]
    cases high <;> rfl
  rw [State.readLog, hentry, hhalf]
  cases s.log.find? i <;> rfl

/-- Debug access sees nothing of a fenced core or of a die that does not run (R472). -/
theorem State.dbgData_eq (s : State) :
    s.dbgData = if (s.core (s.dbgsel.toNat / 16)).fenced = true ∨ (s.die (dieOf (s.dbgsel.toNat / 16))).mode ≠ .running then 0
      else ((s.core (s.dbgsel.toNat / 16)).ownAt (s.dbgsel.toNat % 16)).word := by
  simp only [State.dbgData, Bool.or_eq_true, bne_iff_ne]

end Sys2Proof.Machine
end

section
namespace Sys2Proof.Machine

/-! ### The end of a control interval (R467) -/

section Control

variable {x : DieSt} {r : Reading}

/-- A die above 105 °C runs at the lowest clock until it is below 100 °C. -/
theorem DieSt.control_of_hot (hhot : 105 ≤ r.temp.toNat ∨ x.hot = true ∧ 100 ≤ r.temp.toNat) :
    x.control r = { x with power := r.power, temp := r.temp, vmin := r.vmin, hot := true, freq := 16, good := 0 } :=
  if_pos (by simpa using hhot)

variable (hcool : ¬ (105 ≤ r.temp.toNat ∨ x.hot = true ∧ 100 ≤ r.temp.toNat))
include hcool

theorem DieSt.control_of_over (hover : x.cap < r.power.toNat) :
    x.control r = { x with
      power := r.power, temp := r.temp, vmin := r.vmin, hot := false, good := 0
      freq := if x.freq.toNat ≤ 16 then 16 else x.freq - 2 } :=
  (if_neg (by simpa using hcool)).trans (if_pos hover)

/-- Ten intervals in a row below nine tenths of the cap raise the clock by a step. -/
theorem DieSt.control_of_under (hcap : r.power.toNat ≤ x.cap) (hunder : 10 * r.power.toNat < 9 * x.cap) :
    x.control r =
      if 9 ≤ (if x.hot = true then 0 else x.good) then { x with
        power := r.power, temp := r.temp, vmin := r.vmin, hot := false, good := 0
        freq := if 48 ≤ x.freq.toNat then 48 else x.freq + 2 }
      else { x with
        power := r.power, temp := r.temp, vmin := r.vmin, hot := false, good := (if x.hot = true then 0 else x.good) + 1 } :=
  (if_neg (by simpa using hcool)).trans ((if_neg (Nat.not_lt.mpr hcap)).trans (if_pos hunder))

theorem DieSt.control_of_near (hcap : r.power.toNat ≤ x.cap) (hnear : 9 * x.cap ≤ 10 * r.power.toNat) :
    x.control r = { x with power := r.power, temp := r.temp, vmin := r.vmin, hot := false, good := 0 } :=
  (if_neg (by simpa using hcool)).trans ((if_neg (Nat.not_lt.mpr hcap)).trans (if_neg (Nat.not_lt.mpr hnear)))

end Control

section ControlDie

variable {s : State} {d : Nat} {r : Reading}

theorem State.controlDie_of_gated (hmode : (s.die d).mode = .gated) :
    s.controlDie d r = s.setDie d { s.die d with power := r.power, temp := r.temp, vmin := r.vmin } :=
  if_pos hmode

/-- A die after its interval, with a change of its clock commanded and logged. -/
def State.controlled (s : State) (d : Nat) (r : Reading) : State :=
  let s1 := s.setDie d ((s.die d).control r)
  if ((s.die d).control r).freq = (s.die d).freq then s1
  else (s1.pass 4 d).logEvent 0x0B d 0xFFFF (((s.die d).control r).freq.setWidth 64)

theorem State.controlDie_of_safe (hmode : (s.die d).mode ≠ .gated)
    (hsafe : r.temp.toNat < 115 ∨ (s.die d).mode ≠ .running) : s.controlDie d r = s.controlled d r :=
  (if_neg hmode).trans (if_neg fun ⟨htemp, hrun⟩ => hsafe.elim (Nat.not_lt.mpr htemp) (· hrun))

/-- A running die at 115 °C is gated, and the host is told. -/
theorem State.controlDie_of_critical (htemp : 115 ≤ r.temp.toNat) (hmode : (s.die d).mode = .running) :
    s.controlDie d r = { (s.controlled d r).beginReset d true with msix := ((s.controlled d r).beginReset d true).msix ++ [0] } :=
  (if_neg (by simp [hmode])).trans (if_pos ⟨htemp, hmode⟩)

end ControlDie

/-! ### Errors and fenced units (R477, R478) -/

/-- A corrected error of a die and class, counted up to the largest total (R477). -/
def State.countCorrected (s : State) (d : BitVec 2) (cls : BitVec 3) : State :=
  let k := 8 * d.toNat + cls.toNat
  let x := s.errs.get ErrCount.zero k
  let total := if x.total = 0xFFFFFFFF#32 then x.total else x.total + 1
  let t := s.pass d.toNat 4
  { t with errs := t.errs.set ErrCount.zero k { total := total, recent := x.recent + 1 } }

theorem execCorrectedError_none (d : BitVec 2) (cls : BitVec 3) (s : State) :
    execCorrectedError d cls none s = .next (s.countCorrected d cls) := rfl

/-- The die's message to the controller leaves the counts of units. -/
theorem State.countCorrected_unitErr (s : State) (d : BitVec 2) (cls : BitVec 3) (u : UnitRef) :
    (s.countCorrected d cls).unitErr u = s.unitErr u := by
  have hcounts : (s.countCorrected d cls).unitErrs = s.unitErrs := (fabricOnly_pass s d.toNat 4).unitErrs
  rw [State.unitErr, hcounts, State.unitErr]

theorem execCorrectedError_some (d : BitVec 2) (cls : BitVec 3) (u : UnitRef) (s : State) :
    execCorrectedError d cls (some u) s = .next ((s.countCorrected d cls).setUnitErr u { s.unitErr u with
      corrected := (s.mclk :: (s.unitErr u).corrected.filter fun n => decide (s.mclk - n < 3600000)).take 1025 }) := by
  rw [← s.countCorrected_unitErr d cls u]
  rfl

section Uncorrected

variable {e : ErrSite} (s : State)

/-- An uncorrected error strikes its place, and the place's die logs it (R477). -/
def State.struck (s : State) (e : ErrSite) : State :=
  (s.strike e).logDie 2 (siteSrc e) (((siteUnit e).map unitIndex).getD 0xFFFF) (BitVec.ofNat 64 (siteData e))

theorem execUncorrectedError_of_none (hu : siteUnit e = none) : execUncorrectedError e s = .next (s.struck e) := by
  simp only [execUncorrectedError, hu, State.struck]

theorem execUncorrectedError_of_some {u : UnitRef} (hu : siteUnit e = some u) : execUncorrectedError e s =
    .next ((s.struck e).setUnitErr u { (s.struck e).unitErr u with
      uncorrected := ((s.struck e).unitErr u).uncorrected + 1 }) := by
  simp only [execUncorrectedError, hu, State.struck]

end Uncorrected

section Fence

variable {s : State} {u : UnitRef}

theorem execUnitFence_of_not_mem (hu : u ∉ s.fencedUnits) :
    execUnitFence u s = if s.pastThreshold u then .next (s.fenceUnit u) else .next s :=
  if_neg (by simpa using hu)

/-- A core that is fenced already may still have to go into reset; a slice or a port has nothing left to do. -/
theorem execUnitFence_of_mem (hu : u ∈ s.fencedUnits) :
    execUnitFence u s = .next ((unitCore u).elim s s.holdCore) := by
  refine (if_pos (by simpa using hu)).trans ?_
  cases u <;> rfl

theorem State.holdCore_of_empty {c : Nat} (hfenced : (s.core c).fenced = true) (hempty : s.groupsOn c = []) :
    s.holdCore c = s.setCore c { Core.initial with fenced := true } :=
  if_pos ⟨hfenced, by rw [hempty]; rfl⟩

theorem State.holdCore_of_live {c : Nat} (h : (s.core c).fenced = false ∨ s.groupsOn c ≠ []) : s.holdCore c = s :=
  if_neg fun ⟨hfenced, hempty⟩ => h.elim (by simp [hfenced]) (· (List.isEmpty_iff.mp hempty))

end Fence

/-- Settles O48: the interval, each page of registers, the control rules of a die, and the errors and fences of units. -/
theorem managementEvents : Obligations.ManagementEvents := by
  intro s
  have hnext {i : Instr} {u v : State} (hexec : exec i s = .next u) (h : u = v) : exec i s = .next v := hexec.trans (congrArg _ h)
  refine ⟨fun hon => ⟨fun r0 r1 r2 r3 => ?interval, ?write, fun d hd => ?die, State.readReg_mloghead hon, ?log,
      State.readReg_mailbox hon, fun off => State.readReg_of_low hon, ?debug⟩,
    State.readReg_of_off, ?control, ?controlDie, ?corrected, ?uncorrected, ?fence, ?held, ?slice, ?port⟩
  case interval => exact if_neg (not_not_intro hon)
  case write =>
    intro off v
    have hwrite {u : State} (h : s.writeReg off.toNat v = u) : exec (.registerWrite off v) s = .next u :=
      (State.bar0_of_on hon _).trans (congrArg _ h)
    refine ⟨?dctl, fun hoff => ?dbgsel, ?queue, ?residency, fun w hw hoff => ?wbase, fun w hw hoff => ?wsize,
      fun w hw hoff => ?wctl, fun hdctl hdbg hres hwin hqueue => hwrite (s.writeReg_of_unmapped hdctl hdbg hres hwin hqueue)⟩
    case dctl =>
      intro d hoff t act mode
      have hdctl := s.writeReg_of_dctl (v := v) d.isLt hoff
      have hignored (hact : act ≠ 0#2) (hrun : mode = .running → act = 3#2) (hgated : mode = .gated → act ≠ 3#2) :=
        hwrite (hdctl.trans (State.writeDctl_of_ignored hact hrun hgated))
      refine ⟨fun hact => hwrite (hdctl.trans (State.writeDctl_of_act0 hact)), fun hact hmode => ?_, fun hact hmode => ?_,
        fun hact hmode => ?_, fun hact hrun hgated => hignored hact (absurd · hrun) (absurd · hgated), fun hact hmode => ?_,
        fun hact hmode => ?_⟩
      · rw [exec_dctlWarmReset]
        exact hwrite (hdctl.trans (State.writeDctl_of_act1 hact hmode))
      · rw [exec_dctlGate]
        exact hwrite (hdctl.trans (State.writeDctl_of_act2 hact hmode))
      · rw [exec_dctlWake]
        exact hwrite (hdctl.trans (State.writeDctl_of_act3 hact hmode))
      · rcases hact with hact | hact <;> exact hignored (by simp [hact]) (by simp [hmode]) (by simp [hact])
      · exact hignored (by simp [hact]) (fun _ => hact) (by simp [hmode])
    case dbgsel => exact hwrite (by rw [hoff]; exact s.writeReg_dbgsel)
    case queue =>
      intro q hq henable
      refine ⟨fun hoff => hwrite ?_, fun hoff => hwrite ?_⟩
      · rw [s.writeReg_of_queue hq (o := 0) (by decide) hoff, Queue.write_base henable]
      · rw [s.writeReg_of_queue hq (o := 8) (by decide) (by omega), Queue.write_desc henable]
    case residency =>
      exact fun i hi => ⟨fun hoff => hwrite (s.writeReg_of_residency hi false hoff),
        fun hoff => hwrite (s.writeReg_of_residency hi true (by rw [hoff, Bool.toNat_true]; omega))⟩
    case wbase => exact hwrite (s.writeReg_of_window hw (o := 0) (by decide) hoff)
    case wsize => exact hwrite (s.writeReg_of_window hw (o := 8) (by decide) (by omega))
    case wctl => exact hwrite (s.writeReg_of_window hw (o := 16) (by decide) (by omega))
  case die => exact ⟨State.readReg_of_dctl hon hd, State.readReg_of_dstat hon hd⟩
  case log =>
    intro i hi
    have hlow (hbox : i ≠ 256) : s.readReg (0x6000 + 16 * i) = ((s.log.find? i).map fun e => e.read8 false).getD 0 := by
      rw [State.readReg_of_log hon (by omega) (by omega) (by omega), ← s.readLog_of_entry]
      exact congrArg _ (by rw [Bool.toNat_false]; omega)
    have hhigh : s.readReg (0x6008 + 16 * i) = ((s.log.find? i).map fun e => e.read8 true).getD 0 := by
      rw [State.readReg_of_log hon (by omega) (by omega) (by omega), ← s.readLog_of_entry]
      exact congrArg _ (by rw [Bool.toNat_true]; omega)
    refine ⟨fun e he => ⟨fun hbox => ?_, ?_⟩, fun hnone => ⟨?_, ?_⟩⟩
    · rw [hlow hbox, he]
      rfl
    · rw [hhigh, he]
      rfl
    · by_cases hbox : i = 256
      · subst hbox
        exact State.readReg_mailbox hon
      · rw [hlow hbox, hnone]
        rfl
    · rw [hhigh, hnone]
      rfl
  case debug =>
    intro c v
    refine (State.bar0_of_on hon _).trans ?_
    rw [State.readReg_dbgdata hon, State.dbgData_eq]
  case control =>
    intro x r hot cap P before after
    refine ⟨DieSt.control_of_hot, fun hcool hover => DieSt.control_of_over hcool hover, fun hcool hcap hunder => ?under,
      fun hcool hcap hnear => DieSt.control_of_near hcool hcap hnear⟩
    case under =>
      have hctl := DieSt.control_of_under hcool hcap hunder
      exact ⟨fun hgood => hctl.trans (if_pos hgood), fun hgood => hctl.trans (if_neg (Nat.not_le.mpr hgood))⟩
  case controlDie =>
    intro d r x y s1 s2
    exact ⟨State.controlDie_of_gated, State.controlDie_of_safe, State.controlDie_of_critical⟩
  case corrected =>
    intro d cls k x t total counted
    exact ⟨execCorrectedError_none d cls s, fun u => execCorrectedError_some d cls u s⟩
  case uncorrected =>
    intro e s1
    exact ⟨execUncorrectedError_of_none s, fun u => execUncorrectedError_of_some s⟩
  case fence =>
    refine fun u => ⟨fun hu => ⟨fun hpast => ?_, fun hpast => ?_⟩, fun hu => ?_, fun hu => ?_⟩
    · exact (execUnitFence_of_not_mem hu).trans (if_pos hpast)
    · exact (execUnitFence_of_not_mem hu).trans (if_neg (ne_true_of_eq_false hpast))
    · exact if_pos (by simpa using hu)
    · exact if_neg (by simpa using hu)
  case held =>
    intro c hu
    have hheld : exec (.unitFence (.core c)) s = .next (s.holdCore c.toNat) := execUnitFence_of_mem hu
    exact ⟨fun hfenced hempty => hnext hheld (State.holdCore_of_empty hfenced hempty),
      fun hlive => hnext hheld (State.holdCore_of_live hlive)⟩
  case slice => exact fun d n hu => execUnitFence_of_mem hu
  case port => exact fun p hu => execUnitFence_of_mem hu

end Sys2Proof.Machine
end

section
namespace Sys2Proof.Machine

/-! ### The effective mask (R75, R79) -/

section EffectiveMask

variable (w : Warp) {h : Hdr}

theorem Warp.eff_of_not_inverted (hn : h.pneg = false) : w.eff h = w.act &&& w.kreg h.pidx.toNat := by
  rw [Warp.eff, hn]; rfl

theorem Warp.eff_of_inverted (hn : h.pneg = true) : w.eff h = w.act &&& ~~~(w.kreg h.pidx.toNat) := by
  rw [Warp.eff, hn]; rfl

theorem Warp.kreg_zero : w.kreg 0 = fullMask := rfl

theorem Warp.kreg_of_ne {p : BitVec 3} (hp : p ≠ 0#3) : w.kreg p.toNat = w.k.get 0 p.toNat :=
  if_neg fun h0 => hp (BitVec.eq_of_toNat_eq h0)

end EffectiveMask

/-- Settles O57, by whether the predicate is k0 and whether it is inverted. -/
theorem effectiveMask : Obligations.EffectiveMask := by
  intro w h
  have full : w.act &&& fullMask = w.act := BitVec.and_allOnes
  have none : w.act &&& ~~~fullMask = 0 := by rw [show ~~~fullMask = 0#32 from rfl, BitVec.and_zero]; rfl
  refine ⟨fun hp hn => ?_, fun hp hn => ?_, fun hp hn => ?_, fun hp hn => ?_, w.kreg_zero, fun r hr => if_neg hr, fun p => ?_⟩
  · rw [w.eff_of_not_inverted hn, hp]; exact full
  · rw [w.eff_of_inverted hn, hp]; exact none
  · rw [w.eff_of_not_inverted hn, w.kreg_of_ne hp]
  · rw [w.eff_of_inverted hn, w.kreg_of_ne hp]
  · rw [w.eff_of_not_inverted (h := pairHdr p) rfl]; exact full

/-! ### Words printed in the spec (R69, R85) -/

/-- Settles O52: each word by running the decoder on it. -/
theorem decodedWords : Obligations.DecodedWords := by
  unfold Obligations.DecodedWords
  refine ⟨rfl, rfl, rfl, rfl, rfl, rfl, rfl, rfl, rfl, rfl, rfl, rfl, rfl, rfl, rfl, rfl⟩

/-! ### Predicates and the pair word (R79, R83, R84, R154, R156) -/

/-- A mask written to a scalar register is the whole of its value. -/
theorem sWriteW_mask (r : Nat) (m : LaneMask) : sWriteW false r (m.setWidth 64) = [.s r { val := m, tag := .clean }] :=
  congrArg (fun v : Word => [Wr.s r { val := v, tag := .clean }]) (BitVec.setWidth_setWidth_of_le m (by decide))

theorem Checks.all_four (i j k l : Nat) (p q r t : Bool) :
    List.all ([(i, p), (j, q), (k, r), (l, t)] : Checks) (fun c => c.2) = (p && q && r && t) := by
  simp [Bool.and_assoc]

section PredicateWords

variable {s : State} {x : Ctx} {h : Hdr} {l : Bool} {d : Operand} {b : Src} {kD kA kB : KField}

theorem pred2_ready {op : LaneMask → LaneMask → LaneMask} (r : Ready s x h (kOk kD && kOk kA && kOk kB) [] true) :
    pred2 h kD kA kB op s = .next (s.later x h 8 2 [.k kD.idx.toNat fullMask (op (x.k kA) (x.k kB))]) :=
  alu_ready r (Checks.all_three ..) rfl rfl rfl

theorem execKnot_ready (r : Ready s x h (kOk kD && kOk kA) [] true) :
    execKnot h kD kA s = .next (s.later x h 8 2 [.k kD.idx.toNat fullMask (~~~(x.k kA))]) :=
  alu_ready r (Checks.all_two ..) rfl rfl rfl

theorem execKmov_k_ready (r : Ready s x h (kOk kD && kOk kA) [] true) :
    execKmov h (.k kD kA) s = .next (s.later x h 8 2 [.k kD.idx.toNat fullMask (x.k kA)]) :=
  alu_ready r (Checks.all_two ..) rfl rfl rfl

theorem execKmov_s_ready (r : Ready s x h (kOk kD && sSrc1 false b) (Rd.src b false (x.w.eff h)) true) :
    execKmov h (.s l kD b) s =
      .next (s.later x h (lenOf l) 2 [.k kD.idx.toNat fullMask (BitVec.ofNat 32 (x.n32Src b))]) := by
  rw [Ctx.n32Src, BitVec.ofNat_toNat]
  exact alu_ready r (Checks.all_two ..) rfl rfl rfl

theorem execKmov_toS_ready (r : Ready s x h (sDst false d && kOk kA) [] true) :
    execKmov h (.toS d kA) s = .next (s.later x h 8 2 [.s (regOf d) { val := x.k kA, tag := .clean }]) := by
  rw [← sWriteW_mask]
  exact alu_ready r (Checks.all_two ..) rfl rfl rfl

theorem execKpop_ready (r : Ready s x h (sDst false d && kOk kA) [] true) :
    execKpop h d kA s = .next (s.later x h 8 4
      [.s (regOf d) { val := BitVec.ofNat 32 (popCount 32 (x.k kA).toNat), tag := .clean }]) := by
  rw [← sWriteW_ofNat]
  exact alu_ready r (Checks.all_two ..) rfl rfl rfl

/-- A vector register read as a 32-bit value is the value that it holds. -/
theorem Ctx.n32_v (x : Ctx) (r : BitVec 8) (i : Nat) : x.n32 (.v r) i = (x.w.lane r.toNat i).val.toNat := by
  have hlt := (x.w.lane r.toNat i).val.isLt
  simp only [Ctx.n32, Ctx.read, RdTy.wide, RdTy.low, RdTy.width, Bool.false_eq_true, if_false, BitVec.toNat_ofNat,
    BitVec.toNat_setWidth]
  omega

theorem execPairWord_ready {p : PairWord}
    (r : Ready s x (pairHdr p)
      (regOk x.w.alloc 1 p.adst.toNat && regOk x.w.alloc 1 p.asrc.toNat && regOk x.w.alloc 1 p.bdst.toNat &&
        regOk x.w.alloc 1 p.bsrc.toNat)
      (pairReads p.aop p.adst p.asrc x.w.act ++ pairReads p.bop p.bdst p.bsrc x.w.act) false) :
    let half (op : BitVec 5) (d r : BitVec 8) (i : Nat) : DWord :=
      BitVec.ofNat 64 (pairOp op x.flush (x.w.lane d.toNat i).val.toNat (x.w.lane r.toNat i).val.toNat)
    execPairWord p s = .next (s.later x (pairHdr p) 8 4
      (vWrite p.adst.toNat x.w.act (half p.aop p.adst p.asrc) ++ vWrite p.bdst.toNat x.w.act (half p.bop p.bdst p.bsrc))) := by
  have hact : x.w.eff (pairHdr p) = x.w.act := (effectiveMask x.w (pairHdr p)).2.2.2.2.2.2 p
  intro half
  simp only [half, ← x.n32_v, ← hact]
  rw [← hact] at r
  exact alu_ready r (Checks.all_four ..) rfl rfl rfl

end PredicateWords

/-- Settles O10: each word by its own meaning. -/
theorem predicateAndPairResults : Obligations.PredicateAndPairResults := by
  intro s x h
  refine ⟨fun kD kA kB => ⟨fun r => ⟨pred2_ready r, pred2_ready r, pred2_ready r⟩,
      fun r => ⟨execKnot_ready r, execKmov_k_ready r⟩⟩,
    fun kD l b r => execKmov_s_ready r, fun d kA r => ⟨execKmov_toS_ready r, execKpop_ready r⟩, fun p => ?_⟩
  exact execPairWord_ready

end Sys2Proof.Machine
end

section
namespace Sys2Proof.Machine

/-! ### Lane operations (R137, R150 to R153, R170) -/

/-- The same readiness under operand checks written in another way. -/
theorem Ready.withOk {s : State} {x : Ctx} {h : Hdr} {ok ok' ctl : Bool} {reads : List Rd} (r : Ready s x h ok reads ctl)
    (hok : ok' = true) : Ready s x h ok' reads ctl :=
  { r with operands := hok }

/-- One more register read that meets no tag. -/
theorem Ready.andRead {s : State} {x : Ctx} {h : Hdr} {ok ctl : Bool} {reads : List Rd} {rd : Rd}
    (r : Ready s x h ok reads ctl) (hrd : rd.tags x.w = []) : Ready s x h ok (reads ++ [rd]) ctl :=
  { r with clean := fun q hq => (List.mem_append.1 hq).elim (r.clean q) fun h => List.mem_singleton.1 h ▸ hrd }

/-- The lanes that a clean operand names are read. -/
theorem Ready.laneReads {s : State} {x : Ctx} {h : Hdr} {ok ctl : Bool} {n : Src}
    (r : Ready s x h ok (Rd.src n false (x.w.eff h)) ctl) (src : Ctx → Rd) :
    s.laneReads n (x.w.eff h) src = Rd.src n false (x.w.eff h) ++ [src x] := by
  simp only [State.laneReads, r.ctx, poisonTrap_clean r.clean, Option.isSome_none, Bool.false_eq_true, if_false]

theorem vDst_isSreg {A n : Nat} {d : Operand} (hd : vDst A n d = true) : isSreg d = false := by
  cases d <;> simp_all [vDst, isSreg]

theorem sDst_isSreg {wide : Bool} {d : Operand} (hd : sDst wide d = true) : isSreg d = true := by
  cases d <;> simp_all [sDst, isSreg]

/-- All the lanes, or none, by a condition. -/
theorem allBits_eq_ite (p : Prop) [Decidable p] {b : Bool} (hb : b = true ↔ p) : allBits b = if p then fullMask else 0 :=
  if_congr hb rfl rfl

/-- The lanes of a mask that is built lane by lane. -/
theorem laneOn_foldl_or {f : Nat → Nat} {is : List Nat} {q : LaneMask} {l : Nat}
    (hl : laneOn (is.foldl (fun q i => q ||| (1#32 <<< f i)) q) l = true) : laneOn q l = true ∨ ∃ i ∈ is, l = f i := by
  induction is generalizing q with
  | nil => exact .inl hl
  | cons i is ih =>
    rcases ih hl with h | ⟨j, hj, e⟩
    · simp only [laneOn, BitVec.getLsbD_or, Bool.or_eq_true] at h
      rcases h with h | h
      · exact .inl h
      · refine .inr ⟨i, List.mem_cons_self, ?_⟩
        simp only [BitVec.getLsbD_shiftLeft, BitVec.getLsbD_one, Bool.and_eq_true, Bool.not_eq_true', decide_eq_false_iff_not,
          decide_eq_true_eq] at h
        omega
    · exact .inr ⟨j, List.mem_cons_of_mem _ hj, e⟩

theorem Rd.tags_v_eq_nil {w : Warp} {r : BitVec 8} {lanes : LaneMask}
    (h : ∀ l, laneOn lanes l = true → (w.lane r.toNat l).tag = .clean) : (Rd.of (.v r) false lanes).tags w = [] := by
  simp only [Rd.tags, Rd.of, Bool.false_eq_true, if_false]
  split
  · rfl
  · refine List.flatMap_eq_nil_iff.2 fun l hl => ?_
    have hon : laneOn lanes l = true := (List.mem_filter.1 hl).2
    simp [h l hon]

theorem Rd.tags_s_eq_nil {w : Warp} {r : Fin 96} {lanes : LaneMask} (h : (w.sreg r.val).tag = .clean) :
    (Rd.of (.s r) false lanes).tags w = [] := by
  simp [Rd.tags, Rd.of, h]

section LaneWords

variable {s : State} {x : Ctx} {h : Hdr} {l : Bool} {t : BitTy} {d a : Operand} {b : Src} {kD kS : KField}

/-- S2V writes the lane that its second source names, if the word acts on it. -/
theorem execS2v_ready
    (r : Ready s x h (vDst x.w.alloc (regsOf (bitWide t)) d && !isVec a && vSrc x.w.alloc (bitWide t) a && sSrc1 false b)
      (Rd.of a (bitWide t) (x.w.eff h) :: Rd.src b false (x.w.eff h)) false) :
    execS2v h l t d a b s = .next (s.later x h (lenOf l) 2
      (vWriteW (bitWide t) (regOf d) (x.w.eff h &&& (1#32 <<< (x.n32Src b % 32))) fun _ =>
        x.read (rdW (bitWide t)) a (x.n32Src b % 32))) :=
  alu_ready r (by simp [Bool.and_assoc]) rfl rfl rfl

theorem execV2s_ready
    (r : Ready s x h (sDst (bitWide t) d && isVec a && vSrc x.w.alloc (bitWide t) a && sSrc1 false b)
      (Rd.src b false (x.w.eff h)) false)
    (ha : (Rd.of a (bitWide t) (1#32 <<< (x.n32Src b % 32))).tags x.w = []) :
    execV2s h l t d a b s = .next (s.later x h (lenOf l) 6
      (sWriteW (bitWide t) (regOf d) (x.read (rdW (bitWide t)) a (x.n32Src b % 32)))) :=
  alu_ready (r.andRead ha) (by simp [Bool.and_assoc]) (r.laneReads _) rfl rfl

theorem execMatchW_ready (r : VectorReady1 s x h 1 (bitWide t) d a) :
    execMatchW h t d a s = .next (s.later x h 8 6 (vWrite (regOf d) (x.w.eff h) fun i =>
      (x.w.eff h &&& maskOf fun j => x.read (rdW (bitWide t)) a j == x.read (rdW (bitWide t)) a i).setWidth 64)) :=
  alu_ready r (Checks.all_two ..) rfl rfl rfl

/-- The lane that SHFL reads for a lane. -/
def Ctx.shflFrom (x : Ctx) (m : ShflMode) (b : Src) (i : Nat) : Nat := (shflLane m i (x.n32Src b i)).getD i

/-- No source lane is tagged, whether it is active or not. -/
theorem shflReads_clean {f : Nat → Nat} {is : List Nat}
    (hv : ∀ i ∈ is, ∀ r, a = .v r → (x.w.lane r.toNat (f i)).tag = .clean)
    (hs : ∀ r, a = .s r → (x.w.sreg r.val).tag = .clean) :
    (Rd.of a false (is.foldl (fun q i => q ||| (1#32 <<< f i)) 0#32)).tags x.w = [] := by
  cases a with
  | v r =>
    refine Rd.tags_v_eq_nil fun l hl => ?_
    rcases laneOn_foldl_or hl with h0 | ⟨i, hi, rfl⟩
    · simp [laneOn] at h0
    · exact hv i hi r rfl
  | s r => exact Rd.tags_s_eq_nil (hs r rfl)
  | special c => rfl
  | const c => rfl
  | reserved c => rfl

theorem execShfl_ready {m : ShflMode}
    (r : Ready s x h (vDst x.w.alloc 1 d && vSrc x.w.alloc false a && vSrc1 x.w.alloc false b)
      (Rd.src b false (x.w.eff h)) false)
    (hv : ∀ i ∈ lanesOf (x.w.eff h), ∀ r, a = .v r → (x.w.lane r.toNat (x.shflFrom m b i)).tag = .clean)
    (hs : ∀ r, a = .s r → (x.w.sreg r.val).tag = .clean) :
    execShfl h l m d a b s = .next (s.later x h (lenOf l) 6
      (vWrite (regOf d) (x.w.eff h) fun i => x.read .i32 a (x.shflFrom m b i))) :=
  alu_ready (r.andRead (shflReads_clean hv hs)) (Checks.all_three ..) (r.laneReads _) rfl rfl

theorem execVote_all_ready (r : Ready s x h (kOk kD && kOk kS) [] false) :
    execVote h (.all kD) kS s = .next (s.later x h 8 6 [.k kD.idx.toNat (x.w.eff h)
      (if x.k kS &&& x.w.eff h = x.w.eff h then fullMask else 0)]) := by
  rw [← allBits_eq_ite (b := x.k kS &&& x.w.eff h == x.w.eff h) _ beq_iff_eq]
  exact alu_ready r (Checks.all_two ..) rfl rfl rfl

theorem execVote_any_ready (r : Ready s x h (kOk kD && kOk kS) [] false) :
    execVote h (.any kD) kS s = .next (s.later x h 8 6 [.k kD.idx.toNat (x.w.eff h)
      (if x.k kS &&& x.w.eff h ≠ 0 then fullMask else 0)]) := by
  rw [← allBits_eq_ite (b := x.k kS &&& x.w.eff h != 0) _ bne_iff_ne]
  exact alu_ready r (Checks.all_two ..) rfl rfl rfl

theorem execVote_eq_ready (r : Ready s x h (kOk kD && kOk kS) [] false) :
    execVote h (.eq kD) kS s = .next (s.later x h 8 6 [.k kD.idx.toNat (x.w.eff h)
      (if x.k kS &&& x.w.eff h = 0 ∨ x.k kS &&& x.w.eff h = x.w.eff h then fullMask else 0)]) := by
  rw [← allBits_eq_ite (b := x.k kS &&& x.w.eff h == 0 || x.k kS &&& x.w.eff h == x.w.eff h) _
    (by rw [Bool.or_eq_true, beq_iff_eq, beq_iff_eq])]
  exact alu_ready r (Checks.all_two ..) rfl rfl rfl

theorem execVote_ballot_ready (r : Ready s x h (sDst false d && kOk kS) [] false) :
    execVote h (.ballot d) kS s =
      .next (s.later x h 8 6 [.s (regOf d) { val := x.k kS &&& x.w.eff h, tag := .clean }]) := by
  rw [← sWriteW_mask]
  exact alu_ready r (Checks.all_two ..) rfl rfl rfl

variable {op : RedOp} {ty : TypeField}

theorem execWred_vector_ready (hty : tyOk ty = true) (r : VectorReady1 s x h 1 false d a) :
    execWred h op ty d a s = .next (s.later x h 8 10 (vWrite (regOf d) (x.w.eff h) fun _ =>
      BitVec.ofNat 64 (combine op ty.ty.toNat ((lanesOf (x.w.eff h)).map (x.redVal ty a))))) := by
  obtain ⟨hd, ha⟩ := (Bool.and_eq_true _ _).mp r.operands
  rw [execWred, alu_ready (r.withOk (by rw [Checks.all_three, hd, ha, hty]; rfl)) rfl rfl rfl rfl, vDst_isSreg hd]
  rfl

theorem execWred_scalar_ready (hty : tyOk ty = true)
    (r : Ready s x h (sDst false d && vSrc x.w.alloc false a) [Rd.of a false (x.w.eff h)] false) :
    execWred h op ty d a s = .next (s.later x h 8 10 [.s (regOf d)
      { val := BitVec.ofNat 32 (combine op ty.ty.toNat ((lanesOf (x.w.eff h)).map (x.redVal ty a))), tag := .clean }]) := by
  obtain ⟨hd, ha⟩ := (Bool.and_eq_true _ _).mp r.operands
  rw [← sWriteW_ofNat, execWred, alu_ready (r.withOk (by rw [Checks.all_three, hd, ha, hty, Bool.or_true]; rfl)) rfl rfl rfl rfl,
    sDst_isSreg hd]
  rfl

theorem execWscan_ready (hty : tyOk ty = true) (r : VectorReady1 s x h 1 false d a) :
    execWscan h op ty d a s = .next (s.later x h 8 10 (vWrite (regOf d) (x.w.eff h) fun i =>
      BitVec.ofNat 64 (combine op ty.ty.toNat (((lanesOf (x.w.eff h)).filter (· ≤ i)).map (x.redVal ty a))))) := by
  rw [execWscan, alu_ready (r.andOk hty) (Checks.all_three ..) rfl rfl rfl]

end LaneWords

/-- Settles O9: each word by its own meaning, VOTE by its form and WRED by the kind of its destination. -/
theorem laneOperationResults : Obligations.LaneOperationResults := by
  intro s x h l d a b kD kS eff A val
  refine ⟨fun t => ?_, fun r m hv hs => execShfl_ready r hv hs,
    fun r => ⟨execVote_all_ready r, execVote_any_ready r, execVote_eq_ready r⟩, fun r => execVote_ballot_ready r,
    fun op ty hty => ⟨fun r => ⟨execWred_vector_ready hty r, execWscan_ready hty r⟩, fun r => execWred_scalar_ready hty r⟩⟩
  exact ⟨fun r => execS2v_ready r, fun r ha => execV2s_ready r ha, fun r => execMatchW_ready r⟩

end Sys2Proof.Machine
end

section
namespace Sys2Proof.Machine

/-! ### The frame of the arithmetic words of fixed latency (R76, R108, R129) -/

/-- What a word answers is the course of a word of fixed latency that does not block, and it writes its destinations alone, in
vector registers on lanes of its effective mask. -/
def WritesWithin (D : Dests) (h : Hdr) (s : State) (o : Host.Outcome State Fault Refusal) : Prop :=
  ∃ f lat wr, o = alu h f lat wr s ∧ f.zeroSteep = false ∧ ∀ x : Ctx, ∀ q ∈ wr x (x.w.eff h), q.within D (x.w.eff h)

/-! #### The writes of each kind of result -/

theorem and_not_self_of_subset {m e : LaneMask} (hm : ∃ k, m = e &&& k) : m &&& ~~~e = 0 := by
  obtain ⟨k, rfl⟩ := hm
  rw [BitVec.and_comm e k, BitVec.and_assoc]
  simp

theorem subset_self (e : LaneMask) : ∃ k, e = e &&& k := ⟨e, BitVec.and_self.symm⟩

theorem within_vWriteW {wide : Bool} {d : Operand} {m e : LaneMask} {f : Nat → DWord} {D : Dests}
    (hD : ∀ r ∈ regsFrom wide d, r ∈ D.v) (hm : ∃ k, m = e &&& k) : ∀ q ∈ vWriteW wide (regOf d) m f, q.within D e := by
  have hsub := and_not_self_of_subset hm
  cases wide with
  | false => simpa [vWriteW, vWrite, Wr.within, regsFrom, hsub] using hD
  | true => simpa [vWriteW, vWrite64, Wr.within, regsFrom, hsub] using hD

theorem within_sWriteW {wide : Bool} {d : Operand} {v : DWord} (e : LaneMask) :
    ∀ q ∈ sWriteW wide (regOf d) v, q.within (.sca wide d) e := by
  cases wide <;> simp [sWriteW, pairWrites, Wr.within, Dests.sca, regsFrom]

theorem within_kWrite {k : KField} {m v : LaneMask} {D : Dests} (hD : k.idx.toNat ∈ D.k) (e : LaneMask) :
    ∀ q ∈ kWrite k m v, q.within D e := by
  simpa [kWrite, Wr.within] using hD

section Shapes

variable {h : Hdr} {s : State} {f : Form} {lat : Nat} {d : Operand} {k : KField} {wide : Bool}

theorem writesWithin_scalar {g : Ctx → LaneMask → DWord} (hz : f.zeroSteep = false) :
    WritesWithin (.sca wide d) h s (alu h f lat (fun x m => sWriteW wide (regOf d) (g x m)) s) :=
  ⟨f, lat, _, rfl, hz, fun x => within_sWriteW (x.w.eff h)⟩

theorem writesWithin_vector {g : Ctx → LaneMask → Nat → DWord} (hz : f.zeroSteep = false) :
    WritesWithin (.vec wide d) h s (alu h f lat (fun x m => vWriteW wide (regOf d) m (g x m)) s) :=
  ⟨f, lat, _, rfl, hz, fun x => within_vWriteW (fun _ hr => hr) (subset_self (x.w.eff h))⟩

theorem writesWithin_predicate {m g : Ctx → LaneMask → LaneMask} (hz : f.zeroSteep = false) :
    WritesWithin (.pred k) h s (alu h f lat (fun x e => kWrite k (m x e) (g x e)) s) :=
  ⟨f, lat, _, rfl, hz, fun x => within_kWrite List.mem_cons_self (x.w.eff h)⟩

end Shapes

theorem fmtOfF_beq_f64 (t : FTy) : (t == .f64) = (fmtOfF t == .f64) := by cases t <;> rfl

section SharedShapes

variable {h : Hdr} {s : State} {l : Bool} {lat : Nat} {d a c : Operand} {b : Src}

theorem scalarInt_writesWithin {t : IntTy} {op : ITy → Int → Int → DWord} :
    WritesWithin (.sca (intWide t) d) h s (scalarInt h l t lat d a b op s) := writesWithin_scalar rfl

theorem scalarBit_writesWithin {t : BitTy} {op : DWord → DWord → DWord} :
    WritesWithin (.sca (bitWide t) d) h s (scalarBit h l t d a b op s) := writesWithin_scalar rfl

theorem scalarCtl_writesWithin {t : BitTy} {op : Nat → DWord → Nat → DWord} :
    WritesWithin (.sca (bitWide t) d) h s (scalarCtl h l t d a b op s) := writesWithin_scalar rfl

theorem scalarCount_writesWithin {t : BitTy} {op : Nat → Nat → Nat} :
    WritesWithin (.sca false d) h s (scalarCount h t d a op s) := writesWithin_scalar rfl

theorem vecInt_writesWithin {t : IntTy} {op : ITy → Int → Int → DWord} :
    WritesWithin (.vec (intWide t) d) h s (vecInt h l t lat d a b op s) := writesWithin_vector rfl

theorem vecBit_writesWithin {t : BitTy} {op : DWord → DWord → DWord} :
    WritesWithin (.vec (bitWide t) d) h s (vecBit h l t d a b op s) := writesWithin_vector rfl

theorem vecCtl_writesWithin {t : BitTy} {op : Nat → DWord → Nat → DWord} :
    WritesWithin (.vec (bitWide t) d) h s (vecCtl h l t d a b op s) := writesWithin_vector rfl

theorem vecBit3_writesWithin {t : BitTy} {op : Nat → DWord → DWord → Nat → DWord} :
    WritesWithin (.vec (bitWide t) d) h s (vecBit3 h t d a b c op s) := writesWithin_vector rfl

theorem vecUnary_writesWithin {t : BitTy} {wide : Bool} {op : Nat → DWord → DWord} :
    WritesWithin (.vec wide d) h s (vecUnary h t wide d a op s) := writesWithin_vector rfl

theorem vecDot_writesWithin {sg : Sg} {sat : Bool} {n bits : Nat} :
    WritesWithin (.vec false d) h s (vecDot h sg sat n bits d a b c s) := writesWithin_vector rfl

theorem float2_writesWithin {f : Fmt} {g : Bool → Nat → Nat → Nat} :
    WritesWithin (.vec (f == .f64) d) h s (float2 h l f d a b g s) := writesWithin_vector rfl

theorem float1_writesWithin {f : Fmt} {wide : Bool} {g : Bool → Nat → Nat} :
    WritesWithin (.vec wide d) h s (float1 h l f wide d a g s) := writesWithin_vector rfl

theorem packed2_writesWithin {f : Fmt} {g : Bool → Nat → Nat → Nat} :
    WritesWithin (.vec false d) h s (packed2 h l f d a b g s) := writesWithin_vector rfl

theorem pred2_writesWithin {kD kA kB : KField} {op : LaneMask → LaneMask → LaneMask} :
    WritesWithin (.pred kD) h s (pred2 h kD kA kB op s) := writesWithin_predicate rfl

end SharedShapes

section Words

variable {h : Hdr} {s : State} {d a : Operand} {b : Src} {kC : KField}

/-- S2V writes one lane, and none outside the effective mask. -/
theorem execS2v_writesWithin {l : Bool} {t : BitTy} :
    WritesWithin (.vec (bitWide t) d) h s (execS2v h l t d a b s) :=
  ⟨_, _, _, rfl, rfl, fun _ => within_vWriteW (fun _ hr => hr) ⟨_, rfl⟩⟩

theorem execIaddc_writesWithin {t : CarryTy} :
    WritesWithin { Dests.vec (t == .n64) d with k := [kC.idx.toNat] } h s (execIaddc h t d a b kC s) :=
  ⟨_, _, _, rfl, rfl, fun x q hq => (List.mem_append.1 hq).elim
    (within_vWriteW (fun _ hr => hr) (subset_self (x.w.eff h)) q) (within_kWrite List.mem_cons_self _ q)⟩

/-- CVT of a reserved type fails its operand check, and would write nothing. -/
theorem execCvt_writesWithin {rm : RM} {cv : ConvField} :
    WritesWithin (.vec (((CvtTy.ofBits cv.tgt).map cvtWide).getD false) d) h s (execCvt h rm cv d a s) := by
  refine ⟨_, _, _, rfl, rfl, fun x => ?_⟩
  split
  · exact within_vWriteW (fun _ hr => hr) (subset_self (x.w.eff h))
  · exact fun q hq => nomatch hq

theorem execFrnd_writesWithin {l : Bool} {t : FTy} {rm : RM} :
    WritesWithin (.vec (t == .f64) d) h s (execFrnd h l t rm d a s) := by
  unfold execFrnd
  rw [fmtOfF_beq_f64]
  exact float1_writesWithin

theorem execRng_writesWithin {l : Bool} {n : Operand} {imm : Word} :
    WritesWithin { v := (List.range 4).map (regOf d + ·), s := [], k := [] } h s (execRng h l d a n imm s) := by
  refine ⟨_, _, _, rfl, rfl, fun x q hq => ?_⟩
  obtain ⟨i, hi, rfl⟩ := List.mem_map.1 hq
  exact ⟨List.mem_map_of_mem hi, and_not_self_of_subset (subset_self (x.w.eff h))⟩

theorem execVote_writesWithin {v : VoteForm} {kS : KField} {D : Dests} (hD : destsOf (.vote h v kS) = some D) :
    WritesWithin D h s (execVote h v kS s) := by
  cases v with
  | ballot d => cases hD; exact writesWithin_scalar rfl
  | all k => cases hD; exact writesWithin_predicate rfl
  | any k => cases hD; exact writesWithin_predicate rfl
  | eq k => cases hD; exact writesWithin_predicate rfl

theorem execKmov_writesWithin {v : KmovForm} {D : Dests} (hD : destsOf (.kmov h v) = some D) :
    WritesWithin D h s (execKmov h v s) := by
  cases v with
  | k kD kA => cases hD; exact writesWithin_predicate rfl
  | s l kD b => cases hD; exact writesWithin_predicate rfl
  | toS d kA => cases hD; exact writesWithin_scalar rfl

/-- WRED writes the kind of register that its destination is. -/
theorem execWred_writesWithin {op : RedOp} {ty : TypeField} :
    WritesWithin (if isSreg d then .sca false d else .vec false d) h s (execWred h op ty d a s) := by
  refine ⟨_, _, _, rfl, rfl, fun x => ?_⟩
  dsimp only
  split
  · exact within_sWriteW (x.w.eff h)
  · exact within_vWriteW (wide := false) (fun _ hr => hr) (subset_self (x.w.eff h))

theorem execPairWord_writesWithin {p : PairWord} :
    WritesWithin { v := [p.adst.toNat, p.bdst.toNat], s := [], k := [] } (pairHdr p) s (execPairWord p s) := by
  refine ⟨_, _, _, rfl, rfl, fun x q hq => (List.mem_append.1 hq).elim ?_ ?_⟩
  · exact within_vWriteW (wide := false) (d := .v p.adst) (fun r hr => by simp_all [regsFrom, regOf])
      (subset_self (x.w.eff (pairHdr p))) q
  · exact within_vWriteW (wide := false) (d := .v p.bdst) (fun r hr => by simp_all [regsFrom, regOf])
      (subset_self (x.w.eff (pairHdr p))) q

end Words

/-- Every arithmetic word of fixed latency writes its destinations alone. -/
theorem exec_writesWithin {i : Instr} {h : Hdr} {D : Dests} (hh : hdrOf i = some h) (hD : destsOf i = some D) (s : State) :
    WritesWithin D h s (exec i s) := by
  cases i
  case vote => cases hh; exact execVote_writesWithin hD
  case kmov => cases hh; exact execKmov_writesWithin hD
  all_goals cases hh <;> cases hD <;> dsimp only [exec]
  case s2v => exact execS2v_writesWithin
  case iaddc => exact execIaddc_writesWithin
  case cvt => exact execCvt_writesWithin
  case rng => exact execRng_writesWithin
  case wred => exact execWred_writesWithin
  case pairWord => exact execPairWord_writesWithin
  case sadd | ssub | smul | smin | smax => exact scalarInt_writesWithin
  case sand | sor | sxor => exact scalarBit_writesWithin
  case sshl | sshr | ssra | sbfe => exact scalarCtl_writesWithin
  case spopc | sclz => exact scalarCount_writesWithin
  case smov | smovl | smad | sadd64 | smad64 | ssel | v2s | kpop => exact writesWithin_scalar rfl
  case iadd | isub | imul | imulh | imin | imax => exact vecInt_writesWithin
  case iand | ior | ixor => exact vecBit_writesWithin
  case ishl | ishr | isra | ibfe => exact vecCtl_writesWithin
  case ifunnel | ibfi => exact vecBit3_writesWithin
  case inot | ipopc | iclz => exact vecUnary_writesWithin
  case idp4 | idp2 => exact vecDot_writesWithin
  case fadd | fsub | fmul | fmin | fmax => rw [fmtOfF_beq_f64]; exact float2_writesWithin
  case frnd => exact execFrnd_writesWithin
  case ffma => rw [fmtOfF_beq_f64]; exact writesWithin_vector rfl
  case fclass => exact float1_writesWithin
  case hadd2 | hmul2 | hmin2 | hmax2 => exact packed2_writesWithin
  case mov | imad | iabs | isel | hfma2 | fdot2 | cvtSr | pack | unpack | qnt | dqnt | shfl | wscan | matchW =>
    exact writesWithin_vector rfl
  case kand | kor | kxor => exact pred2_writesWithin
  case scmp | icmp | fcmp | knot => exact writesWithin_predicate rfl

/-- What a warp keeps once a word has issued and its writes are to come. -/
theorem Warp.issued_defer_frame (w : Warp) (h : Hdr) (len cycle extra lat : Nat) (ws : List Wr) :
    let u := ((w.issued h len cycle extra).incFlag h.set).defer cycle lat ws
    u = { w with pc := u.pc, order := u.order, notBefore := u.notBefore, flags := u.flags
                 pend := w.pend ++ ws.map fun q => { due := cycle + lat, ord := w.order + 1, wr := q } } := by
  intro u
  rw [show u = _ from congrArg (fun v : Warp => v.defer cycle lat ws) (Warp.issued_frame ..)]
  rfl

theorem State.memByte_setWarp (s : State) (w : Warp) (pa : Nat) : (s.setWarp w).memByte pa = s.memByte pa := rfl

/-- Settles O59: an arithmetic word traps, only advances under an empty mask, or advances and leaves its writes to come. -/
theorem arithmeticFrame : Obligations.ArithmeticFrame := by
  intro i h D s t x hh hD hx ht
  obtain ⟨f, lat, wr, hexec, hz, hwithin⟩ := exec_writesWithin hh hD s
  rcases alu_cases hx (hexec ▸ ht) with ⟨tr, rfl⟩ | rfl | rfl
  · exact .inl ⟨tr, by rw [State.takeWordTrap, hz]; rfl⟩
  · refine .inr ⟨.setWarp .., fun pa => State.memByte_setWarp .., _, [], State.warp_setWarp .., ?_, fun _ _ => rfl, nofun⟩
    simp only [Warp.issued, List.append_nil]
  · refine .inr ⟨.setWarp .., fun pa => State.memByte_setWarp .., _, _, State.warp_setWarp .., Warp.issued_defer_frame ..,
      fun g hg => Warp.flag_incFlag_of_ne _ _ hg, fun p hp => ?_⟩
    obtain ⟨q, hq, rfl⟩ := List.mem_map.1 hp
    exact hwithin x q hq

end Sys2Proof.Machine
end

section
namespace Sys2Proof.Machine

/-! ### Words under an empty effective mask (R76, R88, R90) -/

/-- A word of length `n` takes the course of `issue`, with the same operand checks in every state. -/
def Issues (h : Hdr) (n : Nat) (run : State → Host.Outcome State Fault Refusal) : Prop :=
  ∃ cs z, ∀ s, ∃ rs sp ex body, run s =
    issue h { len := n, checks := cs, reads := rs, spatialOk := sp, extra := ex, zeroSteep := z } body s

/-- A word whose form does not depend on the state. -/
theorem issues_issue {h : Hdr} {f : Form} {body : State → Ctx → LaneMask → State → Except Trap State} :
    Issues h f.len (fun s => issue h f (body s) s) :=
  ⟨f.checks, f.zeroSteep, fun s => ⟨f.reads, f.spatialOk, f.extra, body s, rfl⟩⟩

theorem issues_alu {h : Hdr} {f : Form} {lat : Nat} {wr : Ctx → LaneMask → List Wr} :
    Issues h f.len (fun s => alu h f lat wr s) :=
  issues_issue

theorem issues_aluVar {h : Hdr} {f : Form} {wr : Ctx → LaneMask → List Wr} :
    Issues h f.len (fun s => aluVar h f wr s) :=
  issues_issue

section SharedShapes

variable {h : Hdr} {l : Bool} {lat : Nat} {d a c : Operand} {b : Src}

theorem scalarInt_issues {t : IntTy} {op : ITy → Int → Int → DWord} :
    Issues h (lenOf l) (fun s => scalarInt h l t lat d a b op s) := issues_alu

theorem scalarBit_issues {t : BitTy} {op : DWord → DWord → DWord} :
    Issues h (lenOf l) (fun s => scalarBit h l t d a b op s) := issues_alu

theorem scalarCtl_issues {t : BitTy} {op : Nat → DWord → Nat → DWord} :
    Issues h (lenOf l) (fun s => scalarCtl h l t d a b op s) := issues_alu

theorem scalarCount_issues {t : BitTy} {op : Nat → Nat → Nat} :
    Issues h 8 (fun s => scalarCount h t d a op s) := issues_alu

theorem vecInt_issues {t : IntTy} {op : ITy → Int → Int → DWord} :
    Issues h (lenOf l) (fun s => vecInt h l t lat d a b op s) := issues_alu

theorem vecBit_issues {t : BitTy} {op : DWord → DWord → DWord} :
    Issues h (lenOf l) (fun s => vecBit h l t d a b op s) := issues_alu

theorem vecCtl_issues {t : BitTy} {op : Nat → DWord → Nat → DWord} :
    Issues h (lenOf l) (fun s => vecCtl h l t d a b op s) := issues_alu

theorem vecBit3_issues {t : BitTy} {op : Nat → DWord → DWord → Nat → DWord} :
    Issues h 16 (fun s => vecBit3 h t d a b c op s) := issues_alu

theorem vecUnary_issues {t : BitTy} {wide : Bool} {op : Nat → DWord → DWord} :
    Issues h 8 (fun s => vecUnary h t wide d a op s) := issues_alu

theorem vecDot_issues {sg : Sg} {sat : Bool} {n bits : Nat} :
    Issues h 16 (fun s => vecDot h sg sat n bits d a b c s) := issues_alu

theorem float2_issues {f : Fmt} {g : Bool → Nat → Nat → Nat} :
    Issues h (lenOf l) (fun s => float2 h l f d a b g s) := issues_alu

theorem float1_issues {f : Fmt} {wide : Bool} {g : Bool → Nat → Nat} :
    Issues h (lenOf l) (fun s => float1 h l f wide d a g s) := issues_alu

theorem floatVar_issues {f : Fmt} {g : Nat → Nat} :
    Issues h (lenOf l) (fun s => floatVar h l f d a g s) := issues_aluVar

theorem packed2_issues {f : Fmt} {g : Bool → Nat → Nat → Nat} :
    Issues h (lenOf l) (fun s => packed2 h l f d a b g s) := issues_alu

theorem pred2_issues {kD kA kB : KField} {op : LaneMask → LaneMask → LaneMask} :
    Issues h 8 (fun s => pred2 h kD kA kB op s) := issues_alu

theorem modeWord_issues {bits : Operand} {op : BitVec 3 → BitVec 3 → BitVec 3} :
    Issues h 8 (fun s => modeWord h bits op s) := issues_issue

theorem storeWord_issues {sp : Sp} {full scl : Bool} {hint : Hint} {sz : Size} {b : Operand} {disp : Word} :
    Issues h (lenOf l) (fun s => storeWord h l sp full hint sz scl d a b disp s) := by
  unfold storeWord
  exact issues_issue

theorem atomWord_issues {sp : RwSpace} {sz : Size} {os : List (Nat × Operand)} {disp : Word}
    {upd : Ctx → Nat → Nat → Option Nat} : Issues h 16 (fun s => atomWord h sp sz d a os disp upd s) := by
  unfold atomWord
  exact issues_issue

theorem lineHint_issues {scl : Bool} {b : Operand} {disp : Word} {act : State → Nat → State} :
    Issues h (lenOf l) (fun s => lineHint h l scl a b disp act s) := issues_issue

theorem copyWord_issues {cs : Checks} {rs : LaneMask → List Rd} {mk : Ctx → CopyCmd} :
    Issues h 16 (fun s => copyWord h cs rs mk s) := issues_issue

theorem cpyxWord_issues {kind : CopyKind} {strm : Stream} {ds ep : Operand} :
    Issues h 16 (fun s => cpyxWord h kind strm d a ds ep s) := copyWord_issues

/-- A matrix word's reads may depend on the state, not its checks. -/
theorem matrixWord_issues {n : Nat} {cs : Nat → Checks} {rs : Ctx → LaneMask → List Rd} {mk : Ctx → MxCmd} :
    Issues h n (fun s => matrixWord h n cs rs mk s) :=
  ⟨cs, false, fun _ => ⟨_, _, _, _, rfl⟩⟩

theorem matrixCb_issues {o : MxOp} {cb : Operand} : Issues h 16 (fun s => matrixCb h o cb s) := matrixWord_issues

theorem matrixMem_issues {o : MxOp} {wide : Bool} {cb : Operand} {pitch : Option Word} :
    Issues h 16 (fun s => matrixMem h o wide a cb pitch s) := matrixWord_issues

theorem matrixVec_issues {o : MxOp} {v cb : Operand} : Issues h 16 (fun s => matrixVec h o v cb s) := matrixWord_issues

theorem fwWord_issues {cs : Checks} {rs : LaneMask → List Rd} {mk : Ctx → FwCmd} :
    Issues h 8 (fun s => fwWord h cs rs mk s) := issues_issue

theorem fwSlot_issues {op : FwOp} {cs : Operand} : Issues h 8 (fun s => fwSlot h op cs s) := fwWord_issues

theorem fwBlock_issues {op : FwOp} {cb : Operand} : Issues h 8 (fun s => fwBlock h op cb s) := fwWord_issues

theorem fwStat_issues {hd : Bool} {cs : Operand} : Issues h 8 (fun s => fwStat h hd d cs s) := fwWord_issues

/-- A spatial word's body depends on the state before the word. -/
theorem spatialWord_issues {cs : Checks} {rs : LaneMask → List Rd} {enter : Bool}
    {body : State → Ctx → LaneMask → State → Except Trap State} :
    Issues h (lenOf l) (fun s => spatialWord h l cs rs enter (body s) s) :=
  ⟨fun _ => cs, true, fun _ => ⟨_, _, _, _, rfl⟩⟩

theorem spCommand_issues {gs : Operand} {cs : Checks} {rs : LaneMask → List Rd} {ext : Bool}
    {cmd : Ctx → Nat → Except Nat GCmd} : Issues h (lenOf l) (fun s => spCommand h l gs cs rs ext cmd s) :=
  spatialWord_issues

theorem spstatGen_issues {gs : Operand} {v : Gen → Word} : Issues h 8 (fun s => spstatGen h d gs v s) :=
  spatialWord_issues (l := false)

end SharedShapes

/-! #### Every word takes this course -/

/-- The length of a word is its length in memory. -/
theorem encode_of_raw {i : Instr} {r : Raw} (hr : i.raw = some r) :
    encode i = if r.long then [r.word0, r.word1] else [r.word0] := by
  unfold encode
  split
  · cases hr
  · simp only [hr]

theorem length_encode {i : Instr} {r : Raw} (hr : i.raw = some r) : 8 * (encode i).length = lenOf r.long := by
  rw [encode_of_raw hr]
  cases r.long <;> rfl

/-- V2S and SHFL name their lanes by an operand, which is read in the state. -/
theorem issues_alu_of_reads {h : Hdr} {n lat : Nat} {cs : Nat → Checks} {rs : State → LaneMask → List Rd} {sp : Bool}
    {wr : Ctx → LaneMask → List Wr} :
    Issues h n (fun s => alu h { len := n, checks := cs, reads := rs s, spatialOk := sp } lat wr s) :=
  ⟨cs, false, fun s => ⟨rs s, sp, 0, _, rfl⟩⟩

theorem execMms_issues {h : Hdr} {ta : MTy} {tb zi : Bool} {m : MatOpd} {cb : Operand} :
    Issues h 16 (fun s => execMms h ta tb zi m cb s) := by
  cases m with
  | mem a pitch => exact matrixMem_issues
  | regs v => exact matrixVec_issues

theorem execAld_issues {h : Hdr} {m : MatOpd} {cb : Operand} : Issues h 16 (fun s => execAld h m cb s) := by
  cases m with
  | mem a pitch => exact matrixMem_issues
  | regs v => exact matrixVec_issues

theorem execAdrn_issues {h : Hdr} {act : ActFn} {t : DrainTy} {bias sat clr : Bool} {m : MatOpd} {cb : Operand} :
    Issues h 16 (fun s => execAdrn h act t bias sat clr m cb s) := by
  cases m with
  | mem a pitch => exact matrixMem_issues
  | regs v => exact matrixWord_issues

/-- TRAP and HALT act in the state before the word. -/
theorem execTrap_issues {h : Hdr} {n : Operand} : Issues h 8 (fun s => execTrap h n s) :=
  ⟨_, _, fun _ => ⟨_, _, _, _, rfl⟩⟩

/-- The arithmetic words of fixed latency. -/
theorem exec_issues_of_destsOf {i : Instr} {h : Hdr} {r : Raw} {D : Dests} (hh : hdrOf i = some h) (hr : i.raw = some r)
    (hD : destsOf i = some D) : Issues h (lenOf r.long) (fun s => exec i s) := by
  cases i
  case vote => cases hh; cases hr; dsimp only [exec, execVote]; exact issues_alu
  case kmov h v =>
    cases hh
    cases v <;> cases hr <;> dsimp only [exec, execKmov] <;> exact issues_alu
  all_goals cases hh <;> cases hD <;> cases hr <;> dsimp only [exec]
  case v2s | shfl => exact issues_alu_of_reads
  case sadd | ssub | smul | smin | smax => exact scalarInt_issues
  case sand | sor | sxor => exact scalarBit_issues
  case sshl | sshr | ssra | sbfe => exact scalarCtl_issues
  case spopc | sclz => exact scalarCount_issues
  case iadd | isub | imul | imulh | imin | imax => exact vecInt_issues
  case iand | ior | ixor => exact vecBit_issues
  case ishl | ishr | isra | ibfe => exact vecCtl_issues
  case ifunnel | ibfi => exact vecBit3_issues
  case inot | ipopc | iclz => exact vecUnary_issues
  case idp4 | idp2 => exact vecDot_issues
  case fadd => unfold execFadd; exact float2_issues
  case fsub => unfold execFsub; exact float2_issues
  case fmul => unfold execFmul; exact float2_issues
  case fmin => unfold execFmin; exact float2_issues
  case fmax => unfold execFmax; exact float2_issues
  case frnd => unfold execFrnd; exact float1_issues
  case fclass => unfold execFclass; exact float1_issues
  case hadd2 | hmul2 | hmin2 | hmax2 => exact packed2_issues
  case kand | kor | kxor => exact pred2_issues
  all_goals exact issues_alu

/-- The other words. -/
theorem exec_issues_of_destsOf_none {i : Instr} {h : Hdr} {r : Raw} (hh : hdrOf i = some h) (hr : i.raw = some r)
    (hD : destsOf i = none) : Issues h (lenOf r.long) (fun s => exec i s) := by
  cases i
  case vote h v k => cases v <;> cases hD
  case kmov h v => cases v <;> cases hD
  all_goals cases hh <;> cases hD <;> cases hr <;> dsimp only [exec]
  case fsqrt => unfold execFsqrt; exact floatVar_issues
  case frcp | frsq | fexp2 | flog2 | fsin | fcos | ftanh => exact floatVar_issues
  case modeSet | modeClr | modeWr => exact modeWord_issues
  case st | stfe => exact storeWord_issues
  case atom | atomc => exact atomWord_issues
  case pref | cctlL1ev | cctlL2ev => exact lineHint_issues
  case cpy | cpyz | cpyg | cpys | cpyb => exact copyWord_issues
  case cpyxSend | cpyxFetch => exact cpyxWord_issues
  case wflip => exact matrixWord_issues
  case wld | mmsq | ast | smx | smxrRd | smxrWr => exact matrixMem_issues
  case aclr | amov | smxrInit | smxrNorm => exact matrixCb_issues
  case mms => exact execMms_issues
  case ald => exact execAld_issues
  case adrn => exact execAdrn_issues
  case cbind | crel | crelPin | crelUnpin | cspill | cfill => exact fwSlot_issues
  case cbindSw => exact fwWord_issues
  case delta | dqry => exact fwBlock_issues
  case cstat | cstatH => exact fwStat_issues
  case spparamBase => dsimp only [execSpparamBase]; exact spCommand_issues
  case spstream | spparamExt => exact spCommand_issues
  case spstatGen | spstatPos => exact spstatGen_issues
  case spenter => dsimp only [execSpenter]; exact spatialWord_issues (l := false)
  case spleave | spdrain | spstatRect => exact spatialWord_issues (l := false)
  case trap => exact execTrap_issues
  case ld => dsimp only [execLd]; exact issues_issue
  case ldfe => dsimp only [execLdfe]; exact issues_issue
  case red => dsimp only [execRed]; exact issues_issue
  case srd => dsimp only [execSrd]; exact issues_issue
  case swr => dsimp only [execSwr]; exact issues_issue
  case waitm => dsimp only [execWaitm]; exact issues_issue
  all_goals exact issues_issue

/-- Every word but a pair word has the fields of a full or long word. -/
theorem exists_raw_or_pairWord {i : Instr} {h : Hdr} (hh : hdrOf i = some h) :
    (∃ r, i.raw = some r) ∨ ∃ p, i = .pairWord p := by
  cases i
  case pairWord p => exact .inr ⟨p, rfl⟩
  case kmov v => cases v <;> exact .inl ⟨_, rfl⟩
  all_goals cases hh <;> exact .inl ⟨_, rfl⟩

/-- Every word takes the course of `issue`; a pair word is a word of 8 bytes. -/
theorem exec_issues {i : Instr} {h : Hdr} (hh : hdrOf i = some h) :
    Issues h (8 * (encode i).length) (fun s => exec i s) := by
  rcases exists_raw_or_pairWord hh with ⟨r, hr⟩ | ⟨p, rfl⟩
  · rw [length_encode hr]
    cases hD : destsOf i with
    | none => exact exec_issues_of_destsOf_none hh hr hD
    | some D => exact exec_issues_of_destsOf hh hr hD
  · cases hh
    dsimp only [exec]
    exact issues_alu

theorem issue_eq_of_eff_eq_zero {h : Hdr} {f : Form} {body : Ctx → LaneMask → State → Except Trap State} {s : State} {x : Ctx}
    (hx : s.ctx = some x) (hc : firstFail (f.checks x.w.alloc) = none) (he : x.w.eff h = 0) :
    issue h f body s = .next (s.setWarp (x.w.issued h f.len x.cycle 0)) := by
  simp only [issue, hx, hc, he, if_pos]

theorem issue_eq_of_firstFail {h : Hdr} {f : Form} {body : Ctx → LaneMask → State → Except Trap State} {s : State} {x : Ctx}
    {d : Nat} (hx : s.ctx = some x) (hc : firstFail (f.checks x.w.alloc) = some d) :
    issue h f body s = .next (s.takeWordTrap f.zeroSteep (trapAt cIllegalOperand (x.w.eff h) d)) := by
  simp only [issue, hx, hc]

/-- Settles O56: the operand checks come first, and what follows them needs a lane. -/
theorem emptyMaskOnlyAdvances : Obligations.EmptyMaskOnlyAdvances := by
  intro i h s x hh hx he
  obtain ⟨cs, z, hrun⟩ := exec_issues hh
  cases hc : firstFail (cs x.w.alloc) with
  | none =>
    have advances (t : State) (y : Ctx) (hy : t.ctx = some y) (ha : y.w.alloc = x.w.alloc) (hz : y.w.eff h = 0) :
        exec i t = .next (t.setWarp (y.w.issued h (8 * (encode i).length) y.cycle 0)) := by
      obtain ⟨rs, sp, ex, body, hexec⟩ := hrun t
      exact hexec.trans (issue_eq_of_eff_eq_zero hy (ha ▸ hc) hz)
    exact .inl ⟨advances s x hx rfl he, fun t y hy => advances t y hy.1 hy.2⟩
  | some d =>
    have traps (t : State) (y : Ctx) (hy : t.ctx = some y) (ha : y.w.alloc = x.w.alloc) :
        exec i t = .next (t.takeWordTrap z (trapAt cIllegalOperand (y.w.eff h) d)) := by
      obtain ⟨rs, sp, ex, body, hexec⟩ := hrun t
      exact hexec.trans (issue_eq_of_firstFail hy (ha ▸ hc))
    exact .inr ⟨z, d, he ▸ traps s x hx rfl, fun t y hy => traps t y hy.1 hy.2⟩

end Sys2Proof.Machine
end

section
namespace Sys2Proof.Machine

/-! ### Loads, stores and read-modify-writes (R158, R161, R168, R170 to R173, R176 to R178) -/

section Loads

variable {s : State} {x : Ctx} {h : Hdr} {l scl : Bool} {sp : Sys2Proof.Space} {sz : Size} {sx : Bool} {sc : Scope} {od : Order}
  {hint : Hint} {a b : Operand} {disp : BitVec 32} {locs : List (Nat × Loc)}

/-- A load of a vector register reads for every lane of the mask. -/
theorem exec_ld_vector {v : BitVec 8}
    (r : Ready s x h (vDst x.w.alloc (dataRegs (sizeBytes sz)) (.v v) && baseOk x.w.alloc (spOf sp) false a &&
      vSrc x.w.alloc false b) [Rd.of a (spOf sp).wide (x.w.eff h), Rd.of b false (x.w.eff h)] false)
    (hlocs : (s.past x h (lenOf l)).lsCheckAll x.w (spOf sp) .read (sizeBytes sz) (lanesOf (x.w.eff h))
      (x.ea (spOf sp) (sizeBytes sz) scl a (some b) disp) = .ok locs) :
    exec (.ld h l sp sz sx sc od hint scl (.v v) a b disp) s =
      let g := ((s.past x h (lenOf l)).lsWalks x.w (spOf sp)
        ((lanesOf (x.w.eff h)).map (x.ea (spOf sp) (sizeBytes sz) scl a (some b) disp))).loadLanes
        x.w (sp == .const) hint (sizeBytes sz) locs
      .next (g.2.pushLs x h (loadWrites (.v v) (sizeBytes sz) sx g.1) (locs.map (·.2)) (g.1.any fun g => g.tag == .fabric) none) := by
  dsimp only [exec, execLd]
  refine issue_of_body r (Checks.all_three ..) rfl rfl ?_
  simp only [scalarDest, Bool.false_eq_true, if_false, hlocs]

/-- A load of a scalar register reads for the lowest lane of the mask alone. -/
theorem exec_ld_scalar {v : Fin 96}
    (r : Ready s x h ((sDst (sizeBytes sz == 8) (.s v) && decide (sizeBytes sz ≤ 8)) && baseOk x.w.alloc (spOf sp) true a &&
      sSrc false b) [Rd.of a (spOf sp).wide (x.w.eff h), Rd.of b false (x.w.eff h)] true)
    (hlocs : (s.past x h (lenOf l)).lsCheckAll x.w (spOf sp) .read (sizeBytes sz) [lowestLane (x.w.eff h)]
      (x.ea (spOf sp) (sizeBytes sz) scl a (some b) disp) = .ok locs) :
    exec (.ld h l sp sz sx sc od hint scl (.s v) a b disp) s =
      let g := ((s.past x h (lenOf l)).lsWalks x.w (spOf sp)
        [x.ea (spOf sp) (sizeBytes sz) scl a (some b) disp (lowestLane (x.w.eff h))]).loadLanes
        x.w (sp == .const) hint (sizeBytes sz) locs
      .next (g.2.pushLs x h (loadWrites (.s v) (sizeBytes sz) sx g.1) (locs.map (·.2)) (g.1.any fun g => g.tag == .fabric) none) := by
  dsimp only [exec, execLd]
  refine issue_of_body r (Checks.all_three ..) rfl rfl ?_
  simp only [scalarDest, if_true, hlocs, List.map_cons, List.map_nil]

end Loads

theorem State.loadLanes_plain (s : State) (w : Warp) (hint : Hint) (n : Nat) (locs : List (Nat × Loc)) :
    s.loadLanes w false hint n locs =
      (locs.map fun p => s.lsRead p.1 n p.2, s.locAccesses (hintParty s.cur.1 hint) (locs.map (·.2)) n .read) := rfl

/-! #### The bytes of a .CONST load (R161) -/

theorem State.choose_fields (s : State) : s.choose.2 = { s with choices := s.choose.2.choices } := by
  unfold State.choose
  split <;> rfl

/-- What a .CONST load may return does not depend on the choices made before it. -/
theorem State.constBytes_choose (s : State) (la : Launch) (pa : Nat) : s.choose.2.constBytes la pa = s.constBytes la pa := by
  rw [State.choose_fields]; rfl

/-- Reading .CONST bytes only makes choices. -/
theorem State.constRead_fields (s : State) (la : Launch) (pa n : Nat) :
    (s.constRead la pa n).2 = { s with choices := (s.constRead la pa n).2.choices } := by
  induction n generalizing s pa with
  | zero => rfl
  | succ n ih =>
    simp only [State.constRead]
    rw [ih]
    split
    · rfl
    · rw [State.choose_fields]

theorem State.constLane_cur (s : State) (w : Warp) (lane n : Nat) (l : Loc) : (s.constLane w lane n l).2.cur = s.cur := by
  unfold State.constLane
  dsimp only
  split
  · split
    · rw [State.constRead_fields]
    · rfl
  · rfl

theorem State.constLanes_cur (s : State) (w : Warp) (n : Nat) (locs : List (Nat × Loc)) :
    (s.constLanes w n locs).2.cur = s.cur := by
  suffices h : ∀ gs t, (locs.foldl (fun a p => let r := a.2.constLane w p.1 n p.2; (a.1 ++ [r.1], r.2)) (gs, t) :
      List Got × State).2.cur = t.cur from h [] s
  induction locs with
  | nil => exact fun _ _ => rfl
  | cons p rest ih => exact fun gs t => (ih _ _).trans (State.constLane_cur ..)

theorem State.loadLanes_const (s : State) (w : Warp) (hint : Hint) (n : Nat) (locs : List (Nat × Loc)) :
    s.loadLanes w true hint n locs =
      let r := s.constLanes w n locs
      (r.1, r.2.locAccesses (hintParty r.2.cur.1 hint) (locs.map (·.2)) n .read) := by
  dsimp only
  rw [show (s.constLanes w n locs).2.cur = s.cur from State.constLanes_cur ..]; rfl

theorem State.length_constRead (s : State) (la : Launch) (pa n : Nat) : (s.constRead la pa n).1.length = n := by
  induction n generalizing s pa with
  | zero => rfl
  | succ n ih => simp [State.constRead, ih]

/-- Each byte that a .CONST load returns is one that its location may give. -/
theorem State.constRead_mem (s : State) (la : Launch) (pa n i : Nat) (hi : i < n) :
    (s.constRead la pa n).1.getD i 0 ∈ s.constBytes la (pa + i) := by
  induction n generalizing s pa i with
  | zero => omega
  | succ n ih =>
    simp only [State.constRead]
    cases i with
    | zero =>
      rw [List.getD_cons_zero, List.getD_eq_getElem _ _ (Nat.mod_lt _ (by simp [State.constBytes]))]
      exact List.getElem_mem _
    | succ i =>
      rw [List.getD_cons_succ, show pa + (i + 1) = pa + 1 + i by omega]
      split
      · exact ih _ _ _ (by omega)
      · have h := ih s.choose.2 (pa + 1) i (by omega)
        rwa [State.constBytes_choose] at h

theorem leBytes_leNat (bs : List Byte) : leBytes bs.length (leNat bs) = bs := by
  induction bs with
  | nil => rfl
  | cons b bs ih =>
    have hb := b.isLt
    rw [List.length_cons, leBytes, show leNat (b :: bs) = b.toNat + 256 * leNat bs from rfl,
      show (b.toNat + 256 * leNat bs) / 256 = leNat bs by omega, ih]
    congr 1
    apply BitVec.eq_of_toNat_eq
    simp only [BitVec.toNat_ofNat]
    omega

/-- A clean .CONST location gives for each byte one that it may return. -/
theorem State.constLane_of_clean {t : State} {w : Warp} {la : Launch} {pa lane k : Nat} {z : Bool} (hla : t.launchOf w = some la)
    (hclean : (t.lsRead lane k (.glob pa z)).tag = .clean) :
    (t.constLane w lane k (.glob pa z)).1.tag = .clean ∧
      ∀ i < k, ∃ v ∈ t.constBytes la (pa + i), (leBytes k (t.constLane w lane k (.glob pa z)).1.val).getD i 0 = v := by
  have hlane : (t.constLane w lane k (.glob pa z)).1 =
      { t.lsRead lane k (.glob pa z) with val := leNat (t.constRead la pa k).1 } := by
    simp only [State.constLane, hla, hclean, if_true]
  rw [hlane]
  refine ⟨hclean, fun i hi => ⟨_, t.constRead_mem la pa k i hi, ?_⟩⟩
  have hbytes := leBytes_leNat (t.constRead la pa k).1
  rw [State.length_constRead] at hbytes
  rw [hbytes]

/-! #### Writes and read-modify-writes -/

section Writes

variable {s : State} {x : Ctx} {h : Hdr} {l scl : Bool} {sz : Size} {sc : Scope} {od : Order} {hint : Hint} {d a b : Operand}
  {disp : BitVec 32} {locs : List (Nat × Loc)}

/-- Stores write in increasing order of their lanes; lanes that meet an error reply leave a fault to come. -/
theorem storeWord_ready {sp : Sp} {full : Bool} {ctl : Bool}
    (r : Ready s x h (dataOk x.w.alloc (sizeBytes sz) false d && baseOk x.w.alloc sp false a && vSrc x.w.alloc false b)
      [Rd.data d (sizeBytes sz) (x.w.eff h), Rd.of a sp.wide (x.w.eff h), Rd.of b false (x.w.eff h)] ctl)
    (hctl : (!full && sSrc (sizeBytes sz == 8) d && sSrc sp.wide a && sSrc false b) = ctl)
    (hlocs : (s.past x h (lenOf l)).lsCheckAll x.w sp .write (sizeBytes sz) ((s.past x h (lenOf l)).lsLanes (x.w.eff h))
      (x.ea sp (sizeBytes sz) scl a (some b) disp) = .ok locs) :
    storeWord h l sp full hint sz scl d a b disp s =
      let p := s.past x h (lenOf l)
      let ea := x.ea sp (sizeBytes sz) scl a (some b) disp
      let bad := (locs.filter fun e => p.locErr e.2).map (·.1)
      .next (((p.lsWalks x.w sp ((p.lsLanes (x.w.eff h)).map ea)).lsStore full hint
        (locs.map fun e => (e.1, e.2, leBytes (sizeBytes sz) (x.data d (sizeBytes sz) e.1)))).pushLs x h [] (locs.map (·.2))
        (!bad.isEmpty) (errFault (x.w.eff h) ea bad)) := by
  unfold storeWord
  refine issue_of_body r (Checks.all_three ..) rfl hctl ?_
  simp only [hlocs]

/-- The checks of a read-modify-write: its destination, its base, its operands. -/
theorem atomWord_ready {sp : RwSpace} {os : List (Nat × Operand)} {upd : Ctx → Nat → Nat → Option Nat} {ok : Bool} {reads : List Rd}
    (r : Ready s x h ok reads false)
    (hok : (vDst x.w.alloc (dataRegs (sizeBytes sz)) d && baseOk x.w.alloc (spOfRw sp) false a &&
      os.all fun p => dataOk x.w.alloc (sizeBytes sz) true p.2) = ok)
    (hreads : Rd.of a (spOfRw sp).wide (x.w.eff h) :: os.map (fun p => Rd.data p.2 (sizeBytes sz) (x.w.eff h)) = reads)
    (hlocs : (s.past x h 16).lsCheckAll x.w (spOfRw sp) .rmw (sizeBytes sz) (lanesOf (x.w.eff h))
      (x.ea (spOfRw sp) (sizeBytes sz) false a none disp) = .ok locs) :
    atomWord h sp sz d a os disp upd s =
      let r := ((s.past x h 16).lsWalks x.w (spOfRw sp)
        ((lanesOf (x.w.eff h)).map (x.ea (spOfRw sp) (sizeBytes sz) false a none disp))).lsRmwAll (sizeBytes sz) locs (upd x)
      .next (r.1.pushLs x h (loadWrites d (sizeBytes sz) false r.2) (locs.map (·.2)) (r.2.any fun g => g.tag == .fabric) none) := by
  unfold atomWord
  refine issue_of_body r ?_ hreads rfl ?_
  · rw [← hok]
    simp [List.all_map, Function.comp_def, Bool.and_assoc]
  · simp only [hlocs]

theorem exec_red_ready {sp : RwSpace} {op : Aop}
    (r : Ready s x h (baseOk x.w.alloc (spOfRw sp) false a && dataOk x.w.alloc (sizeBytes sz) true b)
      [Rd.of a (spOfRw sp).wide (x.w.eff h), Rd.data b (sizeBytes sz) (x.w.eff h)]
      (sSrc (spOfRw sp).wide a && sSrc (sizeBytes sz == 8) b))
    (hlocs : (s.past x h 16).lsCheckAll x.w (spOfRw sp) .rmw (sizeBytes sz) ((s.past x h 16).lsLanes (x.w.eff h))
      (x.ea (spOfRw sp) (sizeBytes sz) false a none disp) = .ok locs) :
    exec (.red h sp sz sc od op a b disp) s =
      let ea := x.ea (spOfRw sp) (sizeBytes sz) false a none disp
      let q := s.past x h 16
      let r := (q.lsWalks x.w (spOfRw sp) ((q.lsLanes (x.w.eff h)).map ea)).lsRmwAll (sizeBytes sz) locs fun i old =>
        some (aop op (sizeBytes sz) old (x.data b (sizeBytes sz) i (floatAop op)))
      let failed := (r.2.filter fun g => g.tag == .fabric).map (·.lane)
      .next ((r.2.foldl (fun t g => if g.tag = .poison then
          t.logDie 3 (dieOf x.core) x.core (BitVec.ofInt 64 (ea g.lane)) else t) r.1).pushLs x h [] (locs.map (·.2))
        (!failed.isEmpty) (errFault (x.w.eff h) ea failed)) := by
  dsimp only [exec, execRed]
  refine issue_of_body r (Checks.all_two ..) rfl rfl ?_
  simp only [hlocs]

end Writes

/-- Settles O17: each word by its own meaning, a load by the kind of its destination and by whether it is a .CONST load. -/
theorem loadStoreResults : Obligations.LoadStoreResults := by
  intro s x h l sz sc od hint scl d a b c disp locs
  refine ⟨?_, ?_, ?_, ?_, fun la t pa z lane k hla hc => State.constLane_of_clean hla hc, ?_, ?_, ?_, ?_, ?_⟩
  · rintro sp sx v rfl hsp r ea hlocs
    rw [exec_ld_vector r hlocs, beq_eq_false_iff_ne.mpr hsp]
    rfl
  · rintro sp sx v rfl hsp r ea hlocs
    rw [exec_ld_scalar r hlocs, beq_eq_false_iff_ne.mpr hsp]
    rfl
  · rintro sx v rfl r ea hlocs
    rw [exec_ld_vector (sp := .const) r hlocs, beq_self_eq_true, State.loadLanes_const]
    rfl
  · rintro sx v rfl r ea hlocs
    rw [exec_ld_scalar (sp := .const) r hlocs, beq_self_eq_true, State.loadLanes_const]
    rfl
  · exact fun sp r hlocs => storeWord_ready r (by rw [Bool.not_false, Bool.true_and]) hlocs
  · exact fun sp r hlocs => storeWord_ready r (by simp) hlocs
  · exact fun sp op r hlocs => atomWord_ready (os := [(fSrc1, b)]) r (by simp) rfl hlocs
  · exact fun sp r hlocs => atomWord_ready (os := [(fSrc1, b), (fSrc2, c)]) r (by simp [Bool.and_assoc]) rfl hlocs
  · exact fun sp op r hlocs => exec_red_ready r hlocs

end Sys2Proof.Machine
end

section
namespace Sys2Proof.Machine

/-! ### Fences, hints and CCTL.ZERO (R169, R179 to R182, R184) -/

theorem fabricOnly_l1Evicted (s : State) (c line : Nat) : FabricOnly s (s.l1Evicted c line) := rfl

theorem fabricOnly_hostEvicted (s : State) (d line : Nat) : FabricOnly s (s.hostEvicted d line) := by
  unfold State.hostEvicted
  refine (fabricOnly_l1Drop ..).trans (FabricOnly.foldl _ (fun t k => ?_) _ _)
  exact (fabricOnly_exchange t d 4).trans rfl

theorem fabricOnly_l2Evicted (s : State) (d line : Nat) : FabricOnly s (s.l2Evicted d line) :=
  FabricOnly.ite (fabricOnly_devEvicted s d line) (FabricOnly.foldl _ (fun t b => fabricOnly_hostEvicted t b line) s _)

theorem fabricOnly_lsWalks (s : State) (w : Warp) (sp : Sp) (eas : List Int) : FabricOnly s (s.lsWalks w sp eas) :=
  FabricOnly.ite (fabricOnly_walkedAll ..) (.refl s)

/-- A load-store instruction goes into flight in its core alone. -/
theorem State.pushLs_fields (s : State) (x : Ctx) (h : Hdr) (ws : List Wr) (ls : List Loc) (err : Bool) (ft : Option Trap) :
    ∃ cs r, s.pushLs x h ws ls err ft =
      { s with choices := cs }.setCore s.cur.1 { s.core s.cur.1 with ls := (s.core s.cur.1).ls ++ [r] } := by
  unfold State.pushLs
  dsimp only
  rw [State.choose_fields]
  exact ⟨_, _, rfl⟩

theorem State.memByte_pushLs (s : State) (x : Ctx) (h : Hdr) (ws : List Wr) (ls : List Loc) (err : Bool) (ft : Option Trap) (m : Nat) :
    (s.pushLs x h ws ls err ft).memByte m = s.memByte m := by
  obtain ⟨cs, r, hp⟩ := s.pushLs_fields x h ws ls err ft
  rw [hp]; rfl

section Lines

variable {s : State} {x : Ctx} {h : Hdr} {l scl : Bool} {sc : Scope} {od : Order} {a b : Operand} {disp : BitVec 32}

theorem execFence_ready (r : Ready s x h true [] true) :
    execFence h sc od s = .next ((s.past x h 16).pushLs x h [] [] false none) :=
  issue_of_body r rfl rfl rfl rfl

theorem execIfence_ready (r : Ready s x h true [] false) : execIfence h s =
    .next (((s.past x h 8).dropCode s.cur.1 (s.asidOf x.w) fun _ => false).pushLs x h [] [] false none) :=
  issue_of_body r rfl rfl rfl rfl

/-- The lines of the lanes that a hint reaches, after their walks. -/
def State.hinted (s : State) (x : Ctx) (h : Hdr) (l scl : Bool) (a b : Operand) (disp : BitVec 32)
    (act : State → Nat → State) : State :=
  let p := s.past x h (lenOf l)
  let lanes := (lanesOf (x.w.eff h)).filter fun i => (p.hintAddr x scl a b disp i).isSome
  (((lanesOf (x.w.eff h)).filterMap (p.hintAddr x scl a b disp)).foldl act
    (p.lsWalks x.w .glob (lanes.map (x.ea .glob 128 scl a (some b) disp)))).pushLs x h [] [] false none

theorem lineHint_ready {act : State → Nat → State}
    (r : Ready s x h (baseOk x.w.alloc .glob false a && vSrc x.w.alloc false b) [] false) :
    lineHint h l scl a b disp act s = .next (s.hinted x h l scl a b disp act) :=
  issue_of_body r (Checks.all_two ..) rfl rfl rfl

/-- A hint moves lines between memory and caches alone. -/
theorem State.memByte_hinted {act : State → Nat → State} (hact : ∀ t pa, FabricOnly t (act t pa)) (m : Nat) :
    (s.hinted x h l scl a b disp act).memByte m = s.memByte m := by
  unfold State.hinted
  rw [State.memByte_pushLs]
  unfold State.memByte
  rw [(FabricOnly.foldl act hact _ _).mem, (fabricOnly_lsWalks ..).mem]
  rfl

theorem execCctlZero_ready {locs : List (Nat × Loc)}
    (r : Ready s x h (baseOk x.w.alloc .glob false a && vSrc x.w.alloc false b)
      [Rd.of a true (x.w.eff h), Rd.of b false (x.w.eff h)] false)
    (hlocs : (s.past x h (lenOf l)).lsCheckAll x.w .glob .write 128 (lanesOf (x.w.eff h)) (x.ea .glob 128 scl a (some b) disp) =
      .ok locs) :
    let p := s.past x h (lenOf l)
    let ea := x.ea .glob 128 scl a (some b) disp
    let bad := (locs.filter fun e => p.locErr e.2).map (·.1)
    execCctlZero h l scl a b disp s = .next ((locs.foldl (fun q e => if q.locErr e.2 then q else
      (q.locStore (.core q.cur.1) e.2 (List.replicate 128 0)).cleanLine e.2)
      (p.lsWalks x.w .glob ((lanesOf (x.w.eff h)).map ea))).pushLs x h [] [] (!bad.isEmpty) (errFault (x.w.eff h) ea bad)) := by
  unfold execCctlZero
  refine issue_of_body r (Checks.all_two ..) rfl rfl ?_
  simp only [lineForm, hlocs]

end Lines

/-- Settles O18: each word by its own meaning; the hints share one, and what they act on is caches alone. -/
theorem lineAndFenceResults : Obligations.LineAndFenceResults := by
  intro s x h l sc od lv scl a b disp
  refine ⟨fun r => execFence_ready (sc := sc) (od := od) r, fun r => execIfence_ready r, fun r => ?_, fun r locs hlocs => execCctlZero_ready r hlocs⟩
  refine ⟨lineHint_ready r, lineHint_ready r, lineHint_ready r, lineHint_ready r, fun i hi => ?_⟩
  simp only [List.mem_cons, List.not_mem_nil, or_false] at hi
  rcases hi with rfl | rfl | rfl
  · exact ⟨_, lineHint_ready r, State.memByte_hinted fun t pa => by cases lv <;> exact fabricOnly_access ..⟩
  · exact ⟨_, lineHint_ready r, State.memByte_hinted fun t pa => fabricOnly_l1Evicted ..⟩
  · exact ⟨_, lineHint_ready r, State.memByte_hinted fun t pa => fabricOnly_l2Evicted ..⟩

end Sys2Proof.Machine
end

section
namespace Sys2Proof.Machine

/-! ### The frame of what stores (R158, R162, R168, R172, R173, R176 to R178, R181, R284, R290) -/

/-- A core that a write to it is read back from: one that has been released, or that has a warp. -/
def Core.live (c : Core) : Prop := c.released = true ∨ c.warps ≠ []

theorem Core.ne_initial_of_live {c : Core} (h : c.live) : c ≠ Core.initial := by
  rintro rfl
  rcases h with h | h
  · exact nomatch h
  · exact h rfl

theorem State.core_setCore_of_live (s : State) {c : Nat} {x : Core} (h : x.live) : (s.setCore c x).core c = x :=
  SMap.get_set_self_of_ne _ _ (Core.ne_initial_of_live h)

/-- Two cores differ in their memory and in their load-store and copy requests alone. -/
def Core.SameWarps (c c' : Core) : Prop :=
  c' = { c with sram := c'.sram, sramPoison := c'.sramPoison, full := c'.full, ls := c'.ls, copy := c'.copy }

theorem Core.SameWarps.refl (c : Core) : c.SameWarps c := rfl

theorem Core.SameWarps.trans {a b c : Core} (h : a.SameWarps b) (k : b.SameWarps c) : a.SameWarps c := by
  unfold Core.SameWarps at *
  rw [k, h]

theorem Core.SameWarps.warps {a b : Core} (h : a.SameWarps b) : b.warps = a.warps := by rw [h]

theorem Core.SameWarps.live {a b : Core} (h : a.SameWarps b) (ha : a.live) : b.live := by
  rw [Core.live, h]; exact ha

/-- Byte `pa` of global memory lies in none of the `n` bytes at the locations of a set. -/
def OutsideMem (P : Loc → Prop) (n pa : Nat) : Prop := ∀ r z, P (.glob r z) → ¬ (r ≤ pa ∧ pa < r + n)

/-- Byte `i` of a core's SRAM lies in none of them. -/
def OutsideSram (s : State) (P : Loc → Prop) (n k i : Nat) : Prop :=
  ∀ g off, P (.sram g off) → (s.sramAt g off).1 = k → ¬ ((s.sramAt g off).2 ≤ i ∧ i < (s.sramAt g off).2 + n)

/-- The parts of the machine that no store touches. -/
def SameParts (s t : State) : Prop :=
  t.cur = s.cur ∧ t.groups = s.groups ∧ t.launches = s.launches ∧ t.fabrics = s.fabrics ∧ t.spaces = s.spaces ∧
    t.queues = s.queues

/-- From s to t bytes have changed at the locations of a set alone, `n` bytes at each, and no warp has changed. -/
structure StoresWithin (P : Loc → Prop) (n : Nat) (s t : State) : Prop where
  parts : SameParts s t
  mem : ∀ pa, OutsideMem P n pa → t.memByte pa = s.memByte pa
  cores : ∀ k, (s.core k).live → (s.core k).SameWarps (t.core k) ∧
    ∀ i, OutsideSram s P n k i → byteAt (t.core k).sram i = byteAt (s.core k).sram i

section StoresWithin

variable {P : Loc → Prop} {n : Nat} {s t u : State}

theorem StoresWithin.of_parts (h : SameParts s t) (hm : t.mem = s.mem) (hc : t.cores = s.cores) : StoresWithin P n s t where
  parts := h
  mem pa _ := by rw [State.memByte, hm]; rfl
  cores k _ := by
    rw [show t.core k = s.core k by rw [State.core, hc]; rfl]
    exact ⟨.refl _, fun _ _ => rfl⟩

theorem StoresWithin.refl (s : State) : StoresWithin P n s s := .of_parts ⟨rfl, rfl, rfl, rfl, rfl, rfl⟩ rfl rfl

theorem SameParts.sramAt (h : SameParts s t) (g off : Nat) : t.sramAt g off = s.sramAt g off := by
  obtain ⟨-, hg, -⟩ := h
  rw [State.sramAt, State.group, hg]; rfl

theorem SameParts.trans (h : SameParts s t) (k : SameParts t u) : SameParts s u := by
  obtain ⟨a, b, c, d, e, f⟩ := h
  obtain ⟨a', b', c', d', e', f'⟩ := k
  exact ⟨a'.trans a, b'.trans b, c'.trans c, d'.trans d, e'.trans e, f'.trans f⟩

theorem StoresWithin.trans (h : StoresWithin P n s t) (k : StoresWithin P n t u) : StoresWithin P n s u where
  parts := h.parts.trans k.parts
  mem pa hp := (k.mem pa hp).trans (h.mem pa hp)
  cores j hj := by
    obtain ⟨hsame, hbytes⟩ := h.cores j hj
    obtain ⟨ksame, kbytes⟩ := k.cores j (hsame.live hj)
    refine ⟨hsame.trans ksame, fun i hi => (kbytes i ?_).trans (hbytes i hi)⟩
    intro g off hP
    rw [h.parts.sramAt]
    exact hi g off hP

theorem StoresWithin.ite {p : Prop} [Decidable p] (h : StoresWithin P n s t) (k : StoresWithin P n s u) :
    StoresWithin P n s (if p then t else u) := by split <;> assumption

theorem StoresWithin.foldl {α : Type} {f : State → α → State} {xs : List α}
    (h : ∀ a ∈ xs, ∀ t, StoresWithin P n t (f t a)) (s : State) : StoresWithin P n s (xs.foldl f s) := by
  induction xs generalizing s with
  | nil => exact .refl s
  | cons a xs ih => exact (h a List.mem_cons_self s).trans (ih (fun b hb => h b (List.mem_cons_of_mem _ hb)) _)

theorem FabricOnly.storesWithin (h : FabricOnly s t) : StoresWithin P n s t := by
  refine .of_parts ?_ h.mem h.cores
  rw [h]
  exact ⟨rfl, rfl, rfl, rfl, rfl, rfl⟩

/-- A core takes new memory or new requests, its bytes outside the locations as before. -/
theorem StoresWithin.setCore {c : Nat} {y : Core} (hy : (s.core c).SameWarps y)
    (hb : ∀ i, OutsideSram s P n c i → byteAt y.sram i = byteAt (s.core c).sram i) : StoresWithin P n s (s.setCore c y) where
  parts := ⟨rfl, rfl, rfl, rfl, rfl, rfl⟩
  mem _ _ := rfl
  cores k hk := by
    by_cases hkc : k = c
    · subst hkc
      rw [State.core_setCore_of_live s (hy.live hk)]
      exact ⟨hy, hb⟩
    · rw [State.core_setCore_of_ne s y hkc]
      exact ⟨.refl _, fun _ _ => rfl⟩

theorem storesWithin_touchSram (c : Nat) (gs : List Nat) : StoresWithin P n s (s.touchSram c gs) :=
  .of_parts ⟨rfl, rfl, rfl, rfl, rfl, rfl⟩ rfl rfl

theorem storesWithin_locWrite {l : Loc} (hl : P l) {bs : List Byte} (hlen : bs.length = n) : StoresWithin P n s (s.locWrite l bs) := by
  cases l with
  | glob pa z =>
    refine ⟨⟨rfl, rfl, rfl, rfl, rfl, rfl⟩, fun a ha => State.memByte_locWrite s (.glob pa z) bs fun r c hr => ?_,
      fun k _ => ⟨.refl _, fun _ _ => rfl⟩⟩
    cases hr
    exact hlen ▸ ha pa z hl
  | sram g off =>
    refine StoresWithin.trans ?_ (storesWithin_touchSram _ _)
    refine .setCore rfl fun i hi => ?_
    exact byteAt_putBytes_of_outside _ _ _ (hlen ▸ hi g off hl rfl)

theorem storesWithin_locStore {l : Loc} (hl : P l) {p : Party} {bs : List Byte} (hlen : bs.length = n) :
    StoresWithin P n s (s.locStore p l bs) :=
  (storesWithin_locWrite hl hlen).trans (fabricOnly_locAccess ..).storesWithin

theorem storesWithin_setFull (l : Loc) (b : Bool) : StoresWithin P n s (s.setFull l b) := by
  cases l with
  | glob pa z => exact .refl s
  | sram g off => exact .setCore rfl fun _ _ => rfl

theorem storesWithin_setSec (k : Nat) (b : Bool) : StoresWithin P n s (s.setSec k b) :=
  .of_parts ⟨rfl, rfl, rfl, rfl, rfl, rfl⟩ rfl rfl

theorem storesWithin_cleanLine (l : Loc) : StoresWithin P n s (s.cleanLine l) := by
  cases l with
  | glob pa z => exact (storesWithin_setSec _ _).trans (storesWithin_setSec _ _)
  | sram g off => exact .refl s

theorem storesWithin_locPoison (l : Loc) : StoresWithin P n s (s.locPoison l) := by
  cases l with
  | glob pa z => exact storesWithin_setSec _ _
  | sram g off => exact .setCore rfl fun _ _ => rfl

theorem storesWithin_logDie (code d unit : Nat) (data : DWord) : StoresWithin P n s (s.logDie code d unit data) :=
  (fabricOnly_pass s d 4).storesWithin.trans (.of_parts ⟨rfl, rfl, rfl, rfl, rfl, rfl⟩ rfl rfl)

theorem storesWithin_pushLs (x : Ctx) (h : Hdr) (ws : List Wr) (ls : List Loc) (err : Bool) (ft : Option Trap) :
    StoresWithin P n s (s.pushLs x h ws ls err ft) := by
  obtain ⟨cs, r, hp⟩ := s.pushLs_fields x h ws ls err ft
  rw [hp]
  exact StoresWithin.trans (t := { s with choices := cs }) (.of_parts ⟨rfl, rfl, rfl, rfl, rfl, rfl⟩ rfl rfl)
    (.setCore rfl fun _ _ => rfl)

theorem storesWithin_setHead (c : Nat) (strm : Stream) (f : CopyReq → CopyReq) : StoresWithin P n s (s.setHead c strm f) := by
  unfold State.setHead
  split
  · exact .refl s
  · exact .setCore rfl fun _ _ => rfl

theorem storesWithin_copyFail (c : Nat) (strm : Stream) (detail : Nat) (addr : Int) (wr : Bool) :
    StoresWithin P n s (s.copyFail c strm detail addr wr) := by
  unfold State.copyFail
  split
  · exact .refl s
  · exact .setCore rfl fun _ _ => rfl

theorem storesWithin_sendFlit (p : Nat) (m : GMsg) : StoresWithin P n s (s.sendFlit p m) :=
  .of_parts ⟨rfl, rfl, rfl, rfl, rfl, rfl⟩ rfl rfl

/-- The acting core takes copy requests after accesses that only move lines. -/
theorem storesWithin_request (h : FabricOnly s t) (rs : List CopyReq) :
    StoresWithin P n s (t.setCurCore { s.curCore with copy := rs }) := by
  refine h.storesWithin.trans ?_
  refine .setCore ?_ fun _ _ => ?_
  · rw [State.curCore, State.core, State.core, h.cores, h.cur]; rfl
  · rw [State.curCore, State.core, State.core, h.cores, h.cur]

theorem fabricOnly_copySource (c : Nat) (r : CopyReq) (x : CopyElem) (l : Loc) : FabricOnly s (s.copySource c r x l) := by
  unfold State.copySource
  split
  · exact .ite (fabricOnly_locAccess ..) (.ite (fabricOnly_blockRead ..) (.refl s))
  · exact fabricOnly_locAccess ..

end StoresWithin

/-! #### What the words that store do -/

theorem length_leBytes (n v : Nat) : (leBytes n v).length = n := by
  induction n generalizing v with
  | zero => rfl
  | succ n ih => rw [leBytes, List.length_cons, ih]

section Words

variable {P : Loc → Prop} {n : Nat} {s : State}

theorem storesWithin_lsStore {full : Bool} {hint : Hint} {ws : List (Nat × Loc × List Byte)}
    (h : ∀ p ∈ ws, P p.2.1 ∧ p.2.2.length = n) : StoresWithin P n s (s.lsStore full hint ws) := by
  refine .foldl (fun p hp t => ?_) s
  obtain ⟨hl, hlen⟩ := h p hp
  exact .ite (.refl t) (.ite ((storesWithin_locStore hl hlen).trans (storesWithin_setFull _ _)) (storesWithin_locStore hl hlen))

theorem storesWithin_copyPut {c : Nat} {l : Loc} {g : Got} (hl : P l) : StoresWithin P n s (s.copyPut c l n g) :=
  .ite ((storesWithin_locStore hl (length_leBytes _ _)).trans (storesWithin_locPoison l))
    (storesWithin_locStore hl (length_leBytes _ _))

theorem storesWithin_lsRmw {lane : Nat} {l : Loc} (hl : P l) {upd : Nat → Option Nat} :
    StoresWithin P n s (s.lsRmw lane n l upd).1 := by
  unfold State.lsRmw
  dsimp only
  refine StoresWithin.trans ?_ (fabricOnly_locAccess ..).storesWithin
  split
  · exact storesWithin_locWrite hl (length_leBytes _ _)
  · exact .refl s

theorem storesWithin_lsRmwAll {locs : List (Nat × Loc)} (h : ∀ p ∈ locs, P p.2) {upd : Nat → Nat → Option Nat} :
    StoresWithin P n s (s.lsRmwAll n locs upd).1 := by
  suffices hs : ∀ gs t, StoresWithin P n t (locs.foldl (fun p q => let r := p.1.lsRmw q.1 n q.2 (upd q.1); (r.1, p.2 ++ [r.2]))
      (t, gs) : State × List Got).1 from hs [] s
  induction locs with
  | nil => exact fun _ t => .refl t
  | cons p rest ih =>
    exact fun gs t => (storesWithin_lsRmw (h p List.mem_cons_self)).trans (ih (fun q hq => h q (List.mem_cons_of_mem _ hq)) _ _)

end Words

/-! #### The frame that the obligation states -/

/-- Bytes change at the locations of a set alone, in global memory and in the memory of a released core. -/
def Still (s t : State) (P : Loc → Prop) (n : Nat) : Prop :=
  (∀ pa : Nat, (∀ r z, P (.glob r z) → ¬ (r ≤ pa ∧ pa < r + n)) → t.memByte pa = s.memByte pa) ∧
  ∀ k i : Nat, (s.core k).released = true →
    (∀ g off, P (.sram g off) → (s.sramAt g off).1 = k → ¬ ((s.sramAt g off).2 ≤ i ∧ i < (s.sramAt g off).2 + n)) →
    byteAt (t.core k).sram i = byteAt (s.core k).sram i

/-- The acting warp keeps its registers, and nothing else is touched but memory and caches. -/
def Quiet (s t : State) (x : Ctx) (h : Hdr) : Prop :=
  (∃ w, t.warp = some w ∧
    w = { x.w with pc := w.pc, order := w.order, notBefore := w.notBefore, flags := w.flags, faults := w.faults } ∧
    (∀ f : Nat, (∀ k, h.set = some k → k.val ≠ f) → w.flag f = x.w.flag f)) ∧
  (t.groups = s.groups ∧ t.launches = s.launches ∧ t.fabrics = s.fabrics ∧ t.spaces = s.spaces ∧ t.queues = s.queues) ∧
  ∀ j, j ≠ s.cur.2 → t.warpAt s.cur.1 j = s.warpAt s.cur.1 j

section Frame

variable {s t : State} {x : Ctx} {h : Hdr} {P : Loc → Prop} {n : Nat}

theorem StoresWithin.still (hst : StoresWithin P n s t) : Still s t P n :=
  ⟨hst.mem, fun k i hr hi => (hst.cores k (.inl hr)).2 i hi⟩

theorem core_setWarp_sram (s : State) (w : Warp) (k : Nat) :
    ((s.setWarp w).core k).sram = (s.core k).sram ∧ ((s.setWarp w).core k).released = (s.core k).released := by
  by_cases hk : k = s.cur.1
  · rw [hk, State.setWarp, State.core_setWarpAt_self]; exact ⟨rfl, rfl⟩
  · rw [State.setWarp, State.core_setWarpAt_of_ne _ _ _ hk]; exact ⟨rfl, rfl⟩

theorem Still.setWarp_left {w : Warp} (hst : Still (s.setWarp w) t P n) : Still s t P n := by
  obtain ⟨hm, hc⟩ := hst
  refine ⟨hm, fun k i hr hi => ?_⟩
  obtain ⟨hsram, hrel⟩ := core_setWarp_sram s w k
  rw [← hsram]
  exact hc k i (hrel.trans hr) hi

theorem Still.setWarp_right {w : Warp} (hst : Still s t P n) : Still s (t.setWarp w) P n := by
  obtain ⟨hm, hc⟩ := hst
  refine ⟨hm, fun k i hr hi => ?_⟩
  rw [(core_setWarp_sram t w k).1]
  exact hc k i hr hi

/-- The acting core has its warp, so what it stores is read back from it. -/
theorem StoresWithin.warpAt {w : Warp} (hst : StoresWithin P n (s.setWarp w) t) (j : Nat) :
    t.warpAt s.cur.1 j = (s.setWarp w).warpAt s.cur.1 j := by
  have hlive : ((s.setWarp w).core s.cur.1).live := by
    rw [State.setWarp, State.core_setWarpAt_self]
    exact .inr (SMap.put_ne_nil _ _ _)
  simp only [State.warpAt, ((hst.cores s.cur.1 hlive).1).warps]

theorem StoresWithin.warp {w : Warp} (hst : StoresWithin P n (s.setWarp w) t) : t.warp = some w := by
  obtain ⟨hcur, -⟩ := hst.parts
  rw [State.warp, hcur]
  exact (hst.warpAt _).trans (State.warp_setWarp s w)

/-- A warp that has gone past its word keeps its registers, whatever the word then stores. -/
theorem StoresWithin.quiet {w : Warp} (hst : StoresWithin P n (s.setWarp w) t)
    (hw : w = { x.w with pc := w.pc, order := w.order, notBefore := w.notBefore, flags := w.flags, faults := w.faults })
    (hflag : ∀ f : Nat, (∀ k, h.set = some k → k.val ≠ f) → w.flag f = x.w.flag f) : Quiet s t x h := by
  obtain ⟨-, hparts⟩ := hst.parts
  refine ⟨⟨w, hst.warp, hw, hflag⟩, hparts, fun j hj => (hst.warpAt j).trans ?_⟩
  exact State.warpAt_setWarpAt_of_ne s w (.inr hj)

/-- What a word that does not block answers: a trap, its advance under an empty mask, or what its body does to the state past it. -/
theorem issue_answers {f : Form} {body : Ctx → LaneMask → State → Except Trap State} (hx : s.ctx = some x)
    (hz : f.zeroSteep = false) (ht : issue h f body s = .next t) :
    (∃ tr, t = s.takeTrap tr) ∨ t = s.setWarp (x.w.issued h f.len x.cycle 0) ∨
      body x (x.w.eff h) (s.past x h f.len f.extra) = .ok t := by
  have traps (tr : Trap) : s.takeWordTrap f.zeroSteep tr = s.takeTrap tr := by rw [State.takeWordTrap, hz]; rfl
  rcases issue_cases hx ht with ⟨d, -, rfl⟩ | ⟨-, rfl⟩ | ⟨tr, -, rfl⟩ | ⟨-, -, rfl⟩ | hb | ⟨tr, -, rfl⟩
  · exact .inl ⟨_, traps _⟩
  · exact .inr (.inl rfl)
  · exact .inl ⟨_, traps _⟩
  · exact .inl ⟨_, traps _⟩
  · exact .inr (.inr hb)
  · exact .inl ⟨_, traps _⟩

/-- A word that only advances is quiet. -/
theorem quiet_issued (len : Nat) : Quiet s (s.setWarp (x.w.issued h len x.cycle 0)) x h :=
  StoresWithin.quiet (P := fun _ => False) (n := 0) (.refl _) rfl fun _ _ => rfl

/-- A word past its issue is quiet while it stores. -/
theorem StoresWithin.quiet_past {len extra : Nat} (hst : StoresWithin P n (s.past x h len extra) t) : Quiet s t x h :=
  StoresWithin.quiet hst (by rw [Warp.issued_frame x.w h len x.cycle extra]) fun _ hf => Warp.flag_incFlag_of_ne _ _ hf

/-- The frame of a word whose body stores at some locations alone. -/
theorem issue_stores {f : Form} {body : Ctx → LaneMask → State → Except Trap State} (hx : s.ctx = some x)
    (hz : f.zeroSteep = false)
    (hbody : body x (x.w.eff h) (s.past x h f.len f.extra) = .ok t → StoresWithin P n (s.past x h f.len f.extra) t)
    (ht : issue h f body s = .next t) :
    (∃ tr, t = s.takeTrap tr) ∨ (Quiet s t x h ∧ (∀ w, t.warp = some w → w.faults = x.w.faults) ∧ Still s t P n) := by
  rcases issue_answers hx hz ht with htrap | rfl | hb
  · exact .inl htrap
  · refine .inr ⟨quiet_issued _, fun w hw => ?_, (StoresWithin.refl _).still.setWarp_left⟩
    rw [State.warp_setWarp] at hw
    cases hw
    rfl
  · have hst := hbody hb
    refine .inr ⟨hst.quiet_past, fun w hw => ?_, hst.still.setWarp_left⟩
    cases hst.warp.symm.trans hw
    rw [Warp.issued_frame]

/-- The locations at which the checks of Table LS-6 let a word act. -/
def CheckedAt (p : State) (w : Warp) (sp : Sp) (acc : Access) (n : Nat) (lanes : List Nat) (ea : Nat → Int) (q : Loc) : Prop :=
  ∀ locs, p.lsCheckAll w sp acc n lanes ea = .ok locs → ∃ i, (i, q) ∈ locs

theorem checkedAt_of_mem {p : State} {w : Warp} {sp : Sp} {acc : Access} {lanes : List Nat} {ea : Nat → Int}
    {locs : List (Nat × Loc)} (hlocs : p.lsCheckAll w sp acc n lanes ea = .ok locs) {e : Nat × Loc} (he : e ∈ locs) :
    CheckedAt p w sp acc n lanes ea e.2 := by
  intro locs' h'
  cases hlocs.symm.trans h'
  exact ⟨e.1, he⟩

variable {l scl : Bool} {sz : Size} {d a b : Operand} {disp : BitVec 32}

theorem storeWord_frame {sp : Sp} {full : Bool} {hint : Hint} (hx : s.ctx = some x)
    (ht : storeWord h l sp full hint sz scl d a b disp s = .next t) :
    let p := s.past x h (lenOf l)
    (∃ tr, t = s.takeTrap tr) ∨ (Quiet s t x h ∧ (∀ w, t.warp = some w → w.faults = x.w.faults) ∧
      Still s t (CheckedAt p x.w sp .write (sizeBytes sz) (p.lsLanes (x.w.eff h)) (x.ea sp (sizeBytes sz) scl a (some b) disp))
        (sizeBytes sz)) := by
  unfold storeWord at ht
  refine issue_stores hx rfl (fun hb => ?_) ht
  dsimp only at hb ⊢
  split at hb
  · cases hb
  · next locs hlocs =>
    cases hb
    refine ((fabricOnly_lsWalks ..).storesWithin.trans (storesWithin_lsStore fun p hp => ?_)).trans (storesWithin_pushLs ..)
    obtain ⟨e, he, rfl⟩ := List.mem_map.1 hp
    exact ⟨checkedAt_of_mem hlocs he, length_leBytes _ _⟩

theorem atomWord_frame {sp : RwSpace} {os : List (Nat × Operand)} {upd : Ctx → Nat → Nat → Option Nat} (hx : s.ctx = some x)
    (ht : atomWord h sp sz d a os disp upd s = .next t) :
    (∃ tr, t = s.takeTrap tr) ∨ (Quiet s t x h ∧ (∀ w, t.warp = some w → w.faults = x.w.faults) ∧
      Still s t (CheckedAt (s.past x h 16) x.w (spOfRw sp) .rmw (sizeBytes sz) (lanesOf (x.w.eff h))
        (x.ea (spOfRw sp) (sizeBytes sz) false a none disp)) (sizeBytes sz)) := by
  unfold atomWord at ht
  refine issue_stores hx rfl (fun hb => ?_) ht
  dsimp only at hb ⊢
  split at hb
  · cases hb
  · next locs hlocs =>
    cases hb
    exact ((fabricOnly_lsWalks ..).storesWithin.trans (storesWithin_lsRmwAll fun p hp => checkedAt_of_mem hlocs hp)).trans
      (storesWithin_pushLs ..)

theorem execRed_frame {sp : RwSpace} {sc : Scope} {od : Order} {op : Aop} (hx : s.ctx = some x)
    (ht : execRed h sp sz sc od op a b disp s = .next t) :
    let p := s.past x h 16
    (∃ tr, t = s.takeTrap tr) ∨ (Quiet s t x h ∧ (∀ w, t.warp = some w → w.faults = x.w.faults) ∧
      Still s t (CheckedAt p x.w (spOfRw sp) .rmw (sizeBytes sz) (p.lsLanes (x.w.eff h))
        (x.ea (spOfRw sp) (sizeBytes sz) false a none disp)) (sizeBytes sz)) := by
  unfold execRed at ht
  refine issue_stores hx rfl (fun hb => ?_) ht
  dsimp only at hb ⊢
  split at hb
  · cases hb
  · next locs hlocs =>
    cases hb
    refine (((fabricOnly_lsWalks ..).storesWithin.trans (storesWithin_lsRmwAll fun p hp => checkedAt_of_mem hlocs hp)).trans
      (.foldl (fun g _ q => ?_) _)).trans (storesWithin_pushLs ..)
    exact .ite (storesWithin_logDie ..) (.refl q)

theorem execCctlZero_frame (hx : s.ctx = some x) (ht : execCctlZero h l scl a b disp s = .next t) :
    (∃ tr, t = s.takeTrap tr) ∨ (Quiet s t x h ∧ (∀ w, t.warp = some w → w.faults = x.w.faults) ∧
      Still s t (CheckedAt (s.past x h (lenOf l)) x.w .glob .write 128 (lanesOf (x.w.eff h))
        (x.ea .glob 128 scl a (some b) disp)) 128) := by
  unfold execCctlZero at ht
  refine issue_stores hx rfl (fun hb => ?_) ht
  dsimp only [lineForm] at hb ⊢
  split at hb
  · cases hb
  · next locs hlocs =>
    cases hb
    refine ((fabricOnly_lsWalks ..).storesWithin.trans (.foldl (fun e he q => ?_) _)).trans (storesWithin_pushLs ..)
    exact .ite (.refl q) ((storesWithin_locStore (checkedAt_of_mem hlocs he) (List.length_replicate ..)).trans
      (storesWithin_cleanLine _))

/-- Marking the acting warp's pending faults touches nothing else. -/
theorem Quiet.markFault (hq : Quiet s t x h) (hcur : t.cur = s.cur) (p : Trap → Bool) :
    Quiet s (t.updWarp fun w => w.markFault p) x h := by
  obtain ⟨⟨w, hw, hregs, hflag⟩, hparts, hothers⟩ := hq
  rw [State.updWarp, hw]
  refine ⟨⟨_, State.warp_setWarp .., ?_, hflag⟩, hparts, fun j hj => ?_⟩
  · rw [Warp.markFault, hregs]
  · rw [← hothers j hj, ← hcur]
    exact State.warpAt_setWarpAt_of_ne t _ (.inr (hcur ▸ hj))

theorem Still.updWarp (hst : Still s t P n) (f : Warp → Warp) : Still s (t.updWarp f) P n := by
  unfold State.updWarp
  split
  · exact hst.setWarp_right
  · exact hst

/-- A copy word stores nothing: it leaves a request. -/
theorem copyWord_frame {cs : Checks} {rs : LaneMask → List Rd} {mk : Ctx → CopyCmd} (hx : s.ctx = some x)
    (ht : copyWord h cs rs mk s = .next t) : (∃ tr, t = s.takeTrap tr) ∨ (Quiet s t x h ∧ Still s t (fun _ => False) 0) := by
  unfold copyWord at ht
  rcases issue_answers hx rfl ht with htrap | rfl | hb
  · exact .inl htrap
  · exact .inr ⟨quiet_issued _, (StoresWithin.refl _).still.setWarp_left⟩
  · dsimp only at hb
    split at hb
    · cases hb
    · split at hb
      · cases hb
      · next sh xs hcheck =>
        cases hb
        have hst (eas : List Int) := storesWithin_request (P := fun _ => False) (n := 0)
          (fabricOnly_walkedAll (s.past x h 16) (s.past x h 16).cur.1 ((s.past x h 16).asidOf x.w) eas)
        refine .inr ?_
        split
        · exact ⟨(hst _ _).quiet_past.markFault (hst _ _).parts.1 _, (hst _ _).still.setWarp_left.updWarp _⟩
        · exact ⟨(hst _ _).quiet_past, (hst _ _).still.setWarp_left⟩

/-- An element of a copy changes bytes at its destination alone, and no warp. -/
theorem storesWithin_copyElement {c : Nat} {strm : Stream} {before after : List CopyReq} {r : CopyReq} {y : CopyElem}
    {rest : List CopyElem} (hhead : Machine.headOf strm (s.core c).copy = some (before, r, after)) (helems : r.elems = y :: rest) :
    StoresWithin (fun q => y.dst = some q) r.es s (s.copyElement c strm) := by
  unfold State.copyElement
  simp only [hhead, helems]
  split
  · exact .refl s
  · split
    · next hdst =>
      refine .ite (storesWithin_copyFail ..) (.ite (storesWithin_copyFail ..) ?_)
      exact ((fabricOnly_copySource ..).storesWithin.trans (storesWithin_copyPut hdst)).trans (storesWithin_setHead ..)
    · refine .ite (storesWithin_copyFail ..) (.ite (storesWithin_copyFail ..) ?_)
      exact (((fabricOnly_copySource ..).trans (fabricOnly_pass ..)).storesWithin.trans (storesWithin_sendFlit ..)).trans
        (storesWithin_setHead ..)
    · refine .ite (storesWithin_copyFail ..) ?_
      exact ((fabricOnly_pass ..).storesWithin.trans (storesWithin_sendFlit ..)).trans (storesWithin_setHead ..)
    · exact storesWithin_setHead ..

end Frame

/-- Settles O60: what a word stores is a fold of writes at the checked locations; a copy word leaves a request, and its element
writes its destination. -/
theorem storeFrame : Obligations.StoreFrame := by
  intro s t x h l scl sz sc od hint op d a b c o disp nblk rw ssp sr strm fe hx
  refine ⟨⟨fun ht => storeWord_frame hx ht, fun ht => storeWord_frame hx ht, fun ht => atomWord_frame hx ht,
    fun ht => atomWord_frame hx ht, fun ht => execRed_frame (sc := sc) (od := od) hx ht, fun ht => execCctlZero_frame hx ht⟩,
    ⟨fun ht => copyWord_frame hx ht, fun ht => copyWord_frame hx ht, fun ht => copyWord_frame hx ht, fun ht => copyWord_frame hx ht,
      fun ht => copyWord_frame hx ht, fun ht => copyWord_frame hx ht, fun ht => copyWord_frame hx ht⟩, ?_⟩
  intro k before after r y rest hhead helems ht
  cases ht
  have hst := storesWithin_copyElement hhead helems
  exact ⟨hst.still, fun j hj => (hst.cores j (.inl hj)).1.warps⟩

end Sys2Proof.Machine
end

section
namespace Sys2Proof.Machine

/-! ### The synchronisation words (R174, R259, R263, R264, R266 to R268) -/

theorem State.gclassOf_past (s : State) (x : Ctx) (h : Hdr) (len : Nat) (w : Warp) :
    (s.past x h len).gclassOf w = s.gclassOf w := rfl

/-- The fields of a well-formed barrier word (R262). -/
theorem barWord_ofNat {e r : Nat} (ph : Bool) (hr : 1 ≤ r) (hre : r ≤ e) (he : e ≤ 0xFFFF) :
    BarWord.ofNat (e + r * 2 ^ 16 + (if ph then 2 ^ 32 else 0)) = { expect := e, remain := r, phase := ph, ok := true } := by
  have hexpect : (e + r * 2 ^ 16 + (if ph then 2 ^ 32 else 0)) % 2 ^ 16 = e := by split <;> omega
  have hremain : (e + r * 2 ^ 16 + (if ph then 2 ^ 32 else 0)) / 2 ^ 16 % 2 ^ 16 = r := by split <;> omega
  have hphase : (e + r * 2 ^ 16 + (if ph then 2 ^ 32 else 0)) / 2 ^ 32 = if ph then 1 else 0 := by split <;> omega
  have htop : (e + r * 2 ^ 16 + (if ph then 2 ^ 32 else 0)) / 2 ^ 33 = 0 := by split <;> omega
  simp only [BarWord.ofNat, hexpect, hremain, hphase, htop]
  cases ph <;> simp <;> omega

/-- The word after `k` arrivals (R263). -/
theorem barWord_arrive_nat {e r k : Nat} (ph : Bool) :
    (BarWord.arrive { expect := e, remain := r, phase := ph, ok := true } k).nat =
      if k = r then e + e * 2 ^ 16 + (if ph then 0 else 2 ^ 32) else e + (r - k) * 2 ^ 16 + (if ph then 2 ^ 32 else 0) := by
  unfold BarWord.arrive BarWord.nat
  split <;> cases ph <;> rfl

section Words

variable {s : State} {x : Ctx} {h : Hdr} {l : Bool} {d a b : Operand} {n : Src} {disp : BitVec 32} {tmo : Option KField}
  (hfull : x.w.eff h = fullMask)
include hfull

theorem execBar_ready {g : Group} (hg : s.groupOf x.w = some g)
    (r : Ready s x h (sSrc false b && sSrc1 false n) (Rd.of b false (x.w.eff h) :: Rd.src n false (x.w.eff h)) false)
    (hi : x.n32 b < 16) (hcnt : x.n32Src n ≤ ((s.launchOf x.w).map (·.record.warps)).getD 0)
    (hopen : (g.bars.get Barrier.closed (x.n32 b)).isOpen = true → (g.bars.get Barrier.closed (x.n32 b)).n = x.n32Src n) :
    let new : Barrier := { isOpen := true, n := x.n32Src n
                           arrived := (g.bars.get Barrier.closed (x.n32 b)).arrived ||| (1#32 <<< x.w.wid) }
    execBar h l b n s =
      .next ((((s.past x h (lenOf l)).setGroup x.w.gid { g with bars := g.bars.set Barrier.closed (x.n32 b) new }).updWarp fun w =>
        w.block (.bar (x.n32 b)) x.w.pc h.set).completeBar x.w.gid (x.n32 b)) := by
  refine issue_of_body r (Checks.all_two ..) rfl rfl ?_
  have hold : ((g.bars.get Barrier.closed (x.n32 b)).isOpen &&
      decide ((g.bars.get Barrier.closed (x.n32 b)).n ≠ x.n32Src n)) = false := by
    simpa using hopen
  simp only [syncForm, hfull, ne_eq, not_true_eq_false, if_false, hi, State.launchOf_past, Nat.not_lt.mpr hcnt,
    State.groupOf_past, hg, hold, Bool.false_eq_true]

theorem execBara_ready {sp : SramSpace} {loc : Loc} {e r : Nat} {ph : Bool}
    (hr : Ready s x h (sDst false d && sSrc false a && sSrc false b) [Rd.of a false (x.w.eff h), Rd.of b false (x.w.eff h)] false)
    (hk : 1 ≤ x.n32 b) (hkr : x.n32 b ≤ r) (hre : r ≤ e) (he : e ≤ 0xFFFF)
    (hloc : (s.past x h (lenOf l)).lsCheck x.w (spOfSram sp) .rmw 8 (x.ea (spOfSram sp) 8 false a none disp 0) = .ok loc)
    (hclean : (s.past x h (lenOf l)).locPoisoned loc 8 = false)
    (hword : leNat ((s.past x h (lenOf l)).locRead loc 8) = e + r * 2 ^ 16 + (if ph then 2 ^ 32 else 0)) :
    execBara h l sp d a b disp s =
      .next (((s.past x h (lenOf l)).locWrite loc (leBytes 8 (if x.n32 b = r then e + e * 2 ^ 16 + (if ph then 0 else 2 ^ 32)
          else e + (r - x.n32 b) * 2 ^ 16 + (if ph then 2 ^ 32 else 0)))).pushLs x h
        [.s (regOf d) { val := if ph then 1 else 0, tag := .clean }] [loc] false none) := by
  refine issue_of_body hr (Checks.all_three ..) rfl rfl ?_
  simp only [syncForm, hfull, ne_eq, not_true_eq_false, if_false, hloc, hclean, hword, barWord_ofNat ph (hk.trans hkr) hre he,
    barWord_arrive_nat]
  rw [if_neg (by omega), if_neg (by simp), if_neg (by simpa using hkr)]

theorem execBarw_ready {sp : SramSpace} {loc : Loc}
    (r : Ready s x h (sSrc false a && sSrc false b && tmo.all kOk) [Rd.of a false (x.w.eff h), Rd.of b false (x.w.eff h)] false)
    (hloc : (s.past x h (lenOf l)).syncLoc x.w (x.w.eff h) (spOfSram sp) .read 8 (x.ea (spOfSram sp) 8 false a none disp 0) =
      .ok loc) :
    execBarw h l sp a b disp tmo s =
      .next (((s.past x h (lenOf l)).updWarp fun w => w.block (.barw loc (x.ea (spOfSram sp) 8 false a none disp 0) (sp == .cmem)
        (x.n32 b % 2 == 1) (tmo.map (·.idx))) x.w.pc h.set).reread s.cur.1 s.cur.2) := by
  refine issue_of_body r (Checks.all_three ..) rfl rfl ?_
  simp only [syncForm, hfull, ne_eq, not_true_eq_false, if_false, hfull ▸ hloc]
  rfl

theorem execWaitm_ready {sp : RwSpace} {sz : Size} {sgn : Bool} {sc : Scope} {peer : Peer} {cc : ICond} {loc : Loc}
    (r : Ready s x h (sDst (sz == .b64) d && baseOk 0 (spOfRw sp) true a && sSrc (sz == .b64) b && tmo.all kOk)
      [Rd.of a (spOfRw sp).wide (x.w.eff h), Rd.of b (sz == .b64) (x.w.eff h)] true)
    (hpeer : peerLegal peer (s.gclassOf x.w) = true)
    (hloc : (s.past x h 16).syncLoc x.w (x.w.eff h) (spOfRw sp) .read (sizeBytes sz)
      (x.ea (spOfRw sp) (sizeBytes sz) false a none disp 0) = .ok loc) :
    let m : WaitmState := { loc := loc, wide := sz == .b64, sgn := sgn, ea := x.ea (spOfRw sp) (sizeBytes sz) false a none disp 0
                            c := x.read (rdW (sz == .b64)) b 0, cc := cc, peer := peer, d := regOf d, tmo := tmo.map (·.idx)
                            lastRead := x.cycle, seen := (s.past x h 16).writes, value := 0 }
    execWaitm h sp sz sgn sc peer cc d a b disp tmo s =
      .next (((s.past x h 16).updWarp fun w => w.block (.waitm m) x.w.pc h.set).reread s.cur.1 s.cur.2) := by
  unfold execWaitm
  refine issue_of_body r (Checks.all_four ..) rfl rfl ?_
  simp only [syncForm, hfull, ne_eq, not_true_eq_false, if_false, State.gclassOf_past, hpeer, Bool.not_true, Bool.false_eq_true,
    hfull ▸ hloc]
  rfl

theorem execCbar_ready {g : Group} (r : Ready s x h (sSrc false b) [Rd.of b false (x.w.eff h)] false) (hb : x.n32 b < 4)
    (hg : s.groupOf x.w = some g) :
    execCbar h b s = .next (((s.past x h 8).updWarp fun w => w.block (.cbar (x.n32 b)) x.w.pc h.set).completeCbar g.launch
      (g.index / ((s.launch g.launch).map (·.record.clSize)).getD 1) (x.n32 b)) := by
  refine issue_of_body r (Checks.all_one ..) rfl rfl ?_
  simp only [syncForm, hfull, ne_eq, not_true_eq_false, if_false, hb, State.groupOf_past, hg]
  rfl

theorem execGbar_ready (r : Ready s x h true [] false) (hclass : s.gclassOf x.w = 0) :
    execGbar h s = .next ((s.past x h 8).updWarp fun w => w.block .gbar x.w.pc h.set) := by
  refine issue_of_body r rfl rfl rfl ?_
  simp only [syncForm, hfull, ne_eq, not_true_eq_false, if_false, State.gclassOf_past, hclass]

theorem execLdfe_ready {sp : SramSpace} {sz : Size} {sx scl clr : Bool} {sc : Scope} {peer : Peer} {locs : List (Nat × Loc)}
    (r : Ready s x h (vDst x.w.alloc (dataRegs (sizeBytes sz)) d && baseOk x.w.alloc (spOfSram sp) false a &&
      vSrc x.w.alloc false b && tmo.all kOk) [Rd.of a false (x.w.eff h), Rd.of b false (x.w.eff h)] false)
    (hpeer : peerLegal peer (s.gclassOf x.w) = true)
    (hlocs : (s.past x h 16).lsCheckAll x.w (spOfSram sp) .read (sizeBytes sz) (lanesOf (x.w.eff h))
      (x.ea (spOfSram sp) (sizeBytes sz) scl a (some b) disp) = .ok locs) :
    let m : LdfeState := { n := sizeBytes sz, sx := sx, clr := clr, peer := peer, d := regOf d, tmo := tmo.map (·.idx)
                           eas := (List.range 32).map (x.ea (spOfSram sp) (sizeBytes sz) scl a (some b) disp)
                           locs := locs.map (·.2), pending := fullMask, results := [], emptied := [] }
    execLdfe h sp sz sx sc scl peer clr d a b disp tmo s =
      .next (((s.past x h 16).updWarp fun w => w.block (.ldfe m) x.w.pc h.set).ldfeServe s.cur.1 s.cur.2) := by
  unfold execLdfe
  refine issue_of_body r (Checks.all_four ..) rfl rfl ?_
  simp only [hfull, ne_eq, not_true_eq_false, if_false, State.gclassOf_past, hpeer, Bool.not_true, Bool.false_eq_true,
    hfull ▸ hlocs]
  rfl

end Words

/-- Settles O19: each word by its own meaning, its checks passed. -/
theorem synchronisationResults : Obligations.SynchronisationResults := by
  intro s x h l d a b n disp tmo eff p at16 hfull
  refine ⟨fun g hg r hi hcnt hopen => execBar_ready hfull hg r hi hcnt hopen, ?_,
    fun sp loc r hloc => execBarw_ready hfull r hloc,
    fun sp sz sgn sc peer cc loc r hpeer hloc => execWaitm_ready (sc := sc) hfull r hpeer hloc,
    fun r hb g hg => execCbar_ready hfull r hb hg, fun r hclass => execGbar_ready hfull r hclass,
    fun sp sz sx sc scl clr peer locs r hpeer hlocs => execLdfe_ready (sc := sc) hfull r hpeer hlocs⟩
  rintro sp loc k e r ph hready rfl hk hkr hre he hloc hclean hword
  exact execBara_ready hfull hready hk hkr hre he hloc hclean hword

end Sys2Proof.Machine
end

section
namespace Sys2Proof.Machine

/-! ### The copy words (R284, R286, R291, R293 to R298) -/

theorem State.asidOf_past (s : State) (x : Ctx) (h : Hdr) (len : Nat) (w : Warp) : (s.past x h len).asidOf w = s.asidOf w := rfl

/-- The state once a copy word has left its request. -/
def State.copyIssued (s : State) (x : Ctx) (h : Hdr) (cmd : CopyCmd) (sh : Shape) (xs : List CopyElem) : State :=
  let p := s.past x h 16
  let transl := p.translOf p.cur.1 (s.asidOf x.w) (cmd.addrs xs)
  (p.walkedAll p.cur.1 (s.asidOf x.w) (transl.map fun t => (t.1 : Int))).setCurCore { p.curCore with
    copy := p.curCore.copy ++ [{
      lid := ((s.groupOf x.w).map (·.launch)).getD 0, gid := x.w.gid, wid := x.w.wid, asid := s.asidOf x.w
      strm := cmd.strm, kind := cmd.kind, flag := h.set, es := sh.es, ep := cmd.ep, elems := xs
      grans := if cmd.fe then granuleStarts sh.es xs else []
      transl := transl, waiting := none, ended := none, abandoned := false, stale := [] }] }

theorem copyWord_ready {s : State} {x : Ctx} {h : Hdr} {cs : Checks} {rs : LaneMask → List Rd} {mk : Ctx → CopyCmd} {sh : Shape}
    {xs : List CopyElem} {ok : Bool} {reads : List Rd} (r : Ready s x h ok reads false) (hok : cs.all (fun c => c.2) = ok)
    (hreads : rs (x.w.eff h) = reads) (hfull : x.w.eff h = fullMask)
    (hcheck : (s.past x h 16).copyCheck x.w (mk x) = .ok (sh, xs))
    (hfailed : (s.past x h 16).curCore.streamFailed x.w (mk x).strm = false) :
    copyWord h cs rs mk s = .next (s.copyIssued x h (mk x) sh xs) := by
  unfold copyWord
  refine issue_of_body r hok hreads rfl ?_
  simp only [hfull, ne_eq, not_true_eq_false, if_false, hcheck, hfailed, Bool.false_and, Bool.false_or, Bool.false_eq_true,
    List.map_id', State.asidOf_past, State.groupOf_past]
  cases hfe : (mk x).fe <;> simp [State.copyIssued, hfe]

/-- Settles O20: each copy word leaves the request of its command. -/
theorem copyWordsIssueRequests : Obligations.CopyWordsIssueRequests := by
  intro s x h strm dsp ssp fe sc d a ds o nblk eff p dp sp issues cmd ok3 rd3 m e hfull
  refine ⟨?_, ?_, ?_, ?_, ?_, ?_, ?_⟩
  · exact fun r sh xs hcheck hfailed => copyWord_ready r (Checks.all_three ..) rfl hfull hcheck hfailed
  · exact fun r sh xs hcheck hfailed => copyWord_ready r (Checks.all_two ..) rfl hfull hcheck hfailed
  · exact fun r sh xs hcheck hfailed => copyWord_ready r (Checks.all_four ..) rfl hfull hcheck hfailed
  · exact fun r sh xs hcheck hfailed => copyWord_ready r (Checks.all_four ..) rfl hfull hcheck hfailed
  · exact fun r sh xs hcheck hfailed => copyWord_ready r (Checks.all_four ..) rfl hfull hcheck hfailed
  · exact fun r sh xs hcheck hfailed => copyWord_ready r (Checks.all_four ..) rfl hfull hcheck hfailed
  · exact fun r sh xs hcheck hfailed => copyWord_ready r (Checks.all_four ..) rfl hfull hcheck hfailed

end Sys2Proof.Machine
end

section
namespace Sys2Proof.Machine

/-! ### Waits that complete, time out or trap (R174, R175, R264, R268, R269, R271, R407) -/

theorem exec_waitmReread (c j : Nat) (s : State) : exec (.waitmReread c j) s = .next (s.reread c j) := rfl

theorem exec_steepTimerExpiry (c j : Nat) (s : State) : exec (.steepTimerExpiry c j) s = .next (s.steepExpire c j) := rfl

theorem exec_ldfeServe (c j : Nat) (s : State) : exec (.ldfeServe c j) s = .next (s.ldfeServe c j) := rfl

section Waits

variable {s : State} {c j : Nat} {w : Warp} (hw : s.warpAt c j = some w)
include hw

section Waitm

variable {m : WaitmState} (hwait : w.wait = .waitm m)
include hwait

/-- The next read of a WAITM, by what its location gives. -/
theorem State.reread_of_waitm_error {t : Trap} (hread : s.waitmRead c w m = .error t) : s.reread c j = s.trapWait c j t := by
  simp only [State.reread, hw, hwait, hread]

theorem State.reread_of_waitm_ok {l : Loc} {v : DWord} (hread : s.waitmRead c w m = .ok (l, v)) :
    s.reread c j =
      let s1 := (s.walkLoc c (s.asidOf w) l m.ea).locAccess (.core c) l m.bytes .read
      if m.holds v then s1.finishWait c j (sWriteW m.wide m.d v ++ tmoWrite m.tmo true)
      else s1.setWarpAt c j
        { w with wait := .waitm { m with loc := l, value := v, lastRead := (s.core c).cycle, seen := s.writes } } := by
  simp only [State.reread, hw, hwait, hread]

end Waitm

section Barw

variable {loc : Loc} {ea : Int} {cm p : Bool} {tmo : Option (BitVec 3)} (hwait : w.wait = .barw loc ea cm p tmo)
include hwait

theorem State.reread_of_barw_error {t : Trap} (hread : s.waitRead loc 8 ea = .error t) : s.reread c j = s.trapWait c j t := by
  simp only [State.reread, hw, hwait, hread]

theorem State.reread_of_barw_ok {v : DWord} (hread : s.waitRead loc 8 ea = .ok v) :
    s.reread c j = if v.getLsbD 32 ≠ p then s.finishWait c j (tmoWrite tmo true) else s := by
  simp only [State.reread, hw, hwait, hread]

end Barw

theorem State.ldfeServe_of_wait {l : LdfeState} (hwait : w.wait = .ldfe l) :
    s.ldfeServe c j =
      let r := s.serveLanes l l.todo 32
      if r.2.pending = 0 then r.1.setWarpAt c j ((w.complete (s.core c).cycle w.order r.2.writes).unblock (s.core c).cycle)
      else r.1.setWarpAt c j { w with wait := .ldfe r.2 } := by
  simp only [State.ldfeServe, hw, hwait]

/-- A wait still unmet when its budget has run out takes the steep timer's way. -/
theorem State.steepExpire_of_unmet {w1 : Warp} (hcounts : w.wait.counts = true) (hbudget : s.budget w ≤ w.steep.toNat)
    (hw1 : (s.tryAnyWait c j).warpAt c j = some w1) (hcounts1 : w1.wait.counts = true)
    (hbudget1 : (s.tryAnyWait c j).budget w1 ≤ w1.steep.toNat) : s.steepExpire c j = (s.tryAnyWait c j).steepOut c j := by
  simp only [State.steepExpire, hw, hcounts, hbudget, and_self, if_true, hw1, hcounts1, hbudget1]

section SteepOut

variable {l : LdfeState} {m : WaitmState} {loc : Loc} {ea : Int} {cm p : Bool} {tmo : Option (BitVec 3)}

theorem State.steepOut_of_barw (hwait : w.wait = .barw loc ea cm p tmo) :
    s.steepOut c j = if tmo.isSome then s.finishWait c j (tmoWrite tmo false)
      else s.trapWait c j (trapAt cSteep fullMask w.wait.peer w.wait.ea) := by
  simp only [State.steepOut, hw, hwait]

theorem State.steepOut_of_waitm (hwait : w.wait = .waitm m) :
    s.steepOut c j = if m.tmo.isSome then s.finishWait c j (sWriteW m.wide m.d m.value ++ tmoWrite m.tmo false)
      else s.trapWait c j (trapAt cSteep fullMask w.wait.peer w.wait.ea) := by
  simp only [State.steepOut, hw, hwait]

theorem State.steepOut_of_ldfe (hwait : w.wait = .ldfe l) :
    s.steepOut c j = if l.tmo.isSome then s.finishWait c j l.writes
      else s.trapWait c j (trapAt cSteep fullMask w.wait.peer w.wait.ea) := by
  simp only [State.steepOut, hw, hwait]

/-- The waits without a timeout form. -/
theorem State.steepOut_of_other (hldfe : ∀ l, w.wait ≠ .ldfe l) (hwaitm : ∀ m, w.wait ≠ .waitm m)
    (hbarw : ∀ loc ea cm p tmo, w.wait ≠ .barw loc ea cm p tmo) :
    s.steepOut c j = s.trapWait c j (trapAt cSteep fullMask w.wait.peer w.wait.ea) := by
  simp only [State.steepOut, hw]

end SteepOut

end Waits

/-- A wait translates its address anew where it lies in global memory (R185). -/
theorem State.waitLoc_of_reached {s : State} {c : Nat} {w : Warp} {m : WaitmState} {l : Loc}
    (hl : (∃ pa z pa' z', m.loc = .glob pa z ∧ s.probe c (s.asidOf w) m.ea.toNat .read = .ok (pa', z') ∧ l = .glob pa' z') ∨
      (∃ g off, m.loc = .sram g off ∧ l = m.loc)) : s.waitLoc c w m.loc m.ea = .ok l := by
  rcases hl with ⟨pa, z, pa', z', hloc, hprobe, rfl⟩ | ⟨g, off, hloc, rfl⟩
  · simp only [State.waitLoc, hloc, hprobe]
  · simp only [State.waitLoc, hloc]

/-- Settles O25: each wait by its kind, WAITM by what its translation and its read give. -/
theorem waitEvents : Obligations.WaitEvents := by
  intro s c j w hw
  refine ⟨fun m hwait => ⟨?untranslated, fun l hl => ?read⟩, fun loc ea cm p tmo hwait => ?barw,
    fun w1 hcounts hbudget hw1 hcounts1 hbudget1 => ?steep, fun l hwait => ?ldfe⟩
  case untranslated =>
    intro pa z f hloc hprobe
    have hread : s.waitmRead c w m = .error (trapAt f.code fullMask f.detail (addrNat m.ea)) := by
      simp only [State.waitmRead, State.waitLoc, hloc, hprobe]
    rw [exec_waitmReread, State.reread_of_waitm_error hw hwait hread]
  case read =>
    have hloc := State.waitLoc_of_reached hl
    refine ⟨fun t ht => ?_, fun v hv => ?_⟩
    · have hread : s.waitmRead c w m = .error t := by simp only [State.waitmRead, hloc, ht]
      rw [exec_waitmReread, State.reread_of_waitm_error hw hwait hread]
    · have hread : s.waitmRead c w m = .ok (l, v) := by simp only [State.waitmRead, hloc, hv]
      rw [exec_waitmReread, State.reread_of_waitm_ok hw hwait hread]
      exact ⟨fun h => by rw [if_pos h], fun h => by rw [if_neg (ne_true_of_eq_false h)]⟩
  case barw =>
    rw [exec_waitmReread]
    refine ⟨fun t ht => by rw [State.reread_of_barw_error hw hwait ht], fun v hv => ?_⟩
    rw [State.reread_of_barw_ok hw hwait hv]
    exact ⟨fun h => congrArg _ (if_pos h), fun h => congrArg _ (if_neg (not_not_intro h))⟩
  case steep =>
    rw [exec_steepTimerExpiry, State.steepExpire_of_unmet hw hcounts hbudget hw1 hcounts1 hbudget1]
    refine ⟨fun loc ea cm p tmo hwait => ?_, fun m hwait => ?_, fun l hwait => ?_,
      fun hldfe hwaitm hbarw => by rw [State.steepOut_of_other hw1 hldfe hwaitm hbarw]⟩
    · rw [State.steepOut_of_barw hw1 hwait]
      exact ⟨by rintro rfl; rfl, by rintro k rfl; rfl⟩
    · rw [State.steepOut_of_waitm hw1 hwait]
      exact ⟨fun h => by rw [h]; rfl, fun k h => by rw [h]; rfl⟩
    · rw [State.steepOut_of_ldfe hw1 hwait]
      exact ⟨fun h => by rw [h]; rfl, fun k h => by rw [h]; rfl⟩
  case ldfe =>
    rw [exec_ldfeServe, State.ldfeServe_of_wait hw hwait]
    exact ⟨fun h => congrArg _ (if_pos h), fun h => congrArg _ (if_neg h)⟩

end Sys2Proof.Machine
end

section
namespace Sys2Proof.Machine

/-! ### Groups are dispatched, depart and retire (R160, R221, R275 to R278, R281, R355) -/

/-- The entries of a core's regions that hold a culture of a group. -/
def Own.ownedBy (gid : Nat) (o : Own) : Bool := o.gid == some gid && o.st == .owned

/-- What becomes of such an entry when the group leaves at a time. -/
def Own.left (now : Nat) (o : Own) : Own :=
  if o.pin then { o with st := .pinned, gid := none, bound := false, bwarp := 0, since := now }
  else { o with st := .spilling, gid := none, bound := false, bwarp := 0 }

theorem State.depart_of_none {s : State} {c gid : Nat} (h : ∀ i < 16, Own.ownedBy gid ((s.core c).ownAt i) = false) :
    s.depart c gid = s := by
  refine if_neg fun hany => ?_
  obtain ⟨i, hi, hown⟩ := List.any_eq_true.1 hany
  exact absurd hown (ne_true_of_eq_false (h i (List.mem_range.1 hi)))

theorem State.depart_of_some {s : State} {c gid : Nat} (h : ∃ i < 16, Own.ownedBy gid ((s.core c).ownAt i) = true) :
    s.depart c gid = { s with seq := s.seq + 1 }.setCore c ((s.core c).mapOwn (Own.ownedBy gid) (Own.left s.seq)) := by
  obtain ⟨i, hi, hown⟩ := h
  exact if_pos (List.any_eq_true.2 ⟨i, List.mem_range.2 hi, hown⟩)

section GroupLife

variable {s : State} {gid : Nat} {g : Group} {l : Launch} (hg : s.group gid = some g)
include hg

/-- The groups of one cluster, or of a resumed gang, start together. -/
def State.startPeers (s : State) (g : Group) (l : Launch) : State :=
  (s.peers g l).foldl (fun a p => match a.launch g.launch with
    | some l' => a.startGroup p.1 p.2 l'
    | none => a) s

theorem exec_groupDispatch_of_placed (hl : s.launch g.launch = some l) (hrun : g.run = .placed) :
    exec (.groupDispatch gid) s =
      let s1 := s.prepare gid g l
      .next (if s1.mayStart g l && allPlaced g l (s1.peers g l) &&
          (s1.peers g l).all fun p => s1.startOpen p.2 l && s1.culturesReady p.1 p.2 l then s1.startPeers g l else s1) := by
  change Host.Outcome.next (s.dispatchGroup gid) = _
  simp only [State.dispatchGroup, hg, hl, hrun, ne_eq, not_true_eq_false, if_false]
  rfl

theorem exec_groupDeparture_of_idle (hrun : g.run = .running) (hslots : g.slots = [])
    (hidle : (s.core (g.cores.headD 0)).arrIdle gid = true) :
    exec (.groupDeparture gid) s = .next (s.depart (g.cores.headD 0) gid) := by
  change execGroupDeparture gid s = _
  simp only [execGroupDeparture, hg, hrun, hslots, hidle, List.isEmpty_nil, and_self, if_true]

theorem exec_groupRetire_of_idle (hl : s.launch g.launch = some l) (hrun : g.run = .running) (hslots : g.slots = [])
    (hidle : (s.core (g.cores.headD 0)).idleFor gid = true) (hown : ∀ r < 16, ((s.core (g.cores.headD 0)).ownAt r).gid ≠ some gid)
    (hacc : l.record.clSize ≠ 1 → s.accessed gid = false) :
    exec (.groupRetire gid) s = .next (((s.pass (dieOf (g.cores.headD 0)) 4).vacate gid g).updLaunch g.launch fun l =>
      { l with retired := l.retired.add g.index }) := by
  change Host.Outcome.next (s.retireGroup gid) = _
  have howns : ((List.range 16).any fun i => ((s.core (g.cores.headD 0)).ownAt i).gid == some gid) = false := by
    simpa using hown
  have hmem : ((l.record.clSize != 1) && s.accessed gid) = false := by
    by_cases h1 : l.record.clSize = 1
    · simp [h1]
    · simp [hacc h1]
  simp only [State.retireGroup, hg, hl, hrun, hslots, hidle, howns, hmem, List.isEmpty_nil, Option.map_some, Option.getD_some,
    Bool.not_false, and_self, if_true]

end GroupLife

/-- Settles O33: a placed group by whether it and its peers may start, a group without warps by what its core still holds of it. -/
theorem groupLifeEvents : Obligations.GroupLifeEvents := by
  intro s gid g l hg hl
  refine ⟨fun hrun => ?_, fun hrun hslots hidle => ?_,
    fun hrun hslots hidle hown hacc => exec_groupRetire_of_idle hg hl hrun hslots hidle hown hacc⟩
  · rw [exec_groupDispatch_of_placed hg hl hrun]
    refine ⟨fun hmay hall hpeers => congrArg _ (if_pos ?_), fun hnot => congrArg _ (if_neg ?_)⟩
    · simpa [hmay, hall] using hpeers
    · rcases hnot with h | h | ⟨p, hp, h⟩
      · simp [h]
      · simp [h]
      · rw [Bool.and_eq_true, List.all_eq_true]
        rintro ⟨-, hpeers⟩
        have hpeer := hpeers p hp
        rcases h with h | h <;> simp [h] at hpeer
  · rw [exec_groupDeparture_of_idle hg hrun hslots hidle]
    exact ⟨fun h => congrArg _ (State.depart_of_none h), fun h => congrArg _ (State.depart_of_some h)⟩

end Sys2Proof.Machine
end

section
namespace Sys2Proof.Machine

/-! ### Packets of a command queue (R416, R420 to R423) -/

theorem FabricOnly.queue {s t : State} (h : FabricOnly s t) (i : Nat) : t.queue i = s.queue i := by
  rw [h]
  rfl

theorem Queue.ne_initial_of_work {x : Queue} (h : x.work ≠ .none) : x ≠ Queue.initial := by
  rintro rfl
  exact h rfl

theorem State.queue_setQueue_of_work (s : State) (i : Nat) {x : Queue} (h : x.work ≠ .none) : (s.setQueue i x).queue i = x :=
  SMap.get_set_self_of_ne _ _ (Queue.ne_initial_of_work h)

section Head

variable {s : State} {i : Nat} {b : List Byte} (hb : s.headOf i = .packet b)
include hb

/-- A queue begins packets while it is enabled. -/
theorem State.enable_of_packet : (s.queue i).enable = true := by
  by_contra hoff
  have hnone : s.headOf i = .none := if_pos (by simp [hoff])
  simp [hnone] at hb

theorem State.packet_of_head {op : Nat} (hop : field b 0 1 = op) (run : State → List Byte → State) :
    s.packet i op run = run (s.ringRead i) b := by
  simp only [State.packet, hb, hop, if_true]

theorem State.enable_ringRead : ((s.ringRead i).queue i).enable = true := by
  rw [State.ringRead, (fabricOnly_access s _ _ _ _).queue]
  exact State.enable_of_packet hb

/-- Moving RP past the packet leaves the queue its ASID. -/
theorem State.asidOfQueue_advance : ((s.ringRead i).advance i).asidOfQueue i = (s.ringRead i).asidOfQueue i := by
  simp only [State.asidOfQueue, State.advance, State.queue_setQueue_of_enable, State.enable_ringRead hb]

end Head

section Wait

variable {s : State} {q : BitVec 7} {b : List Byte}

theorem exec_waitPacket_of_fault (hb : s.headOf q.toNat = .packet b) (hop : field b 0 1 = 2) {f : GFault}
    (hf : (s.ringRead q.toNat).hubXlate ((s.ringRead q.toNat).queue q.toNat).space (field b 8 8) .read = .error f) :
    exec (.waitPacket q) s =
      .next (((s.ringRead q.toNat).hubWalked ((s.ringRead q.toNat).queue q.toNat).space (field b 8 8)).haltQueue q.toNat 5 8
        ((s.ringRead q.toNat).queue q.toNat).rp.toNat) := by
  dsimp only [exec, execWaitPacket]
  rw [State.packet_of_head hb hop]
  simp only [State.spaceOfQueue, hf, State.refusePacket, (fabricOnly_hubWalked _ _ _).queue]

theorem exec_waitPacket_of_translated (hb : s.headOf q.toNat = .packet b) (hop : field b 0 1 = 2) {p : Nat × Bool}
    (hp : (s.ringRead q.toNat).hubXlate ((s.ringRead q.toNat).queue q.toNat).space (field b 8 8) .read = .ok p) :
    exec (.waitPacket q) s =
      let s1 := (s.ringRead q.toNat).advance q.toNat
      .next ((s1.setQueue q.toNat { s1.queue q.toNat with
        work := .wait ((s.ringRead q.toNat).queue q.toNat).rp.toNat (field b 8 8) (2 ^ field b 3 1) (field b 2 1)
          (BitVec.ofNat 64 (field b 16 8)) s1.hub s1.hub (field b 4 4) (field b 1 1 == 1) }).waitStep q.toNat) := by
  dsimp only [exec, execWaitPacket]
  rw [State.packet_of_head hb hop]
  simp only [State.spaceOfQueue, hp]
  rfl

variable {off va n cond start last timeout : Nat} {value : BitVec 64} {irq : Bool}
  (hwork : (s.queue q.toNat).work = .wait off va n cond value start last timeout irq)
include hwork

theorem exec_waitReread_of_late (hlate : timeout ≠ 0 ∧ 1024 * timeout < s.hub - start) :
    exec (.waitReread q) s = .next (s.failPacket q.toNat off 6 0) := by
  dsimp only [exec, execWaitReread]
  simp [State.waitStep, hwork, hlate]

theorem exec_waitReread_of_fault (hlate : ¬ (timeout ≠ 0 ∧ 1024 * timeout < s.hub - start)) {f : GFault}
    (hf : s.hubXlate (s.queue q.toNat).space va .read = .error f) :
    exec (.waitReread q) s = .next ((s.hubWalked (s.queue q.toNat).space va).failPacket q.toNat off 5 8) := by
  dsimp only [exec, execWaitReread]
  simp only [State.waitStep, hwork, if_neg hlate, State.spaceOfQueue, hf]

theorem exec_waitReread_of_read (hlate : ¬ (timeout ≠ 0 ∧ 1024 * timeout < s.hub - start)) {pa : Nat} {comp : Bool}
    (hp : s.hubXlate (s.queue q.toNat).space va .read = .ok (pa, comp)) :
    exec (.waitReread q) s =
      let u := (s.hubWalked (s.queue q.toNat).space va).access .hub pa n .read
      .next (if u.errReply pa || u.memPoisoned pa n then u.failPacket q.toNat off 5 8
        else if waitHolds cond (u.memNat pa n) value.toNat then u.endPacket q.toNat true irq
        else u.setQueue q.toNat { u.queue q.toNat with work := .wait off va n cond value start s.hub timeout irq }) := by
  dsimp only [exec, execWaitReread]
  simp only [State.waitStep, hwork, if_neg hlate, State.spaceOfQueue, hp]
  rfl

theorem exec_waitTimeout_of_late (hset : timeout ≠ 0) (hlate : 1024 * timeout ≤ s.hub - start) :
    exec (.waitTimeout q) s = .next (s.failPacket q.toNat off 6 0) := by
  dsimp only [exec, execWaitTimeout]
  simp only [State.waitExpire, hwork]
  rw [if_pos ⟨hset, hlate⟩]

end Wait

section Packets

variable {s : State} {q : BitVec 7} {b : List Byte} (hb : s.headOf q.toNat = .packet b)
include hb

theorem exec_nopPacket_of_head (hop : field b 0 1 = 0) : exec (.nopPacket q) s =
    .next (((s.ringRead q.toNat).advance q.toNat).endPacket q.toNat true (field b 1 1 == 1)) := by
  dsimp only [exec, execNopPacket]
  rw [State.packet_of_head hb hop]
  rfl

theorem exec_signal_of_write (hop : field b 0 1 = 3) (hwrite : field b 2 1 = 0) {pa : Nat} {comp : Bool}
    (hp : (s.ringRead q.toNat).hubXlate ((s.ringRead q.toNat).queue q.toNat).space (field b 8 8) .write = .ok (pa, comp)) :
    let sg := ((s.ringRead q.toNat).hubWalked ((s.ringRead q.toNat).queue q.toNat).space (field b 8 8)).advance q.toNat
    sg.errReply pa = false → exec (.signal q) s =
      .next ((sg.store .hub pa (leBytes 8 (field b 16 8)) comp).endPacket q.toNat true (field b 1 1 == 1)) := by
  intro sg herr
  have hkind : (field b 2 1 == 1) = false := by rw [hwrite]; rfl
  dsimp only [exec, execSignal]
  rw [State.packet_of_head hb hop]
  simp only [hkind, State.spaceOfQueue, Bool.false_eq_true, if_false, hp, Bool.false_and, Bool.or_false]
  exact congrArg _ (if_neg (by simp [sg, herr]))

theorem exec_signal_of_add (hop : field b 0 1 = 3) (hadd : field b 2 1 = 1) {pa : Nat} {comp : Bool}
    (hp : (s.ringRead q.toNat).hubXlate ((s.ringRead q.toNat).queue q.toNat).space (field b 8 8) .rmw = .ok (pa, comp)) :
    let sg := ((s.ringRead q.toNat).hubWalked ((s.ringRead q.toNat).queue q.toNat).space (field b 8 8)).advance q.toNat
    sg.errReply pa = false → sg.memPoisoned pa 8 = false → exec (.signal q) s =
      .next ((sg.store .hub pa (leBytes 8 (sg.memNat pa 8 + field b 16 8)) comp).endPacket q.toNat true (field b 1 1 == 1)) := by
  intro sg herr hclean
  have hkind : (field b 2 1 == 1) = true := by rw [hadd]; rfl
  dsimp only [exec, execSignal]
  rw [State.packet_of_head hb hop]
  simp only [hkind, State.spaceOfQueue, if_true, hp, Bool.true_and]
  exact congrArg _ (if_neg (by simp [sg, herr, hclean]))

theorem exec_iflush_of_head (hop : field b 0 1 = 5) :
    let s1 := (s.ringRead q.toNat).advance q.toNat
    let dies := (List.range 4).filter fun d => field b 2 1 / 2 ^ d % 2 == 1
    exec (.iflush q) s = .next (((coresOf dies).foldl (fun a c => a.dropCode c (s1.asidOfQueue q.toNat) fun va =>
      !(decide (field b 8 8 ≤ va) && decide (va < field b 8 8 + field b 16 4)))
      (dies.foldl (fun a d => a.exchange 4 d) s1)).endPacket q.toNat true (field b 1 1 == 1)) := by
  intro s1 dies
  dsimp only [exec, execIflush]
  rw [State.packet_of_head hb hop, State.asidOfQueue_advance hb]
  rfl

/-- An INVAL waits while a request of its marking is in progress, else it completes with its interrupt. -/
theorem exec_inval_of_head (hop : field b 0 1 = 4) (hidle : (s.queue q.toNat).work = .none) :
    let s1 := (s.ringRead q.toNat).advance q.toNat
    let s2 := s1.invalidate q.toNat (s1.asidOfQueue q.toNat) (field b 8 8 / 4096) (field b 16 4)
    let s3 := s2.setQueue q.toNat { s2.queue q.toNat with work := .inval (field b 1 1 == 1) }
    exec (.inval q) s = .next (if s3.staleLeft q.toNat then s3 else s3.endPacket q.toNat true (field b 1 1 == 1)) := by
  dsimp only [exec, execInval]
  simp only [State.inval, hidle]
  rw [State.packet_of_head hb hop, ← State.asidOfQueue_advance hb]
  simp only [State.queue_setQueue_of_work, ne_eq, reduceCtorEq, not_false_eq_true, pktIrq]
  rfl

theorem exec_launch_of_record (hop : field b 0 1 = 1) {pa : Nat} {comp : Bool} :
    let t := s.ringRead q.toNat
    let tw := t.hubWalked (t.queue q.toNat).space (field b 8 8)
    let u := tw.access .hub pa 256 .read
    tw.hubProbe (t.queue q.toNat).space (field b 8 8) .read = .ok (pa, comp) → u.memPoisoned pa 256 = false →
    exec (.launch q) s = .next (
      match firstBad (recordChecks (u.memRead pa 256)) with
      | some o => u.haltQueue q.toNat 4 o (u.queue q.toNat).rp.toNat
      | none =>
        let x := t.queue q.toNat
        let r := recordOf (u.memRead pa 256)
        let l : Launch :=
          { id := BitVec.ofNat 64 (2 ^ 56 * q.toNat + x.seq.toNat), queue := q.toNat, asid := x.asid.getD 0, space := x.space
            off := x.rp.toNat
            record := r
            prio := min r.prio x.qprio.toNat
            dies := r.dieSet.filter fun d => !u.fenced.has d && (u.dies.get DieSt.initial d).mode == .running
            readAt := u.hub, preempt := x.preempt, irq := field b 1 1 == 1, constAt := u.writes, gphase := 0, fault := false
            next := 0, grants := [], back := [], started := [], retired := [], lost := [], again := [], saved := []
            freshDone := [], unadmit := false, killed := false }
        let v := u.advance q.toNat
        let s2 := { v with seq := v.seq + 1 }
        let s3 := s2.setQueue q.toNat { s2.queue q.toNat with work := .launch v.seq }
        { s3 with launches := s3.launches.put v.seq l }.judge v.seq) := by
  intro t tw u hp hclean
  simp only [u, tw, t] at hp hclean
  dsimp only [exec, execLaunch]
  rw [State.packet_of_head hb hop]
  simp only [u, tw, t, State.spaceOfQueue, (fabricOnly_hubWalked _ _ _).queue, hp, hclean, Bool.false_eq_true, if_false]
  cases firstBad (recordChecks _) <;> rfl

end Packets

theorem exec_inval_of_inProgress {s : State} {q : BitVec 7} {irq : Bool} (hwork : (s.queue q.toNat).work = .inval irq)
    (hdone : s.staleLeft q.toNat = false) : exec (.inval q) s = .next (s.endPacket q.toNat true irq) := by
  dsimp only [exec, execInval]
  simp [State.inval, hwork, hdone]

/-- Settles O37: a packet's event runs the packet at the head of its queue from the read of the ring, and a WAIT or INVAL in
progress goes on from what its queue keeps. -/
theorem packetEvents : Obligations.PacketEvents := by
  intro s q i t x asid s1 waited
  refine ⟨fun b hb => ⟨exec_nopPacket_of_head hb, fun hop => ⟨fun f => exec_waitPacket_of_fault hb hop,
    fun pa comp => exec_waitPacket_of_translated hb hop⟩, fun hop pa comp => ⟨fun h => exec_signal_of_write hb hop h,
    fun h => exec_signal_of_add hb hop h⟩, exec_iflush_of_head hb, ?_⟩, ?_, fun irq => exec_inval_of_inProgress, ?_⟩
  · intro hop tw pa comp hp u hclean rb
    have hlaunch := exec_launch_of_record hb hop hp hclean
    exact ⟨fun o ho => by rw [hlaunch]; simp only [rb, u, tw, t, x] at ho ⊢; rw [ho],
      fun ho => by rw [hlaunch]; simp only [rb, u, tw, t, x] at ho ⊢; rw [ho]⟩
  · intro b hb hop hidle s2 s3
    have hinval := exec_inval_of_head hb hop hidle
    exact ⟨fun hstale => hinval.trans (congrArg _ (if_pos hstale)),
      fun hdone => hinval.trans (congrArg _ (if_neg (ne_true_of_eq_false hdone)))⟩
  · intro off va n cond value start last timeout irq hwork late sw
    refine ⟨exec_waitReread_of_late hwork, fun f h => exec_waitReread_of_fault hwork h, ?_, exec_waitTimeout_of_late hwork⟩
    intro pa comp hlate hp u
    have hread := exec_waitReread_of_read hwork hlate hp
    refine ⟨fun hbad => hread.trans (congrArg _ (if_pos (by simpa using hbad))), fun herr hclean => ⟨?_, ?_⟩⟩
    · exact fun hholds => hread.trans (congrArg _ ((if_neg (by simp [u, sw, i, herr, hclean])).trans (if_pos hholds)))
    · exact fun hholds => hread.trans (congrArg _ ((if_neg (by simp [u, sw, i, herr, hclean])).trans
        (if_neg (ne_true_of_eq_false hholds))))

end Sys2Proof.Machine
end

section
namespace Sys2Proof.Machine

/-! ### The host's requests of device memory (R448, R454, R457) -/

/-- What a request of the host does that is not on its way yet, by what the host holds of the line. -/
def State.m2sBegins (s : State) (sec : Nat) (k : M2S) : State :=
  let line := sec / 2
  let asks (t : State) (new : AgentSt) (r : Req) : State := (t.setAgent line 4 new).send 4 (homeOf line) line (.req r)
  match k, (s.line line).agent 4 with
  | .write bs p, _ => s.hostWrites sec bs p
  | .shared, .i => asks s .is .rdS
  | .shared, .s => asks s .is .rdS
  | .shared, .e => s.hostGets sec true none
  | .shared, .m => s.hostGets sec true none
  | .shared, .o => s.hostGets sec false none
  | .exclusive _, .i => asks s .ix .rdX
  | .exclusive _, .s => asks s .ix .rdX
  | .exclusive _, .o => asks (s.mergeLine line) .ix .rdX
  | .exclusive data, .e => s.hostGets sec true data
  | .exclusive data, .m => s.hostGets sec true data
  | _, _ => s

theorem line_lt_of_sector (sec : BitVec 35) : sec.toNat / 2 < 2 ^ 34 := by
  have := sec.isLt
  omega

section Requests

variable {s : State} (hon : s.boot = .on) (sec : BitVec 35)
include hon

/-- The device runs, and every sector of the link's address is one of device memory: a request is considered. -/
theorem State.m2s_considered : ¬ (s.boot ≠ .on ∨ 2 ^ 34 ≤ sec.toNat / 2) := by
  have := line_lt_of_sector sec
  simp only [hon, ne_eq, not_true_eq_false, false_or]
  omega

theorem exec_hostM2s_of_reply {m : Msg} {s1 : State} (hreply : s.hostReply (sec.toNat / 2) = some (m, s1)) (k : M2S) :
    exec (.hostM2sRequest sec k) s = .next (s1.hostTakes sec.toNat m k) := by
  dsimp only [exec, execHostM2sRequest]
  simp only [State.m2s, State.m2s_considered hon sec, if_false, hreply]

/-- A grant reaches the host: it holds what was granted, acknowledges, and gets its sector. -/
theorem exec_hostM2s_of_grant {m : Msg} {s1 : State} (hreply : s.hostReply (sec.toNat / 2) = some (m, s1)) (hgrant : m ≠ .cmp)
    {new : AgentSt} (hnew : ((s1.line (sec.toNat / 2)).agent 4).granted m = new) (k : M2S) :
    exec (.hostM2sRequest sec k) s =
      .next (((s1.setAgent (sec.toNat / 2) 4 new).send 4 (homeOf (sec.toNat / 2)) (sec.toNat / 2) .ack).hostGets sec.toNat (m != .datS)
        (if m = .datS then none else m2sStores k)) := by
  rw [exec_hostM2s_of_reply hon sec hreply]
  simp only [State.hostTakes, if_neg hgrant, hnew]

section Unanswered

variable (hreply : s.hostReply (sec.toNat / 2) = none)
include hreply

theorem exec_hostM2s_of_gone (hfence : s.fenced.has (homeOf (sec.toNat / 2)) = true) (htaken : s.hostTaken (sec.toNat / 2) = false)
    (k : M2S) : exec (.hostM2sRequest sec k) s = .next (s.hubAnswers sec.toNat k) := by
  dsimp only [exec, execHostM2sRequest]
  simp only [State.m2s, State.m2s_considered hon sec, if_false, hreply, hfence, htaken, Bool.not_false,
    Bool.and_true, if_true]

variable (hserved : (s.fenced.has (homeOf (sec.toNat / 2)) && !s.hostTaken (sec.toNat / 2)) = false) (k : M2S)
include hserved

theorem exec_hostM2s_of_asked (hasked : s.asked (sec.toNat / 2) 4 (m2sReq k sec.toNat) = true) :
    exec (.hostM2sRequest sec k) s = .next (s.ask (sec.toNat / 2) 4 (m2sReq k sec.toNat)) := by
  dsimp only [exec, execHostM2sRequest]
  simp only [State.m2s, State.m2s_considered hon sec, if_false, hreply, hserved, Bool.false_eq_true, hasked,
    if_true]

theorem exec_hostM2s_of_flushing (hnew : s.asked (sec.toNat / 2) 4 (m2sReq k sec.toNat) = false)
    (hflush : s.asked (sec.toNat / 2) 4 .flush = true) :
    exec (.hostM2sRequest sec k) s = .next (s.ask (sec.toNat / 2) 4 .flush) := by
  dsimp only [exec, execHostM2sRequest]
  simp only [State.m2s, State.m2s_considered hon sec, if_false, hreply, hserved, Bool.false_eq_true, hnew,
    hflush, if_true]

end Unanswered

theorem exec_hostM2s_of_new (hreply : s.hostReply (sec.toNat / 2) = none) (hfence : s.fenced.has (homeOf (sec.toNat / 2)) = false)
    (hflush : s.asked (sec.toNat / 2) 4 .flush = false) {k : M2S} (hnew : s.asked (sec.toNat / 2) 4 (m2sReq k sec.toNat) = false) :
    exec (.hostM2sRequest sec k) s = .next (s.m2sBegins sec.toNat k) := by
  dsimp only [exec, execHostM2sRequest]
  simp only [State.m2s, State.m2s_considered hon sec, if_false, hreply, hfence, Bool.false_and,
    Bool.false_eq_true, hnew, hflush]
  rfl

end Requests

/-! ### The host's answers to back-invalidates (R454, Table PF-7) -/

/-- A line with a transaction is listed, so that what a die's host bits say of a fresh line does not matter to it. -/
theorem State.line_of_txn {s t : State} {line : Nat} {x : Txn} (htxn : (s.line line).txn = some x) (hlines : t.lines = s.lines) :
    t.line line = s.line line := by
  have hlisted : s.lines.find? line ≠ none := by
    intro hnone
    simp only [State.line, SMap.get, hnone, Option.getD_none, State.freshLine] at htxn
    split at htxn <;> exact absurd htxn (by simp [LineSt.initial])
  obtain ⟨e, he⟩ := Option.ne_none_iff_exists'.1 hlisted
  simp only [State.line, SMap.get, hlines, he, Option.getD_some]

theorem State.lines_noteSend (s : State) (a b : Nat) (fs : List FMsg) : (s.noteSend a b fs).lines = s.lines := by
  unfold State.noteSend
  dsimp only
  split <;> split <;> rfl

theorem State.lines_refill (s : State) (a b n : Nat) : (s.refill a b n).lines = s.lines := by
  unfold State.refill
  dsimp only
  split
  · exact State.lines_noteSend _ _ _ _
  · rfl

theorem State.lines_pass (s : State) (a b : Nat) : (s.pass a b).lines = s.lines := by
  unfold State.pass
  dsimp only
  split
  · rfl
  · rw [State.lines_noteSend]
    split
    · rfl
    · exact List.foldlRecOn (motive := fun t : State => t.lines = s.lines) _ _ rfl
        fun t ht n _ => (State.lines_refill _ _ _ _).trans ((State.lines_refill _ _ _ _).trans ht)

/-- A request whose snoop leaves the agent a copy, host bit or not, takes no data with the ownership. -/
theorem snoopKind_fresh_ne {r : Req} {bit : Bool} {b : Nat} (h : snoopKind r bit b ≠ .snpI) : snoopKind r false b ≠ .snpI := by
  cases r <;> simp_all [snoopKind]

/-- The host holds dirty data of a line. -/
def LineSt.hostDirty (e : LineSt) : Bool := e.agent 4 == .m || e.agent 4 == .o

/-- A line whose back-invalidates the host has answered. -/
def LineSt.biDone (e : LineSt) (t : Txn) (kept dirty : Bool) (new : AgentSt) : LineSt :=
  ({ e with txn := some { t with bi := [], kept := kept, dirty := dirty } } : LineSt).setAgent 4 new

/-- The last answer of the host to a snoop: whether it gives the line up, and whether its dirty data then goes to memory. -/
def State.biLast (s : State) (line : Nat) (t : Txn) (kept gone merges : Bool) : State :=
  let e := s.line line
  let t1 := e.biDone t kept (t.dirty || (e.hostDirty && !merges))
    (if gone then .i else if e.hostDirty && snoopKind t.req e.recallBit 4 == .snpS then .o else .s)
  let u := s.setLine line t1
  (if merges then u.mergeLine line else u).answered line 4 (if gone then .rspI else if e.hostDirty then .snpD else .rspS)

section Answers

variable {s : State} {sec : BitVec 35} {t : Txn} (htxn : (s.line (sec.toNat / 2)).txn = some t)
  (keep : Bool) (data : Option (List Byte))
include htxn

/-- The state once the host's data has come, where it held the line exclusively. -/
theorem State.biData_pass :
    (s.pass 4 (homeOf (sec.toNat / 2))).biData sec.toNat data =
      if (s.line (sec.toNat / 2)).agent 4 = .m ∨ (s.line (sec.toNat / 2)).agent 4 = .e then
        (s.pass 4 (homeOf (sec.toNat / 2))).hostPut sec.toNat data
      else s.pass 4 (homeOf (sec.toNat / 2)) := by
  unfold State.biData
  rw [State.line_of_txn htxn (State.lines_pass _ _ _)]
  cases (s.line (sec.toNat / 2)).agent 4 <;> rfl

variable (hasked : t.bi.has sec.toNat = true) {s1 : State}
  (hs1 : (s.pass 4 (homeOf (sec.toNat / 2))).biData sec.toNat data = s1)
include hasked hs1

theorem exec_birsp_of_first (hrest : t.bi.remove sec.toNat ≠ []) :
    exec (.birsp sec keep data) s = .next (s1.setLine (sec.toNat / 2) { s1.line (sec.toNat / 2) with
      txn := some { t with bi := t.bi.remove sec.toNat, kept := t.kept || keep } }) := by
  have hmore : (t.bi.remove sec.toNat).isEmpty = false := by simpa using hrest
  dsimp only [exec, execBirsp]
  simp only [State.biRsp, htxn, hasked, hs1, hmore, Bool.not_true, Bool.not_false, Bool.false_eq_true, if_false,
    if_true]

theorem exec_birsp_of_last (hrest : t.bi.remove sec.toNat = []) {gone : Bool}
    (hgone : (snoopKind t.req (s1.line (sec.toNat / 2)).recallBit 4 == .snpI || !(t.kept || keep)) = gone) :
    exec (.birsp sec keep data) s = .next (s1.biLast (sec.toNat / 2) t (t.kept || keep) gone
      ((s1.line (sec.toNat / 2)).hostDirty && gone && snoopKind t.req false 4 != .snpI)) := by
  subst hgone
  dsimp only [exec, execBirsp]
  simp only [State.biRsp, htxn, hasked, hs1, hrest, List.isEmpty_nil, Bool.not_true, Bool.false_eq_true, if_false]
  rfl

end Answers

section Last

variable (s : State) (line : Nat) (t : Txn)

theorem State.biLast_of_kept (kept : Bool) : s.biLast line t kept false false =
    (s.setLine line ((s.line line).biDone t kept (t.dirty || (s.line line).hostDirty)
      (if (s.line line).hostDirty && snoopKind t.req (s.line line).recallBit 4 == .snpS then .o else .s))).answered line 4
        (if (s.line line).hostDirty then .snpD else .rspS) := by
  simp only [State.biLast, Bool.not_false, Bool.and_true, Bool.false_eq_true, if_false]

theorem State.biLast_of_taken (kept : Bool) : s.biLast line t kept true false =
    (s.setLine line ((s.line line).biDone t kept (t.dirty || (s.line line).hostDirty) .i)).answered line 4 .rspI := by
  simp only [State.biLast, Bool.not_false, Bool.and_true, Bool.false_eq_true, if_false, if_true]

theorem State.biLast_of_merged (kept : Bool) : s.biLast line t kept true true =
    ((s.setLine line ((s.line line).biDone t kept t.dirty .i)).mergeLine line).answered line 4 .rspI := by
  simp only [State.biLast, Bool.not_true, Bool.and_false, Bool.or_false, if_true]

end Last

/-! ### Host memory through CXL.cache (R453 to R456) -/

theorem isHostSec_of_le {sec : BitVec 46} (h : 2 ^ 45 ≤ sec.toNat) : isHostSec sec.toNat = true := by
  have := sec.isLt
  simp only [isHostSec, Bool.and_eq_true, decide_eq_true_eq]
  omega

/-- What a snoop of the host leaves of a die's copy of a sector, and its answer (R453). -/
def State.hostSnooped (s : State) (d sec : Nat) (new : AgentSt) (t : State) : State :=
  let st := s.hostSec.get .i (hostKey sec d)
  { t with hostSec := s.hostSec.set .i (hostKey sec d) new
           reply := some (.snooped sec st (if st = .m then some (s.memRead (64 * sec) 64) else none) (s.secPoisoned sec)) }

section HostMemory

variable {s : State} (hon : s.boot = .on) (d : BitVec 2) {sec : BitVec 46} (hsec : 2 ^ 45 ≤ sec.toNat)
include hon hsec

theorem State.hostSec_considered : ¬ (s.boot ≠ .on ∨ (!isHostSec sec.toNat) = true) := by
  simp [hon, isHostSec_of_le hsec]

theorem exec_cxlCacheResponse_of_live (hfence : s.fenced.has d.toNat = false) (k : D2H) :
    exec (.cxlCacheResponse d sec k) s = .next (match k with
      | .rdShared => s.hostAccess d.toNat sec.toNat false
      | .rdOwn => s.hostAccess d.toNat sec.toNat true
      | .rdCurr => s.exchange d.toNat 4
      | .dirtyEvict => if s.hostSec.get .i (hostKey sec.toNat d.toNat) = .m then s.hostDrop d.toNat sec.toNat else s
      | .cleanEvict => if s.hostSec.get .i (hostKey sec.toNat d.toNat) = .s then s.hostDrop d.toNat sec.toNat else s) := by
  have hgo : ¬ (s.boot ≠ .on ∨ (!isHostSec sec.toNat) = true ∨ s.fenced.has d.toNat = true) := by
    simp [hon, isHostSec_of_le hsec, hfence]
  refine (if_neg hgo).trans ?_
  cases k <;> rfl

theorem State.hostSnoop_of_host {after : AgentSt → AgentSt} {new : AgentSt} {t : State}
    (hnew : after (s.hostSec.get .i (hostKey sec.toNat d.toNat)) = new)
    (ht : (if new = .i then (s.exchange 4 d.toNat).l1Drop d.toNat (sec.toNat / 2)
      else if new = .s then (s.exchange 4 d.toNat).l1Share d.toNat (sec.toNat / 2) else s.exchange 4 d.toNat) = t) :
    s.hostSnoop d.toNat sec.toNat after = s.hostSnooped d.toNat sec.toNat new t := by
  subst hnew ht
  refine (if_neg (State.hostSec_considered hon hsec)).trans ?_
  simp only [State.hostSnooped, beq_iff_eq]

theorem exec_hostSnpinv_of_none : exec (.hostSnpinv d sec none) s = .next (s.hostSnoop d.toNat sec.toNat fun _ => .i) := by
  exact if_neg (State.hostSec_considered hon hsec)

theorem exec_hostSnpinv_of_some (bs : List Byte) {t : State} (ht : (s.hostSnoop d.toNat sec.toNat fun _ => .i) = t) :
    exec (.hostSnpinv d sec (some bs)) s = .next (
      if (List.range 4).any fun b => t.hostSec.get .i (hostKey sec.toNat b) != .i then t
      else (t.memWrite (64 * sec.toNat) (bs.take 64)).setSec sec.toNat false) := by
  subst ht
  refine (if_neg (State.hostSec_considered hon hsec)).trans ?_
  exact (apply_ite Host.Outcome.next _ _ _).symm

end HostMemory

section Access

variable {s : State} {d sec : Nat}

theorem State.hostAccess_of_held {wr : Bool}
    (h : s.hostSec.get .i (hostKey sec d) = .m ∨ wr = false ∧ s.hostSec.get .i (hostKey sec d) ≠ .i) : s.hostAccess d sec wr = s :=
  if_pos (by rcases h with h | ⟨rfl, h⟩ <;> simp [h])

/-- The other dies that hold a sector. -/
def State.otherHolders (s : State) (d sec : Nat) : List Nat :=
  (List.range 4).filter fun b => b != d && s.hostSec.get .i (hostKey sec b) != .i

theorem State.hostAccess_of_shared (h : s.hostSec.get .i (hostKey sec d) = .i) :
    let t := (s.otherHolders d sec).foldl (fun (t0 : State) b =>
      let t := t0.exchange 4 b
      { t.l1Share b (sec / 2) with hostSec := t.hostSec.put (hostKey sec b) .s }) s
    s.hostAccess d sec false = { t.exchange d 4 with hostSec := t.hostSec.put (hostKey sec d) .s } :=
  if_neg (by simp [h])

theorem State.hostAccess_of_owned (h : s.hostSec.get .i (hostKey sec d) ≠ .m) :
    let t := (s.otherHolders d sec).foldl (fun (t0 : State) b =>
      let t := t0.exchange 4 b
      { t.l1Drop b (sec / 2) with hostSec := t.hostSec.del (hostKey sec b) }) s
    s.hostAccess d sec true = { t.exchange d 4 with hostSec := t.hostSec.put (hostKey sec d) .m } :=
  if_neg (by simp [h])

end Access

/-- Settles O45: a request of the host by whether it is answered, gone, on its way or new, its answer to a back-invalidate by whether
it gives the line up, and an access of host memory by what the die holds. -/
theorem hostEvents : Obligations.HostEvents := by
  intro s hon
  refine ⟨fun sec => ⟨?_, ?_, ?_, ?_, ?_⟩, fun d sec hsec => ⟨?_, ?_, ?_, ?_, ?_, ?_, ?_⟩⟩
  · intro hfence hreply htaken u
    have hgone := exec_hostM2s_of_gone hon sec hreply hfence htaken
    exact ⟨hgone _, fun data => hgone _, fun bs p => hgone _⟩
  · intro hfence hreply htaken k
    have hserved : (s.fenced.has (homeOf (sec.toNat / 2)) && !s.hostTaken (sec.toNat / 2)) = false := by simp [htaken]
    exact ⟨exec_hostM2s_of_asked hon sec hreply hserved k, exec_hostM2s_of_flushing hon sec hreply hserved k⟩
  · intro hfence hreply hflush
    have hbegins {k : M2S} (h : s.asked (sec.toNat / 2) 4 (m2sReq k sec.toNat) = false) :=
      exec_hostM2s_of_new hon sec hreply hfence hflush h
    dsimp only
    refine ⟨fun hnew => ⟨?_, ?_, ?_⟩, fun hnew data => ⟨?_, ?_, ?_⟩, fun bs p hnew => ⟨?_, ?_, ?_, ?_⟩⟩
    · rintro (hx | hx) <;> exact (hbegins (k := .shared) hnew).trans (by simp only [State.m2sBegins, hx])
    · rintro (hx | hx) <;> exact (hbegins (k := .shared) hnew).trans (by simp only [State.m2sBegins, hx]; rfl)
    · exact fun hx => (hbegins (k := .shared) hnew).trans (by simp only [State.m2sBegins, hx]; rfl)
    · rintro (hx | hx) <;> exact (hbegins (k := .exclusive data) hnew).trans (by simp only [State.m2sBegins, hx])
    · exact fun hx => (hbegins (k := .exclusive data) hnew).trans (by simp only [State.m2sBegins, hx])
    · rintro (hx | hx) <;> exact (hbegins (k := .exclusive data) hnew).trans (by simp only [State.m2sBegins, hx]; rfl)
    · exact fun hx => (hbegins (k := .write bs p) hnew).trans (by simp only [State.m2sBegins, State.hostWrites, hx])
    · exact fun hx => (hbegins (k := .write bs p) hnew).trans (by simp only [State.m2sBegins, State.hostWrites, hx])
    · exact fun hx => (hbegins (k := .write bs p) hnew).trans (by simp only [State.m2sBegins, State.hostWrites, hx])
    · rintro (hx | hx) <;>
        exact (hbegins (k := .write bs p) hnew).trans (by simp only [State.m2sBegins, State.hostWrites, hx, State.hostPut])
  · intro s1
    have hgrant {m : Msg} (hreply : s.hostReply (sec.toNat / 2) = some (m, s1)) := exec_hostM2s_of_grant hon sec hreply
    exact ⟨fun hreply k => hgrant hreply (by decide) rfl k, fun hreply hx => hgrant hreply (by decide) (hx ▸ rfl) .shared,
      fun hreply hx data => hgrant hreply (by decide) (hx ▸ rfl) (.exclusive data),
      fun hreply data => hgrant hreply (by decide) rfl (.exclusive data), fun hreply => exec_hostM2s_of_reply hon sec hreply⟩
  · intro t keep data htxn hasked x s0 s1 e kept
    have hs1 : (s.pass 4 (homeOf (sec.toNat / 2))).biData sec.toNat data = s1 := State.biData_pass htxn data
    refine ⟨exec_birsp_of_first htxn keep data hasked hs1, fun hrest => ?_⟩
    intro kind dirty ends
    have hlast {gone merges : Bool} (hgone : (kind == .snpI || !kept) = gone)
        (hmerges : (dirty && gone && snoopKind t.req false 4 != .snpI) = merges) :
        exec (.birsp sec keep data) s = .next (s1.biLast (sec.toNat / 2) t kept gone merges) :=
      hmerges ▸ exec_birsp_of_last htxn keep data hasked hs1 hrest hgone
    have htakes (hgone : (kind == .snpI || !kept) = true) (hstays : (dirty && snoopKind t.req false 4 != .snpI) = false) :
        exec (.birsp sec keep data) s = .next ((ends (t.dirty || dirty) .i).answered (sec.toNat / 2) 4 .rspI) :=
      (hlast hgone (by simpa using hstays)).trans (congrArg _ (State.biLast_of_taken s1 _ t kept))
    have hmerged (hgone : (kind == .snpI || !kept) = true) (hdirty : dirty = true) (hfresh : snoopKind t.req false 4 ≠ .snpI) :
        exec (.birsp sec keep data) s = .next (((ends t.dirty .i).mergeLine (sec.toNat / 2)).answered (sec.toNat / 2) 4 .rspI) :=
      (hlast hgone (by simpa [hdirty] using hfresh)).trans (congrArg _ (State.biLast_of_merged s1 _ t kept))
    have hkeeps (hkind : kind ≠ .snpI) (hkept : kept = true) :
        exec (.birsp sec keep data) s =
        .next ((ends (t.dirty || dirty) (if dirty && kind == .snpS then .o else .s)).answered (sec.toNat / 2) 4
          (if dirty then .snpD else .rspS)) :=
      (hlast (gone := false) (merges := false) (by simp [hkind, hkept]) (by simp)).trans
        (congrArg _ (State.biLast_of_kept s1 _ t kept))
    refine ⟨fun hkind h => ?_, fun hkind hdirty hfresh => ?_, fun hkind hkept hclean => ?_, fun hkind hkept hdirty => ?_,
      fun hkind hkept hdirty => ?_, fun hkind hkept hclean => ?_, fun hkind hkept hdirty => ?_⟩
    · exact htakes (by simp [hkind]) (by rcases h with h | h <;> simp [h])
    · exact hmerged (by simp [hkind]) hdirty hfresh
    · simpa [hclean] using hkeeps hkind hkept
    · simpa [hdirty, hkind] using hkeeps (by simp [hkind]) hkept
    · simpa [hdirty, hkind] using hkeeps (by simp [hkind]) hkept
    · simpa [hclean] using htakes (by simp [hkept]) (by simp [hclean])
    · exact hmerged (by simp [hkept]) hdirty (snoopKind_fresh_ne hkind)
  · intro hfence
    have hlive := exec_cxlCacheResponse_of_live hon d hsec hfence
    refine ⟨fun h => ?_, fun h => ?_, fun h => ?_, fun h => ?_, hlive .rdCurr, fun h => ?_, fun h => ?_, fun h => ?_, fun h => ?_⟩
    · exact (hlive .rdShared).trans (congrArg _ (State.hostAccess_of_held (.inr ⟨rfl, h⟩)))
    · exact (hlive .rdShared).trans (congrArg _ (State.hostAccess_of_shared h))
    · exact (hlive .rdOwn).trans (congrArg _ (State.hostAccess_of_held (.inl h)))
    · exact (hlive .rdOwn).trans (congrArg _ (State.hostAccess_of_owned h))
    · exact (hlive .dirtyEvict).trans (congrArg _ (if_pos h))
    · exact (hlive .dirtyEvict).trans (congrArg _ (if_neg h))
    · exact (hlive .cleanEvict).trans (congrArg _ (if_pos h))
    · exact (hlive .cleanEvict).trans (congrArg _ (if_neg h))
  · exact fun h => congrArg Host.Outcome.next (State.hostSnoop_of_host hon d hsec (new := .i) (if_pos h) rfl)
  · exact fun h => congrArg Host.Outcome.next (State.hostSnoop_of_host hon d hsec (new := .s) (if_neg h) rfl)
  · intro t
    have ht : (s.hostSnoop d.toNat sec.toNat fun _ => .i) = t := State.hostSnoop_of_host hon d hsec rfl rfl
    refine ⟨(exec_hostSnpinv_of_none hon d hsec).trans (congrArg _ ht), fun bs hheld => ?_, fun bs hfree => ?_⟩
    · obtain ⟨b, hb, hheld⟩ := hheld
      refine (exec_hostSnpinv_of_some hon d hsec bs ht).trans (congrArg _ (if_pos ?_))
      exact List.any_eq_true.2 ⟨b, List.mem_range.2 hb, bne_iff_ne.2 hheld⟩
    · refine (exec_hostSnpinv_of_some hon d hsec bs ht).trans (congrArg _ (if_neg ?_))
      rintro hany
      obtain ⟨b, hb, hheld⟩ := List.any_eq_true.1 hany
      exact bne_iff_ne.1 hheld (hfree b (List.mem_range.1 hb))
  · exact fun hi hs => congrArg Host.Outcome.next (State.hostSnoop_of_host hon d hsec rfl ((if_neg hi).trans (if_neg hs)))
  · exact fun hi => congrArg Host.Outcome.next (State.hostSnoop_of_host hon d hsec rfl (if_pos hi))
  · exact fun hs => congrArg Host.Outcome.next (State.hostSnoop_of_host hon d hsec rfl
      ((if_neg fun hi => AgentSt.noConfusion (hs.symm.trans hi)).trans (if_pos hs)))

end Sys2Proof.Machine
end

section
namespace Sys2Proof

/-! ### Words and bytes (R67) -/

theorem takeWord_wordBytes (w : BitVec 64) (rest : List Byte) : takeWord (wordBytes w ++ rest) = some (w, rest) := by
  have hjoin : w.extractLsb' 56 8 ++ (w.extractLsb' 48 8 ++ (w.extractLsb' 40 8 ++ (w.extractLsb' 32 8 ++ (w.extractLsb' 24 8 ++
      (w.extractLsb' 16 8 ++ (w.extractLsb' 8 8 ++ w.extractLsb' 0 8)))))) = w := by
    repeat rw [BitVec.extractLsb'_append_extractLsb'_eq_extractLsb' (by rfl)]
    exact BitVec.extractLsb'_eq_self
  exact congrArg (fun v => some (v, rest)) hjoin

/-! ### The fields of the words (Tables EC-2 and EC-7b) -/

@[simp] theorem ofBool_beq_one (b : Bool) : (BitVec.ofBool b == 1#1) = b := by
  cases b <;> rfl

@[simp] theorem ofBool_eq_one_iff (b : Bool) : BitVec.ofBool b = 1#1 ↔ b = true := by
  cases b <;> decide

/-- The first word holds every field of Table EC-2 at its place. -/
theorem Raw.word0_fields (r : Raw) :
    r.word0.extractLsb' 58 4 = r.stall ∧ r.word0.extractLsb' 46 12 = r.wait ∧ r.word0.extractLsb' 42 4 = r.set ∧
    r.word0.extractLsb' 41 1 = BitVec.ofBool r.pneg ∧ r.word0.extractLsb' 38 3 = r.pidx ∧ r.word0.extractLsb' 29 9 = r.opc ∧
    r.word0.extractLsb' 27 2 = r.mod ∧ r.word0.extractLsb' 18 9 = r.dst ∧ r.word0.extractLsb' 9 9 = r.src0 ∧
    r.word0.extractLsb' 0 9 = r.src1 := by
  unfold Raw.word0
  refine ⟨?_, ?_, ?_, ?_, ?_, ?_, ?_, ?_, ?_, ?_⟩
  all_goals
    repeat rw [BitVec.extractLsb'_append_eq_of_add_le (by decide)]
    simp only [BitVec.extractLsb'_append_eq_left, BitVec.extractLsb'_eq_self]

theorem Raw.first_word0 (r : Raw) : Raw.first r.long r.word0 = { r with src2 := 0, xmod := 0, imm := 0 } := by
  obtain ⟨hstall, hwait, hset, hpneg, hpidx, hopc, hmod, hdst, hsrc0, hsrc1⟩ := r.word0_fields
  simp only [Raw.first, hstall, hwait, hset, hpneg, hpidx, hopc, hmod, hdst, hsrc0, hsrc1]
  simp

theorem Raw.word1_fields (r : Raw) :
    r.word1.extractLsb' 53 9 = r.src2 ∧ r.word1.extractLsb' 32 21 = r.xmod ∧ r.word1.extractLsb' 0 32 = r.imm := by
  unfold Raw.word1
  refine ⟨?_, ?_, ?_⟩
  all_goals
    repeat rw [BitVec.extractLsb'_append_eq_of_add_le (by decide)]
    simp only [BitVec.extractLsb'_append_eq_left, BitVec.extractLsb'_eq_self]

theorem Raw.withSecond_word1 (r : Raw) : Raw.withSecond { r with src2 := 0, xmod := 0, imm := 0 } r.word1 = r := by
  obtain ⟨hsrc2, hxmod, himm⟩ := r.word1_fields
  simp only [Raw.withSecond, hsrc2, hxmod, himm]

theorem fmtOf_word0 (r : Raw) : fmtOf r.word0 = if r.long then 2#2 else 0#2 := BitVec.extractLsb'_append_eq_left

theorem fmtOf_word1 (r : Raw) : fmtOf r.word1 = 3#2 := BitVec.extractLsb'_append_eq_left

/-! ### Decoding by way of the fields -/

/-- A full word has no second word: its fields there are zero. -/
def Raw.Fits (r : Raw) : Prop := r.long = false → r.src2 = 0 ∧ r.xmod = 0 ∧ r.imm = 0

theorem decode_of_raw {i : Instr} {r : Raw} (hr : i.raw = some r) (hfits : r.Fits) (hi : r.instr = .ok i) (rest : List Byte) :
    decode (encodeBytes i ++ rest) = .ok (i, rest) := by
  cases hlong : r.long with
  | false =>
    obtain ⟨hsrc2, hxmod, himm⟩ := hfits hlong
    have hbytes : encodeBytes i = wordBytes r.word0 := by simp [encodeBytes, Machine.encode_of_raw hr, hlong]
    have hfmt : fmtOf r.word0 = 0#2 := by simp [fmtOf_word0, hlong]
    have hfirst : Raw.first false r.word0 = r := by
      rw [← hlong, Raw.first_word0, ← hsrc2, ← hxmod, ← himm]
    simp [decode, hbytes, takeWord_wordBytes, hfmt, decodeWords, hfirst, hi, Except.map]
  | true =>
    have hbytes : encodeBytes i ++ rest = wordBytes r.word0 ++ (wordBytes r.word1 ++ rest) := by
      simp [encodeBytes, Machine.encode_of_raw hr, hlong]
    have hfmt : fmtOf r.word0 = 2#2 := by simp [fmtOf_word0, hlong]
    have hboth : (Raw.first true r.word0).withSecond r.word1 = r := by
      rw [← hlong, Raw.first_word0, Raw.withSecond_word1]
    simp [decode, hbytes, takeWord_wordBytes, hfmt, decodeWords, fmtOf_word1, hboth, hi, Except.map]

/-- A pair word holds its fields, and SET 0xF, at their places (Table EC-7a). -/
theorem PairWord.word_fields (p : PairWord) :
    p.word.extractLsb' 58 4 = p.stall ∧ p.word.extractLsb' 46 12 = p.wait ∧ p.word.extractLsb' 42 4 = 15#4 ∧
    p.word.extractLsb' 37 5 = p.aop ∧ p.word.extractLsb' 29 8 = p.adst ∧ p.word.extractLsb' 21 8 = p.asrc ∧
    p.word.extractLsb' 16 5 = p.bop ∧ p.word.extractLsb' 8 8 = p.bdst ∧ p.word.extractLsb' 0 8 = p.bsrc := by
  unfold PairWord.word
  refine ⟨?_, ?_, ?_, ?_, ?_, ?_, ?_, ?_, ?_⟩
  all_goals
    repeat rw [BitVec.extractLsb'_append_eq_of_add_le (by decide)]
    simp only [BitVec.extractLsb'_append_eq_left, BitVec.extractLsb'_eq_self]

theorem decode_pairWord {p : PairWord} (hp : p.legal = true) (rest : List Byte) :
    decode (encodeBytes (.pairWord p) ++ rest) = .ok (.pairWord p, rest) := by
  obtain ⟨hstall, hwait, hset, haop, hadst, hasrc, hbop, hbdst, hbsrc⟩ := p.word_fields
  have hbytes : encodeBytes (.pairWord p) = wordBytes p.word := by simp [encodeBytes, encode]
  have hfmt : fmtOf p.word = 1#2 := BitVec.extractLsb'_append_eq_left
  have hword : PairWord.ofWord p.word = p := by
    simp only [PairWord.ofWord, hstall, hwait, haop, hadst, hasrc, hbop, hbdst, hbsrc]
  simp [decode, hbytes, takeWord_wordBytes, hfmt, decodeWords, hset, hword, hp, Except.map]

/-! ### Operand fields (Table EC-3) -/

@[simp] theorem Operand.ofBits_bits (o : Operand) : Operand.ofBits o.bits = o := by
  cases o with
  | v r => simp [Operand.bits, Operand.ofBits]; omega
  | s r => revert r; decide
  | special c => revert c; decide
  | const c => revert c; decide
  | reserved c => revert c; decide

@[simp] theorem KField.ofBits_bits (k : KField) : KField.ofBits k.bits = k := by
  unfold KField.ofBits KField.bits
  rw [BitVec.extractLsb'_append_eq_left, BitVec.extractLsb'_append_eq_of_add_le (by decide), BitVec.extractLsb'_eq_self]

@[simp] theorem FField.ofBits_bits (k : FField) : FField.ofBits k.bits = k := by
  unfold FField.ofBits FField.bits
  rw [BitVec.extractLsb'_append_eq_left, BitVec.extractLsb'_append_eq_of_add_le (by decide), BitVec.extractLsb'_eq_self]

@[simp] theorem SIdx.ofBits_bits (k : SIdx) : SIdx.ofBits k.bits = k := by
  unfold SIdx.ofBits SIdx.bits
  rw [BitVec.extractLsb'_append_eq_left, BitVec.extractLsb'_append_eq_of_add_le (by decide), BitVec.extractLsb'_eq_self]

@[simp] theorem TypeField.ofBits_bits (k : TypeField) : TypeField.ofBits k.bits = k := by
  unfold TypeField.ofBits TypeField.bits
  rw [BitVec.extractLsb'_append_eq_left, BitVec.extractLsb'_append_eq_of_add_le (by decide), BitVec.extractLsb'_eq_self]

@[simp] theorem ConvField.ofBits_bits (k : ConvField) : ConvField.ofBits k.bits = k := by
  unfold ConvField.ofBits ConvField.bits
  rw [BitVec.extractLsb'_append_eq_left, show (BitVec.ofBool k.sat == 1) = k.sat from ofBool_beq_one _, BitVec.extractLsb'_append_eq_of_add_le (by decide),
    BitVec.extractLsb'_append_eq_left, BitVec.extractLsb'_append_eq_of_add_le (by decide),
    BitVec.extractLsb'_append_eq_of_add_le (by decide), BitVec.extractLsb'_eq_self]

/-! ### Modifier codes -/

@[simp] theorem IntTy.ofBits_bits (t : IntTy) : IntTy.ofBits t.bits = some t := by cases t <;> rfl
@[simp] theorem BitTy.ofBits_bits (t : BitTy) : BitTy.ofBits t.bits = some t := by cases t <;> rfl
@[simp] theorem CarryTy.ofBits_bits (t : CarryTy) : CarryTy.ofBits t.bits = some t := by cases t <;> rfl
@[simp] theorem WideTy.ofBits_bits (t : WideTy) : WideTy.ofBits t.bits = some t := by cases t <;> rfl
@[simp] theorem AbsTy.ofBits_bits (t : AbsTy) : AbsTy.ofBits t.bits = some t := by cases t <;> rfl
@[simp] theorem FTy.ofBits_bits (t : FTy) : FTy.ofBits t.bits = some t := by cases t <;> rfl
@[simp] theorem HTy.ofBits_bits (t : HTy) : HTy.ofBits t.bits = some t := by cases t <;> rfl
@[simp] theorem SqTy.ofBits_bits (t : SqTy) : SqTy.ofBits t.bits = some t := by cases t <;> rfl
@[simp] theorem Sg.ofBits_bits (t : Sg) : Sg.ofBits t.bits = some t := by cases t <;> rfl
@[simp] theorem RM.ofBits_bits (t : RM) : RM.ofBits t.bits = some t := by cases t <;> rfl
@[simp] theorem Cond.ofBits_bits (t : Cond) : Cond.ofBits t.bits = some t := by cases t <;> rfl
@[simp] theorem ICond.ofBits_bits (t : ICond) : ICond.ofBits t.bits = some t := by cases t <;> rfl
@[simp] theorem CvtTy.ofBits_bits (t : CvtTy) : CvtTy.ofBits t.bits = some t := by cases t <;> rfl
@[simp] theorem RndHalf.ofBits_bits (t : RndHalf) : RndHalf.ofBits t.bits = some t := by cases t <;> rfl
@[simp] theorem PackTy.ofBits_bits (t : PackTy) : PackTy.ofBits t.bits = some t := by cases t <;> rfl
@[simp] theorem UnpackTy.ofBits_bits (t : UnpackTy) : UnpackTy.ofBits t.bits = some t := by cases t <;> rfl
@[simp] theorem QTy.ofBits_bits (t : QTy) : QTy.ofBits t.bits = some t := by cases t <;> rfl
@[simp] theorem ShflMode.ofBits_bits (t : ShflMode) : ShflMode.ofBits t.bits = some t := by cases t <;> rfl
@[simp] theorem RedOp.ofBits_bits (t : RedOp) : RedOp.ofBits t.bits = some t := by cases t <;> rfl
@[simp] theorem Space.ofBits_bits (t : Space) : Space.ofBits t.bits = some t := by cases t <;> rfl
@[simp] theorem RwSpace.ofBits_bits (t : RwSpace) : RwSpace.ofBits t.bits = some t := by cases t <;> rfl
@[simp] theorem SramSpace.ofBits_bits (t : SramSpace) : SramSpace.ofBits t.bits = some t := by cases t <;> rfl
@[simp] theorem Size.ofBits_bits (t : Size) : Size.ofBits t.bits = some t := by cases t <;> rfl
@[simp] theorem Scope.ofBits_bits (t : Scope) : Scope.ofBits t.bits = some t := by cases t <;> rfl
@[simp] theorem Order.ofBits_bits (t : Order) : Order.ofBits t.bits = some t := by cases t <;> rfl
@[simp] theorem Hint.ofBits_bits (t : Hint) : Hint.ofBits t.bits = some t := by cases t <;> rfl
@[simp] theorem Peer.ofBits_bits (t : Peer) : Peer.ofBits t.bits = some t := by cases t <;> rfl
@[simp] theorem Aop.ofBits_bits (t : Aop) : Aop.ofBits t.bits = some t := by cases t <;> rfl
@[simp] theorem PrefLevel.ofBits_bits (t : PrefLevel) : PrefLevel.ofBits t.bits = some t := by cases t <;> rfl
@[simp] theorem Stream.ofBits_bits (t : Stream) : Stream.ofBits t.bits = some t := by cases t <;> rfl
@[simp] theorem MTy.ofBits_bits (t : MTy) : MTy.ofBits t.bits = some t := by cases t <;> rfl
@[simp] theorem QGroup.ofBits_bits (t : QGroup) : QGroup.ofBits t.bits = some t := by cases t <;> rfl
@[simp] theorem ActFn.ofBits_bits (t : ActFn) : ActFn.ofBits t.bits = some t := by cases t <;> rfl
@[simp] theorem DrainTy.ofBits_bits (t : DrainTy) : DrainTy.ofBits t.bits = some t := by cases t <;> rfl
@[simp] theorem AstSpace.ofBits_bits (t : AstSpace) : AstSpace.ofBits t.bits = some t := by cases t <;> rfl
@[simp] theorem Rect.ofBits_bits (t : Rect) : Rect.ofBits t.bits = some t := by cases t <;> rfl

/-! ### XMOD (Table EC-7b) -/

@[simp] theorem Raw.xflag_eq (b : Bool) (lo : Nat) : Raw.xflag b lo = Raw.xput (BitVec.ofBool b) lo := rfl

/-- A field placed in XMOD reads back. -/
@[simp] theorem Raw.extract_xput_self {n : Nat} (b : BitVec n) {lo : Nat} (h : lo + n ≤ 21) : (Raw.xput b lo).extractLsb' lo n = b := by
  ext i hi
  have hpos : lo + i < 21 := by omega
  simp [Raw.xput, hpos, hi]

/-- A field placed in XMOD leaves the bits outside it zero. -/
@[simp] theorem Raw.extract_xput_apart {n : Nat} (b : BitVec n) {lo at_ m : Nat} (h : lo + n ≤ at_ ∨ at_ + m ≤ lo) :
    (Raw.xput b lo).extractLsb' at_ m = 0 := by
  ext i hi
  simp only [Raw.xput, BitVec.getElem_extractLsb', BitVec.getLsbD_shiftLeft, BitVec.getLsbD_setWidth, BitVec.ofNat_eq_ofNat,
    BitVec.getElem_zero, Bool.and_eq_false_iff, decide_eq_false_iff_not]
  by_cases hlow : at_ + i < lo
  · simp [hlow]
  · exact .inr (.inr (BitVec.getLsbD_of_ge _ _ (by omega)))

/-- A field lies in the bits that a form uses when they hold all of its places. -/
theorem Raw.xput_within {n : Nat} (b : BitVec n) {lo : Nat} {u : BitVec 21} (h : Raw.xput (BitVec.allOnes n) lo &&& ~~~u = 0) :
    Raw.xput b lo &&& ~~~u = 0 := by
  have hones : b &&& BitVec.allOnes n = b := BitVec.and_allOnes
  have hput : Raw.xput b lo = Raw.xput b lo &&& Raw.xput (BitVec.allOnes n) lo := by
    unfold Raw.xput
    rw [← BitVec.shiftLeft_and_distrib, ← BitVec.setWidth_and, hones]
  rw [hput, BitVec.and_assoc, h]
  exact BitVec.and_zero

@[simp] theorem Raw.zero_within (u : BitVec 21) : 0 &&& ~~~u = 0 := BitVec.zero_and

@[simp] theorem Raw.or_and_eq_zero_iff (x y m : BitVec 21) : (x ||| y) &&& m = 0#21 ↔ x &&& m = 0#21 ∧ y &&& m = 0#21 := by
  rw [BitVec.and_comm, BitVec.and_or_distrib_left, BitVec.or_eq_zero_iff, BitVec.and_comm m, BitVec.and_comm m]

@[simp] theorem Raw.xput_and_eq_zero {n : Nat} (b : BitVec n) {lo : Nat} {m : BitVec 21}
    (h : (BitVec.allOnes n).setWidth 21 <<< lo &&& m = 0#21) : Raw.xput b lo &&& m = 0#21 := by
  rw [← BitVec.not_not (b := m)] at h ⊢
  exact Raw.xput_within b h

/-- IMMSEL is the highest bit of XMOD (R86). -/
@[simp] theorem Src.immsel_eq (b : Src) : b.immsel = Raw.xput (BitVec.ofBool !b.isOp) 20 := by
  cases b with
  | op o => exact show (0 : BitVec 21) = Raw.xput (BitVec.ofBool false) 20 by decide
  | imm w => exact show (0x100000 : BitVec 21) = Raw.xput (BitVec.ofBool true) 20 by decide

/-- Whether the operand of a matrix command is a range of registers. -/
def MatOpd.isRegs : MatOpd → Bool
  | .mem _ _ => false
  | .regs _ => true

/-- VREG has the place of IMMSEL. -/
@[simp] theorem MatOpd.vreg_eq (m : MatOpd) : m.vreg = Raw.xput (BitVec.ofBool m.isRegs) 20 := by
  cases m with
  | mem b p => exact show (0 : BitVec 21) = Raw.xput (BitVec.ofBool false) 20 by decide
  | regs v => exact show (0x100000 : BitVec 21) = Raw.xput (BitVec.ofBool true) 20 by decide

theorem Src.eq_zero_of_isOp {b : Src} (h : b.isOp = true) : b.immsel = 0 ∧ b.immBits = 0 := by
  cases b with
  | op o => exact ⟨rfl, rfl⟩
  | imm w => cases h

/-! ### The checks of Table EC-9 -/

@[simp] theorem Raw.hdr_mk (h : Hdr) (l : Bool) (opc : BitVec 9) (mod : BitVec 2) (dst src0 src1 src2 : BitVec 9)
    (xmod : BitVec 21) (imm : BitVec 32) :
    Raw.hdr ⟨l, h.stall, h.wait, h.setBits, h.pneg, h.pidx, opc, mod, dst, src0, src1, src2, xmod, imm⟩ = h := by
  obtain ⟨stall, wait, set, pneg, pidx⟩ := h
  cases set with
  | none => rfl
  | some f =>
    have hf : f.val % 16 = f.val := Nat.mod_eq_of_lt (by omega)
    simp [Raw.hdr, Hdr.setBits, hf]

theorem setAllowed_setBits (h : Hdr) (fixed : Bool) : setAllowed fixed h.setBits = (!fixed || h.fixed) := by
  obtain ⟨stall, wait, set, pneg, pidx⟩ := h
  cases set with
  | none => simp [setAllowed, Hdr.setBits, Hdr.fixed]
  | some f => revert f fixed; simp only [Hdr.fixed, Hdr.setBits]; decide

/-- The fields that a form does not use are zero, XMOD apart, and no immediate takes the place of source 1. -/
def Raw.idle (r : Raw) (u : Uses) : Bool :=
  (u.dst || r.dst == 0) && (u.src0 || r.src0 == 0) && (u.src1 || r.src1 == 0) && (u.src2 || r.src2 == 0) && (u.imm || r.imm == 0) &&
  !(u.immsel && r.xmod.extractLsb' 20 1 == 1)

/-- The fields that a form with IMMSEL does not use are zero, XMOD apart; it uses source 1. -/
def Raw.idleSrc (r : Raw) (u : Uses) : Bool :=
  (u.dst || r.dst == 0) && (u.src0 || r.src0 == 0) && (u.src2 || r.src2 == 0) && u.src1 && u.immsel

section Checks

variable {r : Raw} {h : Hdr} {fixed : Bool} {u : Uses}

/-- Row 5 for a form without an immediate for source 1. -/
theorem Raw.row5_plain (hset : r.set = h.setBits) (hfixed : fixed = true → h.fixed = true) (hidle : r.idle u = true)
    (hxmod : r.xmod &&& ~~~u.xmask = 0) : r.row5 fixed u = .ok () := by
  have hallowed : setAllowed fixed r.set = true := by
    rw [hset, setAllowed_setBits]
    simpa [or_iff_not_imp_left] using hfixed
  have hzero : r.unusedZero u = true := by
    simp only [Raw.idle, Bool.and_eq_true, Bool.not_eq_true'] at hidle
    obtain ⟨⟨⟨⟨⟨hdst, hsrc0⟩, hsrc1⟩, hsrc2⟩, himm⟩, hsel⟩ := hidle
    have hnosel : (u.immsel && r.xf 20 1 == 1) = false := hsel
    simp only [Raw.unusedZero, hnosel, hdst, hsrc0, hsrc1, hsrc2, himm, hxmod, Bool.not_false, Bool.and_true, Bool.or_false,
      Bool.false_and, Bool.true_or, beq_self_eq_true]
  simp [Raw.row5, hallowed, hzero]

/-- Row 5 for a form with a source 1 that may be an immediate. -/
theorem Raw.row5_src {b : Src} (hset : r.set = h.setBits) (hfixed : fixed = true → h.fixed = true) (hidle : r.idleSrc u = true)
    (hxmod : r.xmod &&& ~~~u.xmask = 0) (hsrc1 : r.src1 = b.src1) (himm : r.imm = b.immBits)
    (hsel : r.xmod.extractLsb' 20 1 = BitVec.ofBool !b.isOp) (hlow : (!u.imm16 || b.low16) = true) : r.row5 fixed u = .ok () := by
  have hallowed : setAllowed fixed r.set = true := by
    rw [hset, setAllowed_setBits]
    simpa [or_iff_not_imp_left] using hfixed
  have hzero : r.unusedZero u = true := by
    cases b with
    | op o => simp_all [Raw.unusedZero, Raw.idleSrc, Raw.xf, Src.isOp, Src.src1, Src.immBits]
    | imm w => simp_all [Raw.unusedZero, Raw.idleSrc, Raw.xf, Src.isOp, Src.src1, Src.immBits, Src.low16]
  simp [Raw.row5, hallowed, hzero]

end Checks

@[simp] theorem Raw.row5_mk {l : Bool} {stall : BitVec 4} {wait : BitVec 12} {h : Hdr} {pneg : Bool} {pidx : BitVec 3}
    {opc : BitVec 9} {mod : BitVec 2} {dst src0 src1 src2 : BitVec 9} {xmod : BitVec 21} {imm : BitVec 32} {fixed : Bool}
    {ud u0 u1 u2 ui us uh : Bool} {mask : BitVec 21} (hfixed : fixed = true → h.fixed = true)
    (hidle : Raw.idle ⟨l, stall, wait, h.setBits, pneg, pidx, opc, mod, dst, src0, src1, src2, xmod, imm⟩
      ⟨ud, u0, u1, u2, ui, us, uh, mask⟩ = true)
    (hxmod : xmod &&& ~~~mask = 0) :
    Raw.row5 ⟨l, stall, wait, h.setBits, pneg, pidx, opc, mod, dst, src0, src1, src2, xmod, imm⟩ fixed
      ⟨ud, u0, u1, u2, ui, us, uh, mask⟩ = .ok () :=
  Raw.row5_plain rfl hfixed hidle hxmod

@[simp] theorem Raw.source1_mk {l : Bool} {stall : BitVec 4} {wait : BitVec 12} {set : BitVec 4} {pneg : Bool} {pidx : BitVec 3}
    {opc : BitVec 9} {mod : BitVec 2} {dst src0 src2 : BitVec 9} {xmod : BitVec 21} {b : Src}
    (hsel : xmod.extractLsb' 20 1 = BitVec.ofBool !b.isOp) :
    Raw.source1 ⟨l, stall, wait, set, pneg, pidx, opc, mod, dst, src0, b.src1, src2, xmod, b.immBits⟩ = b := by
  cases b with
  | op o => simp_all [Raw.source1, Raw.xf, Src.isOp, Src.src1]
  | imm w => simp_all [Raw.source1, Raw.xf, Src.isOp, Src.immBits]

theorem Src.immsel_within (b : Src) : b.immsel &&& ~~~(0x100000 : BitVec 21) = 0 := by
  rw [Src.immsel_eq]
  exact Raw.xput_within _ (by decide)

/-- Row 5 for a form with a source 1 that may be an immediate, as the encoder lays it out. -/
theorem Raw.row5_src_mk {l : Bool} {stall : BitVec 4} {wait : BitVec 12} {h : Hdr} {pneg : Bool} {pidx : BitVec 3}
    {opc : BitVec 9} {mod : BitVec 2} {dst src0 src2 : BitVec 9} {xmod : BitVec 21} {b : Src} {fixed : Bool}
    {ud u0 u1 u2 ui us uh : Bool} {mask : BitVec 21} (hfixed : fixed = true → h.fixed = true)
    (hidle : Raw.idleSrc ⟨l, stall, wait, h.setBits, pneg, pidx, opc, mod, dst, src0, b.src1, src2, xmod, b.immBits⟩
      ⟨ud, u0, u1, u2, ui, us, uh, mask⟩ = true)
    (hxmod : xmod &&& ~~~mask = 0) (hsel : xmod.extractLsb' 20 1 = BitVec.ofBool !b.isOp) (hlow : (!uh || b.low16) = true) :
    Raw.row5 ⟨l, stall, wait, h.setBits, pneg, pidx, opc, mod, dst, src0, b.src1, src2, xmod, b.immBits⟩ fixed
      ⟨ud, u0, u1, u2, ui, us, uh, mask⟩ = .ok () :=
  Raw.row5_src rfl hfixed hidle hxmod rfl rfl hsel hlow

/-- Row 5 for a form whose XMOD is IMMSEL alone. -/
theorem Raw.row5_immsel {l fixed : Bool} {h : Hdr} {opc : BitVec 9} {mod : BitVec 2} {dst src0 src2 : BitVec 9} {b : Src}
    {ud u0 u1 u2 ui us uh : Bool} (hfixed : fixed = true → h.fixed = true)
    (hidle : Raw.idleSrc ⟨l, h.stall, h.wait, h.setBits, h.pneg, h.pidx, opc, mod, dst, src0, b.src1, src2, b.immsel, b.immBits⟩
      ⟨ud, u0, u1, u2, ui, us, uh, 0x100000⟩ = true) (hlow : (!uh || b.low16) = true) :
    Raw.row5 ⟨l, h.stall, h.wait, h.setBits, h.pneg, h.pidx, opc, mod, dst, src0, b.src1, src2, b.immsel, b.immBits⟩ fixed
      ⟨ud, u0, u1, u2, ui, us, uh, 0x100000⟩ = .ok () :=
  Raw.row5_src_mk hfixed hidle b.immsel_within (by simp) hlow

/-- The modifier of a full word is zero in XMOD, and so is IMMSEL. -/
theorem Src.short_xmod {l p : Bool} {b : Src} {x : BitVec 21} (hx : p = true → x = 0) (h : (l || (p && b.isOp)) = true) :
    (if l = true then x ||| b.immsel else 0) = x ||| b.immsel := by
  cases l with
  | true => rfl
  | false =>
    obtain ⟨hp, hb⟩ := (Bool.and_eq_true _ _).mp h
    rw [hx hp, (Src.eq_zero_of_isOp hb).1]
    rfl

theorem Raw.short_xmod {l p : Bool} {x : BitVec 21} (hx : p = true → x = 0) (h : (l || p) = true) :
    (if l = true then x else 0) = x := by
  cases l with
  | true => rfl
  | false => exact (hx h).symm

@[simp] theorem Raw.off27_mk {l : Bool} {stall : BitVec 4} {wait : BitVec 12} {set : BitVec 4} {pneg : Bool} {pidx : BitVec 3}
    {opc : BitVec 9} {mod : BitVec 2} {src2 : BitVec 9} {xmod : BitVec 21} {imm : BitVec 32} (off : BitVec 27) :
    Raw.off27 ⟨l, stall, wait, set, pneg, pidx, opc, mod, off.extractLsb' 18 9, off.extractLsb' 9 9, off.extractLsb' 0 9, src2,
      xmod, imm⟩ = off := by
  have hjoin : off.extractLsb' 18 9 ++ (off.extractLsb' 9 9 ++ off.extractLsb' 0 9) = off := by
    repeat rw [BitVec.extractLsb'_append_extractLsb'_eq_extractLsb' (by rfl)]
    exact BitVec.extractLsb'_eq_self
  exact hjoin

@[simp] theorem Raw.tmo_mk {l : Bool} {stall : BitVec 4} {wait : BitVec 12} {set : BitVec 4} {pneg : Bool} {pidx : BitVec 3}
    {opc : BitVec 9} {mod : BitVec 2} {dst src0 src1 : BitVec 9} {xmod : BitVec 21} {imm : BitVec 32} {tmo : Option KField}
    (htmo : xmod.extractLsb' 4 1 = BitVec.ofBool tmo.isSome) :
    Raw.tmo ⟨l, stall, wait, set, pneg, pidx, opc, mod, dst, src0, src1, tmoBits tmo, xmod, imm⟩ = tmo := by
  cases tmo with
  | none => simp_all [Raw.tmo, Raw.xf]
  | some k => simp_all [Raw.tmo, Raw.xf, tmoBits]

@[simp] theorem tmoBits_eq_zero (tmo : Option KField) : tmo.isSome = true ∨ tmoBits tmo = 0#9 := by
  cases tmo with
  | none => exact .inr rfl
  | some k => exact .inl rfl

theorem Raw.form_both (r : Raw) : r.form true true = .ok () := by
  simp [Raw.form]

/-! ### Full words have no fields of a second word -/

theorem Raw.fits_of_long {r : Raw} (h : r.long = true) : r.Fits := by
  intro hfull
  simp [h] at hfull

theorem Raw.fits_of_or {r : Raw} {p : Bool} (h : (r.long || p) = true)
    (hp : p = true → r.src2 = 0 ∧ r.xmod = 0 ∧ r.imm = 0) : r.Fits := by
  intro hfull
  rw [hfull] at h
  exact hp h

/-- IMMSEL and the immediate of a full word are zero. -/
theorem Raw.fits_immsel {r : Raw} {b : Src} (hb : (r.long || b.isOp) = true) (hsrc2 : r.src2 = 0) (hxmod : r.xmod = b.immsel)
    (himm : r.imm = b.immBits) : r.Fits := by
  intro hfull
  rw [hfull] at hb
  obtain ⟨hsel, hbits⟩ := Src.eq_zero_of_isOp hb
  exact ⟨hsrc2, hxmod.trans hsel, himm.trans hbits⟩

theorem ok_bind {ε α β : Type} (a : α) (f : α → Except ε β) : ((Except.ok a : Except ε α) >>= f) = f a := rfl

theorem Raw.fits_short {r : Raw} {p : Bool} {b : Src} {x : BitVec 21} (hx : p = true → x = 0)
    (h : (r.long || (p && b.isOp)) = true) (hsrc2 : r.src2 = 0) (hxmod : r.xmod = x ||| b.immsel) (himm : r.imm = b.immBits) :
    r.Fits := by
  refine Raw.fits_of_or h fun hshort => ?_
  obtain ⟨hp, hb⟩ := (Bool.and_eq_true _ _).mp hshort
  obtain ⟨hsel, hbits⟩ := Src.eq_zero_of_isOp hb
  refine ⟨hsrc2, ?_, himm.trans hbits⟩
  rw [hxmod, hx hp, hsel]
  rfl

theorem Raw.xflag_eq_zero {s : Bool} (h : (!s) = true) (lo : Nat) : Raw.xflag s lo = 0 := by
  obtain rfl : s = false := by simpa using h
  exact BitVec.zero_shiftLeft lo

theorem RM.xput_eq_zero {rm : RM} (h : (rm == .rne) = true) : Raw.xput rm.bits 18 = 0 := by
  obtain rfl : rm = .rne := by simpa using h
  decide

section Chains

variable {r : Raw} {full long fixed : Bool} {i : Instr} (hform : r.form full long = .ok ())
include hform

/-- A decoder with one value of MOD. -/
theorem decode_of_mod {u : Uses} {m : BitVec 2} {j : Instr} (hmod : r.mod = m) (hrow : r.row5 fixed u = .ok ()) (hi : j = i) :
    (do r.form full long; r.modIs m; r.row5 fixed u; return j : Except DecodeErr Instr) = .ok i := by
  have hm : r.modIs m = .ok () := if_pos hmod
  simp only [hform, hm, hrow, hi]
  rfl

/-- A decoder with no modifier of its own. -/
theorem decode_of_row {u : Uses} {j : Instr} (hrow : r.row5 fixed u = .ok ()) (hi : j = i) :
    (do r.form full long; r.row5 fixed u; return j : Except DecodeErr Instr) = .ok i := by
  simp only [hform, hrow, hi]
  rfl

/-- A decoder whose MOD is a modifier. -/
theorem decode_of_ty {α : Type} {o : BitVec 2 → Option α} {t : α} {u : α → Uses} {mk : α → Instr} (hty : o r.mod = some t)
    (hrow : r.row5 fixed (u t) = .ok ()) (hi : mk t = i) :
    (do r.form full long; let t ← row4 (o r.mod); r.row5 fixed (u t); return mk t : Except DecodeErr Instr) = .ok i := by
  have ht : row4 (o r.mod) = .ok t := by simp only [hty, row4]
  simp only [hform, ht, ← hi]
  exact congrArg (· >>= fun _ => pure (mk t)) hrow

/-- A decoder with a modifier in MOD and one in XMOD. -/
theorem decode_of_ty_xmod {α β : Type} {o : BitVec 2 → Option α} {t : α} {n : Nat} {p : BitVec n → Option β} {lo : Nat} {x : β}
    {u : α → Uses} {mk : α → β → Instr} (hty : o r.mod = some t) (hx : p (r.xmod.extractLsb' lo n) = some x)
    (hrow : r.row5 fixed (u t) = .ok ()) (hi : mk t x = i) :
    (do r.form full long; let t ← row4 (o r.mod); let x ← row4 (p (r.xf lo n)); r.row5 fixed (u t); return mk t x :
      Except DecodeErr Instr) = .ok i := by
  have ht : row4 (o r.mod) = .ok t := by simp only [hty, row4]
  have hp : row4 (p (r.xf lo n)) = .ok x := by simp only [Raw.xf, hx, row4]
  simp only [hform, ht, hp, ← hi]
  exact congrArg (· >>= fun _ => pure (mk t x)) hrow

end Chains

end Sys2Proof
end

section
namespace Sys2Proof

/-! ### Each word reads back (R67, R69, R85, R88)

The words in the order of the opcode map (Table EC-8): control and synchronisation, scalar, lane, and the other units. -/

theorem reads_control {i : Instr} {r : Raw} (hr : i.raw = some r) (hw : WellFormed i = true) (hop : r.opc.toNat < 0x040) :
    r.instr = .ok i ∧ r.Fits := by
  cases i
  case nop | join | brk | ret | exit | brx | callx | modeSet | modeClr | modeWr | srd | swr | bra | loopr | call =>
    dsimp only [Instr.raw, Hdr.raw] at hr
    cases hr
    exact ⟨decode_of_mod rfl rfl (Raw.row5_plain rfl (fun _ => hw) rfl (Raw.zero_within _)) (by simp), fun _ => ⟨rfl, rfl, rfl⟩⟩
  case gbar | cbar =>
    dsimp only [Instr.raw, Hdr.raw] at hr
    cases hr
    exact ⟨decode_of_mod rfl rfl (Raw.row5_plain rfl nofun rfl (Raw.zero_within _)) (by simp), fun _ => ⟨rfl, rfl, rfl⟩⟩
  case split h els kC jn =>
    dsimp only [Instr.raw, Hdr.raw] at hr
    cases hr
    exact ⟨decode_of_mod rfl rfl (Raw.row5_plain rfl (fun _ => hw) rfl (Raw.zero_within _)) (by simp), Raw.fits_of_long rfl⟩
  case waitf | yieldW =>
    dsimp only [Instr.raw, Hdr.raw] at hr
    cases hr
    obtain ⟨hf, hn⟩ := (Bool.and_eq_true _ _).mp hw
    exact ⟨decode_of_mod (Raw.form_both _) rfl (Raw.row5_immsel (fun _ => hf) rfl rfl) (by simp), Raw.fits_immsel hn rfl rfl rfl⟩
  case regx | bar =>
    dsimp only [Instr.raw, Hdr.raw] at hr
    cases hr
    exact ⟨decode_of_mod (Raw.form_both _) rfl (Raw.row5_immsel nofun rfl rfl) (by simp), Raw.fits_immsel hw rfl rfl rfl⟩
  case bara h l t d a cnt disp =>
    dsimp only [Instr.raw, Hdr.raw] at hr
    cases hr
    exact ⟨decode_of_ty (t := t) (Raw.form_both _) (by simp) (by exact Raw.row5_plain rfl nofun rfl (Raw.zero_within _)) (by simp),
      Raw.fits_of_or hw fun hdisp => ⟨rfl, rfl, by simpa using hdisp⟩⟩
  case barw h l sp a p disp tmo =>
    dsimp only [Instr.raw, Hdr.raw] at hr
    cases hr
    refine ⟨?_, Raw.fits_of_or hw fun hshort => ?_⟩
    · change decodeBarw _ = _
      simp [decodeBarw, Raw.form, Raw.xf, row4, Raw.idle, ok_bind]
    · obtain ⟨hdisp, htmo⟩ := (Bool.and_eq_true _ _).mp hshort
      obtain rfl := Option.isNone_iff_eq_none.mp htmo
      exact ⟨rfl, (by decide : Raw.xflag false 4 = 0), by simpa using hdisp⟩
  case waitm h sp sz sgn sc peer cc d a b disp tmo =>
    dsimp only [Instr.raw, Hdr.raw] at hr
    cases hr
    change waitmAssigned sz sc = true at hw
    refine ⟨?_, Raw.fits_of_long rfl⟩
    change decodeWaitm _ = _
    simp [decodeWaitm, Raw.form, Raw.xf, hw, row4, Raw.assigned, Raw.idle, BitVec.extractLsb'_or, ok_bind]
  case kmov h v => cases v <;> (cases hr; simp at hop)
  all_goals cases hr
  all_goals simp at hop

theorem reads_scalar {i : Instr} {r : Raw} (hr : i.raw = some r) (hw : WellFormed i = true) (hlow : 0x040 ≤ r.opc.toNat)
    (hop : r.opc.toNat < 0x080) : r.instr = .ok i ∧ r.Fits := by
  cases i
  case smul t _ _ _ | smin t _ _ _ | smax t _ _ _ | sadd64 t _ _ _ | sand t _ _ _ | sor t _ _ _ | sxor t _ _ _ | sshl t _ _ _
      | sshr t _ _ _ | ssra t _ _ _ | s2v t _ _ _ | v2s t _ _ _ | smov t _ _ =>
    dsimp only [Instr.raw, Hdr.raw] at hr
    cases hr
    obtain ⟨hf, hb⟩ := (Bool.and_eq_true _ _).mp hw
    exact ⟨decode_of_ty (t := t) (Raw.form_both _) (by simp) (by exact Raw.row5_immsel (fun _ => hf) rfl rfl) (by simp), Raw.fits_immsel hb rfl rfl rfl⟩
  case smad t _ _ _ _ | smad64 t _ _ _ _ | ssel t _ _ _ _ =>
    dsimp only [Instr.raw, Hdr.raw] at hr
    cases hr
    exact ⟨decode_of_ty (t := t) rfl (by simp) (by exact Raw.row5_immsel (fun _ => hw) rfl rfl) (by simp), Raw.fits_of_long rfl⟩
  case spopc t _ _ | sclz t _ _ =>
    dsimp only [Instr.raw, Hdr.raw] at hr
    cases hr
    exact ⟨decode_of_ty (t := t) rfl (by simp) (by exact Raw.row5_plain rfl (fun _ => hw) rfl (Raw.zero_within _)) (by simp),
      fun _ => ⟨rfl, rfl, rfl⟩⟩
  case smovl =>
    dsimp only [Instr.raw, Hdr.raw] at hr
    cases hr
    exact ⟨decode_of_mod rfl rfl (Raw.row5_plain rfl (fun _ => hw) rfl (Raw.zero_within _)) (by simp), Raw.fits_of_long rfl⟩
  case scmp t x _ _ _ =>
    dsimp only [Instr.raw, Hdr.raw] at hr
    cases hr
    exact ⟨decode_of_ty_xmod (t := t) (x := x) rfl (by simp) (by simp [BitVec.extractLsb'_or])
      (by exact Raw.row5_src_mk (fun _ => hw) rfl (by simp) (by simp [BitVec.extractLsb'_or]) rfl) (by simp [BitVec.extractLsb'_or]),
      Raw.fits_of_long rfl⟩
  case sadd h l t s d a b | ssub h l t s d a b | sbfe h l t s d a b =>
    dsimp only [Instr.raw, Hdr.raw] at hr
    obtain ⟨hf, hs⟩ := (Bool.and_eq_true _ _).mp hw
    rw [Src.short_xmod (fun h => Raw.xflag_eq_zero h 19) hs] at hr
    cases hr
    exact ⟨decode_of_ty (t := t) (Raw.form_both _) (by simp)
      (by exact Raw.row5_src_mk (fun _ => hf) rfl (by simp) (by simp [BitVec.extractLsb'_or]) rfl) (by simp [Raw.xf, BitVec.extractLsb'_or]),
      Raw.fits_short (fun h => Raw.xflag_eq_zero h 19) hs rfl rfl rfl⟩
  case kmov h v => cases v <;> (cases hr; simp at hop)
  all_goals cases hr
  all_goals simp at hlow hop

end Sys2Proof
end

section
namespace Sys2Proof

theorem reads_lane_integer {i : Instr} {r : Raw} (hr : i.raw = some r) (hw : WellFormed i = true) (hlow : 0x080 ≤ r.opc.toNat)
    (hop : r.opc.toNat < 0x0E0) : r.instr = .ok i ∧ r.Fits := by
  cases i
  case imul t _ _ _ | imulh t _ _ _ | imin t _ _ _ | imax t _ _ _ | iand t _ _ _ | ior t _ _ _ | ixor t _ _ _ | ishl t _ _ _
      | ishr t _ _ _ | isra t _ _ _ | mov t _ _ =>
    dsimp only [Instr.raw, Hdr.raw] at hr
    cases hr
    obtain ⟨hf, hb⟩ := (Bool.and_eq_true _ _).mp hw
    exact ⟨decode_of_ty (t := t) (Raw.form_both _) (by simp) (by exact Raw.row5_immsel (fun _ => hf) rfl rfl) (by simp),
      Raw.fits_immsel hb rfl rfl rfl⟩
  case iaddc t _ _ _ _ | imad t _ _ _ _ | ifunnel t _ _ _ _ | ibfi t _ _ _ _ | isel t _ _ _ _ =>
    dsimp only [Instr.raw, Hdr.raw] at hr
    cases hr
    exact ⟨decode_of_ty (t := t) rfl (by simp) (by exact Raw.row5_immsel (fun _ => hw) rfl rfl) (by simp), Raw.fits_of_long rfl⟩
  case inot t _ _ | ipopc t _ _ | iclz t _ _ =>
    dsimp only [Instr.raw, Hdr.raw] at hr
    cases hr
    exact ⟨decode_of_ty (t := t) rfl (by simp) (by exact Raw.row5_plain rfl (fun _ => hw) rfl (Raw.zero_within _)) (by simp),
      fun _ => ⟨rfl, rfl, rfl⟩⟩
  case iadd t s _ _ _ | isub t s _ _ _ | ibfe t s _ _ _ =>
    dsimp only [Instr.raw, Hdr.raw] at hr
    obtain ⟨hf, hs⟩ := (Bool.and_eq_true _ _).mp hw
    rw [Src.short_xmod (fun h => Raw.xflag_eq_zero h 19) hs] at hr
    cases hr
    exact ⟨decode_of_ty (t := t) (Raw.form_both _) (by simp)
      (by exact Raw.row5_src_mk (fun _ => hf) rfl (by simp) (by simp [BitVec.extractLsb'_or]) rfl)
      (by simp [Raw.xf, BitVec.extractLsb'_or]), Raw.fits_short (fun h => Raw.xflag_eq_zero h 19) hs rfl rfl rfl⟩
  case iabs h l t s d a =>
    dsimp only [Instr.raw, Hdr.raw] at hr
    obtain ⟨hf, hs⟩ := (Bool.and_eq_true _ _).mp hw
    rw [Raw.short_xmod (fun h => Raw.xflag_eq_zero h 19) hs] at hr
    cases hr
    exact ⟨decode_of_ty (t := t) (Raw.form_both _) (by simp) (by simp [Raw.idle, hf]) (by simp [Raw.xf]),
      Raw.fits_of_or hs fun h => ⟨rfl, Raw.xflag_eq_zero h 19, rfl⟩⟩
  case idp4 t _ _ _ _ _ | idp2 t _ _ _ _ _ =>
    dsimp only [Instr.raw, Hdr.raw] at hr
    cases hr
    exact ⟨decode_of_ty (t := t) rfl (by simp)
      (by exact Raw.row5_src_mk (fun _ => hw) rfl (by simp) (by simp [BitVec.extractLsb'_or]) rfl)
      (by simp [Raw.xf, BitVec.extractLsb'_or]), Raw.fits_of_long rfl⟩
  case icmp t x _ _ _ =>
    dsimp only [Instr.raw, Hdr.raw] at hr
    cases hr
    exact ⟨decode_of_ty_xmod (t := t) (x := x) rfl (by simp) (by simp [BitVec.extractLsb'_or])
      (by exact Raw.row5_src_mk (fun _ => hw) rfl (by simp) (by simp [BitVec.extractLsb'_or]) rfl)
      (by simp [BitVec.extractLsb'_or]), Raw.fits_of_long rfl⟩
  case kmov h v => cases v <;> (cases hr; simp at hlow hop)
  all_goals cases hr
  all_goals simp at hlow hop

theorem reads_lane_float {i : Instr} {r : Raw} (hr : i.raw = some r) (hw : WellFormed i = true) (hlow : 0x0E0 ≤ r.opc.toNat)
    (hop : r.opc.toNat < 0x160) : r.instr = .ok i ∧ r.Fits := by
  cases i
  case frcp | frsq | fexp2 | flog2 | fsin | fcos | ftanh =>
    dsimp only [Instr.raw, Hdr.raw] at hr
    cases hr
    exact ⟨decode_of_mod rfl rfl (Raw.row5_plain rfl nofun rfl (Raw.zero_within _)) (by simp), fun _ => ⟨rfl, rfl, rfl⟩⟩
  case fclass t _ _ =>
    dsimp only [Instr.raw, Hdr.raw] at hr
    cases hr
    exact ⟨decode_of_ty (t := t) rfl (by simp) (by exact Raw.row5_plain rfl (fun _ => hw) rfl (Raw.zero_within _)) (by simp),
      fun _ => ⟨rfl, rfl, rfl⟩⟩
  case fmin t _ _ _ | fmax t _ _ _ | hmin2 t _ _ _ | hmax2 t _ _ _ =>
    dsimp only [Instr.raw, Hdr.raw] at hr
    cases hr
    obtain ⟨hfl, hb⟩ := (Bool.and_eq_true _ _).mp hw
    obtain ⟨hf, hl⟩ := (Bool.and_eq_true _ _).mp hfl
    exact ⟨decode_of_ty (t := t) (Raw.form_both _) (by simp) (by exact Raw.row5_immsel (fun _ => hf) rfl hl) (by simp),
      Raw.fits_immsel hb rfl rfl rfl⟩
  case fadd t x _ _ _ | fsub t x _ _ _ | fmul t x _ _ _ | hadd2 t x _ _ _ | hmul2 t x _ _ _ =>
    dsimp only [Instr.raw, Hdr.raw] at hr
    obtain ⟨hfl, hs⟩ := (Bool.and_eq_true _ _).mp hw
    obtain ⟨hf, hl⟩ := (Bool.and_eq_true _ _).mp hfl
    rw [Src.short_xmod RM.xput_eq_zero hs] at hr
    cases hr
    exact ⟨decode_of_ty_xmod (t := t) (x := x) (Raw.form_both _) (by simp) (by simp [BitVec.extractLsb'_or])
      (by exact Raw.row5_src_mk (fun _ => hf) rfl (by simp) (by simp [BitVec.extractLsb'_or]) hl)
      (by simp [BitVec.extractLsb'_or]), Raw.fits_short RM.xput_eq_zero hs rfl rfl rfl⟩
  case ffma t x _ _ _ _ | hfma2 t x _ _ _ _ | fdot2 t x _ _ _ _ | fcmp t x _ _ _ =>
    dsimp only [Instr.raw, Hdr.raw] at hr
    obtain ⟨hf, hl⟩ := (Bool.and_eq_true _ _).mp hw
    cases hr
    exact ⟨decode_of_ty_xmod (t := t) (x := x) rfl (by simp) (by simp [BitVec.extractLsb'_or])
      (by exact Raw.row5_src_mk (fun _ => hf) rfl (by simp) (by simp [BitVec.extractLsb'_or]) hl)
      (by simp [BitVec.extractLsb'_or]), Raw.fits_of_long rfl⟩
  case frnd h l t x d a =>
    dsimp only [Instr.raw, Hdr.raw] at hr
    obtain ⟨hf, hs⟩ := (Bool.and_eq_true _ _).mp hw
    rw [Raw.short_xmod RM.xput_eq_zero hs] at hr
    cases hr
    exact ⟨decode_of_ty_xmod (t := t) (x := x) (Raw.form_both _) (by simp) (by simp) (by simp [Raw.idle, hf]) (by simp),
      Raw.fits_of_or hs fun h => ⟨rfl, RM.xput_eq_zero h, rfl⟩⟩
  case fsqrt h l t x d a =>
    dsimp only [Instr.raw, Hdr.raw] at hr
    rw [Raw.short_xmod RM.xput_eq_zero hw] at hr
    cases hr
    exact ⟨decode_of_ty_xmod (t := t) (x := x) (Raw.form_both _) (by simp) (by simp) (by simp [Raw.idle]) (by simp),
      Raw.fits_of_or hw fun h => ⟨rfl, RM.xput_eq_zero h, rfl⟩⟩
  case kmov h v => cases v <;> (cases hr; simp at hlow hop)
  all_goals cases hr
  all_goals simp at hlow hop

theorem reads_cvtSr {h half tgt src sat d a rnd} {r : Raw} (hr : (Instr.cvtSr h half tgt src sat d a rnd).raw = some r)
    (hw : WellFormed (.cvtSr h half tgt src sat d a rnd) = true) :
    r.instr = .ok (.cvtSr h half tgt src sat d a rnd) ∧ r.Fits := by
  dsimp only [Instr.raw, Hdr.raw] at hr
  cases hr
  obtain ⟨hf, hsrc⟩ := (Bool.and_eq_true _ _).mp hw
  refine ⟨?_, Raw.fits_of_long rfl⟩
  change decodeCvtSr _ = _
  simp [decodeCvtSr, Raw.form, Raw.xf, hf, hsrc, row4, Raw.assigned, Raw.idle, BitVec.extractLsb'_or, ok_bind]

theorem reads_vote {h v kS} {r : Raw} (hr : (Instr.vote h v kS).raw = some r)
    (hw : WellFormed (.vote h v kS) = true) :
    r.instr = .ok (.vote h v kS) ∧ r.Fits := by
  dsimp only [Instr.raw, Hdr.raw] at hr
  cases hr
  refine ⟨?_, fun _ => ⟨rfl, rfl, rfl⟩⟩
  have hf : h.fixed = true := hw
  change decodeVote _ = _
  cases v <;> simp [decodeVote, voteForm, VoteForm.mod, VoteForm.dst, Raw.form, hf, Raw.idle, ok_bind]

theorem reads_kmov {h v} {r : Raw} (hr : (Instr.kmov h v).raw = some r)
    (hw : WellFormed (.kmov h v) = true) :
    r.instr = .ok (.kmov h v) ∧ r.Fits := by
  obtain ⟨hf, hv⟩ := (Bool.and_eq_true _ _).mp hw
  cases v with
  | k kD kA =>
    dsimp only [Instr.raw, Hdr.raw] at hr
    cases hr
    refine ⟨?_, fun _ => ⟨rfl, rfl, rfl⟩⟩
    exact decode_of_row rfl (by exact Raw.row5_plain rfl (fun _ => hf) rfl (Raw.zero_within _)) (by simp)
  | s l kD b =>
    dsimp only [Instr.raw, Hdr.raw] at hr
    cases hr
    refine ⟨?_, Raw.fits_immsel hv rfl rfl rfl⟩
    exact decode_of_row (Raw.form_both _) (by exact Raw.row5_immsel (fun _ => hf) rfl rfl) (by simp)
  | toS d kA =>
    dsimp only [Instr.raw, Hdr.raw] at hr
    cases hr
    refine ⟨?_, fun _ => ⟨rfl, rfl, rfl⟩⟩
    exact decode_of_row rfl (by exact Raw.row5_plain rfl (fun _ => hf) rfl (Raw.zero_within _)) (by simp)

theorem reads_lane_other {i : Instr} {r : Raw} (hr : i.raw = some r) (hw : WellFormed i = true) (hlow : 0x160 ≤ r.opc.toNat)
    (hop : r.opc.toNat < 0x1A0) : r.instr = .ok i ∧ r.Fits := by
  cases i
  case kand | kor | kxor | knot | kpop =>
    dsimp only [Instr.raw, Hdr.raw] at hr
    cases hr
    exact ⟨decode_of_mod rfl rfl (Raw.row5_plain rfl (fun _ => hw) rfl (Raw.zero_within _)) (by simp), fun _ => ⟨rfl, rfl, rfl⟩⟩
  case rng h l d a n imm =>
    dsimp only [Instr.raw, Hdr.raw] at hr
    cases hr
    obtain ⟨hf, hs⟩ := (Bool.and_eq_true _ _).mp hw
    exact ⟨decode_of_mod (Raw.form_both _) rfl (Raw.row5_plain rfl (fun _ => hf) rfl (Raw.zero_within _)) (by simp),
      Raw.fits_of_or hs fun himm => ⟨rfl, rfl, by simpa using himm⟩⟩
  case pack t _ _ _ | unpack t _ _ _ | qnt t _ _ _ | shfl t _ _ _ =>
    dsimp only [Instr.raw, Hdr.raw] at hr
    cases hr
    obtain ⟨hf, hb⟩ := (Bool.and_eq_true _ _).mp hw
    exact ⟨decode_of_ty (t := t) (Raw.form_both _) (by simp) (by exact Raw.row5_immsel (fun _ => hf) rfl rfl) (by simp),
      Raw.fits_immsel hb rfl rfl rfl⟩
  case matchW t _ _ | cvt t _ _ _ =>
    dsimp only [Instr.raw, Hdr.raw] at hr
    cases hr
    exact ⟨decode_of_ty (t := t) rfl (by simp) (by exact Raw.row5_plain rfl (fun _ => hw) rfl (Raw.zero_within _)) (by simp),
      fun _ => ⟨rfl, rfl, rfl⟩⟩
  case dqnt h t d a p sel =>
    dsimp only [Instr.raw, Hdr.raw] at hr
    cases hr
    exact ⟨decode_of_ty (t := t) rfl (by simp) (by exact Raw.row5_plain rfl (fun _ => hw) rfl (Raw.zero_within _)) (by simp),
      Raw.fits_of_long rfl⟩
  case cvtSr => exact reads_cvtSr hr hw
  case wred =>
    dsimp only [Instr.raw, Hdr.raw] at hr
    cases hr
    obtain ⟨hf, hty⟩ := (Bool.and_eq_true _ _).mp hw
    refine ⟨?_, fun _ => ⟨rfl, rfl, rfl⟩⟩
    change decodeWred _ = _
    simp [decodeWred, Raw.form, hf, hty, row4, Raw.assigned, Raw.idle, ok_bind]
  case wscan =>
    dsimp only [Instr.raw, Hdr.raw] at hr
    cases hr
    obtain ⟨hf, hty⟩ := (Bool.and_eq_true _ _).mp hw
    refine ⟨?_, fun _ => ⟨rfl, rfl, rfl⟩⟩
    change decodeWscan _ = _
    simp [decodeWscan, Raw.form, hf, hty, row4, Raw.assigned, Raw.idle, ok_bind]
  case vote => exact reads_vote hr hw
  case kmov => exact reads_kmov hr hw
  all_goals cases hr
  all_goals simp at hlow hop

end Sys2Proof
end

section
namespace Sys2Proof

theorem reads_ld {h l sp sz sx sc od hint scl d a b disp} {r : Raw} (hr : (Instr.ld h l sp sz sx sc od hint scl d a b disp).raw = some r)
    (hw : WellFormed (.ld h l sp sz sx sc od hint scl d a b disp) = true) : r.instr = .ok (.ld h l sp sz sx sc od hint scl d a b disp) ∧ r.Fits := by
  dsimp only [Instr.raw, Hdr.raw] at hr
  cases hr
  obtain ⟨hassigned, hl⟩ := (Bool.and_eq_true _ _).mp hw
  cases l with
  | true =>
    refine ⟨?_, Raw.fits_of_long rfl⟩
    change decodeLd _ = _
    simp [decodeLd, Raw.form, Raw.xf, hassigned, row4, Raw.assigned, Raw.idle, BitVec.extractLsb'_or, ok_bind]
  | false =>
    simp only [Bool.false_or, Bool.and_eq_true, beq_iff_eq, Bool.not_eq_true'] at hl
    obtain ⟨⟨⟨⟨⟨⟨rfl, rfl⟩, rfl⟩, rfl⟩, rfl⟩, rfl⟩, rfl⟩ := hl
    refine ⟨?_, fun _ => ⟨rfl, rfl, rfl⟩⟩
    change decodeLd _ = _
    simp [decodeLd, Raw.form, Raw.xf, row4, Raw.assigned, hassigned, Raw.idle, ok_bind, Scope.ofBits, Order.ofBits, Hint.ofBits]

theorem reads_st {h l sp sz sc od hint scl d a b disp} {r : Raw} (hr : (Instr.st h l sp sz sc od hint scl d a b disp).raw = some r)
    (hw : WellFormed (.st h l sp sz sc od hint scl d a b disp) = true) : r.instr = .ok (.st h l sp sz sc od hint scl d a b disp) ∧ r.Fits := by
  dsimp only [Instr.raw, Hdr.raw] at hr
  cases hr
  obtain ⟨hassigned, hl⟩ := (Bool.and_eq_true _ _).mp hw
  cases l with
  | true =>
    refine ⟨?_, Raw.fits_of_long rfl⟩
    change decodeSt _ = _
    simp [decodeSt, Raw.form, Raw.xf, hassigned, row4, Raw.assigned, Raw.idle, BitVec.extractLsb'_or, ok_bind]
  | false =>
    simp only [Bool.false_or, Bool.and_eq_true, beq_iff_eq, Bool.not_eq_true'] at hl
    obtain ⟨⟨⟨⟨⟨rfl, rfl⟩, rfl⟩, rfl⟩, rfl⟩, rfl⟩ := hl
    refine ⟨?_, fun _ => ⟨rfl, rfl, rfl⟩⟩
    change decodeSt _ = _
    simp [decodeSt, Raw.form, Raw.xf, row4, Raw.assigned, hassigned, Raw.idle, ok_bind, Scope.ofBits, Order.ofBits, Hint.ofBits]

theorem reads_stfe {h l sp sz sc scl d a b disp} {r : Raw} (hr : (Instr.stfe h l sp sz sc scl d a b disp).raw = some r)
    (hw : WellFormed (.stfe h l sp sz sc scl d a b disp) = true) : r.instr = .ok (.stfe h l sp sz sc scl d a b disp) ∧ r.Fits := by
  dsimp only [Instr.raw, Hdr.raw] at hr
  cases hr
  obtain ⟨hassigned, hl⟩ := (Bool.and_eq_true _ _).mp hw
  cases l with
  | true =>
    refine ⟨?_, Raw.fits_of_long rfl⟩
    change decodeStfe _ = _
    simp [decodeStfe, Raw.form, Raw.xf, hassigned, row4, Raw.assigned, Raw.idle, BitVec.extractLsb'_or, ok_bind]
  | false =>
    simp only [Bool.false_or, Bool.and_eq_true, beq_iff_eq, Bool.not_eq_true'] at hl
    obtain ⟨⟨⟨rfl, rfl⟩, rfl⟩, rfl⟩ := hl
    refine ⟨?_, fun _ => ⟨rfl, rfl, rfl⟩⟩
    change decodeStfe _ = _
    simp [decodeStfe, Raw.form, Raw.xf, row4, Raw.assigned, hassigned, Raw.idle, ok_bind]

theorem reads_ldfe {h sp sz sx sc scl peer clr d a b disp tmo} {r : Raw} (hr : (Instr.ldfe h sp sz sx sc scl peer clr d a b disp tmo).raw = some r)
    (hw : WellFormed (.ldfe h sp sz sx sc scl peer clr d a b disp tmo) = true) : r.instr = .ok (.ldfe h sp sz sx sc scl peer clr d a b disp tmo) ∧ r.Fits := by
  dsimp only [Instr.raw, Hdr.raw] at hr
  cases hr
  have hassigned : ldfeAssigned sz sx sc = true := hw
  refine ⟨?_, Raw.fits_of_long rfl⟩
  change decodeLdfe _ = _
  simp [decodeLdfe, Raw.form, Raw.xf, hassigned, row4, Raw.assigned, Raw.idle, BitVec.extractLsb'_or, ok_bind]

theorem reads_atom {h sp sz sc od op d a b disp} {r : Raw} (hr : (Instr.atom h sp sz sc od op d a b disp).raw = some r)
    (hw : WellFormed (.atom h sp sz sc od op d a b disp) = true) :
    r.instr = .ok (.atom h sp sz sc od op d a b disp) ∧ r.Fits := by
  dsimp only [Instr.raw, Hdr.raw] at hr
  cases hr
  have hassigned : atomAssigned op sz od = true := hw
  refine ⟨?_, Raw.fits_of_long rfl⟩
  change decodeAtom _ = _
  simp [decodeAtom, Raw.form, Raw.xf, hassigned, row4, Raw.assigned, Raw.idle, BitVec.extractLsb'_or, ok_bind]

theorem reads_atomc {h sp sz sc od d a b c disp} {r : Raw} (hr : (Instr.atomc h sp sz sc od d a b c disp).raw = some r)
    (hw : WellFormed (.atomc h sp sz sc od d a b c disp) = true) :
    r.instr = .ok (.atomc h sp sz sc od d a b c disp) ∧ r.Fits := by
  dsimp only [Instr.raw, Hdr.raw] at hr
  cases hr
  have hassigned : atomcAssigned sz od = true := hw
  refine ⟨?_, Raw.fits_of_long rfl⟩
  change decodeAtomc _ = _
  simp [decodeAtomc, Raw.form, Raw.xf, hassigned, row4, Raw.assigned, Raw.idle, BitVec.extractLsb'_or, ok_bind]

theorem reads_memory {i : Instr} {r : Raw} (hr : i.raw = some r) (hw : WellFormed i = true) (hlow : 0x1A0 ≤ r.opc.toNat)
    (hop : r.opc.toNat < 0x1D0) : r.instr = .ok i ∧ r.Fits := by
  cases i
  case ld => exact reads_ld hr hw
  case st => exact reads_st hr hw
  case ldfe => exact reads_ldfe hr hw
  case stfe => exact reads_stfe hr hw
  case atom => exact reads_atom hr hw
  case atomc => exact reads_atomc hr hw
  case red h sp sz sc od op a b disp =>
    dsimp only [Instr.raw, Hdr.raw] at hr
    cases hr
    have hassigned : redAssignedLs op sz od = true := hw
    refine ⟨?_, Raw.fits_of_long rfl⟩
    change decodeRed _ = _
    simp [decodeRed, Raw.form, Raw.xf, hassigned, row4, Raw.assigned, Raw.idle, BitVec.extractLsb'_or, ok_bind]
  case fence h sc od =>
    dsimp only [Instr.raw, Hdr.raw] at hr
    cases hr
    have hassigned : fenceAssigned od = true := hw
    refine ⟨?_, Raw.fits_of_long rfl⟩
    change decodeFence _ = _
    simp [decodeFence, Raw.form, Raw.modIs, Raw.xf, hassigned, row4, Raw.assigned, Raw.idle, BitVec.extractLsb'_or, ok_bind]
  case pref h l t scl a b disp =>
    dsimp only [Instr.raw, Hdr.raw] at hr
    have hscl : (!scl && disp == 0) = true → Raw.xflag scl 8 = 0 := fun h => Raw.xflag_eq_zero ((Bool.and_eq_true _ _).mp h).1 8
    rw [Raw.short_xmod hscl hw] at hr
    cases hr
    exact ⟨decode_of_ty (t := t) (Raw.form_both _) (by simp) (by simp [Raw.idle]) (by simp [Raw.xf]),
      Raw.fits_of_or hw fun h => ⟨rfl, hscl h, by simpa using ((Bool.and_eq_true _ _).mp h).2⟩⟩
  case ifence =>
    dsimp only [Instr.raw, Hdr.raw] at hr
    cases hr
    exact ⟨decode_of_mod rfl rfl (Raw.row5_plain rfl nofun rfl (Raw.zero_within _)) (by simp), fun _ => ⟨rfl, rfl, rfl⟩⟩
  case cctlL1ev h l scl a b disp | cctlL2ev h l scl a b disp | cctlZero h l scl a b disp =>
    dsimp only [Instr.raw, Hdr.raw] at hr
    have hscl : (!scl && disp == 0) = true → Raw.xflag scl 8 = 0 := fun h => Raw.xflag_eq_zero ((Bool.and_eq_true _ _).mp h).1 8
    rw [Raw.short_xmod hscl hw] at hr
    cases hr
    exact ⟨decode_of_mod (Raw.form_both _) rfl (by simp [Raw.idle]) (by simp [Raw.xf]),
      Raw.fits_of_or hw fun h => ⟨rfl, hscl h, by simpa using ((Bool.and_eq_true _ _).mp h).2⟩⟩
  case kmov h v => cases v <;> (cases hr; simp at hlow hop)
  all_goals cases hr
  all_goals simp at hlow hop

theorem reads_wld {h w a cb pitch} {r : Raw} (hr : (Instr.wld h w a cb pitch).raw = some r) :
    r.instr = .ok (.wld h w a cb pitch) ∧ r.Fits := by
  dsimp only [Instr.raw, Hdr.raw] at hr
  cases hr
  refine ⟨?_, Raw.fits_of_long rfl⟩
  change decodeWld _ = _
  have hzero : Raw.xput (0#2) 15 = 0 := by decide
  cases w <;>
    simp [decodeWld, WldForm.ofBits, WldForm.mod, WldForm.g, hzero, Raw.form, Raw.xf, row4, Raw.idle, ok_bind]

theorem reads_ald {h m cb} {r : Raw} (hr : (Instr.ald h m cb).raw = some r) :
    r.instr = .ok (.ald h m cb) ∧ r.Fits := by
  dsimp only [Instr.raw, Hdr.raw] at hr
  cases hr
  refine ⟨?_, Raw.fits_of_long rfl⟩
  change decodeAld _ = _
  cases m <;>
    simp [decodeAld, matOpd, MatOpd.isRegs, MatOpd.imm, MatOpd.field, Raw.form, Raw.modIs, Raw.xf, Raw.idle, ok_bind]

theorem reads_mms {h ta tb zi m cb} {r : Raw} (hr : (Instr.mms h ta tb zi m cb).raw = some r) :
    r.instr = .ok (.mms h ta tb zi m cb) ∧ r.Fits := by
  dsimp only [Instr.raw, Hdr.raw] at hr
  cases hr
  refine ⟨?_, Raw.fits_of_long rfl⟩
  change decodeMms _ = _
  cases m <;>
    simp [decodeMms, matOpd, MatOpd.isRegs, MatOpd.imm, MatOpd.field, Raw.form, Raw.xf, row4, Raw.idle, BitVec.extractLsb'_or, ok_bind]

theorem reads_mmsq {h q g zi a cb pitch} {r : Raw} (hr : (Instr.mmsq h q g zi a cb pitch).raw = some r) :
    r.instr = .ok (.mmsq h q g zi a cb pitch) ∧ r.Fits := by
  dsimp only [Instr.raw, Hdr.raw] at hr
  cases hr
  refine ⟨?_, Raw.fits_of_long rfl⟩
  change decodeMmsq _ = _
  simp [decodeMmsq, Raw.form, Raw.xf, row4, Raw.idle, BitVec.extractLsb'_or, ok_bind]

theorem reads_adrn {h act t bias sat clr m cb} {r : Raw} (hr : (Instr.adrn h act t bias sat clr m cb).raw = some r)
    (hw : WellFormed (.adrn h act t bias sat clr m cb) = true) : r.instr = .ok (.adrn h act t bias sat clr m cb) ∧ r.Fits := by
  dsimp only [Instr.raw, Hdr.raw] at hr
  cases hr
  have hassigned : adrnAssigned t sat = true := hw
  refine ⟨?_, Raw.fits_of_long rfl⟩
  change decodeAdrn _ = _
  cases m <;>
    simp [decodeAdrn, matOpd, MatOpd.isRegs, MatOpd.imm, MatOpd.dst, MatOpd.src0, hassigned, Raw.form, Raw.modIs, Raw.assigned, Raw.xf,
      row4, Raw.idle, BitVec.extractLsb'_or, ok_bind]

theorem reads_array {i : Instr} {r : Raw} (hr : i.raw = some r) (hw : WellFormed i = true) (hlow : 0x1D0 ≤ r.opc.toNat)
    (hop : r.opc.toNat < 0x1E0) : r.instr = .ok i ∧ r.Fits := by
  cases i
  case wld => exact reads_wld hr
  case wflip =>
    dsimp only [Instr.raw, Hdr.raw] at hr
    cases hr
    exact ⟨decode_of_mod rfl rfl (Raw.row5_plain rfl nofun rfl (Raw.zero_within _)) (by simp), fun _ => ⟨rfl, rfl, rfl⟩⟩
  case aclr | amov | smx | smxrInit | smxrNorm | smxrRd | smxrWr =>
    dsimp only [Instr.raw, Hdr.raw] at hr
    cases hr
    exact ⟨decode_of_mod rfl rfl (Raw.row5_plain rfl nofun rfl (Raw.zero_within _)) (by simp), Raw.fits_of_long rfl⟩
  case ast h t a cb pitch =>
    dsimp only [Instr.raw, Hdr.raw] at hr
    cases hr
    exact ⟨decode_of_ty (t := t) rfl (by simp) (by exact Raw.row5_plain rfl nofun rfl (Raw.zero_within _)) (by simp),
      Raw.fits_of_long rfl⟩
  case mms => exact reads_mms hr
  case ald => exact reads_ald hr
  case mmsq => exact reads_mmsq hr
  case adrn => exact reads_adrn hr hw
  case kmov h v => cases v <;> (cases hr; simp at hlow hop)
  all_goals cases hr
  all_goals simp at hlow hop

theorem reads_culture {i : Instr} {r : Raw} (hr : i.raw = some r) (hlow : 0x1E0 ≤ r.opc.toNat) (hop : r.opc.toNat < 0x1E8) :
    r.instr = .ok i ∧ r.Fits := by
  cases i
  case cbind | cbindSw | crel | crelPin | crelUnpin | dqry | cspill | cfill | cstat | cstatH =>
    dsimp only [Instr.raw, Hdr.raw] at hr
    cases hr
    exact ⟨decode_of_mod rfl rfl (Raw.row5_plain rfl nofun rfl (Raw.zero_within _)) (by simp), fun _ => ⟨rfl, rfl, rfl⟩⟩
  case delta h rec cb =>
    dsimp only [Instr.raw, Hdr.raw] at hr
    cases hr
    refine ⟨?_, fun _ => ⟨rfl, rfl, rfl⟩⟩
    change decodeDelta _ = _
    cases rec <;> simp [decodeDelta, Raw.form, Raw.modIn, Raw.idle, ok_bind]
  case kmov h v => cases v <;> (cases hr; simp at hlow hop)
  all_goals cases hr
  all_goals simp at hlow hop

/-- The decoder of a copy word with streams, spaces and a scope, whose other bits of XMOD are zero. -/
theorem decode_of_copy {r : Raw} {strm : Stream} {dsp ssp : RwSpace} {fe : Bool} {sc : Scope} {i : Instr}
    {ok : RwSpace → RwSpace → Scope → Bool} {u : Uses} {mk : Stream → RwSpace → RwSpace → Scope → Instr}
    (hform : r.form false true = .ok ()) (hmod : r.mod = strm.bits)
    (hxmod : r.xmod = Raw.xput dsp.bits 19 ||| Raw.xput ssp.bits 17 ||| Raw.xflag fe 16 ||| Raw.xput sc.bits 13)
    (hok : ok dsp ssp sc = true) (hrow : r.row5 false u = .ok ()) (hi : mk strm dsp ssp sc = i) :
    (do r.form false true; let strm ← row4 (Stream.ofBits r.mod); let dsp ← row4 (RwSpace.ofBits (r.xf 19 2));
        let ssp ← row4 (RwSpace.ofBits (r.xf 17 2)); let sc ← row4 (Scope.ofBits (r.xf 13 3));
        r.assigned (ok dsp ssp sc); r.assigned (r.xf 12 1 == 0); r.row5 false u; return mk strm dsp ssp sc :
      Except DecodeErr Instr) = .ok i := by
  simp [hform, hmod, Raw.xf, hxmod, row4, Raw.assigned, hok, hrow, hi, BitVec.extractLsb'_or, ok_bind]

theorem reads_copy {i : Instr} {r : Raw} (hr : i.raw = some r) (hw : WellFormed i = true) (hlow : 0x1E8 ≤ r.opc.toNat)
    (hop : r.opc.toNat < 0x1F0) : r.instr = .ok i ∧ r.Fits := by
  cases i
  case cpy h strm dsp ssp fe sc d a ds =>
    dsimp only [Instr.raw, Hdr.raw] at hr
    cases hr
    exact ⟨decode_of_copy (strm := strm) (fe := fe) rfl rfl rfl (by simpa [Raw.xf, BitVec.extractLsb'_or] using (show cpyAssigned dsp fe sc = true from hw)) (by simp [Raw.idle])
      (by simp [Raw.xf, BitVec.extractLsb'_or]), Raw.fits_of_long rfl⟩
  case cpyz h strm dsp ssp fe sc d a nblk =>
    dsimp only [Instr.raw, Hdr.raw] at hr
    cases hr
    exact ⟨decode_of_copy (strm := strm) (fe := fe) rfl rfl rfl hw (by simp [Raw.idle])
      (by simp [Raw.xf, BitVec.extractLsb'_or]), Raw.fits_of_long rfl⟩
  case cpyg h strm dsp ssp fe sc d a ds x =>
    dsimp only [Instr.raw, Hdr.raw] at hr
    cases hr
    exact ⟨decode_of_copy (strm := strm) (fe := fe) rfl rfl rfl hw (by simp [Raw.idle])
      (by simp [Raw.xf, BitVec.extractLsb'_or]), Raw.fits_of_long rfl⟩
  case cpys h strm dsp ssp fe sc d a ds x =>
    dsimp only [Instr.raw, Hdr.raw] at hr
    cases hr
    exact ⟨decode_of_copy (strm := strm) (fe := fe) rfl rfl rfl (by simpa [Raw.xf, BitVec.extractLsb'_or] using (show cpysAssigned dsp ssp fe sc = true from hw)) (by simp [Raw.idle])
      (by simp [Raw.xf, BitVec.extractLsb'_or]), Raw.fits_of_long rfl⟩
  case cpyb h strm dsp ssp fe sc d a ds x =>
    dsimp only [Instr.raw, Hdr.raw] at hr
    cases hr
    exact ⟨decode_of_copy (strm := strm) (fe := fe) rfl rfl rfl hw (by simp [Raw.idle])
      (by simp [Raw.xf, BitVec.extractLsb'_or]), Raw.fits_of_long rfl⟩
  case cpyxSend h strm dsp ssp fe sc d a ds x =>
    dsimp only [Instr.raw, Hdr.raw] at hr
    cases hr
    have hassigned : cpyxAssigned dsp ssp fe sc = true := hw
    refine ⟨?_, Raw.fits_of_long rfl⟩
    change (if Raw.xf _ 12 1 = 0 then decodeCpyxSend _ else decodeCpyxFetch _) = _
    simp [decodeCpyxSend, Raw.form, Raw.xf, hassigned, row4, Raw.assigned, Raw.idle, BitVec.extractLsb'_or, ok_bind]
  case cpyxFetch h strm dsp ssp fe sc d a ds x =>
    dsimp only [Instr.raw, Hdr.raw] at hr
    cases hr
    have hassigned : cpyxAssigned dsp ssp fe sc = true := hw
    refine ⟨?_, Raw.fits_of_long rfl⟩
    change (if Raw.xf _ 12 1 = 0 then decodeCpyxSend _ else decodeCpyxFetch _) = _
    simp [decodeCpyxFetch, Raw.form, Raw.xf, hassigned, row4, Raw.assigned, Raw.idle, BitVec.extractLsb'_or, ok_bind]
  case kmov h v => cases v <;> (cases hr; simp at hlow hop)
  all_goals cases hr
  all_goals simp at hlow hop

theorem reads_spatial_trap {i : Instr} {r : Raw} (hr : i.raw = some r) (hw : WellFormed i = true) (hlow : 0x1F0 ≤ r.opc.toNat) :
    r.instr = .ok i ∧ r.Fits := by
  cases i
  case spleave | spdrain | spstatRect | spstatGen | spstatPos =>
    dsimp only [Instr.raw, Hdr.raw] at hr
    cases hr
    exact ⟨decode_of_mod rfl rfl (Raw.row5_plain rfl nofun rfl (Raw.zero_within _)) (by simp), fun _ => ⟨rfl, rfl, rfl⟩⟩
  case trap | xret | bkpt =>
    dsimp only [Instr.raw, Hdr.raw] at hr
    cases hr
    exact ⟨decode_of_mod rfl rfl (Raw.row5_plain rfl (fun _ => hw) rfl (Raw.zero_within _)) (by simp), fun _ => ⟨rfl, rfl, rfl⟩⟩
  case spenter h t a =>
    dsimp only [Instr.raw, Hdr.raw] at hr
    cases hr
    exact ⟨decode_of_ty (t := t) rfl (by simp) (by exact Raw.row5_plain rfl nofun rfl (Raw.zero_within _)) (by simp),
      fun _ => ⟨rfl, rfl, rfl⟩⟩
  case spstream | spparamBase | spparamExt =>
    dsimp only [Instr.raw, Hdr.raw] at hr
    cases hr
    exact ⟨decode_of_mod (Raw.form_both _) rfl (Raw.row5_immsel nofun rfl rfl) (by simp), Raw.fits_immsel hw rfl rfl rfl⟩
  case halt =>
    dsimp only [Instr.raw, Hdr.raw] at hr
    cases hr
    obtain ⟨hf, hb⟩ := (Bool.and_eq_true _ _).mp hw
    exact ⟨decode_of_mod (Raw.form_both _) rfl (Raw.row5_immsel (fun _ => hf) rfl rfl) (by simp), Raw.fits_immsel hb rfl rfl rfl⟩
  case kmov h v => cases v <;> (cases hr; simp at hlow)
  all_goals cases hr
  all_goals simp at hlow

end Sys2Proof
end

section
namespace Sys2Proof

/-- The words that are not pair words, by their opcodes (Table EC-8). -/
theorem Raw.instr_of_raw {i : Instr} {r : Raw} (hr : i.raw = some r) (hw : WellFormed i = true) : r.instr = .ok i ∧ r.Fits := by
  by_cases hscalar : r.opc.toNat < 0x040
  · exact reads_control hr hw hscalar
  by_cases hinteger : r.opc.toNat < 0x080
  · exact reads_scalar hr hw (by omega) hinteger
  by_cases hfloat : r.opc.toNat < 0x0E0
  · exact reads_lane_integer hr hw (by omega) hfloat
  by_cases hother : r.opc.toNat < 0x160
  · exact reads_lane_float hr hw (by omega) hother
  by_cases hmemory : r.opc.toNat < 0x1A0
  · exact reads_lane_other hr hw (by omega) hmemory
  by_cases harray : r.opc.toNat < 0x1D0
  · exact reads_memory hr hw (by omega) harray
  by_cases hculture : r.opc.toNat < 0x1E0
  · exact reads_array hr hw (by omega) hculture
  by_cases hcopy : r.opc.toNat < 0x1E8
  · exact reads_culture hr (by omega) hcopy
  by_cases hspatial : r.opc.toNat < 0x1F0
  · exact reads_copy hr hw (by omega) hspatial
  exact reads_spatial_trap hr hw (by omega)

end Sys2Proof
namespace Sys2Proof.Machine

theorem exists_pairWord_of_raw_eq_none {i : Instr} (hword : isWord i = true) (hr : i.raw = none) : ∃ p, i = .pairWord p := by
  unfold isWord encode at hword
  split at hword
  next p => exact ⟨p, rfl⟩
  next => simp [hr] at hword

/-- Settles O53: a pair word reads back by its own fields, any other word by those of Table EC-2, whose decoder is that of its
opcode. -/
theorem decodeOfEncode : Obligations.DecodeOfEncode := by
  unfold Obligations.DecodeOfEncode
  intro i rest hword hw
  cases hr : i.raw with
  | some r =>
    obtain ⟨hinstr, hfits⟩ := Raw.instr_of_raw hr hw
    exact decode_of_raw hr hfits hinstr rest
  | none =>
    obtain ⟨p, rfl⟩ := exists_pairWord_of_raw_eq_none hword hr
    exact decode_pairWord hw rest

end Sys2Proof.Machine
end

section
namespace Sys2Proof.Machine

/-! ### What leaves the bytes of global memory alone

One equation per operation of the model that stores no byte, in the order of the model. -/

@[simp] theorem State.ite_mem {p : Prop} [Decidable p] (s t : State) : (if p then s else t).mem = if p then s.mem else t.mem :=
  apply_ite State.mem p s t

theorem State.foldl_mem {α : Type} {f : State → α → State} (hf : ∀ s x, (f s x).mem = s.mem) (s : State) (xs : List α) :
    (xs.foldl f s).mem = s.mem := by
  induction xs generalizing s with
  | nil => rfl
  | cons x xs ih => exact (ih _).trans (hf s x)

@[simp] theorem State.setCurCore_mem (s : State) (x : Core) : (State.setCurCore s x).mem = s.mem := rfl

@[simp] theorem State.updWarp_mem (s : State) (f : Warp → Warp) : (State.updWarp s f).mem = s.mem := by
  unfold State.updWarp
  split <;> simp

@[simp] theorem State.choose_mem (s : State) : s.choose.2.mem = s.mem := by
  unfold State.choose
  split <;> rfl

@[simp] theorem State.free_mem (s : State) : (State.free s).2.mem = s.mem := rfl

@[simp] theorem State.tick_mem (s : State) : (State.tick s).2.mem = s.mem := rfl

@[simp] theorem State.poisonSecs_mem (s : State) (pa n : Nat) : (State.poisonSecs s pa n).mem = s.mem :=
  State.foldl_mem (fun _ _ => by rfl) _ _

@[simp] theorem State.touchSram_mem (s : State) (c : Nat) (gs : List Nat) : (State.touchSram s c gs).mem = s.mem := rfl

@[simp] theorem State.locPoison_mem (s : State) (l : Loc) : (State.locPoison s l).mem = s.mem := by
  unfold State.locPoison
  split <;> simp

@[simp] theorem State.setFull_mem (s : State) (l : Loc) (b : Bool) : (State.setFull s l b).mem = s.mem := by
  unfold State.setFull
  split <;> simp

@[simp] theorem State.mergeLine_mem (s : State) (line : Nat) : (State.mergeLine s line).mem = s.mem :=
  (fabricOnly_mergeLine ..).mem

@[simp] theorem State.setChan_mem (s : State) (src dst ch : Nat) (x : Chan) : (State.setChan s src dst ch x).mem = s.mem := rfl

@[simp] theorem State.setDie_mem (s : State) (d : Nat) (x : DieSt) : (State.setDie s d x).mem = s.mem := rfl

@[simp] theorem State.setLink_mem (s : State) (a b : Nat) (x : LinkSt) : (State.setLink s a b x).mem = s.mem := rfl

@[simp] theorem State.noteSend_mem (s : State) (src dst : Nat) (fs : List FMsg) : (State.noteSend s src dst fs).mem = s.mem :=
  (fabricOnly_noteSend ..).mem

@[simp] theorem State.send_mem (s : State) (src dst line : Nat) (m : Msg) : (State.send s src dst line m).mem = s.mem := by
  unfold State.send
  simp

@[simp] theorem State.refill_mem (s : State) (src dst n : Nat) : (State.refill s src dst n).mem = s.mem :=
  (fabricOnly_refill ..).mem

theorem State.deliver_mem {s t : State} {src dst line : Nat} {m : Msg} (h : s.deliver src dst line m = some t) :
    t.mem = s.mem := by
  unfold State.deliver at h
  dsimp only at h
  split at h
  · cases h
  · split at h
    · cases h
      simp
    · cases h

@[simp] theorem State.stall_mem (s : State) : (State.stall s).mem = s.mem :=
  (fabricOnly_stall ..).mem

@[simp] theorem State.pass_mem (s : State) (src dst : Nat) : (State.pass s src dst).mem = s.mem :=
  (fabricOnly_pass ..).mem

@[simp] theorem State.exchange_mem (s : State) (a b : Nat) : (State.exchange s a b).mem = s.mem :=
  (fabricOnly_exchange ..).mem

@[simp] theorem State.passOn_mem (s : State) (src dst ch : Nat) : (State.passOn s src dst ch).mem = s.mem :=
  (fabricOnly_passOn ..).mem

@[simp] theorem State.setLine_mem (s : State) (line : Nat) (e : LineSt) : (State.setLine s line e).mem = s.mem :=
  (fabricOnly_setLine ..).mem

@[simp] theorem State.setAgent_mem (s : State) (line a : Nat) (x : AgentSt) : (State.setAgent s line a x).mem = s.mem := rfl

@[simp] theorem State.touchL2_mem (s : State) (line : Nat) : (State.touchL2 s line).mem = s.mem :=
  (fabricOnly_touchL2 ..).mem

@[simp] theorem State.l1Drop_mem (s : State) (d line : Nat) (keep : Option Nat) : (State.l1Drop s d line keep).mem = s.mem :=
  (fabricOnly_l1Drop ..).mem

@[simp] theorem State.l1Share_mem (s : State) (d line : Nat) : (State.l1Share s d line).mem = s.mem :=
  (fabricOnly_l1Share ..).mem

@[simp] theorem State.l1Evict_mem (s : State) (c : Nat) (keep : Option Nat) : (State.l1Evict s c keep).mem = s.mem :=
  (fabricOnly_l1Evict ..).mem

@[simp] theorem State.l1Fill_mem (s : State) (c line : Nat) (x : AgentSt) : (State.l1Fill s c line x).mem = s.mem :=
  (fabricOnly_l1Fill ..).mem

@[simp] theorem State.l1Mark_mem (s : State) (c line : Nat) : (State.l1Mark s c line).mem = s.mem :=
  (fabricOnly_l1Mark ..).mem

@[simp] theorem State.hostAccess_mem (s : State) (d sec : Nat) (wr : Bool) : (State.hostAccess s d sec wr).mem = s.mem :=
  (fabricOnly_hostAccess ..).mem

@[simp] theorem State.passSnoop_mem (s : State) (e : LineSt) (h b : Nat) (m : Msg) : (State.passSnoop s e h b m).mem = s.mem :=
  (fabricOnly_passSnoop ..).mem

@[simp] theorem State.homeServes_mem (s : State) (line a : Nat) (r : Req) : (State.homeServes s line a r).mem = s.mem :=
  (fabricOnly_homeServes ..).mem

@[simp] theorem State.transact_mem (s : State) (line a : Nat) (r : Req) : (State.transact s line a r).mem = s.mem :=
  (fabricOnly_transact ..).mem

@[simp] theorem State.lineAccess_mem (s : State) (d line : Nat) (wr : Bool) : (State.lineAccess s d line wr).mem = s.mem :=
  (fabricOnly_lineAccess ..).mem

@[simp] theorem State.homeAccess_mem (s : State) (a line : Nat) : (State.homeAccess s a line).mem = s.mem :=
  (fabricOnly_homeAccess ..).mem

@[simp] theorem State.coreHbm_mem (s : State) (c line : Nat) (wr : Bool) : (State.coreHbm s c line wr).mem = s.mem :=
  (fabricOnly_coreHbm ..).mem

@[simp] theorem State.coreHost_mem (s : State) (c sec : Nat) (wr : Bool) : (State.coreHost s c sec wr).mem = s.mem :=
  (fabricOnly_coreHost ..).mem

@[simp] theorem State.devAccess_mem (s : State) (p : Party) (line : Nat) (x : Access) : (State.devAccess s p line x).mem = s.mem :=
  (fabricOnly_devAccess ..).mem

@[simp] theorem State.hostLine_mem (s : State) (p : Party) (sec : Nat) (x : Access) : (State.hostLine s p sec x).mem = s.mem :=
  (fabricOnly_hostLine ..).mem

@[simp] theorem State.locAccesses_mem (s : State) (p : Party) (ls : List Loc) (n : Nat) (x : Access) :
    (State.locAccesses s p ls n x).mem = s.mem :=
  (fabricOnly_locAccesses ..).mem

@[simp] theorem State.walked_mem (s : State) (c asid va : Nat) : (State.walked s c asid va).mem = s.mem :=
  (fabricOnly_walked ..).mem

@[simp] theorem State.walkedAll_mem (s : State) (c asid : Nat) (eas : List Int) : (State.walkedAll s c asid eas).mem = s.mem :=
  (fabricOnly_walkedAll ..).mem

@[simp] theorem State.walkLoc_mem (s : State) (c asid : Nat) (l : Loc) (ea : Int) : (State.walkLoc s c asid l ea).mem = s.mem :=
  (fabricOnly_walkLoc ..).mem

@[simp] theorem State.l1Evicted_mem (s : State) (c line : Nat) : (State.l1Evicted s c line).mem = s.mem := rfl

@[simp] theorem State.devEvicted_mem (s : State) (d line : Nat) : (State.devEvicted s d line).mem = s.mem :=
  (fabricOnly_devEvicted ..).mem

@[simp] theorem State.hostEvicted_mem (s : State) (d line : Nat) : (State.hostEvicted s d line).mem = s.mem := by
  unfold State.hostEvicted
  simp [State.foldl_mem]

@[simp] theorem State.l2Evicted_mem (s : State) (d line : Nat) : (State.l2Evicted s d line).mem = s.mem := by
  unfold State.l2Evicted
  simp [State.foldl_mem]

@[simp] theorem State.clusterFetch_mem (s : State) (c pa : Nat) : (State.clusterFetch s c pa).mem = s.mem := by
  unfold State.clusterFetch
  simp

@[simp] theorem State.logEvent_mem (s : State) (code src unit : Nat) (data : DWord) :
    (State.logEvent s code src unit data).mem = s.mem := rfl

@[simp] theorem State.logDie_mem (s : State) (code d unit : Nat) (data : DWord) : (State.logDie s code d unit data).mem = s.mem := by
  unfold State.logDie
  simp

@[simp] theorem State.passTo_mem (s : State) (src : Nat) (cores : List Nat) : (State.passTo s src cores).mem = s.mem :=
  (fabricOnly_passTo ..).mem

@[simp] theorem State.raiseIrq_mem (s : State) (q : Nat) : (State.raiseIrq s q).mem = s.mem := by
  unfold State.raiseIrq
  simp

@[simp] theorem State.haltQueue_mem (s : State) (q err det off : Nat) : (State.haltQueue s q err det off).mem = s.mem := by
  unfold State.haltQueue
  simp

@[simp] theorem State.haltQueues_mem (s : State) (asid : Nat) (qs : List Nat) : (State.haltQueues s asid qs).mem = s.mem := by
  induction qs generalizing s with
  | nil => rfl
  | cons q rest ih =>
    unfold State.haltQueues
    exact (ih _).trans (by simp)

@[simp] theorem State.stopGroups_mem (s : State) (asid : Nat) : (State.stopGroups s asid).mem = s.mem := rfl

@[simp] theorem State.flushAt_mem (s : State) (c j : Nat) : (State.flushAt s c j).mem = s.mem := by
  unfold State.flushAt
  split <;> simp

@[simp] theorem State.vtouch_mem (s : State) (c asid va n : Nat) : (State.vtouch s c asid va n).mem = s.mem :=
  (fabricOnly_vtouch ..).mem

@[simp] theorem State.unblockAt_mem (s : State) (c j : Nat) : (State.unblockAt s c j).mem = s.mem := by
  unfold State.unblockAt
  split <;> simp

@[simp] theorem State.unblockWarps_mem (s : State) (c : Nat) (js : List Nat) : (State.unblockWarps s c js).mem = s.mem := by
  unfold State.unblockWarps
  simp [State.foldl_mem]

@[simp] theorem State.completeBar_mem (s : State) (gid b : Nat) : (State.completeBar s gid b).mem = s.mem := by
  unfold State.completeBar
  split <;> simp

@[simp] theorem State.unblockAll_mem (s : State) (ps : List (Nat × Nat)) : (State.unblockAll s ps).mem = s.mem := by
  unfold State.unblockAll
  simp [State.foldl_mem]

@[simp] theorem State.completeCbar_mem (s : State) (lid inst b : Nat) : (State.completeCbar s lid inst b).mem = s.mem := by
  unfold State.completeCbar
  simp

@[simp] theorem State.setModes_mem (s : State) (cores : List Nat) (m : CoreMode) : (State.setModes s cores m).mem = s.mem :=
  State.foldl_mem (fun _ _ => by rfl) _ _

@[simp] theorem State.unpark_mem (s : State) (g : Group) : (State.unpark s g).mem = s.mem := by
  refine State.foldl_mem (fun t p => ?_) _ _
  split <;> rfl

@[simp] theorem State.withdraw_mem (s : State) (w : Warp) : (State.withdraw s w).mem = s.mem := by
  unfold State.withdraw
  split
  · split <;> rfl
  · exact State.foldl_mem (fun _ _ => State.setFull_mem _ _ _) _ _
  · split
    · simp
    · rfl
  · split <;> simp
  · rfl

@[simp] theorem State.rollbackAt_mem (s : State) (c j : Nat) : (State.rollbackAt s c j).mem = s.mem := by
  unfold State.rollbackAt
  split <;> simp

@[simp] theorem State.resumeGen_mem (s : State) (gid : Nat) : (State.resumeGen s gid).mem = s.mem := by
  unfold State.resumeGen
  dsimp only
  (repeat' split) <;> simp

@[simp] theorem State.completeAt_mem (s : State) (c j : Nat) (gid wid ord : Nat) (writes : List Wr) (flag : Option (Fin 12)) :
    (State.completeAt s c j gid wid ord writes flag).mem = s.mem := by
  unfold State.completeAt
  split <;> simp

@[simp] theorem State.completeOf_mem (s : State) (gid wid ord : Nat) (writes : List Wr) (flag : Option (Fin 12)) :
    (State.completeOf s gid wid ord writes flag).mem = s.mem := by
  unfold State.completeOf
  split <;> simp

@[simp] theorem State.bump_mem (s : State) : (State.bump s).mem = s.mem := rfl

@[simp] theorem State.regxGive_mem (s : State) (c : Nat) (ps : List (Nat × Warp × Int × Word)) (pool : List (Nat × Nat)) :
    (State.regxGive s c ps pool).1.mem = s.mem := by
  induction ps generalizing s pool with
  | nil => rfl
  | cons p rest ih =>
    unfold State.regxGive
    dsimp only
    split
    · exact ih _ _
    · exact ih _ _

@[simp] theorem State.regxTake_mem (s : State) (c : Nat) (ps : List (Nat × Warp × Int × Word)) (pool : List (Nat × Nat)) :
    (State.regxTake s c ps pool).mem = s.mem := by
  induction ps generalizing s pool with
  | nil => rfl
  | cons p rest ih =>
    unfold State.regxTake
    dsimp only
    split
    · exact ih _ _
    · exact ih _ _

@[simp] theorem State.flushAll_mem (s : State) (c : Nat) (js : List Nat) : (State.flushAll s c js).mem = s.mem := by
  induction js generalizing s with
  | nil => rfl
  | cons j rest ih => exact (ih _).trans (State.flushAt_mem s c j)

@[simp] theorem BrEnv.touched_mem (e : BrEnv) (n k : Nat) (s : State) : (BrEnv.touched e n k s).mem = s.mem :=
  State.foldl_mem (fun _ _ => State.vtouch_mem _ _ _ _ _) _ _

@[simp] theorem State.freeWarp_mem (s : State) (c j : Nat) : (State.freeWarp s c j).mem = s.mem := by
  unfold State.freeWarp
  dsimp only
  (repeat' split) <;> simp

@[simp] theorem State.completePhases_mem (s : State) (gid : Nat) : (State.completePhases s gid).mem = s.mem := by
  have bars : ((List.range 16).foldl (fun t b => t.completeBar gid b) s).mem = s.mem :=
    State.foldl_mem (fun _ _ => State.completeBar_mem _ _ _) _ _
  unfold State.completePhases
  dsimp only
  split
  · exact bars
  · exact (State.foldl_mem (fun _ _ => State.completeCbar_mem _ _ _ _) _ _).trans bars

@[simp] theorem State.retireWarp_mem (s : State) (c j : Nat) : (State.retireWarp s c j).mem = s.mem := by
  unfold State.retireWarp
  split <;> simp

@[simp] theorem Stk.commit_mem (k : Stk) (f : Warp → Warp) : (k.commit f).mem = k.s.mem := State.updWarp_mem _ _

@[simp] theorem State.jump_mem (s : State) (a : Int) : (State.jump s a).mem = s.mem := by
  unfold State.jump
  simp

@[simp] theorem State.pushLs_mem (s : State) (x : Ctx) (h : Hdr) (writes : List Wr) (locs : List Loc) (err : Bool) (fault : Option Trap) :
    (State.pushLs s x h writes locs err fault).mem = s.mem := by
  unfold State.pushLs
  simp

theorem State.constRead_state_mem (s : State) (la : Launch) (pa n : Nat) : (s.constRead la pa n).2.mem = s.mem := by
  induction n generalizing s pa with
  | zero => rfl
  | succ n ih =>
    unfold State.constRead
    refine (ih _ _).trans ?_
    split
    · rfl
    · exact State.choose_mem s

@[simp] theorem State.constLane_mem (s : State) (w : Warp) (lane n : Nat) (l : Loc) : (State.constLane s w lane n l).2.mem = s.mem := by
  unfold State.constLane
  dsimp only
  split
  · split
    · exact State.constRead_state_mem _ _ _ _
    · rfl
  · rfl

@[simp] theorem State.constLanes_mem (s : State) (w : Warp) (n : Nat) (locs : List (Nat × Loc)) :
    (State.constLanes s w n locs).2.mem = s.mem := by
  have folded (ps : List (Nat × Loc)) (t : State) (gs : List Got) :
      (ps.foldl (fun a p => let r := a.2.constLane w p.1 n p.2; (a.1 ++ [r.1], r.2)) (gs, t)).2.mem = t.mem := by
    induction ps generalizing t gs with
    | nil => rfl
    | cons p rest ih => exact (ih _ _).trans (State.constLane_mem t w p.1 n p.2)
  exact folded locs s []

@[simp] theorem State.lsWalks_mem (s : State) (w : Warp) (sp : Sp) (eas : List Int) : (State.lsWalks s w sp eas).mem = s.mem := by
  unfold State.lsWalks
  simp

@[simp] theorem State.loadLanes_mem (s : State) (w : Warp) (const : Bool) (hint : Hint) (n : Nat) (locs : List (Nat × Loc)) :
    (State.loadLanes s w const hint n locs).2.mem = s.mem := by
  unfold State.loadLanes
  split <;> simp

@[simp] theorem State.cleanLine_mem (s : State) (l : Loc) : (State.cleanLine s l).mem = s.mem := by
  unfold State.cleanLine
  split <;> simp

@[simp] theorem State.dropCode_mem (s : State) (c : Nat) (asid : Nat) (keep : Nat → Bool) :
    (State.dropCode s c asid keep).mem = s.mem := rfl

@[simp] theorem State.serveLanes_mem (s : State) (l : LdfeState) (todo : List (Nat × Loc)) (fuel : Nat) :
    (State.serveLanes s l todo fuel).1.mem = s.mem := by
  induction fuel generalizing s l todo with
  | zero => cases todo <;> rfl
  | succ k ih =>
    cases todo with
    | nil => rfl
    | cons p rest =>
      unfold State.serveLanes
      dsimp only
      split
      · exact (ih _ _ _).trans (by simp)
      · exact ih _ _ _

@[simp] theorem State.ldfeServe_mem (s : State) (c j : Nat) : (State.ldfeServe s c j).mem = s.mem := by
  unfold State.ldfeServe
  dsimp only
  (repeat' split) <;> simp

@[simp] theorem State.pendFault_mem (s : State) (lid gid wid : Nat) (t : Trap) : (State.pendFault s lid gid wid t).mem = s.mem := by
  unfold State.pendFault
  split
  · rfl
  · split <;> rfl

@[simp] theorem State.lsComplete_mem (s : State) (c n : Nat) (err : Bool) : (State.lsComplete s c n err).mem = s.mem := by
  unfold State.lsComplete
  dsimp only
  (repeat' split) <;> simp

@[simp] theorem State.fetchTouch_mem (s : State) (c asid va : Nat) : (State.fetchTouch s c asid va).mem = s.mem := by
  unfold State.fetchTouch
  dsimp only
  (repeat' split) <;> simp

@[simp] theorem State.fetchInto_mem (s : State) (c asid va : Nat) : (State.fetchInto s c asid va).mem = s.mem := by
  unfold State.fetchInto
  split <;> simp

@[simp] theorem State.finishWait_mem (s : State) (c j : Nat) (ws : List Wr) : (State.finishWait s c j ws).mem = s.mem := by
  unfold State.finishWait
  split <;> simp

@[simp] theorem State.gbarPhase_mem (s : State) (lid : Nat) : (State.gbarPhase s lid).mem = s.mem := by
  unfold State.gbarPhase
  dsimp only
  (repeat' split) <;> simp [State.foldl_mem]

@[simp] theorem State.gbarArrive_mem (s : State) (gid : Nat) : (State.gbarArrive s gid).mem = s.mem := by
  unfold State.gbarArrive
  split
  · rfl
  · split
    · rfl
    · split
      · simp
      · rfl

@[simp] theorem State.setHead_mem (s : State) (c : Nat) (strm : Stream) (f : CopyReq → CopyReq) :
    (State.setHead s c strm f).mem = s.mem := by
  unfold State.setHead
  split <;> simp

@[simp] theorem State.copyFail_mem (s : State) (c : Nat) (strm : Stream) (detail : Nat) (addr : Int) (wr : Bool) :
    (State.copyFail s c strm detail addr wr).mem = s.mem := by
  unfold State.copyFail
  split <;> simp

@[simp] theorem State.blockRead_mem (s : State) (d pa : Nat) : (State.blockRead s d pa).mem = s.mem :=
  (fabricOnly_blockRead ..).mem

@[simp] theorem State.copySource_mem (s : State) (c : Nat) (r : CopyReq) (x : CopyElem) (l : Loc) :
    (State.copySource s c r x l).mem = s.mem := by
  unfold State.copySource
  split <;> simp

@[simp] theorem State.setPort_mem (s : State) (p : Nat) (x : Port) : (State.setPort s p x).mem = s.mem := rfl

@[simp] theorem State.sendFlit_mem (s : State) (p : Nat) (m : GMsg) : (State.sendFlit s p m).mem = s.mem := rfl

@[simp] theorem State.copyComplete_mem (s : State) (c : Nat) (strm : Stream) : (State.copyComplete s c strm).mem = s.mem := by
  unfold State.copyComplete
  dsimp only
  (repeat' split) <;> simp

@[simp] theorem State.pushArr_mem (s : State) (w : Warp) (h : Hdr) (op : ArrOp) : (State.pushArr s w h op).mem = s.mem := by
  unfold State.pushArr
  simp

@[simp] theorem State.setArr_mem (s : State) (c n : Nat) (r : ArrReq) : (State.setArr s c n r).mem = s.mem := rfl

@[simp] theorem State.arrDone_mem (s : State) (c n : Nat) (writes : List Wr) (fault : Option Trap) :
    (State.arrDone s c n writes fault).mem = s.mem := by
  unfold State.arrDone
  split <;> simp

@[simp] theorem State.arrComplete_mem (s : State) (c n : Nat) (fw : Bool) : (State.arrComplete s c n fw).mem = s.mem := by
  unfold State.arrComplete
  dsimp only
  (repeat' split) <;> simp

@[simp] theorem State.readThrough_mem (s : State) (p : Party) (tr : Tr) (va n : Nat) : (State.readThrough s p tr va n).mem = s.mem := by
  refine State.foldl_mem (fun t k => ?_) _ _
  split
  · exact State.access_mem _ _ _ _ _
  · rfl

@[simp] theorem State.walkedPages_mem (s : State) (c asid va n : Nat) : (State.walkedPages s c asid va n).mem = s.mem :=
  (fabricOnly_walkedPages ..).mem

@[simp] theorem State.fill_mem (s : State) (c : Nat) (tr : Tr) (va : Nat) (regs : List Nat) (dv dk handle asid : Nat) (scratch : Bool) :
    (State.fill s c tr va regs dv dk handle asid scratch).1.mem = s.mem := by
  unfold State.fill
  dsimp only
  split <;> simp

@[simp] theorem State.bindSlot_mem (s : State) (c gid slot : Nat) (regs : List Nat) (wid : Option Nat) :
    (State.bindSlot s c gid slot regs wid).mem = s.mem := by
  unfold State.bindSlot
  dsimp only
  split <;> simp

@[simp] theorem State.setHandle_mem (s : State) (gid slot handle : Nat) : (State.setHandle s gid slot handle).mem = s.mem := by
  unfold State.setHandle
  split <;> simp

@[simp] theorem State.cultureFill_mem (s : State) (c i : Nat) : (State.cultureFill s c i).mem = s.mem := by
  unfold State.cultureFill
  dsimp only
  (repeat' split) <;> simp

@[simp] theorem State.depart_mem (s : State) (c gid : Nat) : (State.depart s c gid).mem = s.mem := by
  unfold State.depart
  simp

@[simp] theorem State.setFabric_mem (s : State) (gid : Nat) (f : Fabric) : (State.setFabric s gid f).mem = s.mem := rfl

@[simp] theorem State.spResult_mem (s : State) (h : Hdr) (d : Operand) (v : Word) : (State.spResult s h d v).mem = s.mem := by
  unfold State.spResult
  simp

@[simp] theorem State.spLeave_mem (s : State) (c j : Nat) : (State.spLeave s c j).mem = s.mem := by
  unfold State.spLeave
  split
  · rfl
  · split
    · split
      · simp
      · rfl
    · rfl

@[simp] theorem State.spDrained_mem (s : State) (c j : Nat) : (State.spDrained s c j).mem = s.mem := by
  unfold State.spDrained
  split
  · rfl
  · split
    · split
      · simp
      · rfl
    · rfl

@[simp] theorem State.failGen_mem (s : State) (gid : Nat) (f : Fabric) (k : Nat) (g : Gen) : (State.failGen s gid f k g).mem = s.mem := by
  unfold State.failGen
  dsimp only
  (repeat' split) <;> simp

@[simp] theorem State.eoiFire_mem (s : State) (gid i : Nat) : (State.eoiFire s gid i).mem = s.mem := by
  unfold State.eoiFire
  split
  · rfl
  · split
    · rfl
    · split
      · split
        · split <;> rfl
        · rfl
      · split <;> rfl

@[simp] theorem State.roundStart_mem (s : State) (gid k : Nat) : (State.roundStart s gid k).mem = s.mem := by
  unfold State.roundStart
  dsimp only
  (repeat' split) <;> simp

@[simp] theorem State.genRead_mem (s : State) (gid k : Nat) : (State.genRead s gid k).mem = s.mem := by
  unfold State.genRead
  dsimp only
  (repeat' split) <;> simp

@[simp] theorem State.hubWalked_mem (s : State) (space : Option Space) (va : Nat) : (State.hubWalked s space va).mem = s.mem :=
  (fabricOnly_hubWalked ..).mem

@[simp] theorem State.reserve_mem (s : State) (lid : Nat) (l : Launch) (idx : Nat) (cores : List Nat) (p : Place) :
    (State.reserve s lid l idx cores p).mem = s.mem := rfl

@[simp] theorem State.clearFor_mem (s : State) (c gid asid base size : Nat) : (State.clearFor s c gid asid base size).mem = s.mem := by
  unfold State.clearFor
  simp

@[simp] theorem State.clearCores_mem (s : State) (gid : Nat) (g : Group) (asid size : Nat) :
    (State.clearCores s gid g asid size).mem = s.mem := by
  unfold State.clearCores
  simp [State.foldl_mem]

@[simp] theorem State.prepareSlot_mem (s : State) (c gid : Nat) (g : Group) (l : Launch) (t : Nat) (k : Cult) :
    (State.prepareSlot s c gid g l t k).mem = s.mem := by
  unfold State.prepareSlot
  dsimp only
  (repeat' split) <;> simp

@[simp] theorem State.prepare_mem (s : State) (gid : Nat) (g : Group) (l : Launch) : (State.prepare s gid g l).mem = s.mem := by
  unfold State.prepare
  simp [State.foldl_mem]

@[simp] theorem State.updLaunch_mem (s : State) (lid : Nat) (f : Launch → Launch) : (State.updLaunch s lid f).mem = s.mem := by
  unfold State.updLaunch
  split <;> simp

@[simp] theorem State.freshen_mem (s : State) (lid c : Nat) (l : Launch) : (State.freshen s lid c l).mem = s.mem := by
  unfold State.freshen
  simp

@[simp] theorem State.toldStart_mem (s : State) (g : Group) (l : Launch) : (State.toldStart s g l).mem = s.mem :=
  (fabricOnly_toldStart ..).mem

@[simp] theorem State.startGroup_mem (s : State) (gid : Nat) (g : Group) (l : Launch) : (State.startGroup s gid g l).mem = s.mem := by
  have bound (t : State) : (g.binds.foldl (fun a p => a.setCore (g.cores.headD 0) ((a.core (g.cores.headD 0)).setRegions
      ((a.core (g.cores.headD 0)).slotRegions gid p.1) fun o => { o with bound := true, bwarp := p.2 })) t).mem = t.mem :=
    State.foldl_mem (fun _ _ => by rfl) _ _
  have started (t : State) : (g.slots.foldl (fun a p => a.setWarpAt (g.cores.headD 0) p.2
      (Warp.start gid p.1 l.record (g.rows.get (0, 0) p.1) (a.core (g.cores.headD 0)).cycle)) t).mem = t.mem :=
    State.foldl_mem (fun _ _ => by rfl) _ _
  unfold State.startGroup
  dsimp only
  split
  · refine (State.updLaunch_mem _ _ _).trans ((State.setGroup_mem _ _ _).trans ((bound _).trans ?_))
    simp
  · refine (State.updLaunch_mem _ _ _).trans ((State.setGroup_mem _ _ _).trans ((started _).trans ?_))
    simp

@[simp] theorem State.dispatchGroup_mem (s : State) (gid : Nat) : (State.dispatchGroup s gid).mem = s.mem := by
  unfold State.dispatchGroup
  split
  · rfl
  · split
    · rfl
    · split
      · rfl
      · dsimp only
        split
        · refine (State.foldl_mem (fun t p => ?_) _ _).trans (State.prepare_mem _ _ _ _)
          split <;> simp
        · simp

@[simp] theorem State.vacate_mem (s : State) (gid : Nat) (g : Group) : (State.vacate s gid g).mem = s.mem :=
  State.foldl_mem (fun _ _ => by rfl) _ _

@[simp] theorem State.retireGroup_mem (s : State) (gid : Nat) : (State.retireGroup s gid).mem = s.mem := by
  unfold State.retireGroup
  split <;> simp

@[simp] theorem State.setBypass_mem (s : State) (d lid n : Nat) : (State.setBypass s d lid n).mem = s.mem := rfl

@[simp] theorem State.countOn_mem (s t : State) (u : WorkUnit) (e : Nat) : (s.countOn t u e).mem = t.mem := by
  unfold State.countOn
  dsimp only
  split <;> rfl

@[simp] theorem State.countBypass_mem (t s : State) (p : Picked) : (State.countBypass t s p).mem = t.mem :=
  State.foldl_mem (fun _ _ => by simp) _ _

@[simp] theorem State.noteBlocked_mem (s : State) (d : Nat) : (State.noteBlocked s d).mem = s.mem := by
  unfold State.noteBlocked
  split <;> simp

@[simp] theorem State.emptied_mem (s : State) : (State.emptied s).mem = s.mem := by
  unfold State.emptied
  dsimp only

@[simp] theorem State.judge_mem (s : State) (lid : Nat) : (State.judge s lid).mem = s.mem := by
  unfold State.judge
  split <;> simp

@[simp] theorem State.rejudge_mem (s : State) : (State.rejudge s).mem = s.mem := by
  unfold State.rejudge
  simp [State.foldl_mem]

@[simp] theorem State.requestCore_mem (s : State) (c : Nat) (asid : Option Nat) (gs : List (Nat × Group)) (zero : Bool) (arb : Option Nat) :
    (State.requestCore s c asid gs zero arb).mem = s.mem := by
  unfold State.requestCore
  simp

@[simp] theorem State.tellGangs_mem (s0 : State) (c : Nat) (gids : List Nat) : (State.tellGangs s0 c gids).mem = s0.mem := by
  unfold State.tellGangs
  simp

@[simp] theorem State.without_mem (s : State) (cores : List Nat) : (State.without s cores).mem = s.mem :=
  State.foldl_mem (fun _ _ => by rfl) _ _

@[simp] theorem State.resetGroup_mem (s : State) (gid : Nat) (restart : Bool) : (State.resetGroup s gid restart).mem = s.mem := by
  unfold State.resetGroup
  split <;> simp

@[simp] theorem State.reportFrom_mem (s : State) (cores : List Nat) : (State.reportFrom s cores).mem = s.mem :=
  (fabricOnly_reportFrom ..).mem

@[simp] theorem State.rangeRead_mem (s : State) (tr : Tr) (c asid va n : Nat) : (State.rangeRead s tr c asid va n).mem = s.mem := by
  unfold State.rangeRead
  simp

@[simp] theorem State.areasRead_mem (s : State) (tr : Tr) (sp : Space) (c gid asid : Nat) (g : Group) :
    (State.areasRead s tr sp c gid asid g).mem = s.mem := by
  refine State.foldl_mem (fun t p => ?_) _ _
  simp

@[simp] theorem State.unplace_mem (s : State) (g : Group) (l : Launch) : (State.unplace s g l).mem = s.mem := by
  unfold State.unplace
  simp [State.foldl_mem]

@[simp] theorem State.restoreServed_mem (s : State) (gid : Nat) (g : Group) : (State.restoreServed s gid g).mem = s.mem := by
  unfold State.restoreServed
  split <;> simp

@[simp] theorem State.forgetAsid_mem (s0 : State) (a : Nat) : (State.forgetAsid s0 a).mem = s0.mem := by
  unfold State.forgetAsid
  dsimp only
  exact State.foldl_mem (fun _ _ => by simp) _ _

@[simp] theorem State.bindQueue_mem (s0 : State) (q : Nat) (resume : Bool) : (State.bindQueue s0 q resume).1.mem = s0.mem := by
  unfold State.bindQueue
  dsimp only
  (repeat' split) <;> simp

@[simp] theorem State.enableQueue_mem (s : State) (q : Nat) (v : BitVec 32) : (State.enableQueue s q v).mem = s.mem := by
  unfold State.enableQueue
  simp

@[simp] theorem State.disableQueue_mem (s : State) (q : Nat) : (State.disableQueue s q).mem = s.mem := by
  unfold State.disableQueue
  simp

@[simp] theorem State.dropStale_mem (s : State) (q : Nat) : (State.dropStale s q).mem = s.mem := rfl

@[simp] theorem State.advance_mem (s : State) (q : Nat) : (State.advance s q).mem = s.mem := rfl

@[simp] theorem State.closePacket_mem (s : State) (q : Nat) (completed : Bool) : (State.closePacket s q completed).mem = s.mem := rfl

@[simp] theorem State.stopQueue_mem (s : State) (q : Nat) : (State.stopQueue s q).mem = s.mem := rfl

@[simp] theorem State.endPacket_mem (s : State) (q : Nat) (completed irq : Bool) : (State.endPacket s q completed irq).mem = s.mem := by
  unfold State.endPacket
  simp

@[simp] theorem State.failPacket_mem (s : State) (q off err det : Nat) (completed : Bool) :
    (State.failPacket s q off err det completed).mem = s.mem := by
  unfold State.failPacket
  simp

@[simp] theorem State.ringRead_mem (s : State) (q : Nat) : (State.ringRead s q).mem = s.mem := by
  unfold State.ringRead
  simp

theorem State.packet_mem {s : State} {q op : Nat} {run : State → List Byte → State} (hrun : ∀ t b, (run t b).mem = t.mem) :
    (s.packet q op run).mem = s.mem := by
  unfold State.packet
  split
  · rfl
  · simp
  · split
    · simp [hrun]
    · rfl

@[simp] theorem State.refusePacket_mem (s : State) (q err det : Nat) : (State.refusePacket s q err det).mem = s.mem := by
  unfold State.refusePacket
  simp

@[simp] theorem State.waitStep_mem (s : State) (q : Nat) : (State.waitStep s q).mem = s.mem := by
  unfold State.waitStep
  dsimp only
  (repeat' split) <;> simp

@[simp] theorem State.waitExpire_mem (s : State) (q : Nat) : (State.waitExpire s q).mem = s.mem := by
  unfold State.waitExpire
  split <;> simp

@[simp] theorem State.invalidate_mem (s0 : State) (q asid lo n : Nat) : (State.invalidate s0 q asid lo n).mem = s0.mem := by
  unfold State.invalidate
  dsimp only
  exact State.foldl_mem (fun _ _ => by simp) _ _

@[simp] theorem State.inval_mem (s : State) (q : Nat) : (s.inval q).mem = s.mem := by
  unfold State.inval
  dsimp only
  split
  · split <;> simp
  · refine State.packet_mem fun t b => ?_
    split <;> simp

@[simp] theorem State.replies_mem (s : State) (line : Nat) (t : Txn) (m : Msg) : (State.replies s line t m).mem = s.mem := by
  unfold State.replies
  simp

@[simp] theorem State.snoop_mem (s : State) (line b : Nat) (m : Msg) : (s.snoop line b m).mem = s.mem := by
  unfold State.snoop
  dsimp only
  split
  · rfl
  next hd =>
    have hmem := State.deliver_mem hd
    split
    · exact hmem
    · split <;> split <;> simp [hmem]

@[simp] theorem State.takeAck_mem (s : State) (line a : Nat) : (s.takeAck line a).mem = s.mem := by
  unfold State.takeAck
  split
  · rfl
  next hd => simp [State.deliver_mem hd]

@[simp] theorem State.takeGrant_mem (s : State) (line a : Nat) (m : Msg) : (s.takeGrant line a m).mem = s.mem := by
  unfold State.takeGrant
  split
  · rfl
  next hd => simp [State.deliver_mem hd]

@[simp] theorem State.takeReply_mem (s : State) (line a : Nat) (m : Msg) : (s.takeReply line a m).mem = s.mem := by
  unfold State.takeReply
  cases hd : s.deliver (homeOf line) a line m with
  | none => rfl
  | some t => exact State.deliver_mem hd

@[simp] theorem State.errAgent_mem (s : State) (line a : Nat) : (State.errAgent s line a).mem = s.mem := by
  unfold State.errAgent
  simp

@[simp] theorem State.linkSleep_mem (s : State) (a b : Nat) : (State.linkSleep s a b).mem = s.mem := by
  unfold State.linkSleep
  simp

@[simp] theorem State.linkWake_mem (s : State) (a b : Nat) : (State.linkWake s a b).mem = s.mem := by
  unfold State.linkWake
  simp

@[simp] theorem State.linkAwake_mem (s : State) (a b : Nat) : (State.linkAwake s a b).mem = s.mem := by
  unfold State.linkAwake
  simp [State.foldl_mem]

@[simp] theorem State.wakeTimeout_mem (s : State) (a b : Nat) : (State.wakeTimeout s a b).mem = s.mem := by
  unfold State.wakeTimeout
  simp

@[simp] theorem State.dropHomeLine_mem (s : State) (line : Nat) (abrupt : Bool) : (State.dropHomeLine s line abrupt).mem = s.mem := by
  unfold State.dropHomeLine
  simp [State.foldl_mem]

@[simp] theorem State.recallHost_mem (s : State) (line : Nat) : (State.recallHost s line).mem = s.mem := by
  unfold State.recallHost
  simp

@[simp] theorem State.recallHostAll_mem (s : State) (d : Nat) : (State.recallHostAll s d).mem = s.mem := by
  unfold State.recallHostAll
  simp [State.foldl_mem]

@[simp] theorem State.awaySends_mem (s : State) (d line : Nat) (e : LineSt) (dirty abrupt : Bool) :
    (State.awaySends s d line e dirty abrupt).mem = s.mem :=
  (fabricOnly_awaySends ..).mem

@[simp] theorem State.dropMessages_mem (s : State) (d : Nat) : (State.dropMessages s d).mem = s.mem := rfl

@[simp] theorem State.dropHostSectors_mem (s0 : State) (d : Nat) (abrupt : Bool) : (State.dropHostSectors s0 d abrupt).mem = s0.mem := by
  unfold State.dropHostSectors
  dsimp only
  split
  · refine (State.foldl_mem (fun _ _ => by rfl) _ _).trans ?_
    simp
  · simp

@[simp] theorem State.dropCaches_mem (s : State) (d : Nat) : (State.dropCaches s d).mem = s.mem := rfl

@[simp] theorem State.tellOthers_mem (s : State) (d : Nat) : (State.tellOthers s d).mem = s.mem :=
  (fabricOnly_tellOthers ..).mem

@[simp] theorem State.fenceDie_mem (s0 : State) (d : Nat) : (State.fenceDie s0 d).mem = s0.mem :=
  State.tellOthers_mem s0 d

@[simp] theorem State.quiesce_mem (s : State) (d : Nat) : (State.quiesce s d).mem = s.mem := by
  unfold State.quiesce
  simp

theorem State.foldl_setCore_mem (s : State) (f : Nat → Core) (cs : List Nat) :
    (cs.foldl (fun t c => t.setCore c (f c)) s).mem = s.mem := State.foldl_mem (fun _ _ => State.setCore_mem ..) _ _

theorem State.withRelease_mem (s : State) (r : SMap (List Nat)) : ({ s with release := r } : State).mem = s.mem := rfl

@[simp] theorem State.resetCores_mem (s : State) (d : Nat) : (State.resetCores s d).mem = s.mem := by
  unfold State.resetCores
  refine (State.withRelease_mem _ _).trans ?_
  exact State.foldl_setCore_mem s _ _

@[simp] theorem State.resetMemory_mem (s : State) (d : Nat) : (State.resetMemory s d).mem = s.mem := rfl

@[simp] theorem State.retrain_mem (s : State) (d : Nat) : (State.retrain s d).mem = s.mem := by
  unfold State.retrain
  dsimp only
  split
  · rfl
  · rw [State.setDie_mem, State.foldl_mem (fun _ _ => by simp)]
    split
    · rw [State.resetMemory_mem, State.resetCores_mem]
    · rw [State.resetCores_mem]

@[simp] theorem State.admitDie_mem (s : State) (d : Nat) : (State.admitDie s d).mem = s.mem := by
  unfold State.admitDie
  simp [State.foldl_mem]

@[simp] theorem State.readmit_mem (s : State) (d : Nat) : (State.readmit s d).mem = s.mem := by
  unfold State.readmit
  simp

@[simp] theorem State.wakeDie_mem (s : State) (d : Nat) : (State.wakeDie s d).mem = s.mem := by
  unfold State.wakeDie
  simp

@[simp] theorem State.hubAnswers_mem (s0 : State) (sec : Nat) (k : M2S) : (State.hubAnswers s0 sec k).mem = s0.mem := by
  unfold State.hubAnswers
  split <;> simp

@[simp] theorem State.hostDrop_mem (s : State) (d sec : Nat) : (State.hostDrop s d sec).mem = s.mem := by
  unfold State.hostDrop
  simp

@[simp] theorem State.hostSnoop_mem (s : State) (d sec : Nat) (after : AgentSt → AgentSt) :
    (State.hostSnoop s d sec after).mem = s.mem := by
  unfold State.hostSnoop
  simp

@[simp] theorem State.failFlit_mem (s : State) (m : GMsg) : (State.failFlit s m).mem = s.mem := by
  unfold State.failFlit
  dsimp only
  (repeat' split) <;> simp

@[simp] theorem State.portDown_mem (s : State) (p : Nat) : (State.portDown s p).mem = s.mem := by
  unfold State.portDown
  dsimp only
  split
  · rfl
  · refine (State.foldl_mem (fun t q => ?_) _ _).trans (State.setPort_mem _ _ _)
    split
    · split <;> simp
    · rfl

@[simp] theorem State.releaseCluster_mem (s : State) (k : Nat) : (State.releaseCluster s k).mem = s.mem := by
  unfold State.releaseCluster
  simp [State.foldl_mem]

@[simp] theorem State.nextRelease_mem (s : State) : (State.nextRelease s).mem = s.mem := by
  unfold State.nextRelease
  dsimp only
  (repeat' split) <;> simp

@[simp] theorem State.logCorrected_mem (s : State) : (State.logCorrected s).mem = s.mem := by
  unfold State.logCorrected
  simp [State.foldl_mem]

@[simp] theorem State.setUnitErr_mem (s : State) (u : UnitRef) (x : UnitErr) : (State.setUnitErr s u x).mem = s.mem := rfl

@[simp] theorem State.poisonBlock_mem (s : State) (blk : Nat) : (State.poisonBlock s blk).mem = s.mem :=
  State.foldl_mem (fun _ _ => by rfl) _ _

@[simp] theorem State.strike_mem (s : State) (e : ErrSite) : (State.strike s e).mem = s.mem := by
  unfold State.strike
  dsimp only
  (repeat' split) <;> simp

@[simp] theorem State.holdCore_mem (s : State) (c : Nat) : (State.holdCore s c).mem = s.mem := by
  unfold State.holdCore
  simp

@[simp] theorem State.updStep_mem (s : State) (now nxt : UpdStep) (f : List Byte → List Byte) :
    (State.updStep s now nxt f).mem = s.mem := by
  unfold State.updStep
  split <;> simp

@[simp] theorem State.logFirmware_mem (s : State) (b : List Byte) : (State.logFirmware s b).mem = s.mem := rfl

@[simp] theorem State.touchWords_mem (s : State) (c : Nat) (w : Warp) : (State.touchWords s c w).mem = s.mem := by
  unfold State.touchWords
  simp

@[simp] theorem State.issueFrom_mem (s : State) (c j : Nat) : (State.issueFrom s c j).mem = s.mem := rfl

@[simp] theorem State.warpCycle_mem (s : State) (c t j : Nat) : (State.warpCycle s c t j).mem = s.mem := by
  unfold State.warpCycle
  split <;> simp

@[simp] theorem State.attempt_mem {s : State} {f : State → State} (hf : (f s).mem = s.mem) : (s.attempt f).mem = s.mem := by
  unfold State.attempt
  split
  · rfl
  · exact hf

@[simp] theorem State.noticeFences_mem (s : State) (c t : Nat) : (State.noticeFences s c t).mem = s.mem := by
  unfold State.noticeFences
  simp

@[simp] theorem State.queueCycle_mem (s : State) (q : Nat) : (State.queueCycle s q).mem = s.mem := by
  unfold State.queueCycle
  split <;> simp

@[simp] theorem State.hubCycle_mem (s : State) : (State.hubCycle s).mem = s.mem := by
  unfold State.hubCycle
  simp [State.foldl_mem]

@[simp] theorem State.nextTurn_mem (s : State) : (State.nextTurn s).2.mem = s.mem := by
  unfold State.nextTurn
  split <;> simp

end Sys2Proof.Machine
end

section
namespace Sys2Proof.Machine

/-! ### What stores bytes keeps global memory canonical

One lemma per operation of the model that may store a byte, in the order of the model. -/

theorem State.wf_of_mem_eq {s t : State} (e : t.mem = s.mem) (hm : Memory.wf s.mem = true) : Memory.wf t.mem = true := by
  rw [e]
  exact hm

theorem State.wf_foldl {α : Type} {f : State → α → State} (hf : ∀ s x, Memory.wf s.mem = true → Memory.wf (f s x).mem = true)
    {s : State} (hm : Memory.wf s.mem = true) (xs : List α) : Memory.wf (xs.foldl f s).mem = true := by
  induction xs generalizing s with
  | nil => exact hm
  | cons x xs ih => exact ih (hf s x hm)

theorem State.wf_haltContext {s : State} {asid : Nat} {h : HaltInfo}
    (hm : Memory.wf s.mem = true) : Memory.wf (State.haltContext s asid h).mem = true := by
  unfold State.haltContext
  dsimp only
  (repeat' split) <;> simp [hm, Memory.wf_putBytes]

theorem State.wf_enterTrap {s : State} {c j : Nat} {tw : TrapWait}
    (hm : Memory.wf s.mem = true) : Memory.wf (State.enterTrap s c j tw).mem = true := by
  unfold State.enterTrap
  split
  · exact hm
  next w0 _ =>
    dsimp only
    split
    · split
      · exact State.wf_haltContext (by simpa using hm)
      · exact State.wf_haltContext (by simpa using hm)
    · split
      · exact State.wf_haltContext (by simpa using hm)
      next sp _ =>
        split
        · exact State.wf_haltContext (by simpa using hm)
        · split
          · exact State.wf_haltContext (by simpa using hm)
          · split
            · exact State.wf_haltContext (by simpa using hm)
            · split
              · exact State.wf_haltContext (by simpa using hm)
              next hw =>
                have h1 := State.wf_vwrite (by simpa using hm) hw
                exact h1

theorem State.wf_takeTrapAt {s : State} {c j : Nat} {xpc : DWord} {t : Trap}
    (hm : Memory.wf s.mem = true) : Memory.wf (State.takeTrapAt s c j xpc t).mem = true := by
  unfold State.takeTrapAt
  dsimp only
  (repeat' split) <;> simp [hm, State.wf_enterTrap]

theorem State.wf_takeTrap {s : State} {t : Trap} (hm : Memory.wf s.mem = true) : Memory.wf (State.takeTrap s t).mem = true := by
  unfold State.takeTrap
  split <;> simp [hm, State.wf_takeTrapAt]

theorem State.wf_trapWait {s : State} {c j : Nat} {t : Trap}
    (hm : Memory.wf s.mem = true) : Memory.wf (State.trapWait s c j t).mem = true := by
  unfold State.trapWait
  dsimp only
  split <;> simp [hm, State.wf_takeTrapAt]

theorem State.wf_takeWordTrap {s : State} {zeroSteep : Bool} {t : Trap}
    (hm : Memory.wf s.mem = true) : Memory.wf (State.takeWordTrap s zeroSteep t).mem = true := by
  unfold State.takeWordTrap
  simp [hm, State.wf_takeTrap]

theorem State.wf_trapAll {s : State} {c : Nat} {js : List Nat} {t : Trap}
    (hm : Memory.wf s.mem = true) : Memory.wf (State.trapAll s c js t).mem = true := by
  induction js generalizing s with
  | nil => exact hm
  | cons j rest ih => exact ih (State.wf_trapWait hm)

theorem State.wf_regxCommit {s : State} {c j : Nat} (hm : Memory.wf s.mem = true) : Memory.wf (State.regxCommit s c j).mem = true := by
  unfold State.regxCommit
  dsimp only
  (repeat' split) <;> simp [hm, State.wf_trapAll]

theorem State.wf_deliverFault {s : State} {c j : Nat} (hm : Memory.wf s.mem = true) : Memory.wf (State.deliverFault s c j).mem = true := by
  unfold State.deliverFault
  dsimp only
  (repeat' split) <;> simp [hm, State.wf_takeTrapAt, State.wf_trapWait]

theorem State.wf_lsStore {s : State} {full : Bool} {hint : Hint} {ws : List (Nat × Loc × List Byte)}
    (hm : Memory.wf s.mem = true) : Memory.wf (State.lsStore s full hint ws).mem = true := by
  refine State.wf_foldl (fun t p ht => ?_) hm ws
  split
  · exact ht
  · split <;> simp [State.wf_locStore, ht]

theorem State.wf_lsRmw {s : State} {lane n : Nat} {l : Loc} {upd : Nat → Option Nat}
    (hm : Memory.wf s.mem = true) : Memory.wf (State.lsRmw s lane n l upd).1.mem = true := by
  unfold State.lsRmw
  dsimp only
  split <;> simp [hm, State.wf_locWrite]

theorem State.wf_lsRmwAll {s : State} {n : Nat} {locs : List (Nat × Loc)} {upd : Nat → Nat → Option Nat}
    (hm : Memory.wf s.mem = true) : Memory.wf (State.lsRmwAll s n locs upd).1.mem = true := by
  exact List.foldlRecOn (motive := fun p : State × List Got => Memory.wf p.1.mem = true) locs _ hm fun _ hp _ _ => State.wf_lsRmw hp

theorem State.wf_reread {s : State} {c j : Nat} (hm : Memory.wf s.mem = true) : Memory.wf (State.reread s c j).mem = true := by
  unfold State.reread
  dsimp only
  (repeat' split) <;> simp [hm, State.wf_trapWait]

theorem State.wf_tryWait {s : State} {c j : Nat} (hm : Memory.wf s.mem = true) : Memory.wf (State.tryWait s c j).mem = true := by
  unfold State.tryWait
  split
  · exact hm
  · split
    · simpa using hm
    · split <;> simpa using hm
    · simpa using hm
    · exact State.wf_reread hm
    · exact State.wf_reread hm
    · simpa using hm
    · exact State.wf_regxCommit hm
    · exact hm

theorem State.wf_copyPut {s : State} {c : Nat} {l : Loc} {n : Nat} {g : Got}
    (hm : Memory.wf s.mem = true) : Memory.wf (State.copyPut s c l n g).mem = true := by
  unfold State.copyPut
  split <;> simp [hm, State.wf_locStore]

theorem State.wf_copyElement {s : State} {c : Nat} {strm : Stream}
    (hm : Memory.wf s.mem = true) : Memory.wf (State.copyElement s c strm).mem = true := by
  unfold State.copyElement
  dsimp only
  (repeat' split) <;> simp [hm, State.wf_copyPut]

theorem State.wf_copyAnswer {s0 : State} {tag : Nat} {m : GMsg}
    (hm : Memory.wf s0.mem = true) : Memory.wf (State.copyAnswer s0 tag m).mem = true := by
  unfold State.copyAnswer
  dsimp only
  (repeat' split) <;> simp [hm, State.wf_copyPut]

theorem State.wf_gmWrites {s : State} {gid : Nat} {xs : List (Nat × Nat × Nat)}
    (hm : Memory.wf s.mem = true) : Memory.wf (State.gmWrites s gid xs).mem = true := by
  exact State.wf_foldl (fun _ _ ht => State.wf_locWrite ht _ _) hm xs

theorem State.wf_mxEffect {s : State} {c gid : Nat} {o : MxOp} {a : MxArgs}
    (hm : Memory.wf s.mem = true) : Memory.wf (State.mxEffect s c gid o a).1.mem = true := by
  cases o with
  | ast glob =>
    cases glob with
    | true =>
      refine State.wf_foldl (fun q p hq => ?_) hm _
      split
      · exact hq
      · exact State.wf_locStore hq _ _ _
    | false => exact State.wf_gmWrites hm
  | adrn act t bias sat clr regs =>
    cases regs <;> cases clr <;> simp [State.mxEffect, State.wf_gmWrites, hm]
  | smx => exact State.wf_gmWrites (by simpa using hm)
  | smxrRd => exact State.wf_gmWrites hm
  | _ => exact hm

theorem State.wf_mxPerform {s : State} {c gid : Nat} {o : MxOp} {a : MxArgs}
    (hm : Memory.wf s.mem = true) : Memory.wf (State.mxPerform s c gid o a).1.mem = true := by
  unfold State.mxPerform
  split <;> simp [hm, State.wf_mxEffect]

theorem State.wf_putSector {s t : State} {c : Nat} {tr : Tr} {va : Nat} {bs : List Byte} {poison : Bool}
    (hm : Memory.wf s.mem = true) (h : s.putSector c tr va bs poison = .ok t) : Memory.wf t.mem = true := by
  unfold State.putSector at h
  split at h
  · cases h
  · split at h
    · cases h
    · cases h
      split <;> simp [Memory.wf_putBytes, hm]

theorem State.wf_spill {s : State} {c : Nat} {tr : Tr} {va : Nat} {regs : List Nat} {dv dk handle asid : Nat}
    (hm : Memory.wf s.mem = true) : Memory.wf (State.spill s c tr va regs dv dk handle asid).1.mem = true := by
  have sectors (qs : List (Nat × List Byte × Bool)) : Memory.wf (qs.foldl (fun (p : State × Option Nat) q =>
      match p.1.putSector c tr (va + q.1) q.2.1 q.2.2 with
      | .ok s' => (s', p.2)
      | .error _ => (p.1, p.2.orElse fun _ => some (va + q.1))) (s, none)).1.mem = true := by
    refine List.foldlRecOn (motive := fun p : State × Option Nat => Memory.wf p.1.mem = true) qs _ hm fun p hp q _ => ?_
    split
    next h => exact State.wf_putSector hp h
    · exact hp
  unfold State.spill
  dsimp only
  split
  · exact sectors _
  · split
    next h => exact State.wf_putSector (sectors _) h
    · exact sectors _

theorem State.wf_putWords {s : State} {c : Nat} {tr : Tr} {va : Nat} {ws : List Nat}
    (hm : Memory.wf s.mem = true) : Memory.wf (State.putWords s c tr va ws).1.mem = true := by
  refine List.foldlRecOn (motive := fun p : State × Option Nat => Memory.wf p.1.mem = true) _ _ hm fun p hp q _ => ?_
  split
  · exact hp
  · split
    · exact hp
    · exact State.wf_store hp _ _ _ _

theorem State.wf_deltaTokens {s : State} {c gid : Nat} {a : FwArgs} {rec : Bool} {t n : Nat}
    (hm : Memory.wf s.mem = true) : Memory.wf (State.deltaTokens s c gid a rec t n).1.mem = true := by
  induction n generalizing s t with
  | zero => exact hm
  | succ n ih =>
    unfold State.deltaTokens
    refine ih ?_
    split
    · exact State.wf_putWords (by simpa using hm)
    · exact hm

theorem State.wf_dqryTokens {s : State} {c gid : Nat} {a : FwArgs}
    (hm : Memory.wf s.mem = true) : Memory.wf (State.dqryTokens s c gid a).mem = true := by
  exact State.wf_foldl (fun _ _ ht => State.wf_gmWrites ht) hm _

theorem State.wf_swapStep {s : State} {c n : Nat} {r : ArrReq} {h : Nat} {a : FwArgs}
    (hm : Memory.wf s.mem = true) : Memory.wf (State.swapStep s c n r h a).mem = true := by
  unfold State.swapStep
  dsimp only
  (repeat' split) <;> simp [hm, State.wf_spill]

theorem State.wf_fwPerform {s : State} {c n : Nat} {r : ArrReq} {op : FwOp} {a : FwArgs}
    (hm : Memory.wf s.mem = true) : Memory.wf (State.fwPerform s c n r op a).mem = true := by
  unfold State.fwPerform
  dsimp only
  (repeat' split) <;> simp [hm, State.wf_deltaTokens, State.wf_dqryTokens, State.wf_spill, State.wf_swapStep]

theorem State.wf_cultureSpill {s : State} {c i : Nat} (hm : Memory.wf s.mem = true) : Memory.wf (State.cultureSpill s c i).mem = true := by
  unfold State.cultureSpill
  dsimp only
  (repeat' split) <;> simp [hm, State.wf_spill]

theorem State.wf_spCommit {s : State} {c j : Nat} (hm : Memory.wf s.mem = true) : Memory.wf (State.spCommit s c j).mem = true := by
  unfold State.spCommit
  dsimp only
  (repeat' split) <;> simp [hm, State.wf_trapWait]

theorem State.wf_sinkFire {s : State} {gid : Nat} {f : Fabric} {n : Node} {k : Nat} {g : Gen} {t : Tok}
    (hm : Memory.wf s.mem = true) : Memory.wf (State.sinkFire s gid f n k g t).mem = true := by
  unfold State.sinkFire
  dsimp only
  split
  · exact hm
  · exact hm
  · split
    · exact hm
    · split
      · simpa using hm
      · split <;> simp [Memory.wf_putBytes, hm]

theorem State.wf_nodeFire {s : State} {gid i : Nat} (hm : Memory.wf s.mem = true) : Memory.wf (State.nodeFire s gid i).mem = true := by
  unfold State.nodeFire
  split
  · exact hm
  · split
    · exact hm
    · split
      · exact hm
      · split
        · split
          · split
            · exact State.wf_sinkFire hm
            · exact hm
          · exact hm
        · split <;> exact hm

theorem State.wf_deliverGenFault {s : State} {c j : Nat}
    (hm : Memory.wf s.mem = true) : Memory.wf (State.deliverGenFault s c j).mem = true := by
  unfold State.deliverGenFault
  dsimp only
  (repeat' split) <;> simp [hm, State.wf_takeTrapAt, State.wf_trapWait]

theorem State.wf_steepOut {s : State} {c j : Nat} (hm : Memory.wf s.mem = true) : Memory.wf (State.steepOut s c j).mem = true := by
  unfold State.steepOut
  dsimp only
  (repeat' split) <;> simp [hm, State.wf_trapWait]

theorem State.wf_tryAnyWait {s : State} {c j : Nat} (hm : Memory.wf s.mem = true) : Memory.wf (State.tryAnyWait s c j).mem = true := by
  unfold State.tryAnyWait
  split
  · exact State.wf_spCommit hm
  · simpa using hm
  · simpa using hm
  · split
    · exact State.wf_tryWait (by simpa using hm)
    · exact hm
  · exact State.wf_tryWait hm

theorem State.wf_steepExpire {s : State} {c j : Nat} (hm : Memory.wf s.mem = true) : Memory.wf (State.steepExpire s c j).mem = true := by
  unfold State.steepExpire
  dsimp only
  (repeat' split) <;> simp [hm, State.wf_steepOut, State.wf_tryAnyWait]

theorem State.wf_stopGroup {s : State} {gid : Nat} (hm : Memory.wf s.mem = true) : Memory.wf (State.stopGroup s gid).mem = true := by
  unfold State.stopGroup
  split
  · exact hm
  next g _ =>
    split
    · exact hm
    · dsimp only
      have met (t : State) (j : Nat) (ht : Memory.wf t.mem = true) : Memory.wf (match t.warpAt (g.cores.headD 0) j with
          | some w => match w.wait with
            | .bar _ => t.tryWait (g.cores.headD 0) j
            | .cbar _ => t.tryWait (g.cores.headD 0) j
            | .gbar => (t.gbarPhase g.launch).tryWait (g.cores.headD 0) j
            | _ => t
          | none => t).mem = true := by
        split
        · split
          · exact State.wf_tryWait ht
          · exact State.wf_tryWait ht
          · exact State.wf_tryWait (by simpa using ht)
          · exact ht
        · exact ht
      have rolled := State.wf_foldl (f := fun a j => a.rollbackAt (g.cores.headD 0) j) (fun t _ ht => by simpa using ht)
        (State.wf_foldl met hm ((s.warpsOn gid g).map (·.1))) ((s.warpsOn gid g).map (·.1))
      split <;> exact rolled

theorem State.wf_beginSave {s : State} {c n : Nat} (hm : Memory.wf s.mem = true) : Memory.wf (State.beginSave s c n).mem = true := by
  unfold State.beginSave
  dsimp only
  split
  · exact hm
  · exact State.wf_foldl (fun _ _ ht => State.wf_stopGroup ht) (by simpa using hm) _

theorem State.wf_skipDrains {s : State} {c : Nat} (hm : Memory.wf s.mem = true) : Memory.wf (State.skipDrains s c).mem = true := by
  refine State.wf_foldl (fun t n ht => ?_) hm _
  split
  · exact State.wf_beginSave ht
  · exact ht

theorem State.wf_request {s : State} {cores : List Nat} {asid : Option Nat} {zero : Bool} {arb : Option Nat}
    (hm : Memory.wf s.mem = true) : Memory.wf (State.request s cores asid zero arb).mem = true := by
  unfold State.request
  dsimp only
  refine State.wf_foldl (fun _ _ ht => State.wf_skipDrains ht) ?_ _
  simpa [State.foldl_mem] using hm

theorem State.wf_arbitrate {s : State} {d : Nat} (hm : Memory.wf s.mem = true) : Memory.wf (State.arbitrate s d).mem = true := by
  unfold State.arbitrate
  dsimp only
  (repeat' split) <;> simp [hm, State.wf_request]

theorem State.wf_endDrains {s : State} {c : Nat} (hm : Memory.wf s.mem = true) : Memory.wf (State.endDrains s c).mem = true := by
  refine State.wf_foldl (fun t n ht => ?_) hm _
  split
  · exact State.wf_beginSave ht
  · exact ht

theorem State.wf_freeRecord {s : State} {asid i : Nat}
    (hm : Memory.wf s.mem = true) : Memory.wf (State.freeRecord s asid i).mem = true := by
  unfold State.freeRecord
  split
  · exact hm
  · split
    · exact State.wf_store (by simpa using hm) _ _ _ _
    · exact hm

theorem State.wf_resetSaved {s : State} {lid idx : Nat} {restart : Bool}
    (hm : Memory.wf s.mem = true) : Memory.wf (State.resetSaved s lid idx restart).mem = true := by
  unfold State.resetSaved
  split
  · exact hm
  · exact State.wf_foldl (fun _ _ ht => by simpa using State.wf_freeRecord ht) hm _

theorem State.wf_resetGang {s : State} {gid : Nat} (hm : Memory.wf s.mem = true) : Memory.wf (State.resetGang s gid).mem = true := by
  unfold State.resetGang
  split
  · exact hm
  · split
    · exact hm
    · split
      · dsimp only
        refine State.wf_of_mem_eq (State.updLaunch_mem _ _ _) (State.wf_resetSaved ?_)
        simpa [State.foldl_mem] using hm
      · simpa using hm

theorem State.wf_recWrite {s t : State} {c : Nat} {tr : Tr} {base : Nat} {p : Piece} (hm : Memory.wf s.mem = true)
    (h : s.recWrite c tr base p = .ok t) : Memory.wf t.mem = true := by
  suffices hall : ∀ t, s.recWrite c tr base p = .ok t → Memory.wf t.mem = true from hall t h
  refine List.foldlRecOn (motive := fun r : Except Nat State => ∀ t, r = .ok t → Memory.wf t.mem = true) _ _ ?_ fun r hr i _ t h => ?_
  · intro t h
    cases h
    exact hm
  · split at h
    · cases h
    · dsimp only at h
      split at h
      · cases h
      next hput =>
        cases h
        exact State.wf_putSector (hr _ rfl) hput

theorem State.wf_recWriteAll {s t : State} {c : Nat} {tr : Tr} {base : Nat} {ps : List Piece} (hm : Memory.wf s.mem = true)
    (h : s.recWriteAll c tr base ps = .ok t) : Memory.wf t.mem = true := by
  suffices hall : ∀ t, s.recWriteAll c tr base ps = .ok t → Memory.wf t.mem = true from hall t h
  refine List.foldlRecOn (motive := fun r : Except Nat State => ∀ t, r = .ok t → Memory.wf t.mem = true) _ _ ?_ fun r hr i _ t h => ?_
  · intro t h
    cases h
    exact hm
  · split at h
    · cases h
    · exact State.wf_recWrite (hr _ rfl) h

theorem State.wf_writeRecord {s t : State} {gid i : Nat} {g : Group} {l : Launch} {sp : Space} (hm : Memory.wf s.mem = true)
    (h : s.writeRecord gid g l sp = some (t, i)) : Memory.wf t.mem = true := by
  unfold State.writeRecord at h
  dsimp only at h
  split at h
  · cases h
  · split at h
    · cases h
    · split at h
      · cases h
      · split at h
        · cases h
        next hmx =>
          split at h
          · cases h
          next hrec =>
            cases h
            refine State.wf_recWriteAll ?_ hrec
            split at hmx
            · exact State.wf_recWriteAll (by simpa using hm) hmx
            · cases hmx
              simpa using hm

theorem State.wf_boundaryFaults {s : State} {gid : Nat} {g : Group}
    (hm : Memory.wf s.mem = true) : Memory.wf (State.boundaryFaults s gid g).mem = true := by
  refine State.wf_foldl (fun t p ht => ?_) hm _
  refine State.wf_deliverGenFault (State.wf_deliverFault ?_)
  split <;> simpa using ht

theorem State.wf_leaveSaved {s : State} {gid : Nat} {g : Group} {i : Nat}
    (hm : Memory.wf s.mem = true) : Memory.wf (State.leaveSaved s gid g i).mem = true := by
  unfold State.leaveSaved
  dsimp only
  refine State.wf_of_mem_eq (State.updLaunch_mem _ _ _) (State.wf_of_mem_eq (State.vacate_mem _ _ _) ?_)
  exact State.wf_foldl (fun _ _ ht => State.wf_cultureSpill ht) (by simpa using hm) _

theorem State.wf_saveGroup {s : State} {gid : Nat} (hm : Memory.wf s.mem = true) : Memory.wf (State.saveGroup s gid).mem = true := by
  unfold State.saveGroup
  split
  · exact hm
  next g _ =>
    split
    · exact hm
    · dsimp only
      split
      · exact hm
      · split
        · split
          · simpa using hm
          · exact hm
        · split
          · exact State.wf_resetGang hm
          · split
            · exact hm
            · have h1 : Memory.wf (s.boundaryFaults gid g).mem = true := State.wf_boundaryFaults hm
              split
              · split
                next hrec => exact State.wf_leaveSaved (State.wf_writeRecord h1 hrec)
                · exact State.wf_resetGang h1
              · exact State.wf_resetGang h1

theorem State.wf_saveExpire {s : State} {c n : Nat} (hm : Memory.wf s.mem = true) : Memory.wf (State.saveExpire s c n).mem = true := by
  unfold State.saveExpire
  dsimp only
  split
  · exact hm
  · exact State.wf_foldl (fun _ _ ht => State.wf_resetGang ht) hm _

theorem State.wf_budgetCycle {s : State} {c : Nat} (hm : Memory.wf s.mem = true) : Memory.wf (State.budgetCycle s c).mem = true := by
  exact State.wf_foldl (fun _ _ ht => State.wf_resetGang ht) (State.wf_endDrains hm) _

theorem State.wf_recPut {s t : State} {c : Nat} {tr : Tr} {va : Nat} {bs : PBytes} {slot pc : Nat} (hm : Memory.wf s.mem = true)
    (h : s.recPut c tr va bs slot pc = .ok t) : Memory.wf t.mem = true := by
  unfold State.recPut at h
  split at h
  · cases h
  next hrec =>
    cases h
    exact State.wf_recWriteAll hm hrec

theorem State.wf_restoreWarp {s t : State} {rd wr : Tr} {base : Nat} {r : RecShape} {vo : Nat} {sp : Space} {p : WarpPlace}
    {w : WarpHead} (hm : Memory.wf s.mem = true) (h : s.restoreWarp rd wr base r vo sp p w = .ok t) : Memory.wf t.mem = true := by
  unfold State.restoreWarp at h
  dsimp only at h
  split at h
  · split at h
    · cases h
    · split at h
      · cases h
      · split at h
        · cases h
        next hput =>
          have h1 := State.wf_recPut (by split <;> simpa using hm) hput
          split at h
          · cases h
          next htrap =>
            cases h
            split at htrap
            · have h2 := State.wf_recPut (by simpa using h1) htrap
              exact h2
            · cases htrap
              exact h1
  all_goals cases h

theorem State.restoreMem_mem {s t : State} {rd : Tr} {base : Nat} {r : RecShape} {c gbase slot pc : Nat}
    (h : s.restoreMem rd base r c gbase slot pc = .ok t) : t.mem = s.mem := by
  unfold State.restoreMem at h
  dsimp only at h
  split at h
  · cases h
    rfl
  all_goals cases h

/-- The definition is unfolded as a function, so that the kernel does not compare its two matches by reading the record. -/
theorem State.restoreMx_mem {s t : State} {rd : Tr} {va c gid : Nat} {l : Launch} {cult : Nat → Nat} {slot pc : Nat}
    (h : s.restoreMx rd va c gid l cult slot pc = .ok t) : t.mem = s.mem := by
  obtain ⟨restore, hdef⟩ : ∃ restore, restore = @State.restoreMx := ⟨_, rfl⟩
  rw [← hdef] at h
  delta State.restoreMx at hdef
  subst hdef
  beta_reduce at h
  generalize s.recAny rd va 0xC000 slot pc = b, s.recCtl rd (va + 0xC000) 0x4000 slot pc = q at h
  cases b with
  | error => cases h
  | ok b =>
    cases q with
    | error => cases h
    | ok q =>
      dsimp only at h
      split at h
      · cases h
      · split at h
        · cases h
          exact State.setCore_mem ..
        · cases h
          exact (State.setGroup_mem ..).trans (State.setCore_mem ..)

theorem State.restoreSpatial_mem {s t : State} {rd : Tr} {va gid : Nat} {g : Group} {l : Launch} {size slot pc : Nat}
    (h : s.restoreSpatial rd va gid g l size slot pc = .ok t) : t.mem = s.mem := by
  unfold State.restoreSpatial at h
  dsimp only at h
  split at h
  · cases h
    rfl
  · split at h
    · cases h
    · cases h
    · split at h
      · cases h
      · split at h
        · cases h
        · cases h
          simp

theorem State.wf_restoreWarps {s : State} {rd wr : Tr} {base : Nat} {r : RecShape} {sp : Space} {place : Nat → WarpPlace}
    {n wid vo : Nat} {p : State × Nat × SMap Nat} (hm : Memory.wf s.mem = true)
    (h : s.restoreWarps rd wr base r sp place n wid vo = .ok p) : Memory.wf p.1.mem = true := by
  induction n generalizing s wid vo p with
  | zero =>
    cases h
    exact hm
  | succ n ih =>
    unfold State.restoreWarps at h
    dsimp only at h
    split at h
    · cases h
    · split at h
      · cases h
      next s1 hone =>
        have h1 : Memory.wf s1.mem = true := by
          split at hone
          · cases hone
            exact hm
          · split at hone
            · cases hone
            · exact State.wf_restoreWarp hm hone
        split at h
        · cases h
        next hrest =>
          cases h
          have h2 := ih h1 hrest
          exact h2

theorem State.wf_restoreGroup {s t : State} {gid : Nat} {g : Group} {l : Launch} {sv : SavedGroup} (hm : Memory.wf s.mem = true)
    (h : s.restoreGroup gid g l sv = .ok t) : Memory.wf t.mem = true := by
  unfold State.restoreGroup at h
  dsimp only at h
  split at h
  · cases h
  · split at h
    · cases h
    · split at h
      · cases h
      · split at h
        · cases h
        next hspat =>
          have h0 := State.wf_of_mem_eq (State.restoreSpatial_mem hspat) (by simpa using hm)
          split at h
          · cases h
          next hwarps =>
            have h1 := State.wf_restoreWarps h0 hwarps
            split at h
            · cases h
            · split at h
              · cases h
              next hmem =>
                have h2 := State.wf_of_mem_eq (State.restoreMem_mem hmem) h1
                split at h
                · cases h
                next s3 hmx =>
                  have h3 : Memory.wf s3.mem = true := by
                    split at hmx
                    · cases hmx
                      exact h2
                    · exact State.wf_of_mem_eq (State.restoreMx_mem hmx) (by simpa using h2)
                  split at h
                  · cases h
                  · cases h
                    simpa using h3

theorem State.wf_restoreAll {s t : State} {lid : Nat} {l : Launch} {idxs : List Nat} (hm : Memory.wf s.mem = true)
    (h : s.restoreAll lid l idxs = .ok t) : Memory.wf t.mem = true := by
  induction idxs generalizing s with
  | nil =>
    cases h
    exact hm
  | cons i rest ih =>
    unfold State.restoreAll at h
    split at h
    · split at h
      · cases h
      next hgroup => exact ih (State.wf_restoreGroup hm hgroup) h
    · exact ih hm h

theorem State.placeOne_mem {s t : State} {lid idx : Nat} {l : Launch} {dies : NSet} (h : s.placeOne lid l dies idx = some t) :
    t.mem = s.mem := by
  unfold State.placeOne at h
  dsimp only at h
  split at h
  · cases h
  · obtain ⟨q, _, rfl⟩ := Option.map_eq_some_iff.mp h
    simp

theorem State.placeRanks_mem {s t : State} {lid k p : Nat} {l : Launch} {evict : Bool} {idxs : List Nat}
    (h : s.placeRanks lid l k evict idxs p = some t) : t.mem = s.mem := by
  induction idxs generalizing s p with
  | nil =>
    cases h
    rfl
  | cons i rest ih =>
    unfold State.placeRanks at h
    split at h
    · cases h
    · obtain ⟨x, _, hx⟩ := Option.bind_eq_some_iff.mp h
      exact (ih hx).trans (by simp)

theorem State.placeInstance_mem {s t : State} {lid : Nat} {l : Launch} {dies : NSet} {idxs : List Nat}
    (h : s.placeInstance lid l dies idxs = some t) : t.mem = s.mem := by
  have tried {ks : List Nat} {evict : Bool} (hk : (ks.findSome? fun k => s.placeRanks lid l k evict idxs 0) = some t) :
      t.mem = s.mem := by
    obtain ⟨k, _, hk'⟩ := List.exists_of_findSome?_eq_some hk
    exact State.placeRanks_mem hk'
  unfold State.placeInstance at h
  dsimp only at h
  split at h
  · cases h
  · rcases (Option.orElse_eq_some _ _ _).mp h with hk | ⟨_, h⟩
    · exact tried hk
    · rcases (Option.orElse_eq_some _ _ _).mp h with hk | ⟨_, h⟩
      · exact tried hk
      · split at h
        · cases h
        · exact tried h

theorem State.placeSet_mem {s t : State} {lid : Nat} {l : Launch} {dies : NSet} {idxs : List Nat}
    (h : s.placeSet lid l dies idxs = some t) : t.mem = s.mem := by
  have placed {place : State → Nat → Option State} (hp : ∀ {q i u}, place q i = some u → u.mem = q.mem) (is : List Nat) :
      ∀ u, is.foldl (fun (a : Option State) i => a.bind fun q => place q i) (some s) = some u → u.mem = s.mem := by
    refine List.foldlRecOn (motive := fun r : Option State => ∀ u, r = some u → u.mem = s.mem) _ _ ?_ fun r hr i _ u hu => ?_
    · intro u hu
      cases hu
      rfl
    · obtain ⟨q, rfl, hq⟩ := Option.bind_eq_some_iff.mp hu
      exact (hp hq).trans (hr q rfl)
  unfold State.placeSet at h
  dsimp only at h
  split at h
  · exact placed State.placeOne_mem _ t h
  · exact placed State.placeInstance_mem _ t h

theorem State.pickFrom_mem {s : State} {d fuel : Nat} {us : List WorkUnit} {p : Picked} (h : s.pickFrom d us fuel = some p) :
    p.after.mem = s.mem := by
  induction fuel generalizing us with
  | zero => cases us <;> cases h
  | succ k ih =>
    cases us with
    | nil => cases h
    | cons u rest =>
      unfold State.pickFrom at h
      split at h
      next hw =>
        split at h
        · cases h
        · split at h
          · exact ih h
          · cases h
            unfold State.placeWork at hw
            split at hw
            · cases hw
            · exact State.placeSet_mem hw
      · exact ih h

theorem State.wf_resume {s0 : State} {d : Nat} (hm : Memory.wf s0.mem = true) : Memory.wf (State.resume s0 d).mem = true := by
  unfold State.resume
  dsimp only
  have h0 : Memory.wf (s0.noteBlocked d).mem = true := by simpa using hm
  split
  · exact h0
  next p hpick =>
    have hafter : Memory.wf p.after.mem = true := State.wf_of_mem_eq (State.pickFrom_mem hpick) h0
    split
    · exact h0
    · split
      · exact h0
      · split
        next hall =>
          simp only [State.countBypass_mem]
          refine State.wf_foldl (fun t i ht => ?_) (State.wf_restoreAll hafter hall) _
          split
          · simpa using State.wf_freeRecord ht
          · exact ht
        · exact h0
        · exact State.wf_haltContext h0
        · split
          · simpa using State.wf_resetSaved h0
          · split
            · simpa using State.wf_freeRecord h0
            · exact h0

theorem State.wf_hubWrites {s : State} {space : Option Space} {ws : List (Nat × List Byte)}
    (hm : Memory.wf s.mem = true) : Memory.wf (State.hubWrites s space ws).1.mem = true := by
  induction ws generalizing s with
  | nil => exact hm
  | cons p rest ih =>
    unfold State.hubWrites
    split
    · simpa using hm
    · exact ih (State.wf_store (by simpa using hm) _ _ _ _)

theorem State.wf_killAsid {s0 : State} {a : Nat} (hm : Memory.wf s0.mem = true) : Memory.wf (State.killAsid s0 a).mem = true := by
  have told : Memory.wf ((List.range 4).foldl (fun t d => t.exchange 4 d) s0).mem = true :=
    State.wf_foldl (fun _ _ ht => by simpa using ht) hm _
  have reset (gids : List Nat) := State.wf_foldl (f := fun t g => t.resetGroup g false) (fun _ _ ht => by simpa using ht) told gids
  unfold State.killAsid
  dsimp only
  refine State.wf_foldl (fun t q ht => by simpa using ht) ?_ _
  dsimp only
  refine State.wf_foldl (fun t lid ht => ?_) (reset _) _
  split
  next l _ =>
    refine State.wf_of_mem_eq (State.updLaunch_mem _ _ _) ?_
    exact State.wf_foldl (fun u p hu => State.wf_freeRecord (s := u) (asid := a) (i := p.2.rec_) hu) ht l.saved
  · exact ht

theorem State.wf_hostStore {s : State} {r : Req} (hm : Memory.wf s.mem = true) : Memory.wf (State.hostStore s r).mem = true := by
  unfold State.hostStore
  split <;> simp [hm, State.wf_memWrite]

theorem State.wf_finishTxn {s : State} {line : Nat} {t : Txn} {alone : Bool}
    (hm : Memory.wf s.mem = true) : Memory.wf (State.finishTxn s line t alone).mem = true := by
  unfold State.finishTxn
  simp [hm, State.wf_hostStore]

theorem State.wf_serve {s : State} {line a : Nat} {r : Req}
    (hm : Memory.wf s.mem = true) : Memory.wf (State.serve s line a r).mem = true := by
  unfold State.serve
  dsimp only
  split
  · split
    · split
      · exact State.wf_finishTxn (by simpa using hm)
      · exact State.wf_foldl (fun _ _ ht => by simpa using ht) (by simpa using hm) _
    · exact hm
  · exact hm

theorem State.wf_advanceTxn {s : State} {line : Nat} (hm : Memory.wf s.mem = true) : Memory.wf (State.advanceTxn s line).mem = true := by
  unfold State.advanceTxn
  split
  · exact hm
  · split
    · exact State.wf_finishTxn hm
    · exact hm

theorem State.wf_answered {s : State} {line b : Nat} {m : Msg}
    (hm : Memory.wf s.mem = true) : Memory.wf (State.answered s line b m).mem = true := by
  unfold State.answered
  dsimp only
  (repeat' split) <;> simp [hm, State.wf_advanceTxn]

theorem State.wf_writeBack {s : State} {line b : Nat} (hm : Memory.wf s.mem = true) : Memory.wf (State.writeBack s line b).mem = true := by
  unfold State.writeBack
  dsimp only
  (repeat' split) <;> simp [hm, State.wf_advanceTxn]

theorem State.wf_ask {s : State} {line a : Nat} {r : Req} (hm : Memory.wf s.mem = true) : Memory.wf (State.ask s line a r).mem = true := by
  unfold State.ask
  dsimp only
  split
  · exact hm
  · split
    · split
      next hd =>
        split at hd
        · cases hd
        · simpa [State.deliver_mem hd] using hm
      · exact State.wf_serve hm
    · split
      · exact hm
      · split
        · simpa using hm
        · exact hm

theorem State.wf_takeAnswer {s : State} {line a : Nat} {m : Msg}
    (hm : Memory.wf s.mem = true) : Memory.wf (State.takeAnswer s line a m).mem = true := by
  unfold State.takeAnswer
  split
  · exact hm
  next hd => exact State.wf_answered (State.wf_of_mem_eq (State.deliver_mem hd) hm)

theorem State.wf_wbD {s : State} {line a : Nat} (hm : Memory.wf s.mem = true) : Memory.wf (State.wbD s line a).mem = true := by
  unfold State.wbD
  dsimp only
  split
  next hd => exact State.wf_writeBack (State.wf_of_mem_eq (State.deliver_mem hd) hm)
  · simpa using hm

theorem State.wf_dropAwayLine {s0 : State} {d line : Nat} {abrupt : Bool}
    (hm : Memory.wf s0.mem = true) : Memory.wf (State.dropAwayLine s0 d line abrupt).mem = true := by
  unfold State.dropAwayLine
  simp [hm, State.wf_advanceTxn]

theorem State.wf_cleanDie {s : State} {d : Nat} {abrupt : Bool}
    (hm : Memory.wf s.mem = true) : Memory.wf (State.cleanDie s d abrupt).mem = true := by
  unfold State.cleanDie
  dsimp only
  simp only [State.dropCaches_mem, State.dropHostSectors_mem]
  refine State.wf_foldl (fun t k ht => ?_) (by simpa using hm) _
  split
  · simpa using ht
  · exact State.wf_dropAwayLine ht

theorem State.wf_loseGroup {s : State} {gid : Nat} (hm : Memory.wf s.mem = true) : Memory.wf (State.loseGroup s gid).mem = true := by
  unfold State.loseGroup
  dsimp only
  (repeat' split) <;> simp [hm, State.wf_resetSaved]

theorem State.wf_loseGrid {s : State} {lid : Nat} (hm : Memory.wf s.mem = true) : Memory.wf (State.loseGrid s lid).mem = true := by
  unfold State.loseGrid
  split
  · exact hm
  · dsimp only
    split
    · exact State.wf_resetSaved (by simpa [State.foldl_mem] using hm)
    · exact State.wf_of_mem_eq (State.updLaunch_mem _ _ _) (State.wf_resetSaved (by simpa [State.foldl_mem] using hm))

theorem State.wf_loseDie {s : State} {d : Nat} (hm : Memory.wf s.mem = true) : Memory.wf (State.loseDie s d).mem = true := by
  exact State.wf_foldl (fun _ _ ht => State.wf_loseGrid ht) (State.wf_foldl (fun _ _ ht => State.wf_loseGroup ht) hm _) _

theorem State.wf_beginReset {s : State} {d : Nat} {gate : Bool}
    (hm : Memory.wf s.mem = true) : Memory.wf (State.beginReset s d gate).mem = true := by
  unfold State.beginReset
  split <;> simp [hm, State.wf_request]

theorem State.wf_cleanup {s : State} {d : Nat} (hm : Memory.wf s.mem = true) : Memory.wf (State.cleanup s d).mem = true := by
  unfold State.cleanup
  dsimp only
  split
  · exact hm
  split
  · split
    · rw [State.setDie_mem]
      split
      · exact hm
      · rwa [State.recallHostAll_mem]
    · exact hm
  split
  · split
    · exact hm
    · have hclean : Memory.wf (s.cleanDie d (s.die d).abrupt).mem = true := State.wf_cleanDie hm
      generalize s.cleanDie d (s.die d).abrupt = s1 at hclean ⊢
      split
      · rwa [State.setDie_mem, State.resetCores_mem]
      · rwa [State.setDie_mem]
  · exact hm

theorem State.wf_abruptReset {s : State} {d : Nat} (hm : Memory.wf s.mem = true) : Memory.wf (State.abruptReset s d).mem = true := by
  unfold State.abruptReset
  dsimp only
  (repeat' split) <;> simp [hm, State.wf_loseDie]

theorem State.hostReply_mem {s t : State} {line : Nat} {m : Msg} (h : s.hostReply line = some (m, t)) : t.mem = s.mem := by
  obtain ⟨n, _, hn⟩ := List.exists_of_findSome?_eq_some h
  obtain ⟨u, hu, he⟩ := Option.map_eq_some_iff.mp hn
  cases he
  exact State.deliver_mem hu

theorem State.wf_hostPut {s : State} {sec : Nat} {data : Option (List Byte)} {poison : Bool}
    (hm : Memory.wf s.mem = true) : Memory.wf (State.hostPut s sec data poison).mem = true := by
  unfold State.hostPut
  split <;> simp [hm, State.wf_memWrite]

theorem State.wf_hostGets {s : State} {sec : Nat} {excl : Bool} {data : Option (List Byte)}
    (hm : Memory.wf s.mem = true) : Memory.wf (State.hostGets s sec excl data).mem = true := by
  unfold State.hostGets
  simp [hm, State.wf_hostPut]

theorem State.wf_hostTakes {s : State} {sec : Nat} {m : Msg} {k : M2S}
    (hm : Memory.wf s.mem = true) : Memory.wf (State.hostTakes s sec m k).mem = true := by
  unfold State.hostTakes
  split <;> simp [hm, State.wf_hostGets]

theorem State.wf_hostWrites {s : State} {sec : Nat} {bs : List Byte} {p : Bool}
    (hm : Memory.wf s.mem = true) : Memory.wf (State.hostWrites s sec bs p).mem = true := by
  unfold State.hostWrites
  dsimp only
  split <;> simp [hm, State.wf_hostPut]

theorem State.wf_m2s {s : State} {sec : Nat} {k : M2S} (hm : Memory.wf s.mem = true) : Memory.wf (State.m2s s sec k).mem = true := by
  unfold State.m2s
  dsimp only
  split
  · exact hm
  · split
    next hreply => exact State.wf_hostTakes (State.wf_of_mem_eq (State.hostReply_mem hreply) hm)
    · split
      · simpa using hm
      · split
        · exact State.wf_ask hm
        · split
          · exact State.wf_ask hm
          · split
            · exact hm
            · split
              · exact State.wf_hostWrites hm
              · simpa using hm
              · simpa using hm
              · exact State.wf_hostGets hm
              · exact State.wf_hostGets hm
              · exact State.wf_hostGets hm
              · simpa using hm
              · simpa using hm
              · simpa using hm
              · exact State.wf_hostGets hm
              · exact State.wf_hostGets hm
              · exact hm

theorem State.wf_biData {s : State} {sec : Nat} {data : Option (List Byte)}
    (hm : Memory.wf s.mem = true) : Memory.wf (State.biData s sec data).mem = true := by
  unfold State.biData
  split <;> simp [hm, State.wf_hostPut]

theorem State.wf_biRsp {s : State} {sec : Nat} {keep : Bool} {data : Option (List Byte)}
    (hm : Memory.wf s.mem = true) : Memory.wf (State.biRsp s sec keep data).mem = true := by
  unfold State.biRsp
  dsimp only
  (repeat' split) <;> simp [hm, State.wf_answered, State.wf_biData]

theorem State.wf_flitIn {s : State} {p : Nat} {seq ack : Nat} {crcOk nack : Bool} {m : Option GMsg}
    (hm : Memory.wf s.mem = true) : Memory.wf (State.flitIn s p seq ack crcOk nack m).mem = true := by
  unfold State.flitIn
  dsimp only
  (repeat' split) <;> simp [hm, State.wf_copyAnswer]

theorem State.wf_peerWrite {s : State} {pa : Nat} {bs : List Byte} {poison : Bool}
    (hm : Memory.wf s.mem = true) : Memory.wf (State.peerWrite s pa bs poison).mem = true := by
  unfold State.peerWrite
  split <;> simp [hm, Memory.wf_putBytes]

theorem State.wf_peerAccess {s : State} {p : Nat} (hm : Memory.wf s.mem = true) : Memory.wf (State.peerAccess s p).mem = true := by
  unfold State.peerAccess
  dsimp only
  (repeat' split) <;> simp [hm, State.wf_peerWrite]

theorem State.wf_controlDie {s : State} {d : Nat} {r : Reading}
    (hm : Memory.wf s.mem = true) : Memory.wf (State.controlDie s d r).mem = true := by
  unfold State.controlDie
  dsimp only
  (repeat' split) <;> simp [hm, State.wf_beginReset]

theorem State.wf_writeDctl {s : State} {d : Nat} {v : DWord}
    (hm : Memory.wf s.mem = true) : Memory.wf (State.writeDctl s d v).mem = true := by
  unfold State.writeDctl
  split <;> simp [hm, State.wf_beginReset]

theorem State.wf_writeReg {s : State} {off : Nat} {v : DWord}
    (hm : Memory.wf s.mem = true) : Memory.wf (State.writeReg s off v).mem = true := by
  unfold State.writeReg
  dsimp only
  (repeat' split) <;> simp [hm, State.wf_writeDctl]

theorem State.wf_fenceUnit {s : State} {u : UnitRef} (hm : Memory.wf s.mem = true) : Memory.wf (State.fenceUnit s u).mem = true := by
  unfold State.fenceUnit
  dsimp only
  split <;> simp [hm, State.wf_request]

theorem State.wf_attempt {s : State} {f : State → State} (hm : Memory.wf s.mem = true) (hf : Memory.wf (f s).mem = true) :
    Memory.wf (s.attempt f).mem = true := by
  unfold State.attempt
  split
  · exact hm
  · exact hf

theorem State.wf_waitCycle {s : State} {c t j : Nat} (hm : Memory.wf s.mem = true) : Memory.wf (State.waitCycle s c t j).mem = true := by
  unfold State.waitCycle
  dsimp only
  have h1 : Memory.wf (if s.rereadDue c t j then s.attempt fun a => a.reread c j else s).mem = true := by
    split
    · exact State.wf_attempt hm (State.wf_reread hm)
    · exact hm
  generalize (if s.rereadDue c t j then s.attempt fun a => a.reread c j else s) = s1 at h1 ⊢
  split
  · split
    · exact State.wf_attempt h1 (State.wf_steepExpire h1)
    · exact h1
  · exact h1

theorem State.wf_coreCycle {s : State} {c : Nat} (hm : Memory.wf s.mem = true) : Memory.wf (State.coreCycle s c).mem = true := by
  unfold State.coreCycle
  dsimp only
  split
  · exact hm
  · have waited := State.wf_foldl (f := fun a j => a.waitCycle c ((s.core c).cycle + 1) j) (fun _ _ ht => State.wf_waitCycle ht)
      (State.wf_foldl (f := fun a j => a.warpCycle c ((s.core c).cycle + 1) j) (fun _ _ ht => by simpa using ht)
        (s := (s.setCore c { (s.core c).acceptAll with cycle := (s.core c).cycle + 1, issued := [] }).noticeFences c ((s.core c).cycle + 1))
        (by simpa using hm) ((s.core c).warps.map (·.1))) ((s.core c).warps.map (·.1))
    exact State.wf_attempt waited (State.wf_budgetCycle waited)

theorem State.wf_dieCycle {s : State} {d : Nat} (hm : Memory.wf s.mem = true) : Memory.wf (State.dieCycle s d).mem = true := by
  unfold State.dieCycle
  split
  · exact State.wf_foldl (fun _ _ ht => State.wf_coreCycle ht) (by simpa [State.foldl_mem] using hm) _
  · exact hm

end Sys2Proof.Machine
end

section
namespace Sys2Proof.Machine

/-- An outcome that goes on keeps global memory canonical. -/
def KeepsCanonical (o : Host.Outcome State Fault Refusal) : Prop := ∀ t, o = .next t → Memory.wf t.mem = true

@[simp] theorem keepsCanonical_next (t : State) : KeepsCanonical (.next t) ↔ Memory.wf t.mem = true :=
  ⟨fun h => h t rfl, fun h _ e => by cases e; exact h⟩

@[simp] theorem keepsCanonical_refused (r : Refusal) : KeepsCanonical (.refused r) := fun _ e => by
  cases e

@[simp] theorem keepsCanonical_fault (f : Fault) : KeepsCanonical (.fault f) := fun _ e => by
  cases e

theorem State.keepsCanonical_bar0 {s t : State} (hs : Memory.wf s.mem = true) (ht : Memory.wf t.mem = true) : KeepsCanonical (s.bar0 t) := by
  unfold State.bar0
  split <;> simpa

theorem State.keepsCanonical_spdm {s : State} {v : BitVec 8} {r : Reply} (hm : Memory.wf s.mem = true) : KeepsCanonical (s.spdm v r) :=
  (keepsCanonical_next _).mpr hm

theorem State.wf_packet {s : State} {q op : Nat} {run : State → List Byte → State} (hm : Memory.wf s.mem = true)
    (hrun : ∀ t b, Memory.wf t.mem = true → Memory.wf (run t b).mem = true) : Memory.wf (s.packet q op run).mem = true := by
  unfold State.packet
  split
  · exact hm
  · simpa using hm
  · split
    · exact hrun _ _ (by simpa using hm)
    · exact hm

theorem State.wf_coldReset {s : State} {found : Bool} (hm : Memory.wf s.mem = true) : Memory.wf (s.coldReset found).mem = true := by
  unfold State.coldReset
  dsimp only
  split <;> exact Memory.wf_filter _ hm

theorem keepsCanonical_execVariableAluCompletion {c j : Nat} {s : State}
    (hm : Memory.wf s.mem = true) : KeepsCanonical (execVariableAluCompletion c j s) := by
  unfold execVariableAluCompletion
  dsimp only
  (repeat' split) <;> simp [hm]

theorem keepsCanonical_execRegxCommit {c j : Nat} {s : State}
    (hm : Memory.wf s.mem = true) : KeepsCanonical (execRegxCommit c j s) := by
  unfold execRegxCommit
  simp [hm, State.wf_regxCommit]

theorem keepsCanonical_execTrapEntry {c j : Nat} {s : State} (hm : Memory.wf s.mem = true) : KeepsCanonical (execTrapEntry c j s) := by
  unfold execTrapEntry
  (repeat' split) <;> simp [hm, State.wf_enterTrap]

theorem keepsCanonical_execLdfeServe {c j : Nat} {s : State} (hm : Memory.wf s.mem = true) : KeepsCanonical (execLdfeServe c j s) := by
  unfold execLdfeServe
  simp [hm]

theorem keepsCanonical_execLsCompletion {c n : Nat} {s : State}
    (hm : Memory.wf s.mem = true) : KeepsCanonical (execLsCompletion c n s) := by
  unfold execLsCompletion
  simp [hm]

theorem keepsCanonical_execInstructionFetch {c j : Nat} {va : BitVec 57} {s : State}
    (hm : Memory.wf s.mem = true) : KeepsCanonical (execInstructionFetch c j va s) := by
  unfold execInstructionFetch
  split <;> simp [hm]

theorem keepsCanonical_execPageWalk {c : Nat} {asid : BitVec 12} {va : BitVec 57} {s : State}
    (hm : Memory.wf s.mem = true) : KeepsCanonical (execPageWalk c asid va s) := by
  unfold execPageWalk
  dsimp only
  (repeat' split) <;> simp [hm]

theorem keepsCanonical_execBarrierPhaseComplete {gid : Nat} {b : BitVec 4} {s : State}
    (hm : Memory.wf s.mem = true) : KeepsCanonical (execBarrierPhaseComplete gid b s) := by
  unfold execBarrierPhaseComplete
  simp [hm]

theorem keepsCanonical_execWaitmReread {c j : Nat} {s : State}
    (hm : Memory.wf s.mem = true) : KeepsCanonical (execWaitmReread c j s) := by
  unfold execWaitmReread
  simp [hm, State.wf_reread]

theorem keepsCanonical_execCbarPhaseComplete {lid inst : Nat} {b : BitVec 2} {s : State}
    (hm : Memory.wf s.mem = true) : KeepsCanonical (execCbarPhaseComplete lid inst b s) := by
  unfold execCbarPhaseComplete
  simp [hm]

theorem keepsCanonical_execGbarCompletion {lid c : Nat} {s : State}
    (hm : Memory.wf s.mem = true) : KeepsCanonical (execGbarCompletion lid c s) := by
  exact (keepsCanonical_next _).mpr (by simpa [State.foldl_mem] using hm)

theorem keepsCanonical_execCopyElement {c : Nat} {strm : Stream} {s : State}
    (hm : Memory.wf s.mem = true) : KeepsCanonical (execCopyElement c strm s) := by
  unfold execCopyElement
  simp [hm, State.wf_copyElement]

theorem keepsCanonical_execCopyGranuleFull {c : Nat} {strm : Stream} {n : Nat} {s : State}
    (hm : Memory.wf s.mem = true) : KeepsCanonical (execCopyGranuleFull c strm n s) := by
  unfold execCopyGranuleFull
  (repeat' split) <;> simp [hm]

theorem keepsCanonical_execCopyRequestCompletion {c : Nat} {strm : Stream} {s : State}
    (hm : Memory.wf s.mem = true) : KeepsCanonical (execCopyRequestCompletion c strm s) := by
  unfold execCopyRequestCompletion
  simp [hm]

theorem keepsCanonical_execBlockMerge {line : BitVec 34} {s : State}
    (hm : Memory.wf s.mem = true) : KeepsCanonical (execBlockMerge line s) := by
  unfold execBlockMerge
  simp [hm]

theorem keepsCanonical_execArrayRequestAccept {c n : Nat} {s : State}
    (hm : Memory.wf s.mem = true) : KeepsCanonical (execArrayRequestAccept c n s) := by
  unfold execArrayRequestAccept
  (repeat' split) <;> simp [hm]

theorem keepsCanonical_execMatrixRequestCompletion {c n : Nat} {s : State}
    (hm : Memory.wf s.mem = true) : KeepsCanonical (execMatrixRequestCompletion c n s) := by
  unfold execMatrixRequestCompletion
  simp [hm]

theorem keepsCanonical_execAccumulatorPortAccess {c n : Nat} {s : State}
    (hm : Memory.wf s.mem = true) : KeepsCanonical (execAccumulatorPortAccess c n s) := by
  unfold execAccumulatorPortAccess
  dsimp only
  (repeat' split) <;> simp [hm, State.wf_fwPerform, State.wf_mxPerform]

theorem keepsCanonical_execFwRequestCompletion {c n : Nat} {s : State}
    (hm : Memory.wf s.mem = true) : KeepsCanonical (execFwRequestCompletion c n s) := by
  unfold execFwRequestCompletion
  simp [hm]

theorem keepsCanonical_execCultureSpill {c : Nat} {i : BitVec 4} {s : State}
    (hm : Memory.wf s.mem = true) : KeepsCanonical (execCultureSpill c i s) := by
  unfold execCultureSpill
  simp [hm, State.wf_cultureSpill]

theorem keepsCanonical_execCultureFill {c : Nat} {i : BitVec 4} {s : State}
    (hm : Memory.wf s.mem = true) : KeepsCanonical (execCultureFill c i s) := by
  unfold execCultureFill
  simp [hm]

theorem keepsCanonical_execCultureEviction {c : Nat} {i : BitVec 4} {s : State}
    (hm : Memory.wf s.mem = true) : KeepsCanonical (execCultureEviction c i s) := by
  unfold execCultureEviction
  dsimp only
  split <;> simp [hm]

theorem keepsCanonical_execSpenterCommit {c j : Nat} {s : State}
    (hm : Memory.wf s.mem = true) : KeepsCanonical (execSpenterCommit c j s) := by
  unfold execSpenterCommit
  simp [hm, State.wf_spCommit]

theorem keepsCanonical_execSpleaveCommit {c j : Nat} {s : State}
    (hm : Memory.wf s.mem = true) : KeepsCanonical (execSpleaveCommit c j s) := by
  unfold execSpleaveCommit
  simp [hm]

theorem keepsCanonical_execSpdrainComplete {c j : Nat} {s : State}
    (hm : Memory.wf s.mem = true) : KeepsCanonical (execSpdrainComplete c j s) := by
  unfold execSpdrainComplete
  simp [hm]

theorem keepsCanonical_execNodeFiring {gid i : Nat} {s : State}
    (hm : Memory.wf s.mem = true) : KeepsCanonical (execNodeFiring gid i s) := by
  unfold execNodeFiring
  simp [hm, State.wf_nodeFire]

theorem keepsCanonical_execEoiFiring {gid i : Nat} {s : State}
    (hm : Memory.wf s.mem = true) : KeepsCanonical (execEoiFiring gid i s) := by
  unfold execEoiFiring
  simp [hm]

theorem keepsCanonical_execGeneratorRoundStart {gid k : Nat} {s : State}
    (hm : Memory.wf s.mem = true) : KeepsCanonical (execGeneratorRoundStart gid k s) := by
  unfold execGeneratorRoundStart
  simp [hm]

theorem keepsCanonical_execGenElementRead {gid k : Nat} {s : State}
    (hm : Memory.wf s.mem = true) : KeepsCanonical (execGenElementRead gid k s) := by
  unfold execGenElementRead
  simp [hm]

theorem keepsCanonical_execSteepTimerExpiry {c j : Nat} {s : State}
    (hm : Memory.wf s.mem = true) : KeepsCanonical (execSteepTimerExpiry c j s) := by
  unfold execSteepTimerExpiry
  simp [hm, State.wf_steepExpire]

theorem keepsCanonical_execGroupDispatch {gid : Nat} {s : State}
    (hm : Memory.wf s.mem = true) : KeepsCanonical (execGroupDispatch gid s) := by
  unfold execGroupDispatch
  simp [hm]

theorem keepsCanonical_execGroupDeparture {gid : Nat} {s : State}
    (hm : Memory.wf s.mem = true) : KeepsCanonical (execGroupDeparture gid s) := by
  unfold execGroupDeparture
  dsimp only
  (repeat' split) <;> simp [hm]

theorem keepsCanonical_execGroupRetire {gid : Nat} {s : State}
    (hm : Memory.wf s.mem = true) : KeepsCanonical (execGroupRetire gid s) := by
  unfold execGroupRetire
  simp [hm]

theorem keepsCanonical_execPreemptionRequest {d : BitVec 2} {s : State}
    (hm : Memory.wf s.mem = true) : KeepsCanonical (execPreemptionRequest d s) := by
  unfold execPreemptionRequest
  simp [hm, State.wf_arbitrate]

theorem keepsCanonical_execDrainBudgetExpiry {c n : Nat} {s : State}
    (hm : Memory.wf s.mem = true) : KeepsCanonical (execDrainBudgetExpiry c n s) := by
  unfold execDrainBudgetExpiry
  dsimp only
  (repeat' split) <;> simp [hm, State.wf_beginSave]

theorem keepsCanonical_execGroupSave {gid : Nat} {s : State} (hm : Memory.wf s.mem = true) : KeepsCanonical (execGroupSave gid s) := by
  unfold execGroupSave
  simp [hm, State.wf_saveGroup]

theorem keepsCanonical_execSaveBudgetExpiry {c n : Nat} {s : State}
    (hm : Memory.wf s.mem = true) : KeepsCanonical (execSaveBudgetExpiry c n s) := by
  unfold execSaveBudgetExpiry
  simp [hm, State.wf_saveExpire]

theorem keepsCanonical_execGroupResume {d : BitVec 2} {s : State}
    (hm : Memory.wf s.mem = true) : KeepsCanonical (execGroupResume d s) := by
  unfold execGroupResume
  simp [hm, State.wf_resume]

theorem keepsCanonical_execQcfgEnableSet {q : BitVec 7} {v : BitVec 32} {s : State}
    (hm : Memory.wf s.mem = true) : KeepsCanonical (execQcfgEnableSet q v s) := by
  unfold execQcfgEnableSet
  simp [hm, State.keepsCanonical_bar0]

theorem keepsCanonical_execQcfgEnableClear {q : BitVec 7} {v : BitVec 32} {s : State}
    (hm : Memory.wf s.mem = true) : KeepsCanonical (execQcfgEnableClear q v s) := by
  unfold execQcfgEnableClear
  dsimp only
  split <;> simp [hm, State.keepsCanonical_bar0]

theorem keepsCanonical_execQwpWrite {q : BitVec 7} {v : BitVec 32} {s : State}
    (hm : Memory.wf s.mem = true) : KeepsCanonical (execQwpWrite q v s) := by
  unfold execQwpWrite
  dsimp only
  split <;> simp [hm, State.keepsCanonical_bar0]

theorem keepsCanonical_execQctlReset {q : BitVec 7} {s : State} (hm : Memory.wf s.mem = true) : KeepsCanonical (execQctlReset q s) := by
  unfold execQctlReset
  simp [hm, State.keepsCanonical_bar0]

theorem keepsCanonical_execQctlResume {q : BitVec 7} {s : State}
    (hm : Memory.wf s.mem = true) : KeepsCanonical (execQctlResume q s) := by
  unfold execQctlResume
  dsimp only
  split <;> simp [hm, State.keepsCanonical_bar0]

theorem keepsCanonical_execQstatIrqClear {q : BitVec 7} {s : State}
    (hm : Memory.wf s.mem = true) : KeepsCanonical (execQstatIrqClear q s) := by
  unfold execQstatIrqClear
  simp [hm, State.keepsCanonical_bar0]

theorem keepsCanonical_execNopPacket {q : BitVec 7} {s : State} (hm : Memory.wf s.mem = true) : KeepsCanonical (execNopPacket q s) := by
  exact (keepsCanonical_next _).mpr (State.wf_packet hm fun t b ht => by simpa using ht)

theorem keepsCanonical_execWaitPacket {q : BitVec 7} {s : State}
    (hm : Memory.wf s.mem = true) : KeepsCanonical (execWaitPacket q s) := by
  refine (keepsCanonical_next _).mpr (State.wf_packet hm fun t b ht => ?_)
  split <;> simpa using ht

theorem keepsCanonical_execWaitReread {q : BitVec 7} {s : State}
    (hm : Memory.wf s.mem = true) : KeepsCanonical (execWaitReread q s) := by
  unfold execWaitReread
  simp [hm]

theorem keepsCanonical_execWaitTimeout {q : BitVec 7} {s : State}
    (hm : Memory.wf s.mem = true) : KeepsCanonical (execWaitTimeout q s) := by
  unfold execWaitTimeout
  simp [hm]

theorem keepsCanonical_execSignal {q : BitVec 7} {s : State} (hm : Memory.wf s.mem = true) : KeepsCanonical (execSignal q s) := by
  refine (keepsCanonical_next _).mpr (State.wf_packet hm fun t b ht => ?_)
  dsimp only
  split
  · simpa using ht
  · split <;> simp [Memory.wf_putBytes, ht]

theorem keepsCanonical_execInval {q : BitVec 7} {s : State} (hm : Memory.wf s.mem = true) : KeepsCanonical (execInval q s) := by
  unfold execInval
  simp [hm]

theorem keepsCanonical_execIflush {q : BitVec 7} {s : State} (hm : Memory.wf s.mem = true) : KeepsCanonical (execIflush q s) := by
  refine (keepsCanonical_next _).mpr (State.wf_packet hm fun t b ht => State.wf_of_mem_eq (State.endPacket_mem _ _ _ _) ?_)
  have told (ds : List Nat) := State.wf_foldl (f := fun a d => a.exchange 4 d) (s := t.advance q.toNat) (fun _ _ h => by simpa using h)
    (by simpa using ht) ds
  exact State.wf_foldl (fun _ _ h => by simpa using h) (told _) _

theorem keepsCanonical_execLaunch {q : BitVec 7} {s : State} (hm : Memory.wf s.mem = true) : KeepsCanonical (execLaunch q s) := by
  refine (keepsCanonical_next _).mpr (State.wf_packet hm fun t b ht => ?_)
  dsimp only
  split
  · simpa using ht
  · split
    · simpa using ht
    · split <;> simpa using ht

theorem keepsCanonical_execLaunchAdmission {d : BitVec 2} {s : State}
    (hm : Memory.wf s.mem = true) : KeepsCanonical (execLaunchAdmission d s) := by
  have h0 : Memory.wf (s.noteBlocked d.toNat).mem = true := by simpa using hm
  unfold execLaunchAdmission
  dsimp only
  split
  · exact (keepsCanonical_next _).mpr h0
  next p hpick =>
    have hafter : Memory.wf p.after.mem = true := State.wf_of_mem_eq (State.pickFrom_mem hpick) h0
    split
    · exact (keepsCanonical_next _).mpr h0
    · exact (keepsCanonical_next _).mpr (by simpa using hafter)

theorem keepsCanonical_execChunkRequest {lid : Nat} {d : BitVec 2} {s : State}
    (hm : Memory.wf s.mem = true) : KeepsCanonical (execChunkRequest lid d s) := by
  unfold execChunkRequest
  dsimp only
  (repeat' split) <;> simp [hm]

theorem keepsCanonical_execGrantAcknowledged {lid n : Nat} {s : State}
    (hm : Memory.wf s.mem = true) : KeepsCanonical (execGrantAcknowledged lid n s) := by
  unfold execGrantAcknowledged
  (repeat' split) <;> simpa [State.foldl_mem] using hm

theorem keepsCanonical_execLaunchCompletion {lid : Nat} {s : State}
    (hm : Memory.wf s.mem = true) : KeepsCanonical (execLaunchCompletion lid s) := by
  unfold execLaunchCompletion
  dsimp only
  (repeat' split) <;> simp [hm, State.wf_hubWrites]

theorem keepsCanonical_execPreqPreempt {asid : BitVec 12} {all : Bool} {core : BitVec 9} {s : State}
    (hm : Memory.wf s.mem = true) : KeepsCanonical (execPreqPreempt asid all core s) := by
  unfold execPreqPreempt
  simp [hm, State.wf_request, State.keepsCanonical_bar0]

theorem keepsCanonical_execPreqPreemptHold {asid : BitVec 12} {all : Bool} {core : BitVec 9} {s : State}
    (hm : Memory.wf s.mem = true) : KeepsCanonical (execPreqPreemptHold asid all core s) := by
  unfold execPreqPreemptHold
  simp [hm, State.wf_request, State.keepsCanonical_bar0]

theorem keepsCanonical_execPreqReleaseHold {asid : BitVec 12} {s : State}
    (hm : Memory.wf s.mem = true) : KeepsCanonical (execPreqReleaseHold asid s) := by
  unfold execPreqReleaseHold
  simp [hm, State.keepsCanonical_bar0]

theorem keepsCanonical_execPreqKill {asid : BitVec 12} {s : State}
    (hm : Memory.wf s.mem = true) : KeepsCanonical (execPreqKill asid s) := by
  unfold execPreqKill
  simp [hm, State.wf_killAsid, State.keepsCanonical_bar0]

theorem keepsCanonical_execRds {line : BitVec 34} {a : BitVec 2} {s : State}
    (hm : Memory.wf s.mem = true) : KeepsCanonical (execRds line a s) := by
  unfold execRds
  simp [hm, State.wf_ask]

theorem keepsCanonical_execRdx {line : BitVec 34} {a : BitVec 2} {s : State}
    (hm : Memory.wf s.mem = true) : KeepsCanonical (execRdx line a s) := by
  unfold execRdx
  simp [hm, State.wf_ask]

theorem keepsCanonical_execUpg {line : BitVec 34} {a : BitVec 2} {s : State}
    (hm : Memory.wf s.mem = true) : KeepsCanonical (execUpg line a s) := by
  unfold execUpg
  simp [hm, State.wf_ask]

theorem keepsCanonical_execAtomRequest {line : BitVec 34} {a : BitVec 2} {ret : Bool} {s : State}
    (hm : Memory.wf s.mem = true) : KeepsCanonical (execAtomRequest line a ret s) := by
  unfold execAtomRequest
  simp [hm, State.wf_ask]

theorem keepsCanonical_execBlk {line : BitVec 34} {a : BitVec 2} {s : State}
    (hm : Memory.wf s.mem = true) : KeepsCanonical (execBlk line a s) := by
  unfold execBlk
  simp [hm, State.wf_ask]

theorem keepsCanonical_execFlush {line : BitVec 34} {a : BitVec 2} {s : State}
    (hm : Memory.wf s.mem = true) : KeepsCanonical (execFlush line a s) := by
  unfold execFlush
  simp [hm, State.wf_ask]

theorem keepsCanonical_execSnps {line : BitVec 34} {a : BitVec 3} {s : State}
    (hm : Memory.wf s.mem = true) : KeepsCanonical (execSnps line a s) := by
  unfold execSnps
  simp [hm]

theorem keepsCanonical_execSnpc {line : BitVec 34} {a : BitVec 3} {s : State}
    (hm : Memory.wf s.mem = true) : KeepsCanonical (execSnpc line a s) := by
  unfold execSnpc
  simp [hm]

theorem keepsCanonical_execSnpi {line : BitVec 34} {a : BitVec 3} {s : State}
    (hm : Memory.wf s.mem = true) : KeepsCanonical (execSnpi line a s) := by
  unfold execSnpi
  simp [hm]

theorem keepsCanonical_execRspi {line : BitVec 34} {a : BitVec 2} {s : State}
    (hm : Memory.wf s.mem = true) : KeepsCanonical (execRspi line a s) := by
  unfold execRspi
  simp [hm, State.wf_takeAnswer]

theorem keepsCanonical_execRsps {line : BitVec 34} {a : BitVec 2} {s : State}
    (hm : Memory.wf s.mem = true) : KeepsCanonical (execRsps line a s) := by
  unfold execRsps
  simp [hm, State.wf_takeAnswer]

theorem keepsCanonical_execRspwbp {line : BitVec 34} {a : BitVec 2} {s : State}
    (hm : Memory.wf s.mem = true) : KeepsCanonical (execRspwbp line a s) := by
  unfold execRspwbp
  simp [hm, State.wf_takeAnswer]

theorem keepsCanonical_execSnpd {line : BitVec 34} {a : BitVec 2} {s : State}
    (hm : Memory.wf s.mem = true) : KeepsCanonical (execSnpd line a s) := by
  unfold execSnpd
  simp [hm, State.wf_takeAnswer]

theorem keepsCanonical_execAck {line : BitVec 34} {a : BitVec 3} {s : State}
    (hm : Memory.wf s.mem = true) : KeepsCanonical (execAck line a s) := by
  unfold execAck
  simp [hm]

theorem keepsCanonical_execWbd {line : BitVec 34} {a : BitVec 2} {s : State}
    (hm : Memory.wf s.mem = true) : KeepsCanonical (execWbd line a s) := by
  unfold execWbd
  simp [hm, State.wf_wbD]

theorem keepsCanonical_execGntx {line : BitVec 34} {a : BitVec 2} {s : State}
    (hm : Memory.wf s.mem = true) : KeepsCanonical (execGntx line a s) := by
  unfold execGntx
  simp [hm]

theorem keepsCanonical_execDats {line : BitVec 34} {a : BitVec 2} {s : State}
    (hm : Memory.wf s.mem = true) : KeepsCanonical (execDats line a s) := by
  unfold execDats
  simp [hm]

theorem keepsCanonical_execDate {line : BitVec 34} {a : BitVec 2} {s : State}
    (hm : Memory.wf s.mem = true) : KeepsCanonical (execDate line a s) := by
  unfold execDate
  simp [hm]

theorem keepsCanonical_execDatm {line : BitVec 34} {a : BitVec 2} {s : State}
    (hm : Memory.wf s.mem = true) : KeepsCanonical (execDatm line a s) := by
  unfold execDatm
  simp [hm]

theorem keepsCanonical_execCmp {line : BitVec 34} {a : BitVec 2} {s : State}
    (hm : Memory.wf s.mem = true) : KeepsCanonical (execCmp line a s) := by
  unfold execCmp
  simp [hm]

theorem keepsCanonical_execAtomd {line : BitVec 34} {a : BitVec 2} {s : State}
    (hm : Memory.wf s.mem = true) : KeepsCanonical (execAtomd line a s) := by
  unfold execAtomd
  simp [hm]

theorem keepsCanonical_execWback {line : BitVec 34} {a : BitVec 2} {s : State}
    (hm : Memory.wf s.mem = true) : KeepsCanonical (execWback line a s) := by
  unfold execWback
  split
  · exact (keepsCanonical_next _).mpr hm
  next hd => split <;> simpa [State.deliver_mem hd] using hm

theorem keepsCanonical_execErr {t : ErrTarget} {s : State} (hm : Memory.wf s.mem = true) : KeepsCanonical (execErr t s) := by
  unfold execErr
  split <;> simp [hm]

theorem keepsCanonical_execLinkSleep {a b : BitVec 3} {s : State}
    (hm : Memory.wf s.mem = true) : KeepsCanonical (execLinkSleep a b s) := by
  unfold execLinkSleep
  simp [hm]

theorem keepsCanonical_execLinkWake {a b : BitVec 3} {s : State}
    (hm : Memory.wf s.mem = true) : KeepsCanonical (execLinkWake a b s) := by
  unfold execLinkWake
  simp [hm]

theorem keepsCanonical_execLinkAwake {a b : BitVec 3} {s : State}
    (hm : Memory.wf s.mem = true) : KeepsCanonical (execLinkAwake a b s) := by
  unfold execLinkAwake
  simp [hm]

theorem keepsCanonical_execWakeTimeout {a b : BitVec 3} {s : State}
    (hm : Memory.wf s.mem = true) : KeepsCanonical (execWakeTimeout a b s) := by
  unfold execWakeTimeout
  simp [hm]

theorem keepsCanonical_execDctlWarmReset {d : BitVec 2} {s : State}
    (hm : Memory.wf s.mem = true) : KeepsCanonical (execDctlWarmReset d s) := by
  unfold execDctlWarmReset
  simp [hm, State.wf_beginReset]

theorem keepsCanonical_execDctlGate {d : BitVec 2} {s : State} (hm : Memory.wf s.mem = true) : KeepsCanonical (execDctlGate d s) := by
  unfold execDctlGate
  simp [hm, State.wf_beginReset]

theorem keepsCanonical_execWarmResetQuiesce {d : BitVec 2} {s : State}
    (hm : Memory.wf s.mem = true) : KeepsCanonical (execWarmResetQuiesce d s) := by
  unfold execWarmResetQuiesce
  simp [hm]

theorem keepsCanonical_execWarmResetCleanup {d : BitVec 2} {s : State}
    (hm : Memory.wf s.mem = true) : KeepsCanonical (execWarmResetCleanup d s) := by
  unfold execWarmResetCleanup
  simp [hm, State.wf_cleanup]

theorem keepsCanonical_execPlannedResetTimeout {d : BitVec 2} {s : State}
    (hm : Memory.wf s.mem = true) : KeepsCanonical (execPlannedResetTimeout d s) := by
  unfold execPlannedResetTimeout
  dsimp only
  split <;> simp [hm]

theorem keepsCanonical_execAbruptWarmReset {d : BitVec 2} {s : State}
    (hm : Memory.wf s.mem = true) : KeepsCanonical (execAbruptWarmReset d s) := by
  unfold execAbruptWarmReset
  simp [hm, State.wf_abruptReset]

theorem keepsCanonical_execWarmResetRetrain {d : BitVec 2} {s : State}
    (hm : Memory.wf s.mem = true) : KeepsCanonical (execWarmResetRetrain d s) := by
  unfold execWarmResetRetrain
  simp [hm]

theorem keepsCanonical_execWarmResetReadmit {d : BitVec 2} {s : State}
    (hm : Memory.wf s.mem = true) : KeepsCanonical (execWarmResetReadmit d s) := by
  unfold execWarmResetReadmit
  simp [hm]

theorem keepsCanonical_execDctlWake {d : BitVec 2} {s : State} (hm : Memory.wf s.mem = true) : KeepsCanonical (execDctlWake d s) := by
  unfold execDctlWake
  simp [hm]

theorem keepsCanonical_execDeadDieDetection {d : BitVec 2} {s : State}
    (hm : Memory.wf s.mem = true) : KeepsCanonical (execDeadDieDetection d s) := by
  unfold execDeadDieDetection
  dsimp only
  split <;> simp [hm, State.wf_abruptReset]

theorem keepsCanonical_execLinkWakeFailureReport {a b : BitVec 2} {s : State}
    (hm : Memory.wf s.mem = true) : KeepsCanonical (execLinkWakeFailureReport a b s) := by
  unfold execLinkWakeFailureReport
  dsimp only
  split <;> simp [hm, State.wf_abruptReset]

theorem keepsCanonical_execHostM2sRequest {sec : BitVec 35} {k : M2S} {s : State}
    (hm : Memory.wf s.mem = true) : KeepsCanonical (execHostM2sRequest sec k s) := by
  unfold execHostM2sRequest
  simp [hm, State.wf_m2s]

theorem keepsCanonical_execBirsp {sec : BitVec 35} {keep : Bool} {data : Option (List Byte)} {s : State}
    (hm : Memory.wf s.mem = true) : KeepsCanonical (execBirsp sec keep data s) := by
  unfold execBirsp
  simp [hm, State.wf_biRsp]

theorem keepsCanonical_execCxlCacheResponse {d : BitVec 2} {sec : BitVec 46} {k : D2H} {s : State}
    (hm : Memory.wf s.mem = true) : KeepsCanonical (execCxlCacheResponse d sec k s) := by
  unfold execCxlCacheResponse
  dsimp only
  (repeat' split) <;> simp [hm]

theorem keepsCanonical_execHostSnpdata {d : BitVec 2} {sec : BitVec 46} {s : State}
    (hm : Memory.wf s.mem = true) : KeepsCanonical (execHostSnpdata d sec s) := by
  unfold execHostSnpdata
  simp [hm]

theorem keepsCanonical_execHostSnpinv {d : BitVec 2} {sec : BitVec 46} {data : Option (List Byte)} {s : State}
    (hm : Memory.wf s.mem = true) : KeepsCanonical (execHostSnpinv d sec data s) := by
  unfold execHostSnpinv
  dsimp only
  (repeat' split) <;> simp [hm, State.wf_memWrite]

theorem keepsCanonical_execHostSnpcur {d : BitVec 2} {sec : BitVec 46} {s : State}
    (hm : Memory.wf s.mem = true) : KeepsCanonical (execHostSnpcur d sec s) := by
  unfold execHostSnpcur
  simp [hm]

theorem keepsCanonical_execGlicharunFlitReceived {p : BitVec 5} {seq ack : Nat} {crcOk nack : Bool} {m : Option GMsg} {s : State}
    (hm : Memory.wf s.mem = true) : KeepsCanonical (execGlicharunFlitReceived p seq ack crcOk nack m s) := by
  unfold execGlicharunFlitReceived
  simp [hm, State.wf_flitIn]

theorem keepsCanonical_execFlitAckTimeout {p : BitVec 5} {n : Nat} {s : State}
    (hm : Memory.wf s.mem = true) : KeepsCanonical (execFlitAckTimeout p n s) := by
  unfold execFlitAckTimeout
  (repeat' split) <;> simp [hm]

theorem keepsCanonical_execGlicharunPortDown {p : BitVec 5} {s : State}
    (hm : Memory.wf s.mem = true) : KeepsCanonical (execGlicharunPortDown p s) := by
  unfold execGlicharunPortDown
  simp [hm]

theorem keepsCanonical_execGlicharunLinkTraining {p : BitVec 5} {peer : BitVec 16} {s : State}
    (hm : Memory.wf s.mem = true) : KeepsCanonical (execGlicharunLinkTraining p peer s) := by
  unfold execGlicharunLinkTraining
  dsimp only
  (repeat' split) <;> simp [hm]

theorem keepsCanonical_execGpstReplayClear {p : BitVec 5} {v : BitVec 16} {s : State}
    (hm : Memory.wf s.mem = true) : KeepsCanonical (execGpstReplayClear p v s) := by
  unfold execGpstReplayClear
  simp [hm]

theorem keepsCanonical_execPeerWindowAccess {p : BitVec 5} {s : State}
    (hm : Memory.wf s.mem = true) : KeepsCanonical (execPeerWindowAccess p s) := by
  unfold execPeerWindowAccess
  simp [hm, State.wf_peerAccess]

theorem keepsCanonical_execPowerUp {imageFound : Bool} {s : State}
    (hm : Memory.wf s.mem = true) : KeepsCanonical (execPowerUp imageFound s) := by
  exact (keepsCanonical_next _).mpr (State.wf_coldReset hm)

theorem keepsCanonical_execClusterRelease {s : State} (hm : Memory.wf s.mem = true) : KeepsCanonical (execClusterRelease s) := by
  unfold execClusterRelease
  simp [hm]

theorem keepsCanonical_execControlInterval {r0 r1 r2 r3 : Reading} {s : State}
    (hm : Memory.wf s.mem = true) : KeepsCanonical (execControlInterval r0 r1 r2 r3 s) := by
  unfold execControlInterval
  split
  · exact (keepsCanonical_next _).mpr hm
  · have h4 := State.wf_controlDie (d := 3) (r := r3) (State.wf_controlDie (d := 2) (r := r2)
      (State.wf_controlDie (d := 1) (r := r1) (State.wf_controlDie (d := 0) (r := r0) hm)))
    exact (keepsCanonical_next _).mpr (by simpa using h4)

theorem keepsCanonical_execRegisterWrite {off : BitVec 32} {v : BitVec 64} {s : State}
    (hm : Memory.wf s.mem = true) : KeepsCanonical (execRegisterWrite off v s) := by
  unfold execRegisterWrite
  simp [hm, State.wf_writeReg, State.keepsCanonical_bar0]

theorem keepsCanonical_execDbgdataRead {s : State} (hm : Memory.wf s.mem = true) : KeepsCanonical (execDbgdataRead s) := by
  unfold execDbgdataRead
  simp [hm, State.keepsCanonical_bar0]

theorem keepsCanonical_execCorrectedError {d : BitVec 2} {cls : BitVec 3} {u : Option UnitRef} {s : State}
    (hm : Memory.wf s.mem = true) : KeepsCanonical (execCorrectedError d cls u s) := by
  unfold execCorrectedError
  split <;> simp [hm]

theorem keepsCanonical_execUncorrectedError {e : ErrSite} {s : State}
    (hm : Memory.wf s.mem = true) : KeepsCanonical (execUncorrectedError e s) := by
  unfold execUncorrectedError
  dsimp only
  split <;> simp [hm]

theorem keepsCanonical_execUnitFence {u : UnitRef} {s : State} (hm : Memory.wf s.mem = true) : KeepsCanonical (execUnitFence u s) := by
  unfold execUnitFence
  (repeat' split) <;> simp [hm, State.wf_fenceUnit]

theorem keepsCanonical_execFenceListRemove {u : UnitRef} {s : State}
    (hm : Memory.wf s.mem = true) : KeepsCanonical (execFenceListRemove u s) := by
  unfold execFenceListRemove
  split <;> simp [hm]

theorem keepsCanonical_execGetVersion {s : State} (hm : Memory.wf s.mem = true) : KeepsCanonical (execGetVersion s) := by
  unfold execGetVersion
  simp [hm]

theorem keepsCanonical_execGetCapabilities {v : BitVec 8} {s : State}
    (hm : Memory.wf s.mem = true) : KeepsCanonical (execGetCapabilities v s) := by
  unfold execGetCapabilities
  simp [hm, State.keepsCanonical_spdm]

theorem keepsCanonical_execNegotiateAlgorithms {v : BitVec 8} {sha384 slhDsa : Bool} {s : State}
    (hm : Memory.wf s.mem = true) : KeepsCanonical (execNegotiateAlgorithms v sha384 slhDsa s) := by
  unfold execNegotiateAlgorithms
  simp [hm, State.keepsCanonical_spdm]

theorem keepsCanonical_execGetDigests {v : BitVec 8} {s : State}
    (hm : Memory.wf s.mem = true) : KeepsCanonical (execGetDigests v s) := by
  unfold execGetDigests
  simp [hm, State.keepsCanonical_spdm]

theorem keepsCanonical_execGetCertificate {v : BitVec 8} {slot : BitVec 4} {off len : Nat} {s : State}
    (hm : Memory.wf s.mem = true) : KeepsCanonical (execGetCertificate v slot off len s) := by
  unfold execGetCertificate
  simp [hm, State.keepsCanonical_spdm]

theorem keepsCanonical_execChallenge {v : BitVec 8} {slot : BitVec 4} {nonce : BitVec 256} {s : State}
    (hm : Memory.wf s.mem = true) : KeepsCanonical (execChallenge v slot nonce s) := by
  unfold execChallenge
  simp [hm, State.keepsCanonical_spdm]

theorem keepsCanonical_execGetMeasurements {v : BitVec 8} {index : Option Nat} {s : State}
    (hm : Memory.wf s.mem = true) : KeepsCanonical (execGetMeasurements v index s) := by
  unfold execGetMeasurements
  simp [hm, State.keepsCanonical_spdm]

theorem keepsCanonical_execPldmBaseDiscovery {s : State} (hm : Memory.wf s.mem = true) : KeepsCanonical (execPldmBaseDiscovery s) := by
  unfold execPldmBaseDiscovery
  simp [hm]

theorem keepsCanonical_execPldmSensorRead {d : BitVec 2} {q : Sensor} {s : State}
    (hm : Memory.wf s.mem = true) : KeepsCanonical (execPldmSensorRead d q s) := by
  unfold execPldmSensorRead
  simp [hm]

theorem keepsCanonical_execPldmEventLogRead {first : BitVec 32} {n : Nat} {s : State}
    (hm : Memory.wf s.mem = true) : KeepsCanonical (execPldmEventLogRead first n s) := by
  unfold execPldmEventLogRead
  simp [hm]

theorem keepsCanonical_execEndpointIdAssignment {eid : BitVec 8} {s : State}
    (hm : Memory.wf s.mem = true) : KeepsCanonical (execEndpointIdAssignment eid s) := by
  unfold execEndpointIdAssignment
  simp [hm]

theorem keepsCanonical_execRequestUpdate {s : State} (hm : Memory.wf s.mem = true) : KeepsCanonical (execRequestUpdate s) := by
  unfold execRequestUpdate
  split <;> simp [hm]

theorem keepsCanonical_execPassComponentTable {s : State}
    (hm : Memory.wf s.mem = true) : KeepsCanonical (execPassComponentTable s) := by
  unfold execPassComponentTable
  simp [hm]

theorem keepsCanonical_execUpdateComponent {s : State} (hm : Memory.wf s.mem = true) : KeepsCanonical (execUpdateComponent s) := by
  unfold execUpdateComponent
  simp [hm]

theorem keepsCanonical_execFirmwareTransfer {data : List (BitVec 8)} {s : State}
    (hm : Memory.wf s.mem = true) : KeepsCanonical (execFirmwareTransfer data s) := by
  unfold execFirmwareTransfer
  simp [hm]

theorem keepsCanonical_execFirmwareVerify {s : State} (hm : Memory.wf s.mem = true) : KeepsCanonical (execFirmwareVerify s) := by
  unfold execFirmwareVerify
  dsimp only
  (repeat' split) <;> simp [hm]

theorem keepsCanonical_execFirmwareApply {s : State} (hm : Memory.wf s.mem = true) : KeepsCanonical (execFirmwareApply s) := by
  unfold execFirmwareApply
  dsimp only
  (repeat' split) <;> simp [hm]

theorem keepsCanonical_execActivateFirmware {s : State} (hm : Memory.wf s.mem = true) : KeepsCanonical (execActivateFirmware s) := by
  unfold execActivateFirmware
  dsimp only
  (repeat' split) <;> simp [hm]

theorem keepsCanonical_execRecoveryMailboxWrite {image : List (BitVec 8)} {s : State}
    (hm : Memory.wf s.mem = true) : KeepsCanonical (execRecoveryMailboxWrite image s) := by
  unfold execRecoveryMailboxWrite
  split
  · exact (keepsCanonical_next _).mpr hm
  · split
    · exact (keepsCanonical_next _).mpr (by simpa using State.wf_coldReset (s := { s with flash := some image }) hm)
    · exact (keepsCanonical_next _).mpr (by simpa using hm)

theorem keepsCanonical_execPendingFaultDelivery {c j : Nat} {s : State}
    (hm : Memory.wf s.mem = true) : KeepsCanonical (execPendingFaultDelivery c j s) := by
  unfold execPendingFaultDelivery
  (repeat' split) <;> simp [hm, State.wf_deliverFault]

theorem keepsCanonical_execGeneratorFaultDelivery {c j : Nat} {s : State}
    (hm : Memory.wf s.mem = true) : KeepsCanonical (execGeneratorFaultDelivery c j s) := by
  unfold execGeneratorFaultDelivery
  (repeat' split) <;> simp [hm, State.wf_deliverGenFault]

end Sys2Proof.Machine
end

section
namespace Sys2Proof.Machine

/-! ### Words -/

/-- The effect of a word, unless it is a trap, keeps global memory canonical. -/
def KeepsBody (r : Except Trap State) : Prop := ∀ t, r = .ok t → Memory.wf t.mem = true

@[simp] theorem keepsBody_ok (t : State) : KeepsBody (.ok t) ↔ Memory.wf t.mem = true :=
  ⟨fun h => h t rfl, fun h _ e => by cases e; exact h⟩

@[simp] theorem keepsBody_pure (t : State) : KeepsBody (pure t) ↔ Memory.wf t.mem = true := keepsBody_ok t

@[simp] theorem keepsBody_error (x : Trap) : KeepsBody (.error x) := fun _ e => by
  cases e

theorem keepsBody_bind {α : Type} {r : Except Trap α} {f : α → Except Trap State} (h : ∀ a, r = .ok a → KeepsBody (f a)) :
    KeepsBody (r >>= f) := by
  cases r with
  | error x => exact keepsBody_error x
  | ok a => exact h a rfl

theorem keepsCanonical_issue {h : Hdr} {f : Form} {body : Ctx → LaneMask → State → Except Trap State} {s : State}
    (hm : Memory.wf s.mem = true) (hbody : ∀ x m u, Memory.wf u.mem = true → KeepsBody (body x m u)) :
    KeepsCanonical (issue h f body s) := by
  intro t ht
  cases hx : s.ctx with
  | none =>
    simp only [issue, hx] at ht
    cases ht
  | some x =>
    rcases issue_cases hx ht with ⟨_, _, rfl⟩ | ⟨_, rfl⟩ | ⟨_, _, rfl⟩ | ⟨_, _, rfl⟩ | hok | ⟨_, _, rfl⟩
    · exact State.wf_takeWordTrap hm
    · exact hm
    · exact State.wf_takeWordTrap hm
    · exact State.wf_takeWordTrap hm
    · exact hbody x _ (s.past x h f.len f.extra) hm t hok
    · exact State.wf_takeWordTrap hm

section Shapes

variable {h : Hdr} {s : State} (hm : Memory.wf s.mem = true)
include hm

theorem keepsCanonical_alu {f : Form} {lat : Nat} {wr : Ctx → LaneMask → List Wr} : KeepsCanonical (alu h f lat wr s) :=
  keepsCanonical_issue hm fun _ _ _ hu => by simpa using hu

theorem keepsCanonical_aluVar {f : Form} {wr : Ctx → LaneMask → List Wr} : KeepsCanonical (aluVar h f wr s) :=
  keepsCanonical_issue hm fun _ _ _ hu => by simpa using hu

theorem keepsCanonical_modeWord {bits : Operand} {op : BitVec 3 → BitVec 3 → BitVec 3} : KeepsCanonical (modeWord h bits op s) :=
  keepsCanonical_issue hm fun _ _ _ hu => by simpa using hu

theorem keepsCanonical_storeWord {l full scl : Bool} {sp : Sp} {hint : Hint} {sz : Size} {d a b : Operand} {disp : BitVec 32} :
    KeepsCanonical (storeWord h l sp full hint sz scl d a b disp s) := by
  unfold storeWord
  refine keepsCanonical_issue hm fun x m u hu => ?_
  dsimp only
  split
  · exact keepsBody_error _
  · exact (keepsBody_ok _).mpr (State.wf_of_mem_eq (State.pushLs_mem ..) (State.wf_lsStore (by simpa using hu)))

theorem keepsCanonical_atomWord {sp : RwSpace} {sz : Size} {d a : Operand} {os : List (Nat × Operand)} {disp : BitVec 32}
    {upd : Ctx → Nat → Nat → Option Nat} : KeepsCanonical (atomWord h sp sz d a os disp upd s) := by
  unfold atomWord
  refine keepsCanonical_issue hm fun x m u hu => ?_
  dsimp only
  split
  · exact keepsBody_error _
  · exact (keepsBody_ok _).mpr (State.wf_of_mem_eq (State.pushLs_mem ..) (State.wf_lsRmwAll (by simpa using hu)))

theorem keepsCanonical_lineHint {l scl : Bool} {a b : Operand} {disp : BitVec 32} {act : State → Nat → State}
    (hact : ∀ t pa, (act t pa).mem = t.mem) : KeepsCanonical (lineHint h l scl a b disp act s) :=
  keepsCanonical_issue hm fun _ _ _ hu => by simpa [State.foldl_mem hact] using hu

theorem keepsCanonical_copyWord {cs : Checks} {rs : LaneMask → List Rd} {mk : Ctx → CopyCmd} :
    KeepsCanonical (copyWord h cs rs mk s) := by
  refine keepsCanonical_issue hm fun x m u hu => ?_
  dsimp only
  split
  · simp
  · split
    · simp
    · split <;> simpa using hu

theorem keepsCanonical_cpyxWord {kind : CopyKind} {strm : Stream} {d a ds ep : Operand} :
    KeepsCanonical (cpyxWord h kind strm d a ds ep s) := keepsCanonical_copyWord hm

theorem keepsCanonical_matrixWord {n : Nat} {cs : Nat → Checks} {rs : Ctx → LaneMask → List Rd} {mk : Ctx → MxCmd} :
    KeepsCanonical (matrixWord h n cs rs mk s) := by
  refine keepsCanonical_issue hm fun x m u hu => ?_
  dsimp only
  split
  · simp
  · simpa using hu

theorem keepsCanonical_matrixCb {o : MxOp} {cb : Operand} : KeepsCanonical (matrixCb h o cb s) := keepsCanonical_matrixWord hm

theorem keepsCanonical_matrixMem {o : MxOp} {wide : Bool} {a cb : Operand} {pitch : Option Word} :
    KeepsCanonical (matrixMem h o wide a cb pitch s) := keepsCanonical_matrixWord hm

theorem keepsCanonical_matrixVec {o : MxOp} {v cb : Operand} : KeepsCanonical (matrixVec h o v cb s) :=
  keepsCanonical_matrixWord hm

theorem keepsCanonical_fwWord {cs : Checks} {rs : LaneMask → List Rd} {mk : Ctx → FwCmd} :
    KeepsCanonical (fwWord h cs rs mk s) := by
  refine keepsCanonical_issue hm fun x m u hu => ?_
  dsimp only
  split
  · simp
  · simpa using hu

theorem keepsCanonical_fwSlot {op : FwOp} {cs : Operand} : KeepsCanonical (fwSlot h op cs s) := keepsCanonical_fwWord hm

theorem keepsCanonical_fwBlock {op : FwOp} {cb : Operand} : KeepsCanonical (fwBlock h op cb s) := keepsCanonical_fwWord hm

theorem keepsCanonical_fwStat {hd : Bool} {d cs : Operand} : KeepsCanonical (fwStat h hd d cs s) := keepsCanonical_fwWord hm

theorem keepsCanonical_spatialWord {l enter : Bool} {cs : Checks} {rs : LaneMask → List Rd}
    {body : Ctx → LaneMask → State → Except Trap State} (hbody : ∀ x m u, Memory.wf u.mem = true → KeepsBody (body x m u)) :
    KeepsCanonical (spatialWord h l cs rs enter body s) := by
  refine keepsCanonical_issue hm fun x m u hu => ?_
  split
  · simp
  · split
    · simp
    · split
      · simp
      · exact hbody x m u hu

theorem keepsCanonical_spCommand {l ext : Bool} {gs : Operand} {cs : Checks} {rs : LaneMask → List Rd}
    {cmd : Ctx → Nat → Except Nat GCmd} : KeepsCanonical (spCommand h l gs cs rs ext cmd s) := by
  refine keepsCanonical_spatialWord hm fun x m u hu => ?_
  split
  · simp
  · split
    · simp
    · simpa using hu

theorem keepsCanonical_spstatGen {d gs : Operand} {v : Gen → Word} : KeepsCanonical (spstatGen h d gs v s) := by
  refine keepsCanonical_spatialWord hm fun x m u hu => ?_
  split
  · simp
  · simpa using hu

end Shapes

/-! ### The token stack -/

theorem BrEnv.wf_writeTok {e : BrEnv} {s t : State} {n : Nat} {x : Token} (hm : Memory.wf s.mem = true)
    (h : e.writeTok s n x = .ok t) : Memory.wf t.mem = true := by
  unfold BrEnv.writeTok at h
  split at h
  · cases h
  next hw =>
    cases h
    exact State.wf_vwrite hm hw

theorem BrEnv.wf_spillTok {e : BrEnv} {s t : State} {n : Nat} {x : Token} (hm : Memory.wf s.mem = true)
    (h : e.spillTok s n x = .ok t) : Memory.wf t.mem = true := by
  unfold BrEnv.spillTok at h
  split at h
  next hw _ =>
    have h1 := BrEnv.wf_writeTok hm hw
    cases h
    split
    · simpa using h1
    · exact h1
  · exact BrEnv.wf_writeTok hm h

theorem BrEnv.wf_refill {e : BrEnv} {k r : Stk} {fuel : Nat} (hm : Memory.wf k.s.mem = true) (h : e.refill k fuel = .ok r) :
    Memory.wf r.s.mem = true := by
  induction fuel generalizing k with
  | zero =>
    cases h
    exact hm
  | succ n ih =>
    unfold BrEnv.refill at h
    dsimp only at h
    split at h
    · split at h
      · cases h
      · exact ih (by simpa using hm) h
    · cases h
      exact hm

theorem BrEnv.wf_push {e : BrEnv} {k r : Stk} {t : Token} (hm : Memory.wf k.s.mem = true) (h : e.push k t = .ok r) :
    Memory.wf r.s.mem = true := by
  unfold BrEnv.push at h
  split at h
  · cases h
    exact hm
  · split at h
    · cases h
    next hw =>
      have h1 := BrEnv.wf_spillTok hm hw
      cases h
      exact h1

theorem BrEnv.wf_pop {e : BrEnv} {k : Stk} {r : Token × Stk} (hm : Memory.wf k.s.mem = true) (h : e.pop k = .ok r) :
    Memory.wf r.2.s.mem = true := by
  unfold BrEnv.pop at h
  split at h
  · cases h
  · split at h
    · cases h
    next k1 hk1 =>
      have h1 := BrEnv.wf_refill hm hk1
      split at h
      · cases h
      · split at h
        · cases h
        · split at h
          · cases h
          next hk2 =>
            have h2 := BrEnv.wf_refill (by exact h1) hk2
            cases h
            exact h2

theorem BrEnv.wf_resume {e : BrEnv} {k : Stk} {fuel : Nat} {r : Option Token × Stk} (hm : Memory.wf k.s.mem = true)
    (h : e.resume k fuel = .ok r) : Memory.wf r.2.s.mem = true := by
  induction fuel generalizing k with
  | zero =>
    cases h
    exact hm
  | succ n ih =>
    unfold BrEnv.resume at h
    split at h
    · cases h
      exact hm
    · split at h
      · cases h
      next hp =>
        have h1 := BrEnv.wf_pop hm hp
        split at h
        · exact ih h1 h
        · cases h
          exact h1

theorem BrEnv.wf_putBack {e : BrEnv} {w : Sweep} {clr : LaneMask} {n : Nat} {ts : List Token} {s t : State}
    (hm : Memory.wf s.mem = true) (h : e.putBack w clr n ts s = .ok t) : Memory.wf t.mem = true := by
  induction ts generalizing s n with
  | nil =>
    cases h
    exact hm
  | cons x rest ih =>
    unfold BrEnv.putBack at h
    split at h
    · cases h
    next hw =>
      refine ih ?_ h
      split at hw
      · cases hw
        exact hm
      · exact BrEnv.wf_writeTok hm hw

theorem BrEnv.wf_sweep {e : BrEnv} {w : Sweep} {clr : LaneMask} {n : Nat} {held : List Token} {force : Int} {s : State}
    {r : List Token × State} (hm : Memory.wf s.mem = true) (h : e.sweep w clr n held force s = .ok r) :
    Memory.wf r.2.mem = true := by
  unfold BrEnv.sweep at h
  split at h
  · cases h
  · dsimp only at h
    split at h
    · cases h
    next hp =>
      have h1 := BrEnv.wf_putBack (by simpa using hm) hp
      cases h
      exact h1

theorem BrEnv.keepsBody_finish {e : BrEnv} {k : Stk} (hm : Memory.wf k.s.mem = true) : KeepsBody (e.finish k) := by
  unfold BrEnv.finish
  split
  · simp
  next hr => simpa using BrEnv.wf_resume hm hr
  next hr => simpa using BrEnv.wf_resume hm hr

theorem keepsBody_retiring {w : Sweep} {x : Ctx} {m : LaneMask} {u : State} (hu : Memory.wf u.mem = true) :
    KeepsBody (retiring w x m u) := by
  unfold retiring
  refine keepsBody_bind fun r hr => ?_
  have h1 := BrEnv.wf_sweep hu hr
  dsimp only
  split
  · exact BrEnv.keepsBody_finish h1
  · exact (keepsBody_ok _).mpr (State.wf_of_mem_eq (Stk.commit_mem _ _) h1)

theorem keepsBody_callTo {x : Ctx} {m : LaneMask} {a : Int} {u : State} (hu : Memory.wf u.mem = true) :
    KeepsBody (callTo x m a u) := by
  unfold callTo
  refine keepsBody_bind fun _ _ => keepsBody_bind fun _ _ => ?_
  split
  · simp
  · split
    · simp
    · refine keepsBody_bind fun k hk => ?_
      simpa using BrEnv.wf_push hu hk

end Sys2Proof.Machine
end

section
namespace Sys2Proof.Machine

section Words

variable {h : Hdr} {s : State} (hm : Memory.wf s.mem = true)
include hm

theorem keepsCanonical_nop : KeepsCanonical (execNop h s) := keepsCanonical_issue hm fun _ _ _ hu => (keepsBody_ok _).mpr hu

theorem keepsCanonical_waitf {l : Bool} {f : FField} {n : Src} : KeepsCanonical (execWaitf h l f n s) :=
  keepsCanonical_issue hm fun _ _ _ hu => by simpa using hu

theorem keepsCanonical_yieldW {l : Bool} {n : Src} : KeepsCanonical (execYieldW h l n s) :=
  keepsCanonical_issue hm fun _ _ _ hu => by simpa using hu

theorem keepsCanonical_regx {l : Bool} {dlt : Operand} {mask : Src} : KeepsCanonical (execRegx h l dlt mask s) := by
  refine keepsCanonical_issue hm fun x m u hu => ?_
  dsimp only
  split
  · simp
  · split
    · simpa using hu
    · simp

theorem keepsCanonical_srd {d : Operand} {ix : SIdx} : KeepsCanonical (execSrd h d ix s) := by
  unfold execSrd
  exact keepsCanonical_issue hm fun _ _ _ hu => by simpa using hu

theorem keepsCanonical_swr {a : Operand} {ix : SIdx} : KeepsCanonical (execSwr h ix a s) := by
  unfold execSwr
  refine keepsCanonical_issue hm fun x m u hu => ?_
  dsimp only
  split
  · simpa using hu
  · split
    · simpa using hu
    · simp

theorem keepsCanonical_bra {off : BitVec 27} : KeepsCanonical (execBra h off s) :=
  keepsCanonical_issue hm fun _ _ _ hu => keepsBody_bind fun _ _ => keepsBody_bind fun _ _ => by simpa using hu

theorem keepsCanonical_brx {a : Operand} : KeepsCanonical (execBrx h a s) :=
  keepsCanonical_issue hm fun _ _ _ hu => keepsBody_bind fun _ _ => keepsBody_bind fun _ _ => by simpa using hu

theorem keepsCanonical_split {els : BitVec 27} {kC : KField} {jn : BitVec 32} : KeepsCanonical (execSplit h els kC jn s) := by
  refine keepsCanonical_issue hm fun x m u hu => keepsBody_bind fun _ _ => keepsBody_bind fun _ _ => keepsBody_bind fun _ _ => ?_
  dsimp only
  split
  · split
    · exact keepsBody_error _
    · refine keepsBody_bind fun k1 hk1 => keepsBody_bind fun k2 hk2 => ?_
      simpa using BrEnv.wf_push (BrEnv.wf_push (k := x.stk u) hu hk1) hk2
  · split
    · exact keepsBody_error _
    · refine keepsBody_bind fun k1 hk1 => ?_
      have h1 := BrEnv.wf_push (k := x.stk u) hu hk1
      split <;> simpa using h1

theorem keepsCanonical_join : KeepsCanonical (execJoin h s) := by
  refine keepsCanonical_issue hm fun x m u hu => keepsBody_bind fun _ _ => keepsBody_bind fun k hk => ?_
  have h1 := BrEnv.wf_refill (k := x.stk u) hu hk
  split
  · simp
  · split
    · simp
    · split
      · refine keepsBody_bind fun r hr => ?_
        have h2 := BrEnv.wf_pop h1 hr
        dsimp only
        split
        · exact BrEnv.keepsBody_finish h2
        · simpa using h2
      · simp

theorem keepsCanonical_loopr {ext : BitVec 27} : KeepsCanonical (execLoopr h ext s) := by
  refine keepsCanonical_issue hm fun x m u hu => keepsBody_bind fun _ _ => keepsBody_bind fun _ _ => ?_
  split
  · simp
  · refine keepsBody_bind fun k hk => ?_
    simpa using BrEnv.wf_push (k := x.stk u) hu hk

theorem keepsCanonical_exit : KeepsCanonical (execExit h s) := by
  refine keepsCanonical_issue hm fun x m u hu => ?_
  split
  · simp
  · exact keepsBody_retiring hu

theorem keepsCanonical_trap {n : Operand} : KeepsCanonical (execTrap h n s) :=
  keepsCanonical_issue hm fun _ _ _ _ => (keepsBody_ok _).mpr (State.wf_takeTrapAt hm)

theorem keepsCanonical_xret : KeepsCanonical (execXret h s) := by
  refine keepsCanonical_issue hm fun x m u hu => ?_
  split
  · simp
  · split
    · simp
    · dsimp only
      split
      · simp
      · simpa using hu

theorem keepsCanonical_bkpt {n : Operand} : KeepsCanonical (execBkpt h n s) :=
  keepsCanonical_issue hm fun _ _ _ _ => keepsBody_error _

theorem keepsCanonical_halt {l : Bool} {code : Src} : KeepsCanonical (execHalt h l code s) :=
  keepsCanonical_issue hm fun _ _ _ hu => (keepsBody_ok _).mpr (State.wf_haltContext (by simpa using hu))

theorem keepsCanonical_ld {l : Bool} {sp : Sys2Proof.Space} {sz : Size} {sx : Bool} {sc : Scope} {od : Order} {hint : Hint} {scl : Bool}
    {d a b : Operand} {disp : BitVec 32} : KeepsCanonical (execLd h l sp sz sx sc od hint scl d a b disp s) := by
  unfold execLd
  refine keepsCanonical_issue hm fun x m u hu => ?_
  dsimp only
  split
  · exact keepsBody_error _
  · exact (keepsBody_ok _).mpr (State.wf_of_mem_eq (State.pushLs_mem ..) (by simpa using hu))

theorem keepsCanonical_ldfe {sp : SramSpace} {sz : Size} {sx : Bool} {sc : Scope} {scl : Bool} {peer : Peer} {clr : Bool}
    {d a b : Operand} {disp : BitVec 32} {tmo : Option KField} :
    KeepsCanonical (execLdfe h sp sz sx sc scl peer clr d a b disp tmo s) := by
  unfold execLdfe
  refine keepsCanonical_issue hm fun x m u hu => ?_
  dsimp only
  split
  · exact keepsBody_error _
  · split
    · exact keepsBody_error _
    · split
      · exact keepsBody_error _
      · exact (keepsBody_ok _).mpr (by simpa using hu)

theorem keepsCanonical_red {sp : RwSpace} {sz : Size} {sc : Scope} {od : Order} {op : Aop} {a b : Operand} {disp : BitVec 32} :
    KeepsCanonical (execRed h sp sz sc od op a b disp s) := by
  unfold execRed
  refine keepsCanonical_issue hm fun x m u hu => ?_
  dsimp only
  split
  · exact keepsBody_error _
  · refine (keepsBody_ok _).mpr (State.wf_of_mem_eq (State.pushLs_mem ..) ?_)
    exact State.wf_foldl (fun t g ht => by simpa using ht) (State.wf_lsRmwAll (by simpa using hu)) _

theorem keepsCanonical_fence {sc : Scope} {od : Order} : KeepsCanonical (execFence h sc od s) :=
  keepsCanonical_issue hm fun _ _ _ hu => by simpa using hu

theorem keepsCanonical_pref {l scl : Bool} {lv : PrefLevel} {a b : Operand} {disp : BitVec 32} :
    KeepsCanonical (execPref h l lv scl a b disp s) :=
  keepsCanonical_lineHint hm fun t pa => by cases lv <;> exact State.access_mem _ _ _ _ _

theorem keepsCanonical_cctlZero {l scl : Bool} {a b : Operand} {disp : BitVec 32} :
    KeepsCanonical (execCctlZero h l scl a b disp s) := by
  refine keepsCanonical_issue hm fun x m u hu => ?_
  dsimp only
  split
  · exact keepsBody_error _
  · refine (keepsBody_ok _).mpr (State.wf_of_mem_eq (State.pushLs_mem ..) ?_)
    refine State.wf_foldl (fun t p ht => ?_) (by simpa using hu) _
    split
    · exact ht
    · simpa using State.wf_locStore ht _ _ _

theorem keepsCanonical_ifence : KeepsCanonical (execIfence h s) :=
  keepsCanonical_issue hm fun _ _ _ hu => by simpa using hu

theorem keepsCanonical_bar {l : Bool} {b : Operand} {n : Src} : KeepsCanonical (execBar h l b n s) := by
  refine keepsCanonical_issue hm fun x m u hu => ?_
  dsimp only
  split
  · simp
  · split
    · simp
    · split
      · simp
      · split
        · simpa using hu
        · split
          · simp
          · simpa using hu

theorem keepsCanonical_bara {l : Bool} {sp : SramSpace} {d a cnt : Operand} {disp : BitVec 32} :
    KeepsCanonical (execBara h l sp d a cnt disp s) := by
  refine keepsCanonical_issue hm fun x m u hu => ?_
  dsimp only
  split
  · simp
  · split
    · simp
    · split
      · simp
      · split
        · simp
        · split
          · simp
          · simpa using State.wf_locWrite hu _ _

theorem keepsCanonical_barw {l : Bool} {sp : SramSpace} {a p : Operand} {disp : BitVec 32} {tmo : Option KField} :
    KeepsCanonical (execBarw h l sp a p disp tmo s) := by
  refine keepsCanonical_issue hm fun x m u hu => ?_
  dsimp only
  split
  · simp
  · split
    · simp
    · exact (keepsBody_ok _).mpr (State.wf_reread (by simpa using hu))

theorem keepsCanonical_waitm {sp : RwSpace} {sz : Size} {sgn : Bool} {sc : Scope} {peer : Peer} {cc : ICond} {d a b : Operand}
    {disp : BitVec 32} {tmo : Option KField} : KeepsCanonical (execWaitm h sp sz sgn sc peer cc d a b disp tmo s) := by
  unfold execWaitm
  refine keepsCanonical_issue hm fun x m u hu => ?_
  dsimp only
  split
  · simp
  · split
    · simp
    · split
      · simp
      · exact (keepsBody_ok _).mpr (State.wf_reread (by simpa using hu))

theorem keepsCanonical_cbar {b : Operand} : KeepsCanonical (execCbar h b s) := by
  refine keepsCanonical_issue hm fun x m u hu => ?_
  dsimp only
  split
  · simp
  · split
    · simp
    · split <;> simpa using hu

theorem keepsCanonical_gbar : KeepsCanonical (execGbar h s) := by
  refine keepsCanonical_issue hm fun x m u hu => ?_
  split
  · simp
  · split
    · simp
    · simpa using hu

theorem keepsCanonical_spenter {shape : Rect} {a : Operand} : KeepsCanonical (execSpenter h shape a s) := by
  unfold execSpenter
  refine keepsCanonical_spatialWord hm fun x m u hu => ?_
  dsimp only
  split
  · split
    · simp
    · refine (keepsBody_ok _).mpr ?_
      simp only [State.updWarp_mem, State.flushAt_mem, State.setModes_mem]
      refine State.wf_foldl (fun t p ht => ?_) hu _
      split
      · exact ht
      · split <;> simpa using ht
  · simp

theorem keepsCanonical_spleave : KeepsCanonical (execSpleave h s) :=
  keepsCanonical_spatialWord hm fun _ _ _ hu => by simpa using hu

theorem keepsCanonical_spdrain : KeepsCanonical (execSpdrain h s) :=
  keepsCanonical_spatialWord hm fun _ _ _ hu => by simpa using hu

theorem keepsCanonical_spstatRect {d : Operand} : KeepsCanonical (execSpstatRect h d s) :=
  keepsCanonical_spatialWord hm fun _ _ _ hu => by simpa using hu

theorem keepsCanonical_mms {ta : MTy} {tb zi : Bool} {m : MatOpd} {cb : Operand} :
    KeepsCanonical (execMms h ta tb zi m cb s) := by
  cases m with
  | mem a pitch => exact keepsCanonical_matrixMem hm
  | regs v => exact keepsCanonical_matrixVec hm

theorem keepsCanonical_ald {m : MatOpd} {cb : Operand} : KeepsCanonical (execAld h m cb s) := by
  cases m with
  | mem a pitch => exact keepsCanonical_matrixMem hm
  | regs v => exact keepsCanonical_matrixVec hm

theorem keepsCanonical_adrn {act : ActFn} {t : DrainTy} {bias sat clr : Bool} {m : MatOpd} {cb : Operand} :
    KeepsCanonical (execAdrn h act t bias sat clr m cb s) := by
  cases m with
  | mem a pitch => exact keepsCanonical_matrixMem hm
  | regs v => exact keepsCanonical_matrixWord hm

end Words

end Sys2Proof.Machine
end

section
namespace Sys2Proof.Machine

/-! ### Every instruction keeps global memory canonical -/

theorem keepsCanonical_floatVar {h : Hdr} {l : Bool} {f : Fmt} {d a : Operand} {g : Nat → Nat} {s : State}
    (hm : Memory.wf s.mem = true) : KeepsCanonical (floatVar h l f d a g s) := keepsCanonical_aluVar hm

/-- The words that are no arithmetic words of fixed latency. -/
theorem keepsCanonical_word_of_destsOf_none {i : Instr} {h : Hdr} {s : State} (hh : hdrOf i = some h) (hD : destsOf i = none)
    (hm : Memory.wf s.mem = true) : KeepsCanonical (exec i s) := by
  cases i
  case vote h v k => cases v <;> cases hD
  case kmov h v => cases v <;> cases hD
  all_goals cases hh <;> cases hD <;> dsimp only [exec]
  case fsqrt => unfold execFsqrt; exact keepsCanonical_floatVar hm
  case frcp | frsq | fexp2 | flog2 | fsin | fcos | ftanh => exact keepsCanonical_floatVar hm
  case modeSet | modeClr | modeWr => exact keepsCanonical_modeWord hm
  case nop => exact keepsCanonical_nop hm
  case waitf => exact keepsCanonical_waitf hm
  case yieldW => exact keepsCanonical_yieldW hm
  case regx => exact keepsCanonical_regx hm
  case srd => exact keepsCanonical_srd hm
  case swr => exact keepsCanonical_swr hm
  case bra => exact keepsCanonical_bra hm
  case brx => exact keepsCanonical_brx hm
  case split => exact keepsCanonical_split hm
  case join => exact keepsCanonical_join hm
  case loopr => exact keepsCanonical_loopr hm
  case brk | ret => exact keepsCanonical_issue hm fun _ _ _ hu => keepsBody_retiring hu
  case call | callx => exact keepsCanonical_issue hm fun _ _ _ hu => keepsBody_callTo hu
  case exit => exact keepsCanonical_exit hm
  case trap => exact keepsCanonical_trap hm
  case xret => exact keepsCanonical_xret hm
  case bkpt => exact keepsCanonical_bkpt hm
  case halt => exact keepsCanonical_halt hm
  case ld => exact keepsCanonical_ld hm
  case ldfe => exact keepsCanonical_ldfe hm
  case st | stfe => exact keepsCanonical_storeWord hm
  case atom | atomc => exact keepsCanonical_atomWord hm
  case red => exact keepsCanonical_red hm
  case fence => exact keepsCanonical_fence hm
  case pref => exact keepsCanonical_pref hm
  case cctlL1ev => exact keepsCanonical_lineHint hm fun t _ => t.l1Evicted_mem _ _
  case cctlL2ev => exact keepsCanonical_lineHint hm fun t _ => t.l2Evicted_mem _ _
  case cctlZero => exact keepsCanonical_cctlZero hm
  case ifence => exact keepsCanonical_ifence hm
  case bar => exact keepsCanonical_bar hm
  case bara => exact keepsCanonical_bara hm
  case barw => exact keepsCanonical_barw hm
  case waitm => exact keepsCanonical_waitm hm
  case cbar => exact keepsCanonical_cbar hm
  case gbar => exact keepsCanonical_gbar hm
  case cpy | cpyz | cpyg | cpys | cpyb => exact keepsCanonical_copyWord hm
  case cpyxSend | cpyxFetch => exact keepsCanonical_cpyxWord hm
  case wflip => exact keepsCanonical_matrixWord hm
  case wld | mmsq | ast | smx | smxrRd | smxrWr => exact keepsCanonical_matrixMem hm
  case aclr | amov | smxrInit | smxrNorm => exact keepsCanonical_matrixCb hm
  case mms => exact keepsCanonical_mms hm
  case ald => exact keepsCanonical_ald hm
  case adrn => exact keepsCanonical_adrn hm
  case cbind | crel | crelPin | crelUnpin | cspill | cfill => exact keepsCanonical_fwSlot hm
  case cbindSw => exact keepsCanonical_fwWord hm
  case delta | dqry => exact keepsCanonical_fwBlock hm
  case cstat | cstatH => exact keepsCanonical_fwStat hm
  case spparamBase => dsimp only [execSpparamBase]; exact keepsCanonical_spCommand hm
  case spstream | spparamExt => exact keepsCanonical_spCommand hm
  case spstatGen | spstatPos => exact keepsCanonical_spstatGen hm
  case spenter => exact keepsCanonical_spenter hm
  case spleave => exact keepsCanonical_spleave hm
  case spdrain => exact keepsCanonical_spdrain hm
  case spstatRect => exact keepsCanonical_spstatRect hm

/-- An instruction word keeps global memory canonical; one of fixed latency writes its own warp alone. -/
theorem keepsCanonical_word {i : Instr} {h : Hdr} {s : State} (hh : hdrOf i = some h) (hm : Memory.wf s.mem = true) :
    KeepsCanonical (exec i s) := by
  cases hD : destsOf i with
  | none => exact keepsCanonical_word_of_destsOf_none hh hD hm
  | some D =>
    obtain ⟨f, lat, wr, he, -⟩ := exec_writesWithin hh hD s
    rw [he]
    exact keepsCanonical_alu hm

/-- An event keeps global memory canonical. -/
theorem keepsCanonical_event {i : Instr} {s : State} (hi : hdrOf i = none) (hm : Memory.wf s.mem = true) :
    KeepsCanonical (exec i s) := by
  cases i
  all_goals cases hi
  case variableAluCompletion => exact keepsCanonical_execVariableAluCompletion hm
  case regxCommit => exact keepsCanonical_execRegxCommit hm
  case trapEntry => exact keepsCanonical_execTrapEntry hm
  case ldfeServe => exact keepsCanonical_execLdfeServe hm
  case lsCompletion => exact keepsCanonical_execLsCompletion hm
  case instructionFetch => exact keepsCanonical_execInstructionFetch hm
  case pageWalk => exact keepsCanonical_execPageWalk hm
  case barrierPhaseComplete => exact keepsCanonical_execBarrierPhaseComplete hm
  case waitmReread => exact keepsCanonical_execWaitmReread hm
  case cbarPhaseComplete => exact keepsCanonical_execCbarPhaseComplete hm
  case gbarCompletion => exact keepsCanonical_execGbarCompletion hm
  case copyElement => exact keepsCanonical_execCopyElement hm
  case copyGranuleFull => exact keepsCanonical_execCopyGranuleFull hm
  case copyRequestCompletion => exact keepsCanonical_execCopyRequestCompletion hm
  case blockMerge => exact keepsCanonical_execBlockMerge hm
  case arrayRequestAccept => exact keepsCanonical_execArrayRequestAccept hm
  case matrixRequestCompletion => exact keepsCanonical_execMatrixRequestCompletion hm
  case accumulatorPortAccess => exact keepsCanonical_execAccumulatorPortAccess hm
  case fwRequestCompletion => exact keepsCanonical_execFwRequestCompletion hm
  case cultureSpill => exact keepsCanonical_execCultureSpill hm
  case cultureFill => exact keepsCanonical_execCultureFill hm
  case cultureEviction => exact keepsCanonical_execCultureEviction hm
  case spenterCommit => exact keepsCanonical_execSpenterCommit hm
  case spleaveCommit => exact keepsCanonical_execSpleaveCommit hm
  case spdrainComplete => exact keepsCanonical_execSpdrainComplete hm
  case nodeFiring => exact keepsCanonical_execNodeFiring hm
  case eoiFiring => exact keepsCanonical_execEoiFiring hm
  case generatorRoundStart => exact keepsCanonical_execGeneratorRoundStart hm
  case genElementRead => exact keepsCanonical_execGenElementRead hm
  case steepTimerExpiry => exact keepsCanonical_execSteepTimerExpiry hm
  case groupDispatch => exact keepsCanonical_execGroupDispatch hm
  case groupDeparture => exact keepsCanonical_execGroupDeparture hm
  case groupRetire => exact keepsCanonical_execGroupRetire hm
  case preemptionRequest => exact keepsCanonical_execPreemptionRequest hm
  case drainBudgetExpiry => exact keepsCanonical_execDrainBudgetExpiry hm
  case groupSave => exact keepsCanonical_execGroupSave hm
  case saveBudgetExpiry => exact keepsCanonical_execSaveBudgetExpiry hm
  case groupResume => exact keepsCanonical_execGroupResume hm
  case qcfgEnableSet => exact keepsCanonical_execQcfgEnableSet hm
  case qcfgEnableClear => exact keepsCanonical_execQcfgEnableClear hm
  case qwpWrite => exact keepsCanonical_execQwpWrite hm
  case qctlReset => exact keepsCanonical_execQctlReset hm
  case qctlResume => exact keepsCanonical_execQctlResume hm
  case qstatIrqClear => exact keepsCanonical_execQstatIrqClear hm
  case nopPacket => exact keepsCanonical_execNopPacket hm
  case waitPacket => exact keepsCanonical_execWaitPacket hm
  case waitReread => exact keepsCanonical_execWaitReread hm
  case waitTimeout => exact keepsCanonical_execWaitTimeout hm
  case signal => exact keepsCanonical_execSignal hm
  case inval => exact keepsCanonical_execInval hm
  case iflush => exact keepsCanonical_execIflush hm
  case launch => exact keepsCanonical_execLaunch hm
  case launchAdmission => exact keepsCanonical_execLaunchAdmission hm
  case chunkRequest => exact keepsCanonical_execChunkRequest hm
  case grantAcknowledged => exact keepsCanonical_execGrantAcknowledged hm
  case launchCompletion => exact keepsCanonical_execLaunchCompletion hm
  case preqPreempt => exact keepsCanonical_execPreqPreempt hm
  case preqPreemptHold => exact keepsCanonical_execPreqPreemptHold hm
  case preqReleaseHold => exact keepsCanonical_execPreqReleaseHold hm
  case preqKill => exact keepsCanonical_execPreqKill hm
  case rds => exact keepsCanonical_execRds hm
  case rdx => exact keepsCanonical_execRdx hm
  case upg => exact keepsCanonical_execUpg hm
  case atomRequest => exact keepsCanonical_execAtomRequest hm
  case blk => exact keepsCanonical_execBlk hm
  case flush => exact keepsCanonical_execFlush hm
  case snps => exact keepsCanonical_execSnps hm
  case snpc => exact keepsCanonical_execSnpc hm
  case snpi => exact keepsCanonical_execSnpi hm
  case rspi => exact keepsCanonical_execRspi hm
  case rsps => exact keepsCanonical_execRsps hm
  case rspwbp => exact keepsCanonical_execRspwbp hm
  case snpd => exact keepsCanonical_execSnpd hm
  case ack => exact keepsCanonical_execAck hm
  case wbd => exact keepsCanonical_execWbd hm
  case gntx => exact keepsCanonical_execGntx hm
  case dats => exact keepsCanonical_execDats hm
  case date => exact keepsCanonical_execDate hm
  case datm => exact keepsCanonical_execDatm hm
  case cmp => exact keepsCanonical_execCmp hm
  case atomd => exact keepsCanonical_execAtomd hm
  case wback => exact keepsCanonical_execWback hm
  case err => exact keepsCanonical_execErr hm
  case linkSleep => exact keepsCanonical_execLinkSleep hm
  case linkWake => exact keepsCanonical_execLinkWake hm
  case linkAwake => exact keepsCanonical_execLinkAwake hm
  case wakeTimeout => exact keepsCanonical_execWakeTimeout hm
  case dctlWarmReset => exact keepsCanonical_execDctlWarmReset hm
  case dctlGate => exact keepsCanonical_execDctlGate hm
  case warmResetQuiesce => exact keepsCanonical_execWarmResetQuiesce hm
  case warmResetCleanup => exact keepsCanonical_execWarmResetCleanup hm
  case plannedResetTimeout => exact keepsCanonical_execPlannedResetTimeout hm
  case abruptWarmReset => exact keepsCanonical_execAbruptWarmReset hm
  case warmResetRetrain => exact keepsCanonical_execWarmResetRetrain hm
  case warmResetReadmit => exact keepsCanonical_execWarmResetReadmit hm
  case dctlWake => exact keepsCanonical_execDctlWake hm
  case deadDieDetection => exact keepsCanonical_execDeadDieDetection hm
  case linkWakeFailureReport => exact keepsCanonical_execLinkWakeFailureReport hm
  case hostM2sRequest => exact keepsCanonical_execHostM2sRequest hm
  case birsp => exact keepsCanonical_execBirsp hm
  case cxlCacheResponse => exact keepsCanonical_execCxlCacheResponse hm
  case hostSnpdata => exact keepsCanonical_execHostSnpdata hm
  case hostSnpinv => exact keepsCanonical_execHostSnpinv hm
  case hostSnpcur => exact keepsCanonical_execHostSnpcur hm
  case glicharunFlitReceived => exact keepsCanonical_execGlicharunFlitReceived hm
  case flitAckTimeout => exact keepsCanonical_execFlitAckTimeout hm
  case glicharunPortDown => exact keepsCanonical_execGlicharunPortDown hm
  case glicharunLinkTraining => exact keepsCanonical_execGlicharunLinkTraining hm
  case gpstReplayClear => exact keepsCanonical_execGpstReplayClear hm
  case peerWindowAccess => exact keepsCanonical_execPeerWindowAccess hm
  case powerUp => exact keepsCanonical_execPowerUp hm
  case clusterRelease => exact keepsCanonical_execClusterRelease hm
  case controlInterval => exact keepsCanonical_execControlInterval hm
  case registerWrite => exact keepsCanonical_execRegisterWrite hm
  case dbgdataRead => exact keepsCanonical_execDbgdataRead hm
  case correctedError => exact keepsCanonical_execCorrectedError hm
  case uncorrectedError => exact keepsCanonical_execUncorrectedError hm
  case unitFence => exact keepsCanonical_execUnitFence hm
  case fenceListRemove => exact keepsCanonical_execFenceListRemove hm
  case getVersion => exact keepsCanonical_execGetVersion hm
  case getCapabilities => exact keepsCanonical_execGetCapabilities hm
  case negotiateAlgorithms => exact keepsCanonical_execNegotiateAlgorithms hm
  case getDigests => exact keepsCanonical_execGetDigests hm
  case getCertificate => exact keepsCanonical_execGetCertificate hm
  case challenge => exact keepsCanonical_execChallenge hm
  case getMeasurements => exact keepsCanonical_execGetMeasurements hm
  case pldmBaseDiscovery => exact keepsCanonical_execPldmBaseDiscovery hm
  case pldmSensorRead => exact keepsCanonical_execPldmSensorRead hm
  case pldmEventLogRead => exact keepsCanonical_execPldmEventLogRead hm
  case endpointIdAssignment => exact keepsCanonical_execEndpointIdAssignment hm
  case requestUpdate => exact keepsCanonical_execRequestUpdate hm
  case passComponentTable => exact keepsCanonical_execPassComponentTable hm
  case updateComponent => exact keepsCanonical_execUpdateComponent hm
  case firmwareTransfer => exact keepsCanonical_execFirmwareTransfer hm
  case firmwareVerify => exact keepsCanonical_execFirmwareVerify hm
  case firmwareApply => exact keepsCanonical_execFirmwareApply hm
  case activateFirmware => exact keepsCanonical_execActivateFirmware hm
  case recoveryMailboxWrite => exact keepsCanonical_execRecoveryMailboxWrite hm
  case pendingFaultDelivery => exact keepsCanonical_execPendingFaultDelivery hm
  case generatorFaultDelivery => exact keepsCanonical_execGeneratorFaultDelivery hm

theorem keepsCanonical_exec (i : Instr) {s : State} (hm : Memory.wf s.mem = true) : KeepsCanonical (exec i s) := by
  cases hh : hdrOf i with
  | none => exact keepsCanonical_event hh hm
  | some h => exact keepsCanonical_word hh hm

/-! ### Who acts in a step -/

theorem wf_rejectWord {e : DecodeErr} {w0 : DWord} {s : State} (hm : Memory.wf s.mem = true) :
    Memory.wf (rejectWord e w0 s).mem = true := by
  unfold rejectWord
  cases s.ctx with
  | none => exact hm
  | some x =>
    cases e <;> dsimp only
    case notInstruction | unassigned =>
      split
      · simpa using hm
      · exact State.wf_takeTrap hm
    all_goals exact State.wf_takeTrap hm

theorem keepsCanonical_issueWarp {s : State} {c j : Nat} (hm : Memory.wf s.mem = true) : KeepsCanonical (s.issueWarp c j) := by
  unfold State.issueWarp
  dsimp only
  have h1 : Memory.wf (s.issueFrom c j).mem = true := by simpa using hm
  generalize s.issueFrom c j = s1 at h1 ⊢
  cases s1.warpAt c j with
  | none => simpa using h1
  | some w =>
    dsimp only
    have h2 : Memory.wf (s1.touchWords c w).mem = true := by simpa using h1
    split
    · simpa using State.wf_deliverFault h1
    split
    · simpa using State.wf_deliverGenFault h1
    split
    · simpa using State.wf_takeTrap h2
    split
    · exact keepsCanonical_exec _ h2
    · simpa using wf_rejectWord h2

theorem keepsCanonical_issueFirst {s : State} {c : Nat} {js : List Nat} (hm : Memory.wf s.mem = true) :
    KeepsCanonical (s.issueFirst c js) := by
  induction js with
  | nil => simpa [State.issueFirst] using hm
  | cons j rest ih =>
    unfold State.issueFirst
    have hj := keepsCanonical_issueWarp (c := c) (j := j) hm
    split
    next t ht =>
      split
      · exact ih
      · simpa using hj t ht
    next => exact hj

/-- Every event of a list keeps global memory canonical. -/
def ActsKeepCanonical (es : List Act) : Prop := ∀ e ∈ es, ∀ s : State, Memory.wf s.mem = true → KeepsCanonical (e s)

@[simp] theorem actsKeepCanonical_nil : ActsKeepCanonical [] := fun _ he => absurd he List.not_mem_nil

@[simp] theorem actsKeepCanonical_cons {e : Act} {es : List Act} :
    ActsKeepCanonical (e :: es) ↔ (∀ s : State, Memory.wf s.mem = true → KeepsCanonical (e s)) ∧ ActsKeepCanonical es :=
  List.forall_mem_cons

@[simp] theorem actsKeepCanonical_append {es fs : List Act} :
    ActsKeepCanonical (es ++ fs) ↔ ActsKeepCanonical es ∧ ActsKeepCanonical fs := List.forall_mem_append

theorem actsKeepCanonical_flatMap {α : Type} {l : List α} {f : α → List Act} (h : ∀ a, ActsKeepCanonical (f a)) :
    ActsKeepCanonical (l.flatMap f) := fun e he => by
  obtain ⟨a, -, ha⟩ := List.mem_flatMap.mp he
  exact h a e ha

theorem actsKeepCanonical_map {α : Type} {l : List α} {f : α → Act}
    (h : ∀ a (s : State), Memory.wf s.mem = true → KeepsCanonical (f a s)) : ActsKeepCanonical (l.map f) := fun e he => by
  obtain ⟨a, -, rfl⟩ := List.mem_map.mp he
  exact h a

theorem actsKeepCanonical_warpEvents (c j : Nat) : ActsKeepCanonical (warpEvents c j) := by
  simp only [warpEvents, actsKeepCanonical_cons, actsKeepCanonical_nil, and_true]
  exact ⟨fun _ => keepsCanonical_execTrapEntry, fun _ => keepsCanonical_execVariableAluCompletion,
    fun _ => keepsCanonical_execLdfeServe, fun _ => keepsCanonical_execRegxCommit,
    fun _ => keepsCanonical_execPendingFaultDelivery, fun _ => keepsCanonical_execGeneratorFaultDelivery,
    fun _ => keepsCanonical_execSpenterCommit, fun _ => keepsCanonical_execSpleaveCommit,
    fun _ => keepsCanonical_execSpdrainComplete⟩

theorem State.actsKeepCanonical_unitEvents (s : State) (c : Nat) : ActsKeepCanonical (s.unitEvents c) := by
  simp only [State.unitEvents, actsKeepCanonical_append]
  refine ⟨⟨⟨⟨?ls, ?copy⟩, ?arr⟩, ?own⟩, ?pre⟩ <;> refine actsKeepCanonical_flatMap fun n => ?_ <;>
    simp only [actsKeepCanonical_cons, actsKeepCanonical_nil, and_true]
  case ls => exact ⟨fun _ => keepsCanonical_execLsCompletion, fun _ => keepsCanonical_execErr⟩
  case copy =>
    exact ⟨fun _ => keepsCanonical_execCopyElement, fun _ => keepsCanonical_execCopyGranuleFull,
      fun _ => keepsCanonical_execCopyRequestCompletion⟩
  case arr =>
    exact ⟨fun _ => keepsCanonical_execArrayRequestAccept, fun _ => keepsCanonical_execAccumulatorPortAccess,
      fun _ => keepsCanonical_execMatrixRequestCompletion, fun _ => keepsCanonical_execFwRequestCompletion⟩
  case own => exact ⟨fun _ => keepsCanonical_execCultureSpill, fun _ => keepsCanonical_execCultureFill⟩
  case pre => exact ⟨fun _ => keepsCanonical_execDrainBudgetExpiry, fun _ => keepsCanonical_execSaveBudgetExpiry⟩

theorem State.actsKeepCanonical_groupEvents (s : State) (c : Nat) : ActsKeepCanonical (s.groupEvents c) := by
  refine actsKeepCanonical_flatMap fun p => ?_
  simp only [actsKeepCanonical_append, actsKeepCanonical_cons, actsKeepCanonical_nil, and_true]
  refine ⟨⟨⟨?bars, ?cbars⟩, ?group⟩, ?spatial⟩
  case bars => exact actsKeepCanonical_map fun _ _ => keepsCanonical_execBarrierPhaseComplete
  case cbars => exact actsKeepCanonical_map fun _ _ => keepsCanonical_execCbarPhaseComplete
  case group =>
    exact ⟨fun _ => keepsCanonical_execGbarCompletion, fun _ => keepsCanonical_execGroupDispatch,
      fun _ => keepsCanonical_execGroupDeparture, fun _ => keepsCanonical_execGroupRetire,
      fun _ => keepsCanonical_execGroupSave⟩
  case spatial =>
    split
    · exact actsKeepCanonical_nil
    · refine actsKeepCanonical_append.mpr ⟨actsKeepCanonical_flatMap fun i => ?_, actsKeepCanonical_flatMap fun q => ?_⟩ <;>
        simp only [actsKeepCanonical_cons, actsKeepCanonical_nil, and_true]
      · exact ⟨fun _ => keepsCanonical_execNodeFiring, fun _ => keepsCanonical_execEoiFiring⟩
      · exact ⟨fun _ => keepsCanonical_execGeneratorRoundStart, fun _ => keepsCanonical_execGenElementRead⟩

theorem State.actsKeepCanonical_coreEvents (s : State) (c : Nat) : ActsKeepCanonical (s.coreEvents c) := by
  simp only [State.coreEvents, actsKeepCanonical_append]
  exact ⟨⟨actsKeepCanonical_flatMap fun _ => actsKeepCanonical_warpEvents _ _, s.actsKeepCanonical_unitEvents c⟩,
    s.actsKeepCanonical_groupEvents c⟩

theorem keepsCanonical_hostEvent {line : Nat} {r : Req} {s : State} (hm : Memory.wf s.mem = true) :
    KeepsCanonical (hostEvent line r s) := (keepsCanonical_next _).mpr (State.wf_ask hm)

theorem actsKeepCanonical_singleton {e : Act} (h : ∀ s : State, Memory.wf s.mem = true → KeepsCanonical (e s)) :
    ActsKeepCanonical [e] := actsKeepCanonical_cons.mpr ⟨h, actsKeepCanonical_nil⟩

theorem actsKeepCanonical_reqEvent (src dst line : Nat) (r : Req) :
    ActsKeepCanonical (msgEvent src dst { line := line, msg := .req r }) := by
  cases r
  case rdS => exact actsKeepCanonical_singleton fun _ => keepsCanonical_execRds
  case rdX => exact actsKeepCanonical_singleton fun _ => keepsCanonical_execRdx
  case upg => exact actsKeepCanonical_singleton fun _ => keepsCanonical_execUpg
  case atom => exact actsKeepCanonical_singleton fun _ => keepsCanonical_execAtomRequest
  case blk => exact actsKeepCanonical_singleton fun _ => keepsCanonical_execBlk
  case flush => exact actsKeepCanonical_singleton fun _ => keepsCanonical_execFlush
  case hostWr => exact actsKeepCanonical_nil

theorem actsKeepCanonical_msgEvent (src dst : Nat) (f : FMsg) : ActsKeepCanonical (msgEvent src dst f) := by
  obtain ⟨line, msg⟩ := f
  cases msg
  case req r => exact actsKeepCanonical_reqEvent src dst line r
  case snpS => exact actsKeepCanonical_singleton fun _ => keepsCanonical_execSnps
  case snpC => exact actsKeepCanonical_singleton fun _ => keepsCanonical_execSnpc
  case snpI => exact actsKeepCanonical_singleton fun _ => keepsCanonical_execSnpi
  case rspI => exact actsKeepCanonical_singleton fun _ => keepsCanonical_execRspi
  case rspS => exact actsKeepCanonical_singleton fun _ => keepsCanonical_execRsps
  case rspWbP => exact actsKeepCanonical_singleton fun _ => keepsCanonical_execRspwbp
  case ack => exact actsKeepCanonical_singleton fun _ => keepsCanonical_execAck
  case snpD => exact actsKeepCanonical_singleton fun _ => keepsCanonical_execSnpd
  case wbD => exact actsKeepCanonical_singleton fun _ => keepsCanonical_execWbd
  case gntX => exact actsKeepCanonical_singleton fun _ => keepsCanonical_execGntx
  case wbAck => exact actsKeepCanonical_singleton fun _ => keepsCanonical_execWback
  case cmp => exact actsKeepCanonical_singleton fun _ => keepsCanonical_execCmp
  case datS => exact actsKeepCanonical_singleton fun _ => keepsCanonical_execDats
  case datE => exact actsKeepCanonical_singleton fun _ => keepsCanonical_execDate
  case datM => exact actsKeepCanonical_singleton fun _ => keepsCanonical_execDatm
  case atomD => exact actsKeepCanonical_singleton fun _ => keepsCanonical_execAtomd
  case err => exact actsKeepCanonical_nil

theorem actsKeepCanonical_queueEvent (line : Nat) (e : LineSt) : ActsKeepCanonical (queueEvent line e) := by
  unfold queueEvent
  split
  · exact actsKeepCanonical_nil
  split
  · exact actsKeepCanonical_singleton fun _ => keepsCanonical_hostEvent
  · exact actsKeepCanonical_msgEvent _ _ _

theorem State.actsKeepCanonical_fabricEvents (s : State) : ActsKeepCanonical s.fabricEvents := by
  simp only [State.fabricEvents, actsKeepCanonical_append]
  refine ⟨⟨actsKeepCanonical_flatMap fun p => ?msgs, actsKeepCanonical_flatMap fun p => actsKeepCanonical_queueEvent _ _⟩,
    actsKeepCanonical_flatMap fun a => actsKeepCanonical_flatMap fun b => ?links⟩
  case msgs =>
    split
    · split
      · exact actsKeepCanonical_singleton fun _ => keepsCanonical_hostEvent
      · split
        · exact actsKeepCanonical_nil
        · exact actsKeepCanonical_msgEvent _ _ _
    · exact actsKeepCanonical_nil
  case links =>
    simp only [actsKeepCanonical_cons, actsKeepCanonical_nil, and_true]
    exact ⟨fun _ => keepsCanonical_execLinkWake, fun _ => keepsCanonical_execLinkAwake, fun _ => keepsCanonical_execWakeTimeout⟩

theorem actsKeepCanonical_dieEvents : ActsKeepCanonical dieEvents := by
  refine actsKeepCanonical_flatMap fun n => ?_
  simp only [actsKeepCanonical_cons, actsKeepCanonical_nil, and_true]
  exact ⟨fun _ => keepsCanonical_execLaunchAdmission, fun _ => keepsCanonical_execGroupResume,
    fun _ => keepsCanonical_execPreemptionRequest, fun _ => keepsCanonical_execWarmResetQuiesce,
    fun _ => keepsCanonical_execWarmResetCleanup, fun _ => keepsCanonical_execWarmResetRetrain,
    fun _ => keepsCanonical_execWarmResetReadmit, fun _ => keepsCanonical_execPlannedResetTimeout,
    fun _ => keepsCanonical_execDeadDieDetection⟩

theorem State.actsKeepCanonical_launchEvents (s : State) : ActsKeepCanonical s.launchEvents := by
  refine actsKeepCanonical_flatMap fun p => ?_
  simp only [actsKeepCanonical_append]
  exact ⟨⟨actsKeepCanonical_map fun _ _ => keepsCanonical_execChunkRequest,
    actsKeepCanonical_map fun _ _ => keepsCanonical_execGrantAcknowledged⟩,
    actsKeepCanonical_singleton fun _ => keepsCanonical_execLaunchCompletion⟩

theorem actsKeepCanonical_queueEvents (q : BitVec 7) : ActsKeepCanonical (queueEvents q) := by
  simp only [queueEvents, actsKeepCanonical_cons, actsKeepCanonical_nil, and_true]
  exact ⟨fun _ => keepsCanonical_execNopPacket, fun _ => keepsCanonical_execLaunch, fun _ => keepsCanonical_execWaitPacket,
    fun _ => keepsCanonical_execSignal, fun _ => keepsCanonical_execInval, fun _ => keepsCanonical_execIflush,
    fun _ => keepsCanonical_execWaitTimeout⟩

theorem actsKeepCanonical_portEvents (p : BitVec 5) :
    ActsKeepCanonical [execPeerWindowAccess p, execFlitAckTimeout p 0] := by
  simp only [actsKeepCanonical_cons, actsKeepCanonical_nil, and_true]
  exact ⟨fun _ => keepsCanonical_execPeerWindowAccess, fun _ => keepsCanonical_execFlitAckTimeout⟩

theorem State.actsKeepCanonical_hubEvents (s : State) : ActsKeepCanonical s.hubEvents := by
  simp only [State.hubEvents, List.append_assoc, actsKeepCanonical_append]
  exact ⟨actsKeepCanonical_singleton fun _ => keepsCanonical_execClusterRelease,
    actsKeepCanonical_flatMap fun _ => actsKeepCanonical_queueEvents _, s.actsKeepCanonical_launchEvents,
    actsKeepCanonical_dieEvents, actsKeepCanonical_flatMap fun _ => actsKeepCanonical_portEvents _,
    s.actsKeepCanonical_fabricEvents⟩

theorem State.keepsCanonical_firstWork {s : State} {es : List Act} (hes : ActsKeepCanonical es) (hm : Memory.wf s.mem = true) :
    KeepsCanonical (s.firstWork es) := by
  induction es with
  | nil => simpa [State.firstWork] using hm
  | cons e rest ih =>
    obtain ⟨he, hrest⟩ := actsKeepCanonical_cons.mp hes
    unfold State.firstWork
    split
    next t ht =>
      split
      · exact ih hrest
      · simpa using he s hm t ht
    next => exact he s hm

theorem State.keepsCanonical_runTurn {s : State} {t : Turn} (hm : Memory.wf s.mem = true) : KeepsCanonical (s.runTurn t) := by
  cases t with
  | issue c q => exact keepsCanonical_issueFirst hm
  | work c => exact keepsCanonical_firstWork (s.actsKeepCanonical_coreEvents c) hm
  | die d => exact (keepsCanonical_next _).mpr (State.wf_dieCycle hm)
  | hub => exact (keepsCanonical_next _).mpr (by simpa using hm)
  | hubWork => exact keepsCanonical_firstWork s.actsKeepCanonical_hubEvents hm

theorem State.keepsCanonical_runEvent {s : State} {i : Instr} (hm : Memory.wf s.mem = true) : KeepsCanonical (s.runEvent i) := by
  unfold State.runEvent
  split
  · simpa using hm
  have hi := keepsCanonical_exec i hm
  split
  next t ht =>
    rw [keepsCanonical_next]
    split
    · exact hm
    · exact hi t ht
  next => exact hi

theorem keepsCanonical_step {s : State} (hm : Memory.wf s.mem = true) : KeepsCanonical (step s) := by
  unfold step
  dsimp only
  split
  · exact State.keepsCanonical_runEvent hm
  · exact State.keepsCanonical_runTurn (by simpa using hm)

/-- Settles O55: every event, every word and every turn of the machine's units keeps global memory canonical. -/
theorem stepKeepsMemoryCanonical : Obligations.StepKeepsMemoryCanonical := by
  unfold Obligations.StepKeepsMemoryCanonical
  intro s t hm h
  exact keepsCanonical_step hm t h

end Sys2Proof.Machine
end
